-- ==== Sys2Proof/Word.lean ====
section
/-! DEFINITION. The word types of the C9 and their plainest arithmetic (R8, R29, R46). -/

namespace Sys2Proof

/-- One byte of memory. -/
abbrev Byte := BitVec 8
/-- One 32-bit instruction word (R46). -/
abbrev W32 := BitVec 32
/-- One x register, address or pool word (R8, R19, R22). -/
abbrev W64 := BitVec 64
/-- One v register or queue entry (R8, R10). -/
abbrev V128 := BitVec 128
/-- The field that names an x or v register (R50). -/
abbrev Reg := BitVec 5
/-- The field that names an m, z or q register (R50). -/
abbrev Reg3 := BitVec 3
/-- A channel number (R13). -/
abbrev Chan := BitVec 6

end Sys2Proof
end

