-- ==== Sys2Proof/Config.lean ====
section
/-! DEFINITION. What an implementation fixes, and the free values: what the spec leaves open has no body here, so no
proof can see it. -/

namespace Sys2Proof.Config

/-- The runtime vector: the TVEC value with which every context starts (R25, R292). DESIGN CHOICE, log entry 4: the
spec gives no number; this is a global address with bit 54 zero, below the bitmap window. Unsafe. -/
def runtimeTvec : W64 := 0x003F_0000_0000_0000

/-- The cycles that step `i` of the machine takes on package `pkg` (R25 CYCLE, R399). FREE VALUE, log entry 9: the
model keeps no cycles; CYCLE is the sum of these. Safe. -/
opaque stepCycles : Nat → Nat → Nat

/-- A choice the spec leaves to the C9: the site of the choice, then the tick at which it is taken. FREE VALUE, log
entry 10. Safe. -/
opaque freeChoice : Nat → Nat → Nat

/-- An access comes before a store that the spec lets it come before (R102, R124, R173, R262): the site, the tick, and which access
and which store. FREE VALUE, log entry 10. Safe. -/
opaque freeOld : Nat → Nat → Nat → Bool

/-- The signature over an attestation report (R3, R392): the root of trust's key is not in the spec. FREE VALUE, log
entry 11. Safe. -/
opaque sign : List Byte → Nat → Byte

/-- Does a firmware image carry a signature that the vendor key verifies (R389 step 2)? The key is not in the spec. FREE
VALUE, log entry 11. Safe. -/
opaque verify : List Byte → Bool

/-- The deflate parse a COMPRESS operator picks for a message: any stream that inflates to it (R385). FREE VALUE, log
entry 12. Safe. -/
opaque deflateOf : List Byte → Nat → Nat

/-- The packages whose accesses a virtual function of a package imports (R248): the spec names no command that sets
them. FREE VALUE, log entry 66. Safe. -/
opaque importsOf : Nat → Nat → List Nat

/-- The pager strand of a virtual function of a package: a launch and a virtual core, as the management firmware names it
(R252, R395). FREE VALUE, log entry 66. Safe. -/
opaque pagerOf : Nat → Nat → Option (Nat × Nat)

/-- The source address and port to which the hypervisor binds a virtual function of a package, none where it binds it to none
(R391): the spec names no command that binds one. FREE VALUE, log entry 66. Safe. -/
opaque boundOf : Nat → Nat → Option Nat

/-- The Dammund revision of a target: a package (R247 REV). FREE VALUE, log entry 67. Safe. -/
opaque revision : Nat → Nat

/-- The revision that the probe of a host connection reports (R247 REV). FREE VALUE, log entry 67. Safe. -/
opaque hostRevision : Nat → Nat

/-- The package ID of the first package (R4). DESIGN CHOICE, log entry 5. -/
def packageId : Nat := 0

end Sys2Proof.Config
end

