-- ==== Sys2Proof/Syntax.lean ====
section
/-! DEFINITION. The syntax of the machine: the operand types and `Instr`, the one type of everything that can take a
step. The first 260 constructors are the instructions a strand executes (03_encoding.md R59-R75); the rest are the
events of the other agents and of the host that the opcode table lists (95_what_each_step_holds.md). -/

namespace Sys2Proof

/-- The eleven element types, with the codes of R23 and R52. -/
inductive Ty
  | i8 | i16 | i32 | i64 | n8 | n16 | n32 | n64 | bf16 | f32 | c4
  deriving DecidableEq, Repr

/-- The six windows, with the numbers of R66 (R19). -/
inductive Win
  | glob | priv | loc | clus | die | gang
  deriving DecidableEq, Repr

/-- The scopes of a fence (R66, R123). -/
inductive Scope
  | core | clus | die | pkg | sys
  deriving DecidableEq, Repr

/-- The conditions of VCMP (R73, R144). -/
inductive CC
  | eq | ne | lt | le | gt | ge | unord
  deriving DecidableEq, Repr

/-- The weight formats of MWLD (R74, R166). -/
inductive WFmt
  | i8 | bf16t | bf16 | c4
  deriving DecidableEq, Repr

/-- Source b of a scalar instruction: a register, or the literal that takes its place (R55). -/
inductive SrcB
  | reg (r : Reg)
  | lit (v : W64)
  deriving DecidableEq, Repr

/-- A vector source (R53, R138): a register, a queue, a channel, a pair of pool constants, or a literal of kind 0 to 3
in place of b (R55). -/
inductive VSrc
  | reg (r : Reg)
  | queue (q : Reg3)
  | chan (c : Chan)
  | pool (idx : BitVec 16)
  | lit (kind : BitVec 2) (v : W64)
  deriving DecidableEq, Repr

/-- Source b of an XVEC instruction that reads an x register there: the register, or the 64-bit literal in its place (R55,
R140; DEDUCED, log entry 64). -/
inductive XSrc
  | reg (r : Reg)
  | lit (kind : BitVec 2) (v : W64)
  deriving DecidableEq, Repr

/-- Source b of an XVEC instruction that reads an m register there: the register, or the literal, of which bits 15:0 are
the mask (R55, R140; DEDUCED, log entry 64). -/
inductive KSrc
  | reg (r : Reg3)
  | lit (kind : BitVec 2) (v : W64)
  deriving DecidableEq, Repr

/-- The mask and Z fields of word 1 (R52). -/
structure Qual where
  mask : Reg3
  z : Bool
  deriving DecidableEq, Repr

/-- The pool operand of word 2: index, count and start (R54). -/
structure View where
  idx : BitVec 16
  count : BitVec 8
  start : BitVec 8
  deriving DecidableEq, Repr

/-- The activation source of MMUL (R168). -/
inductive MSrc
  | mem (b c : Reg) (m : BitVec 32)
  | queue (q : Reg3) (m : BitVec 32)
  | buf (view : View)
  deriving DecidableEq, Repr

namespace Ty

/-- The type's code (R23, R52). -/
def code : Ty → BitVec 4
  | i8 => 0 | i16 => 1 | i32 => 2 | i64 => 3 | n8 => 4 | n16 => 5 | n32 => 6 | n64 => 7 | bf16 => 8 | f32 => 9 | c4 => 10

/-- The type with a code; codes 11 to 15 are reserved (R52). -/
def ofCode? (c : BitVec 4) : Option Ty :=
  match c.toNat with
  | 0 => some i8 | 1 => some i16 | 2 => some i32 | 3 => some i64 | 4 => some n8 | 5 => some n16 | 6 => some n32
  | 7 => some n64 | 8 => some bf16 | 9 => some f32 | 10 => some c4 | _ => none

/-- The width in bits (R29, R31, R32). -/
def bits : Ty → Nat
  | i8 | n8 => 8 | i16 | n16 | bf16 => 16 | i32 | n32 | f32 => 32 | i64 | n64 => 64 | c4 => 4

/-- The size in bytes of an element that fills whole bytes. -/
def bytes (t : Ty) : Nat := t.bits / 8

/-- A signed integer type (R29). -/
def signed : Ty → Bool
  | i8 | i16 | i32 | i64 => true
  | _ => false

/-- An integer type, codes 0 to 7. -/
def isInt : Ty → Bool
  | bf16 | f32 | c4 => false
  | _ => true

/-- A float type, codes 8 and 9. -/
def isFlt : Ty → Bool
  | bf16 | f32 => true
  | _ => false

/-- Any type but .c4, codes 0 to 9. -/
def notC4 : Ty → Bool
  | c4 => false
  | _ => true

end Ty

namespace Win

/-- The window's number (R66). -/
def code : Win → BitVec 4
  | glob => 0 | priv => 1 | loc => 2 | clus => 3 | die => 4 | gang => 5

/-- The window with a number; 6 to 15 raise ILLOP (R66). -/
def ofCode? (c : BitVec 4) : Option Win :=
  match c.toNat with
  | 0 => some glob | 1 => some priv | 2 => some loc | 3 => some clus | 4 => some die | 5 => some gang | _ => none

end Win

namespace Scope

/-- The scope's number (R66). -/
def code : Scope → BitVec 4
  | core => 0 | clus => 1 | die => 2 | pkg => 3 | sys => 4

/-- The scope with a number; 5 to 15 raise ILLOP (R66). -/
def ofCode? (c : BitVec 4) : Option Scope :=
  match c.toNat with
  | 0 => some core | 1 => some clus | 2 => some die | 3 => some pkg | 4 => some sys | _ => none

end Scope

namespace CC

/-- The condition's number (R73). -/
def code : CC → BitVec 3
  | eq => 0 | ne => 1 | lt => 2 | le => 3 | gt => 4 | ge => 5 | unord => 6

/-- The condition with a number; 7 raises ILLOP (R73). -/
def ofCode? (c : BitVec 3) : Option CC :=
  match c.toNat with
  | 0 => some eq | 1 => some ne | 2 => some lt | 3 => some le | 4 => some gt | 5 => some ge | 6 => some unord
  | _ => none

end CC

namespace WFmt

/-- The format's type code (R166). -/
def code : WFmt → BitVec 4
  | i8 => 0 | bf16t => 3 | bf16 => 8 | c4 => 10

/-- The format with a type code (R166). -/
def ofCode? (c : BitVec 4) : Option WFmt :=
  match c.toNat with
  | 0 => some i8 | 3 => some bf16t | 8 => some bf16 | 10 => some c4 | _ => none

end WFmt

/-- Everything that can take a step: the instructions a strand executes, and the events of the other agents. -/
inductive Instr
  /-- INT `ADD` (R61, R82). -/
  | add (t : Ty) (d a : Reg) (b : SrcB)
  /-- INT `SUB` (R61, R82). -/
  | sub (t : Ty) (d a : Reg) (b : SrcB)
  /-- INT `MUL` (R61, R82). -/
  | mul (t : Ty) (d a : Reg) (b : SrcB)
  /-- INT `MULH` (R61, R82). -/
  | mulh (t : Ty) (d a : Reg) (b : SrcB)
  /-- INT `MULHN` (R61, R82). -/
  | mulhn (t : Ty) (d a : Reg) (b : SrcB)
  /-- INT `DIV` (R61, R82). -/
  | div (t : Ty) (d a : Reg) (b : SrcB)
  /-- INT `DIVN` (R61, R82). -/
  | divn (t : Ty) (d a : Reg) (b : SrcB)
  /-- INT `REM` (R61, R82). -/
  | rem (t : Ty) (d a : Reg) (b : SrcB)
  /-- INT `REMN` (R61, R82). -/
  | remn (t : Ty) (d a : Reg) (b : SrcB)
  /-- INT `AND` (R61, R82). -/
  | and (t : Ty) (d a : Reg) (b : SrcB)
  /-- INT `OR` (R61, R82). -/
  | or (t : Ty) (d a : Reg) (b : SrcB)
  /-- INT `XOR` (R61, R82). -/
  | xor (t : Ty) (d a : Reg) (b : SrcB)
  /-- INT `ANDN` (R61, R82). -/
  | andn (t : Ty) (d a : Reg) (b : SrcB)
  /-- INT `SHL` (R61, R82). -/
  | shl (t : Ty) (d a : Reg) (b : SrcB)
  /-- INT `SHR` (R61, R82). -/
  | shr (t : Ty) (d a : Reg) (b : SrcB)
  /-- INT `SHRA` (R61, R82). -/
  | shra (t : Ty) (d a : Reg) (b : SrcB)
  /-- INT `ROTL` (R61, R82). -/
  | rotl (t : Ty) (d a : Reg) (b : SrcB)
  /-- INT `MIN` (R61, R82). -/
  | min (t : Ty) (d a : Reg) (b : SrcB)
  /-- INT `MAX` (R61, R82). -/
  | max (t : Ty) (d a : Reg) (b : SrcB)
  /-- INT `MINN` (R61, R82). -/
  | minn (t : Ty) (d a : Reg) (b : SrcB)
  /-- INT `MAXN` (R61, R82). -/
  | maxn (t : Ty) (d a : Reg) (b : SrcB)
  /-- INT `SLT` (R61, R82). -/
  | slt (t : Ty) (d a : Reg) (b : SrcB)
  /-- INT `SLTN` (R61, R82). -/
  | sltn (t : Ty) (d a : Reg) (b : SrcB)
  /-- INT `SEQ` (R61, R82). -/
  | seq (t : Ty) (d a : Reg) (b : SrcB)
  /-- INT `CLZ` (R61, R82). -/
  | clz (t : Ty) (d a : Reg)
  /-- INT `CTZ` (R61, R82). -/
  | ctz (t : Ty) (d a : Reg)
  /-- INT `POPC` (R61, R82). -/
  | popc (t : Ty) (d a : Reg)
  /-- INT `SEXT` (R61, R82). -/
  | sext (t : Ty) (d a : Reg)
  /-- INT `ZEXT` (R61, R82). -/
  | zext (t : Ty) (d a : Reg)
  /-- INT `BFX` (R83). -/
  | bfx (t : Ty) (d a : Reg) (b : SrcB)
  /-- INT `BFI` (R83). -/
  | bfi (t : Ty) (d a : Reg) (b : SrcB)
  /-- XSC `SEL` (R84). -/
  | sel (t : Ty) (d c a : Reg) (b : SrcB)
  /-- `LI` with its imm20 (R85). -/
  | li (d : Reg) (imm : BitVec 20)
  /-- `LI` with a literal (R55, R85). -/
  | liLit (d : Reg) (v : W64)
  /-- `LIH` (R85). -/
  | lih (d : Reg) (imm : BitVec 20)
  /-- `LK` (R85). -/
  | lk (d : Reg) (idx : BitVec 16)
  /-- `ADDPC` (R85). -/
  | addpc (d : Reg) (imm : BitVec 20)
  /-- `FLI` (R33, R85). -/
  | fli (d : Reg) (imm : BitVec 20)
  /-- FLT `FADD` (R62, R87). -/
  | fadd (t : Ty) (d a : Reg) (b : SrcB)
  /-- FLT `FSUB` (R62, R87). -/
  | fsub (t : Ty) (d a : Reg) (b : SrcB)
  /-- FLT `FMUL` (R62, R87). -/
  | fmul (t : Ty) (d a : Reg) (b : SrcB)
  /-- FLT `FDIV` (R62, R87). -/
  | fdiv (t : Ty) (d a : Reg) (b : SrcB)
  /-- FLT `FMIN` (R62, R87). -/
  | fmin (t : Ty) (d a : Reg) (b : SrcB)
  /-- FLT `FMAX` (R62, R87). -/
  | fmax (t : Ty) (d a : Reg) (b : SrcB)
  /-- FLT `FSQRT` (R87). -/
  | fsqrt (t : Ty) (d a : Reg)
  /-- FLT `FEQ` (R87). -/
  | feq (t : Ty) (d a : Reg) (b : SrcB)
  /-- FLT `FLT` (R87). -/
  | flt (t : Ty) (d a : Reg) (b : SrcB)
  /-- FLT `FLE` (R87). -/
  | fle (t : Ty) (d a : Reg) (b : SrcB)
  /-- FLT `FCLASS` (R87). -/
  | fclass (t : Ty) (d a : Reg)
  /-- FLT `FCVT` (R88). -/
  | fcvt (dst src : Ty) (d a : Reg)
  /-- XSC `FMA` (R89). -/
  | fma (t : Ty) (d a c : Reg) (b : SrcB)
  /-- B `BEQ` (R63, R90). -/
  | beq (a b : Reg) (disp : BitVec 10)
  /-- B `BNE` (R63, R90). -/
  | bne (a b : Reg) (disp : BitVec 10)
  /-- B `BLT` (R63, R90). -/
  | blt (a b : Reg) (disp : BitVec 10)
  /-- B `BGE` (R63, R90). -/
  | bge (a b : Reg) (disp : BitVec 10)
  /-- B `BLTN` (R63, R90). -/
  | bltn (a b : Reg) (disp : BitVec 10)
  /-- B `BGEN` (R63, R90). -/
  | bgen (a b : Reg) (disp : BitVec 10)
  /-- BZ `BZ` (R63, R90). -/
  | bz (a : Reg) (disp : BitVec 15)
  /-- BZ `BNZ` (R63, R90). -/
  | bnz (a : Reg) (disp : BitVec 15)
  /-- BZ `BLTZ` (R63, R90). -/
  | bltz (a : Reg) (disp : BitVec 15)
  /-- BZ `BGEZ` (R63, R90). -/
  | bgez (a : Reg) (disp : BitVec 15)
  /-- BZ `BGTZ` (R63, R90). -/
  | bgtz (a : Reg) (disp : BitVec 15)
  /-- BZ `BLEZ` (R63, R90). -/
  | blez (a : Reg) (disp : BitVec 15)
  /-- `J` (R91). -/
  | j (imm : BitVec 25)
  /-- `JAL` (R91). -/
  | jal (imm : BitVec 25)
  /-- `JALR` (R91). -/
  | jalr (d a : Reg) (imm : BitVec 15)
  /-- `LOOP` (R92). -/
  | loop (a : Reg) (imm : BitVec 15)
  /-- SYS `TRAP` (R100). -/
  | trap (n : BitVec 12)
  /-- SYS `MFS` of any register but FSTAT (R25, R101). -/
  | mfs (d : Reg) (reg : BitVec 12)
  /-- SYS `MFS` of FSTAT (R45). -/
  | mfsFstat (d : Reg)
  /-- SYS `MTS` of a register that has no row of its own (R25, R101). -/
  | mts (reg : BitVec 12) (a : Reg)
  /-- SYS `MTS` of FCR (R25, R101). -/
  | mtsFcr (a : Reg)
  /-- SYS `MTS` of FSTAT (R25, R101). -/
  | mtsFstat (a : Reg)
  /-- SYS `MTS` of SQCAP (R25, R101). -/
  | mtsSqcap (a : Reg)
  /-- SYS `MTS` of TVEC (R25, R101). -/
  | mtsTvec (a : Reg)
  /-- SYS `MTS` of HMASK (R25, R101). -/
  | mtsHmask (a : Reg)
  /-- SYS `MTS` of HACC (R25, R101). -/
  | mtsHacc (a : Reg)
  /-- SYS `MTS` of SLOTW (R25, R101). -/
  | mtsSlotw (a : Reg)
  /-- SYS `MTS` of L2MASK (R25, R101). -/
  | mtsL2mask (a : Reg)
  /-- SYS `BKPT` (R100). -/
  | bkpt (n : BitVec 12)
  /-- `LD` (R65, R109). -/
  | ld (t : Ty) (d a : Reg) (off : BitVec 11)
  /-- `ST` (R65, R109). -/
  | st (t : Ty) (d a : Reg) (off : BitVec 11)
  /-- MEM `LDQ` (R110). -/
  | ldq (q : Reg3) (a : Reg)
  /-- MEM `STQ` (R110). -/
  | stq (a : Reg) (q : Reg3)
  /-- MEM `SPTEST` (R115). -/
  | sptest (d a : Reg)
  /-- MEM `SPCAST` (R116). -/
  | spcast (w : Win) (d a : Reg)
  /-- MEM `SPMAKE` (R117). -/
  | spmake (w : Win) (d a : Reg)
  /-- MEM `FENCE`; kind bit 0 is .eng and bit 1 is .post (R66, R123). -/
  | fence (kind : BitVec 2) (scope : Scope)
  /-- MEM `PREF` (R118). -/
  | pref (l2 : Bool) (a : Reg)
  /-- `AMO.add` (R67, R119). -/
  | amoAdd (t : Ty) (d a : Reg) (b : SrcB)
  /-- `AMO.and` (R67, R119). -/
  | amoAnd (t : Ty) (d a : Reg) (b : SrcB)
  /-- `AMO.or` (R67, R119). -/
  | amoOr (t : Ty) (d a : Reg) (b : SrcB)
  /-- `AMO.xor` (R67, R119). -/
  | amoXor (t : Ty) (d a : Reg) (b : SrcB)
  /-- `AMO.min` (R67, R119). -/
  | amoMin (t : Ty) (d a : Reg) (b : SrcB)
  /-- `AMO.max` (R67, R119). -/
  | amoMax (t : Ty) (d a : Reg) (b : SrcB)
  /-- `AMO.minn` (R67, R119). -/
  | amoMinn (t : Ty) (d a : Reg) (b : SrcB)
  /-- `AMO.maxn` (R67, R119). -/
  | amoMaxn (t : Ty) (d a : Reg) (b : SrcB)
  /-- `AMO.swap` (R67, R119). -/
  | amoSwap (t : Ty) (d a : Reg) (b : SrcB)
  /-- `AMO.fadd` (R67, R119). -/
  | amoFadd (t : Ty) (d a : Reg) (b : SrcB)
  /-- `AMOP.add` (R67, R119). -/
  | amopAdd (t : Ty) (a : Reg) (b : SrcB)
  /-- `AMOP.and` (R67, R119). -/
  | amopAnd (t : Ty) (a : Reg) (b : SrcB)
  /-- `AMOP.or` (R67, R119). -/
  | amopOr (t : Ty) (a : Reg) (b : SrcB)
  /-- `AMOP.xor` (R67, R119). -/
  | amopXor (t : Ty) (a : Reg) (b : SrcB)
  /-- `AMOP.min` (R67, R119). -/
  | amopMin (t : Ty) (a : Reg) (b : SrcB)
  /-- `AMOP.max` (R67, R119). -/
  | amopMax (t : Ty) (a : Reg) (b : SrcB)
  /-- `AMOP.minn` (R67, R119). -/
  | amopMinn (t : Ty) (a : Reg) (b : SrcB)
  /-- `AMOP.maxn` (R67, R119). -/
  | amopMaxn (t : Ty) (a : Reg) (b : SrcB)
  /-- `AMOP.swap` (R67, R119). -/
  | amopSwap (t : Ty) (a : Reg) (b : SrcB)
  /-- `AMOP.fadd` (R67, R119). -/
  | amopFadd (t : Ty) (a : Reg) (b : SrcB)
  /-- XSC `CAS` (R120). -/
  | cas (t : Ty) (d a : Reg) (b : SrcB) (c : Reg)
  /-- `VLD` base form (R65, R111). -/
  | vld (cf : Bool) (d a : Reg) (off : BitVec 11)
  /-- `VST` base form (R65, R111). -/
  | vst (cf : Bool) (d a : Reg) (off : BitVec 11)
  /-- XMEM `VLD` (R111). -/
  | vldX (t : Ty) (cf : Bool) (q : Qual) (d a : Reg) (imm : BitVec 32)
  /-- XMEM `VST` (R111). -/
  | vstX (t : Ty) (cf : Bool) (q : Qual) (d a : Reg) (imm : BitVec 32)
  /-- XMEM `VLDS`, b the stride (R111). -/
  | vlds (t : Ty) (cf : Bool) (q : Qual) (d a b : Reg)
  /-- XMEM `VSTS`, b the stride (R111). -/
  | vsts (t : Ty) (cf : Bool) (q : Qual) (d a b : Reg)
  /-- XMEM `VGATH`, b the index vector (R111). -/
  | vgath (t : Ty) (cf : Bool) (q : Qual) (d a b : Reg)
  /-- XMEM `VSCAT`, b the index vector (R111). -/
  | vscat (t : Ty) (cf : Bool) (q : Qual) (d a b : Reg)
  /-- XMEM `VLDB` (R112). -/
  | vldb (t : Ty) (cf : Bool) (q : Qual) (d a : Reg) (view : View)
  /-- XMEM `VSTB` (R112). -/
  | vstb (t : Ty) (cf : Bool) (q : Qual) (d a : Reg) (view : View)
  /-- ENG `NACK` (R132). -/
  | nack (a : Reg)
  /-- ENG `BARINIT` (R135). -/
  | barinit (a b : Reg)
  /-- ENG `BARARV` (R135). -/
  | bararv (d a : Reg)
  /-- ENG `BAREXP` (R135). -/
  | barexp (a b : Reg)
  /-- ENG `BARWAIT` (R135). -/
  | barwait (a b : Reg)
  /-- ENG `BARTRY` (R135). -/
  | bartry (d a b : Reg)
  /-- XENG `COPY` (R125). -/
  | copy (rlx : Bool) (ch : Chan) (a b c d : Reg)
  /-- XENG `COPYB` (R128). -/
  | copyb (rlx : Bool) (ch : Chan) (a : Reg) (view : View) (d : Reg)
  /-- XENG `NOTICE` (R130). -/
  | notice (rlx : Bool) (ch : Chan) (a b c d : Reg)
  /-- XENG `TIDWAIT` (R129). -/
  | tidwait (ch : Chan) (a : Reg)
  /-- XENG `TIDGET` (R129). -/
  | tidget (d : Reg) (ch : Chan)
  /-- XENG `PUBLISH` (R133). -/
  | publish (idx : BitVec 16)
  /-- VEC `VADD` (R141). -/
  | vadd (t : Ty) (d a b : Reg)
  /-- VEC `VSUB` (R141). -/
  | vsub (t : Ty) (d a b : Reg)
  /-- VEC `VMUL` (R141). -/
  | vmul (t : Ty) (d a b : Reg)
  /-- VEC `VMULH` (R141). -/
  | vmulh (t : Ty) (d a b : Reg)
  /-- VEC `VMIN` (R141). -/
  | vmin (t : Ty) (d a b : Reg)
  /-- VEC `VMAX` (R141). -/
  | vmax (t : Ty) (d a b : Reg)
  /-- VEC `VABS` (R141). -/
  | vabs (t : Ty) (d a : Reg)
  /-- VEC `VNEG` (R141). -/
  | vneg (t : Ty) (d a : Reg)
  /-- VEC `VAND` (R141). -/
  | vand (t : Ty) (d a b : Reg)
  /-- VEC `VOR` (R141). -/
  | vor (t : Ty) (d a b : Reg)
  /-- VEC `VXOR` (R141). -/
  | vxor (t : Ty) (d a b : Reg)
  /-- VEC `VSHL` (R141). -/
  | vshl (t : Ty) (d a b : Reg)
  /-- VEC `VSHR` (R141). -/
  | vshr (t : Ty) (d a b : Reg)
  /-- VEC `VSHRA` (R141). -/
  | vshra (t : Ty) (d a b : Reg)
  /-- VEC `VSPLAT`, a an x register (R146). -/
  | vsplat (t : Ty) (d a : Reg)
  /-- VEC `VINS`, a and b x registers (R146). -/
  | vins (t : Ty) (d a b : Reg)
  /-- VEC `VEXT`, d and b x registers (R146). -/
  | vext (t : Ty) (d a b : Reg)
  /-- VEC `VPERM` (R147). -/
  | vperm (t : Ty) (d a b : Reg)
  /-- VEC `VZIP.lo` (R148). -/
  | vzip (t : Ty) (d a b : Reg)
  /-- VEC `VREDADD` (R149). -/
  | vredadd (t : Ty) (d a : Reg)
  /-- VEC `VREDMAX` (R149). -/
  | vredmax (t : Ty) (d a : Reg)
  /-- VEC `VREDMIN` (R149). -/
  | vredmin (t : Ty) (d a : Reg)
  /-- VEC `VDOT` (R150). -/
  | vdot (t : Ty) (d a b : Reg)
  /-- VEC `VCVT` (R151). -/
  | vcvt (dst src : Ty) (d a : Reg)
  /-- VEC `VNARROW` (R152). -/
  | vnarrow (t : Ty) (d a : Reg)
  /-- VEC `VWIDEN` (R152). -/
  | vwiden (t : Ty) (d a : Reg)
  /-- VEC `VLUT` (R153). -/
  | vlut (t : Ty) (d a b : Reg)
  /-- VEC `VCOMP` (R154). -/
  | vcomp (t : Ty) (d a : Reg) (b : Reg3)
  /-- VEC `VEXPND` (R154). -/
  | vexpnd (t : Ty) (d a : Reg) (b : Reg3)
  /-- VEC `VTOPK`, b an x register (R155). -/
  | vtopk (t : Ty) (d a b : Reg)
  /-- VEC `MAND` (R156). -/
  | mand (d a b : Reg3)
  /-- VEC `MOR` (R156). -/
  | mor (d a b : Reg3)
  /-- VEC `MNOT` (R156). -/
  | mnot (d a : Reg3)
  /-- VEC `MPOPC` (R156). -/
  | mpopc (d : Reg) (a : Reg3)
  /-- XVEC `VADD` (R141, R142). -/
  | vaddX (t : Ty) (sat : Bool) (q : Qual) (d : Reg) (a b : VSrc)
  /-- XVEC `VSUB` (R141, R142). -/
  | vsubX (t : Ty) (sat : Bool) (q : Qual) (d : Reg) (a b : VSrc)
  /-- XVEC `VMUL` (R141, R142). -/
  | vmulX (t : Ty) (sat : Bool) (q : Qual) (d : Reg) (a b : VSrc)
  /-- XVEC `VMULH` (R141). -/
  | vmulhX (t : Ty) (q : Qual) (d : Reg) (a b : VSrc)
  /-- XVEC `VMIN` (R141). -/
  | vminX (t : Ty) (q : Qual) (d : Reg) (a b : VSrc)
  /-- XVEC `VMAX` (R141). -/
  | vmaxX (t : Ty) (q : Qual) (d : Reg) (a b : VSrc)
  /-- XVEC `VABS` (R141). -/
  | vabsX (t : Ty) (q : Qual) (d : Reg) (a : VSrc)
  /-- XVEC `VNEG` (R141). -/
  | vnegX (t : Ty) (q : Qual) (d : Reg) (a : VSrc)
  /-- XVEC `VAND` (R141). -/
  | vandX (t : Ty) (q : Qual) (d : Reg) (a b : VSrc)
  /-- XVEC `VOR` (R141). -/
  | vorX (t : Ty) (q : Qual) (d : Reg) (a b : VSrc)
  /-- XVEC `VXOR` (R141). -/
  | vxorX (t : Ty) (q : Qual) (d : Reg) (a b : VSrc)
  /-- XVEC `VSHL` (R141, R142). -/
  | vshlX (t : Ty) (sat : Bool) (q : Qual) (d : Reg) (a b : VSrc)
  /-- XVEC `VSHR` (R141). -/
  | vshrX (t : Ty) (q : Qual) (d : Reg) (a b : VSrc)
  /-- XVEC `VSHRA` (R141). -/
  | vshraX (t : Ty) (q : Qual) (d : Reg) (a b : VSrc)
  /-- XVEC `VFMA` (R141). -/
  | vfma (t : Ty) (q : Qual) (d : Reg) (a : VSrc) (c : Reg) (b : VSrc)
  /-- XVEC `VCMP` (R144). -/
  | vcmp (cc : CC) (t : Ty) (q : Qual) (d : Reg3) (a b : VSrc)
  /-- XVEC `VSEL` (R145). -/
  | vsel (t : Ty) (mask : Reg3) (d : Reg) (a b : VSrc)
  /-- XVEC `VSPLAT` (R146). -/
  | vsplatX (t : Ty) (q : Qual) (d a : Reg)
  /-- XVEC `VINS` (R146). -/
  | vinsX (t : Ty) (q : Qual) (d a : Reg) (b : XSrc)
  /-- XVEC `VEXT` (R146). -/
  | vextX (t : Ty) (mask : Reg3) (d : Reg) (a : VSrc) (b : XSrc)
  /-- XVEC `VPERM` (R147). -/
  | vpermX (t : Ty) (q : Qual) (d : Reg) (a b : VSrc)
  /-- XVEC `VZIP` (R148). -/
  | vzipX (h : BitVec 2) (t : Ty) (q : Qual) (d : Reg) (a b : VSrc)
  /-- XVEC `VREDADD` (R149). -/
  | vredaddX (t : Ty) (mask : Reg3) (d : Reg) (a : VSrc)
  /-- XVEC `VREDMAX` (R149). -/
  | vredmaxX (t : Ty) (mask : Reg3) (d : Reg) (a : VSrc)
  /-- XVEC `VREDMIN` (R149). -/
  | vredminX (t : Ty) (mask : Reg3) (d : Reg) (a : VSrc)
  /-- XVEC `VDOT` (R150). -/
  | vdotX (t : Ty) (q : Qual) (d : Reg) (a b : VSrc)
  /-- XVEC `VCVT` (R151). -/
  | vcvtX (dst src : Ty) (q : Qual) (d : Reg) (a : VSrc)
  /-- XVEC `VNARROW` (R152). -/
  | vnarrowX (t : Ty) (sat hi : Bool) (q : Qual) (d : Reg) (a : VSrc)
  /-- XVEC `VWIDEN` (R152). -/
  | vwidenX (t : Ty) (hi : Bool) (q : Qual) (d : Reg) (a : VSrc)
  /-- XVEC `VLUT` (R153). -/
  | vlutX (t : Ty) (g : BitVec 2) (q : Qual) (d : Reg) (a b : VSrc)
  /-- XVEC `VCOMP` (R154). -/
  | vcompX (t : Ty) (mask : Reg3) (d : Reg) (a : VSrc) (b : KSrc) (e : Reg)
  /-- XVEC `VEXPND` (R154). -/
  | vexpndX (t : Ty) (mask : Reg3) (d : Reg) (a : VSrc) (b : KSrc) (e : Reg)
  /-- XVEC `VTOPK` (R155). -/
  | vtopkX (t : Ty) (list : Bool) (mask : Reg3) (d : Reg) (a : VSrc) (b : XSrc) (e : Reg)
  /-- XVEC `MAND` (R156). -/
  | mandX (q : Qual) (d a : Reg3) (b : KSrc)
  /-- XVEC `MOR` (R156). -/
  | morX (q : Qual) (d a : Reg3) (b : KSrc)
  /-- XVEC `MNOT` (R156). -/
  | mnotX (q : Qual) (d a : Reg3)
  /-- XVEC `MPOPC` (R156). -/
  | mpopcX (mask : Reg3) (d : Reg) (a : Reg3)
  /-- XVEC `VACCS` (R157). -/
  | vaccs (t : Ty) (q : Qual) (d : Reg) (ch : Chan)
  /-- XMAT `ACQ` (R161). -/
  | acq (d : Reg) (n : BitVec 32)
  /-- XMAT `REL` (R162). -/
  | rel (a : Reg) (n : BitVec 32)
  /-- XMAT `MSHAPE` (R163). -/
  | mshape (a : Reg) (s : BitVec 32)
  /-- XMAT `MZERO` (R165). -/
  | mzero (a : Reg) (n : BitVec 32)
  /-- XMAT `MCBL` (R167). -/
  | mcbl (view : View)
  /-- XMAT `MWLD` (R166). -/
  | mwld (fmt : WFmt) (rlx : Bool) (view : View)
  /-- XMAT `MCFG` (R167). -/
  | mcfg (f : BitVec 32)
  /-- XMAT `MMUL` (R168). -/
  | mmul (rlx : Bool) (a : Reg) (src : MSrc)
  /-- XMAT `MMULS` (R170). -/
  | mmuls (a : Reg) (ch : Chan) (m : BitVec 32)
  /-- XMAT `MDRAIN` (R171). -/
  | mdrain (t : Ty) (rlx : Bool) (a : Reg) (view : View) (d c : Reg)
  /-- XMAT `MRD` (R174). -/
  | mrd (d a : Reg) (g : BitVec 32)
  /-- XMAT `MWR` (R174). -/
  | mwr (a b : Reg) (g : BitVec 32)
  /-- XMAT `MSPLIT` (R177). -/
  | msplit (t : BitVec 32)
  /-- STRD `FORK` (R180). -/
  | fork (a b : Reg)
  /-- STRD `QPUT`; x picks the x class (R182). -/
  | qput (x : Bool) (q : Reg3) (b : Reg)
  /-- STRD `QGET` (R182). -/
  | qget (x : Bool) (d : Reg) (q : Reg3)
  /-- STRD `QTRY` (R182). -/
  | qtry (x : Bool) (d : Reg) (q : Reg3) (b : Reg)
  /-- STRD `MSGRD` (R189). -/
  | msgrd (x : Bool) (d a : Reg)
  /-- STRD `MIGRATE` (R199). -/
  | migrate (a : Reg)
  /-- XMSG `SEND` (R183). -/
  | send (rlx : Bool) (ch : Chan) (a : Reg) (b : VSrc)
  /-- XMSG `SENDB` (R183). -/
  | sendb (rlx : Bool) (ch : Chan) (a b c : Reg)
  /-- XMSG `HSET` (R187). -/
  | hset (ch : Chan) (a : Reg) (f : BitVec 32)
  /-- XMSG `JOIN` (R194). -/
  | join (d : Reg) (idx : BitVec 16)
  /-- XMSG `LEAVE` (R195). -/
  | leave (idx : BitVec 16)
  /-- XMSG `GBAR` (R196). -/
  | gbar (idx : BitVec 16)
  /-- XPORT `PUT` (R207). -/
  | put (d : Reg) (idx : BitVec 16) (a : Reg)
  /-- XPORT `GET` (R207). -/
  | get (d e : Reg) (idx : BitVec 16)
  /-- XPORT `PUTNB` (R207). -/
  | putnb (idx : BitVec 16) (a : Reg)
  /-- XPORT `GETNB` (R207). -/
  | getnb (idx : BitVec 16)
  /-- XPORT `PWAIT` (R207). -/
  | pwait (d e : Reg) (idx : BitVec 16)
  /-- XPORT `PWDRAW` (R207). -/
  | pwdraw (d : Reg) (idx : BitVec 16)
  /-- XREAC `EMIT` (R211). -/
  | emit (idx : BitVec 16) (a : Reg)
  /-- XREAC `SIGTST` (R212). -/
  | sigtst (d : Reg) (idx : BitVec 16)
  /-- XREAC `BSIG` (R212). -/
  | bsig (abs : Bool) (idx disp : BitVec 16)
  /-- XREAC `RETRACT` (R213). -/
  | retract (idx : BitVec 16)
  /-- XREAC `ZRD` (R215). -/
  | zrd (d : Reg) (a : Reg3)
  /-- XREAC `ZWR` (R215). -/
  | zwr (d : Reg3) (a : Reg)
  /-- XREAC `SIGPRE` (R215). -/
  | sigpre (d : Reg) (idx : BitVec 16)
  /-- XGANG `GWOPEN` (R216). -/
  | gwopen (d a b : Reg)
  /-- XGANG `GWSTAT` (R218). -/
  | gwstat (d : Reg)
  /-- XGANG `TQPUSH` (R219). -/
  | tqpush (a : Reg)
  /-- XGANG `TQTAKE` (R219). -/
  | tqtake (d e : Reg)
  /-- XGANG `TQSTEAL` (R220). -/
  | tqsteal (d e a : Reg)
  /-- XGANG `TQDONE` (R221). -/
  | tqdone (a : Reg)
  /-- XGANG `STRAGRD` (R222). -/
  | stragrd (d a : Reg) (f : BitVec 32)
  /-- SYS `ERET` (R96). -/
  | eret
  /-- SYS `SYNCI` (R102). -/
  | synci
  /-- STRD `RDV` (R181). -/
  | rdv
  /-- STRD `END` (R181). -/
  | endHelper
  /-- STRD `MSGDONE` (R190). -/
  | msgdone
  /-- STRD `YIELD` (R190). -/
  | yieldSlot
  /-- STRD `EXIT` (R192). -/
  | exit
  /-- STRD `WAITDEP` (R198). -/
  | waitdep
  /-- STRD `TRIGGER` (R198). -/
  | trigger
  /-- XREAC `PAUSE` (R214). -/
  | pause
  /-- XGANG `GWDETACH` (R217). -/
  | gwdetach
  /-- Event `BLOCK_CONDITION_MET` (R5). A blocked instruction's wait condition comes true and the instruction completes. -/
  | blockConditionMet (k : Nat)
  /-- Event `HELPER_TRAP_DELIVERY` (R97). A loader or storer trap is taken by the compute strand at a later boundary. -/
  | helperTrapDelivery (k : Nat)
  /-- Event `SLOTW_TABLE_BOUNDARY` (R26). A written SLOTW takes effect at the next 16-cycle table boundary. -/
  | slotwTableBoundary (key : Nat)
  /-- Event `MESSAGE_ADMIT` (R185). An injection-queue entry departs and is admitted to the target's receive queue. -/
  | messageAdmit (core k : Nat)
  /-- Event `PRESSURE_NOTICE` (R287). A sender learns that pressure started or ended. -/
  | pressureNotice (k : Nat)
  /-- Event `HANDLER_SELECT` (R188). Selection logic starts one handler activation for the best candidate message. -/
  | handlerSelect (key : Nat)
  /-- Event `NOTICE_ARRIVAL` (R346). A notice reaches the receiver and takes a kick entry, joins the wait list or is refused. -/
  | noticeArrival (k : Nat)
  /-- Event `NOTICE_RETRY` (R346). A refused notice is retried after 256 cycles. -/
  | noticeRetry (k : Nat)
  /-- Event `NACK_ARRIVAL` (R132). A NACK reaches the sender and completes the notice's transfer ID and barrier decrement. -/
  | nackArrival (k : Nat)
  /-- Event `STREAMER_SEGMENT` (R344). A streamer serves a segment command, reading sectors and sending them on BLK. -/
  | streamerSegment (k : Nat)
  /-- Event `SECTOR_WRITE` (R127). A 32-byte destination sector becomes new in one event. -/
  | sectorWrite (k : Nat)
  /-- Event `SEGMENT_COMPLETE` (R348). A segment's acknowledgement reaches the tracker. -/
  | segmentComplete (k : Nat)
  /-- Event `COMPLETION_DECREMENT` (R134). A completion decrement reaches a barrier object as one atomic event. -/
  | completionDecrement (k : Nat)
  /-- Event `PUBLISH_SWAP` (R133). The active half of a shadowed buffer swaps at its home. -/
  | publishSwap (k : Nat)
  /-- Event `MATRIX_OP_START` (R342). The array begins the next instruction of a tenant's matrix queue. -/
  | matrixOpStart (core tenant : Nat)
  /-- Event `MATRIX_ROW_ENTRY` (R339). An activation row becomes present and enters the cell chain. -/
  | matrixRowEntry (core tenant : Nat)
  /-- Event `MATRIX_STALL_YIELD` (R342). A stream with no row for 64 cycles yields the array. -/
  | matrixStallYield (core tenant : Nat)
  /-- Event `MATRIX_OP_COMPLETE` (R342). A matrix instruction completes its effect on banks, weights or memory. -/
  | matrixOpComplete (core tenant : Nat)
  /-- Event `BANK_CLEAR_DONE` (R161). A freed bank finishes clearing and becomes available to ACQ. -/
  | bankClearDone (core bank : Nat)
  /-- Event `TILE_FETCH_READ` (R343). The tile fetch unit reads and pins a line ahead of the array. -/
  | tileFetchRead (core tenant : Nat)
  /-- Event `PAGE_WALK` (R250). A walk reads its three entries and fills the TLBs or faults. -/
  | pageWalk (core vf : Nat) (va : W64)
  /-- Event `PEER_ACCESS_REQUEST` (R248). A remote access arrives at a peer, which walks and performs it. -/
  | peerAccessRequest (k : Nat)
  /-- Event `KEEP_WAITING_SEND` (R252). Every 8,192 cycles a peer sends a keep-waiting notice for a parked request. -/
  | keepWaitingSend (k : Nat)
  /-- Event `KEEP_WAITING_ARRIVAL` (R252). A keep-waiting notice reaches the requester and restarts its limit. -/
  | keepWaitingArrival (k : Nat)
  /-- Event `FAULT_QUEUE_RETRY` (R252). A request refused by a full fault queue retries after 1,024 cycles. -/
  | faultQueueRetry (k : Nat)
  /-- Event `REMOTE_TIMEOUT` (R252). No notice or reply within 24,576 cycles raises PAGE at the requester. -/
  | remoteTimeout (k : Nat)
  /-- Event `PARK_REFUSAL` (R252). A request parked for 2^20 cycles is refused. -/
  | parkRefusal (k : Nat)
  /-- Event `REMOTE_CANCEL` (R252). A cancel sent at pre-emption reaches the peer and races the completion. -/
  | remoteCancel (k : Nat)
  /-- Event `REMOTE_REPLY` (R248). A split-phase remote reply or acknowledgement arrives and lowers UNACK. -/
  | remoteReply (k : Nat)
  /-- Event `APERTURE_PROBE` (R122). The first access after an aperture write probes the target's supported atomics. -/
  | apertureProbe (pkg vf aper : Nat) (ops : BitVec 11) (fmts : BitVec 3) (rev : Byte) (ok : Bool)
  /-- Event `AMOP_NOTSUP` (R122). A NOTSUP for a retired AMOP sends a c1 AMOFMT event to the strand. -/
  | amopNotsup (k : Nat)
  /-- Event `TIMESTAMP_REBASE` (R257). A timestamp about to pass 2^47 rebases all timestamps of the package. -/
  | timestampRebase (pkg : Nat)
  /-- Event `SCRUB` (R361). The C9 scrubs DRAM sectors and L2 lines on its schedule. -/
  | scrubPkg (pkg : Nat)
  /-- Event `UNCORRECTABLE_ERROR` (R362). An uncorrectable error poisons a sector or invalidates a line. -/
  | uncorrectableError (where_ : Nat) (unit : Nat)
  /-- Event `GBAR_ARRIVAL` (R196). A member's arrival reaches the group's home. -/
  | gbarArrival (k : Nat)
  /-- Event `GBAR_RELEASE` (R196). The release reaches a member, whose GBAR returns. -/
  | gbarRelease (k : Nat)
  /-- Event `WINDOW_OPEN` (R216). The gang window opens once every member's GWOPEN reaches the home. -/
  | windowOpen (k : Nat)
  /-- Event `MEMBER_DEPART` (R331). A killed member departs, marking DEPARTED and DEP at every member core. -/
  | memberDepart (k : Nat)
  /-- Event `STEAL_DECISION` (R220). The victim's core decides a steal request in one step. -/
  | stealDecision (k : Nat)
  /-- Event `STEAL_REPLY` (R335). The home registers the steal and its result reaches the thief. -/
  | stealReply (k : Nat)
  /-- Event `TQDONE_ARRIVAL` (R221). A tile completion reaches the victim's core and the home. -/
  | tqdoneArrival (k : Nat)
  /-- Event `STRAGRD_REPLY` (R222). The home's straggler-record reply reaches the strand. -/
  | stragrdReply (k : Nat)
  /-- Event `MIGRATE_ARRIVAL` (R199). A migrated context arrives and waits for banks or a slot. -/
  | migrateArrival (k : Nat)
  /-- Event `OFFER_ARRIVAL` (R304). An offer reaches its home pillow and its slot becomes HELD. -/
  | offerArrival (k : Nat)
  /-- Event `WITHDRAWAL_ARRIVAL` (R304). A withdrawal reaches the pillow and empties a HELD slot. -/
  | withdrawalArrival (k : Nat)
  /-- Event `CONNECTOR_EVALUATION` (R306). The pillow evaluates an active connector, firing at most one eligible row per class. -/
  | connectorEvaluation (pillow conn : Nat)
  /-- Event `CLOCKED_EVALUATION` (R309). A clocked connector evaluates once every port's owner has offered or paused. -/
  | clockedEvaluation (pillow conn : Nat)
  /-- Event `PORT_RESULT_ARRIVAL` (R205). A port's result reaches its owner and the port becomes DECIDED. -/
  | portResultArrival (k : Nat)
  /-- Event `EMIT_REPORT` (R316). An EMIT report reaches the reactive home. -/
  | emitReport (k : Nat)
  /-- Event `RETRACT_REPORT` (R316). A RETRACT report reaches the home and lowers N(s). -/
  | retractReport (k : Nat)
  /-- Event `PAUSE_REPORT` (R315). A PAUSE report marks the member PAUSED at the home. -/
  | pauseReport (k : Nat)
  /-- Event `LEAVE_REPORT` (R315). A LEAVE report marks the member LEFT at the home. -/
  | leaveReport (k : Nat)
  /-- Event `BLOCK_REPORT` (R315). A block report marks the member blocked or is answered with the resolution. -/
  | blockReport (k : Nat)
  /-- Event `UNBLOCK_REPORT` (R315). An unblock report returns the member to RUNNING. -/
  | unblockReport (k : Nat)
  /-- Event `RESOLUTION_ARRIVAL` (R316). A resolution reaches a member core and blocked tests retire. -/
  | resolutionArrival (k : Nat)
  /-- Event `CAUSALITY_CYCLE` (R318). The home detects a stall and sends CAUSE to every blocked member. -/
  | causalityCycle (key : Nat)
  /-- Event `CAUSE_ARRIVAL` (R319). CAUSE reaches a blocked member, which traps at its test. -/
  | causeArrival (k : Nat)
  /-- Event `INSTANT_END` (R320). The home ends the instant as one event. -/
  | instantEnd (key : Nat)
  /-- Event `RESUMPTION_ARRIVAL` (R320). Resumption reaches a paused member, which continues in the next instant. -/
  | resumptionArrival (k : Nat)
  /-- Event `LAUNCH_SELECT` (R277). The scheduler picks a ready launch head by priority and rotation. -/
  | launchSelect (pkg : Nat)
  /-- Event `STRAND_PLACE` (R283). A free placed slot takes a migrated or the lowest unstarted strand. -/
  | strandPlace (core slot : Nat)
  /-- Event `GRAPH_NODE_TEST` (R279). A ready conditional, switch or loop node reads its test word and chooses successors. -/
  | graphNodeTest (graph node : Nat)
  /-- Event `LAUNCH_COMPLETE` (R193). A launch completes when its strands ended and no activation runs. -/
  | launchComplete (uid : Nat)
  /-- Event `EVENT_RETRANSMIT` (R394). An unacknowledged host event is retransmitted after 50 microseconds. -/
  | eventRetransmit (k : Nat)
  /-- Event `EVENT_ACK` (R394). The host acknowledges an event's TAG and retransmission stops. -/
  | eventAck (tag : W64)
  /-- Event `EVICTION` (R289). A placement set stops, resolves in-flight work, saves its context and frees its clusters. -/
  | eviction (key : Nat)
  /-- Event `RESTORE` (R289). An evicted placement set is restored and resumes in one cycle. -/
  | restore (key : Nat)
  /-- Event `QUARANTINE` (R363). A core is quarantined, its strands lost unless paired, and its row shifted. -/
  | quarantine (core unit : Nat)
  /-- Event `ROLLBACK` (R369). A lock-step mismatch or error rolls both cores back to the checkpoint. -/
  | rollback (core : Nat)
  /-- Event `EGRESS_RELEASE` (R367). A held outgoing effect is released once comparisons match, advancing the checkpoint. -/
  | egressRelease (core : Nat)
  /-- Event `CHECKPOINT_ADVANCE` (R367). The checkpoint advances after 1,024 cycles without a release. -/
  | checkpointAdvance (core : Nat)
  /-- Event `LINK_REPLAY` (R377). A flit failing its CRC is discarded and the sender replays from it. -/
  | linkReplay (link : Nat)
  /-- Event `CREDIT_ONLY_FLIT` (R376). Credits waiting 16 cycles are returned in a credit-only flit. -/
  | creditOnlyFlit (link : Nat)
  /-- Event `SYNC_FLIT` (R378). After 4,096 flits a sync flit resets each network's credit count. -/
  | syncFlit (link : Nat)
  /-- Event `LINK_RETRAIN` (R379). A link retrains, discarding partial packets and replaying them. -/
  | linkRetrain (link : Nat)
  /-- Event `TORUS_FLIT_ARRIVAL` (R380). Arriving torus flits claim outputs by age or are deflected. -/
  | torusFlitArrival (pkg : Nat)
  /-- Event `SLOT_TABLE_SWITCH` (R375). Shadow slot tables switch at one frame boundary after the old flits drain. -/
  | slotTableSwitch (conn : Nat)
  /-- Event `STREAM_INGRESS` (R383). An ingress message enters a stream graph and receives a sequence number. -/
  | streamIngress (graph : Nat) (data : List Byte)
  /-- Event `REDUCE` (R385). An operator reduces 2 to 8 inputs joined by sequence number. -/
  | reduceMsg (graph node : Nat)
  /-- Event `CONVERT` (R385). An operator converts element types. -/
  | convert (graph node : Nat)
  /-- Event `COMPRESS` (R385). An operator deflate-compresses a message. -/
  | compress (graph node : Nat)
  /-- Event `INFLATE` (R385). An operator inflates a compressed message. -/
  | inflate (graph node : Nat)
  /-- Event `TRANSCODE` (R385). An operator transcodes between character encodings. -/
  | transcode (graph node : Nat)
  /-- Event `TOKENISE` (R385). An operator tokenises by greedy longest match. -/
  | tokenise (graph node : Nat)
  /-- Event `FILTER` (R385). An operator drops messages failing a predicate as gaps. -/
  | filterMsg (graph node : Nat)
  /-- Event `SPLIT` (R385). An operator splits a message into pieces. -/
  | splitMsg (graph node : Nat)
  /-- Event `SEQJOIN` (R385). An operator merges or concatenates messages by sequence. -/
  | seqjoin (graph node : Nat)
  /-- Event `REPLICATE` (R385). An operator copies a message to 2 to 4 outputs. -/
  | replicate (graph node : Nat)
  /-- Event `CHECKSUM` (R385). An operator appends or verifies a CRC32C. -/
  | checksum (graph node : Nat)
  /-- Event `REPACK` (R385). An operator resizes or byte-swaps elements. -/
  | repack (graph node : Nat)
  /-- Event `SINK_COMMIT` (R386). The sink commits the next message in order and delivers it as pieces. -/
  | sinkCommit (graph node : Nat)
  /-- Event `POWER_ON` (R389). The boot ROM verifies firmware, trains links, clears memory and opens the ports. -/
  | powerOn (pkg : Nat)
  /-- Event `FWLOAD` (R392). Stages new firmware for verification at the next boot. -/
  | fwload (dg : List Byte)
  /-- Event `IMAGE` (R233). Reads a Sahnen image by RDMA and loads it, returning a handle or refusal. -/
  | imageLoad (dg : List Byte)
  /-- Event `SUBMIT` (R393). Enqueues launch records and their graph on the home package. -/
  | submit (dg : List Byte)
  /-- Event `ATTEST` (R390). Returns a freshly signed attestation report over the host's nonce. -/
  | attest (dg : List Byte)
  /-- Event `PARTRPT` (R398). Returns the part report. -/
  | partrpt (dg : List Byte)
  /-- Event `RESETVF` (R396). Kills, discards, writes back and clears everything of one VF and reports its launches. -/
  | resetvf (dg : List Byte)
  /-- Event `QOS` (R395). Sets a VF's L2, DRAM, slot and pillow shares. -/
  | qos (dg : List Byte)
  /-- Event `SLOT` (R375). Asks the slot allocator to grant or release a guaranteed connection. -/
  | slotCmd (dg : List Byte)
  /-- Event `APER` (R247). Writes an aperture entry of a VF. -/
  | aperWrite (dg : List Byte)
  /-- Event `PTBASE` (R392). Sets a VF's level-1 table address after invalidating its TLB entries. -/
  | ptbase (dg : List Byte)
  /-- Event `INVALID_OP` (R392). A command with an unknown OP is refused with status 2. -/
  | invalidOp (dg : List Byte)
  /-- Event `THERMAL_THROTTLE` (R399). The firmware lowers the clock when power or temperature limits would be passed. -/
  | thermalThrottle (pkg rate : Nat)
  /-- Event `THERMAL_SHUTDOWN` (R399). At 115 degrees C every launch stops with STATUS 5 and the C9 shuts down. -/
  | thermalShutdown (pkg : Nat)
  /-- Event `ILLOP` (R77). A fetched word that decodes to no instruction (unassigned major or xmajor, or sequential arrival at a non-start or non-code word) raises ILLOP with no effect. The
position of the offending word, word 0, and whether the word is unmarked. -/
  | illop (pos : Nat) (w0 : W32) (unmarked : Bool)
  /-- Event `FETCH_FAILURE` (R47). An instruction fetch whose word or bitmap byte cannot be read raises PAGE, PERM or MCHK before any decoding. -/
  | fetchFailure (code : Nat) (eaddr einfo : W64)
  /-- Event `MALFORMED_DATAGRAM` (R391). A command datagram with a malformed header or a VF that does not match its source binding is dropped without a reply. -/
  | malformedDatagram (dg : List Byte)
  /-- Event `RDMA_WRITE` (R394). A host RoCEv2 RDMA write into C9 memory is performed before its completion is sent. -/
  | rdmaWrite (conn : Nat) (va : W64) (data : List Byte)
  /-- Event `RDMA_READ` (R394). A host RoCEv2 RDMA read returns launch output from C9 memory. -/
  | rdmaRead (conn : Nat) (va : W64) (len : Nat)
  /-- Event `STREAM_GRAPH_LOAD` (R383). The management firmware loads a stream graph for a virtual function, requesting its connections, or refuses the graph whole. -/
  | streamGraphLoad (vf : Nat) (data : List Byte)
  /-- Event `APERTURE_INVALIDATE` (R122). A target reset or revision change invalidates the matching aperture entry at every peer, so it is probed again. -/
  | apertureInvalidate (target : Nat)
  deriving DecidableEq, Repr

end Sys2Proof
end

