-- ==== Sys2Proof/Machine/State.lean ====
section
/-! DEFINITION. The state of the machine as plain data: the strands and their registers, the cores, the memories, the
launches, groups, connectors and links the spec names (INVENTORY.md, State), and the state right after the boot of R389.

Numbers that name places: a core is `package * 2048 + package core ID` (R4, R21); a die is `package * 8 + die`; a
logical cluster, and the pillow in it, is `package * 128 + die * 16 + cluster` (R281). A byte of memory has one key, a
`Nat`: see `Machine/Memory.lean`. -/

namespace Sys2Proof.Machine

/-- A table keyed by plain data; a key that is not listed has the table's default. -/
abbrev AMap (κ ν : Type) := List (κ × ν)

/-- The privilege levels (R24). -/
inductive Level
  | s | k | h
  deriving DecidableEq, Repr

/-- The three strands of a slot (R7). -/
inductive Agent
  | compute | loader | storer
  deriving DecidableEq, Repr

/-- What a slot of a launch holds: the placed strand of a thread, or the handler context of a virtual core's slot
(R7, R188). -/
inductive Seat
  | placed (tid : Nat)
  | handler (vc slot : Nat)
  deriving DecidableEq, Repr

/-- The name of one context: its launch, its seat, and which of the seat's three strands it is. -/
structure Sid where
  launch : Nat
  seat : Seat
  unit : Agent
  deriving DecidableEq, Repr

/-- Where a context runs (R25 SLOT, VCORE, PCORE). -/
structure Place where
  pkg : Nat
  core : Nat
  slot : Nat
  vc : Nat
  deriving DecidableEq, Repr

/-- Resident in its slot; evicted with its placement set (R289); moving, in no slot, after MIGRATE (R199); or killed, with
work of its own still running (R357). -/
inductive Residency
  | resident | evicted | moving | ended
  deriving DecidableEq, Repr

/-- What a blocked instruction waits for (R5 "Block until"). -/
inductive Wait
  /-- entries of a queue register that are free to take (R110, R138, R182) -/
  | queueEntry (q : Reg3)
  /-- a free entry of a queue register (R110, R182) -/
  | queueRoom (q : Reg3)
  /-- bytes of a channel's stream (R139) -/
  | chunk (c : Chan)
  /-- one of the 32 outstanding engine operations (R124) -/
  | tracker
  /-- the notice is entered or listed at the receiver (R130) -/
  | notice
  /-- an entry of the core's injection queue (R184) -/
  | injection
  /-- the end of the target core's receive-queue pressure (R287) -/
  | pressure
  /-- engine operations within a scope (R123) -/
  | engines (sc : Scope)
  /-- AMOPs within a scope (R123) -/
  | amops (sc : Scope)
  /-- a transfer ID below the watermark (R129) -/
  | transfer (c : Chan)
  /-- an arrival due at a barrier object (R135) -/
  | arrivalDue
  /-- the phase of a barrier object (R135) -/
  | phase
  /-- both helpers idle (R180, R181, R192) -/
  | helpers
  /-- UNACK = 0 (R192, R199) -/
  | unacked
  /-- the copies into a shadowed buffer, then the swap (R133) -/
  | publish
  /-- room in the matrix queue, or the matrix queues empty (R177, R178) -/
  | matrixQueue
  /-- the bank's earlier matrix instructions (R174) -/
  | bank
  /-- a freed run of banks being cleared (R161) -/
  | bankClear
  /-- the MMULS that streams from a channel (R170) -/
  | stream (c : Chan)
  /-- the reply of a split-phase access, or the parked walk at a peer (R107, R248) -/
  | reply
  /-- the accesses in flight that used a translation from the line stored to (R251) -/
  | translations
  /-- the restore of an evicted virtual cluster (R238) -/
  | restore
  /-- a port's decision (R207) -/
  | port (idx : Nat)
  /-- a signal's resolution (R212) -/
  | signal (idx : Nat)
  /-- the next instant (R214) -/
  | instant
  /-- the release of a group barrier (R196) -/
  | barrier (gid : Nat)
  /-- the forming of a flagged group (R194) -/
  | forming
  /-- the opening of a gang window (R216) -/
  | window
  /-- peers that have not detached, tiles not done, the instant's end (R192, R195) -/
  | hold
  /-- the reply to a steal or a straggler request (R220, R222) -/
  | request
  /-- the producers of the graph node (R198) -/
  | producers
  /-- the strand's engine and matrix work and messages at EXIT (R192) -/
  | work
  /-- the release of an effect held by a lock-step pair (R367) -/
  | egress
  /-- the rebase of the package's timestamps (R257) -/
  | rebase
  /-- the core's earlier packets to the same place (R372) -/
  | order
  deriving DecidableEq, Repr

/-- What came back for a request: values, the trap the requester raises (R248, R252), that a cancel won (R252), or the place of an
access. -/
inductive Answer
  | ok (ws : List W64)
  | trap (code : Nat) (eaddr einfo : W64)
  | cancelled
  /-- of a probe: the key of the access at its peer, and the lines of the walks that placed it (R105, R251) -/
  | place (key : Nat) (lines : List Nat)
  deriving DecidableEq, Repr

/-- A leaf found by a walk: its bits, where it lies, whether it maps a large page, and the lines the walk read (R239,
R251). -/
structure Leaf where
  word : Nat
  pa : Nat
  large : Bool
  lines : List Nat
  deriving DecidableEq, Repr

/-- Where an operation's target lies, for the scopes of fences and of race records (R123, R269): the core, die and
package that hold it, none where it is wider. -/
structure Home where
  core : Option Nat
  die : Option Nat
  pkg : Option Nat
  deriving DecidableEq, Repr

/-- An access that may be performed: its generic address, the key of its first byte, its size, where it lies, whether
the race detector checks it, its lease (0 for a scratchpad), and the lines of the walk that translated it (R251). -/
structure Acc where
  va : W64
  key : Nat
  n : Nat
  home : Home
  chk : Bool
  lease : Nat
  lines : List Nat
  deriving DecidableEq, Repr

/-- An access that goes to a peer package or a host: its address there, the aperture and its entry, RAP (R248), the key
its target has given it when it was probed, and the lines of the requester's own walk (R251). -/
structure Far where
  va : W64
  t : W64
  n : Nat
  aper : Nat
  entry : BitVec 128
  rap : Bool
  at_ : Option Nat
  lines : List Nat
  deriving DecidableEq, Repr

/-- An access is to memory that its core reaches itself, to a gang member's slice on another core, which is split-phase
(R327), or to a peer or host (R248). -/
inductive Target
  | mem (a : Acc)
  | gang (a : Acc)
  | far (f : Far)
  deriving DecidableEq, Repr

/-- The requests of the instruction at `pc`: the answers it has, in order, and whether it waits for one more, sent
under `ref`. They are kept until the instruction retires (R252, R337). -/
structure Pend where
  pc : W64
  /-- what the request waits for -/
  on : Wait
  ref : Nat
  got : List Answer
  waiting : Bool
  /-- the request is the instruction's last step: its checks are not made again, and the request outlasts a trap taken
  while the instruction waits (R196, R337) -/
  sent : Bool
  /-- a cancel has been sent after the request (R252) -/
  cancel : Bool
  /-- the checked accesses of a vector access that needs requests, by lane: they are not checked again (R104, R107) -/
  plan : List (Nat × Target)
  /-- its context was restored while the instruction was blocked: it has not run again, and reports anew (R322) -/
  again : Bool := false
  deriving DecidableEq, Repr

/-- The bytes from a key on as they stood before a store (R102, R236, R262). -/
structure Old where
  key : Nat
  old : List Byte
  deriving DecidableEq, Repr

/-- A store of a strand: its key and size, and its sectors as they stood before it (R262). -/
structure Stored where
  key : Nat
  n : Nat
  old : Old
  deriving DecidableEq, Repr

/-- An allocation of accumulator banks (R161, R163, R164). -/
structure Alloc where
  base : Nat
  n : Nat
  int : Bool
  w : Nat
  deriving DecidableEq, Repr

/-- A latched weight tile: its elements by logical row, 32 columns each, and whether it was read poisoned (R166,
R362). -/
structure Tile where
  fmt : WFmt
  k : Nat
  rows : List (List (BitVec 16))
  poison : Bool
  deriving DecidableEq, Repr

/-- The matrix context of a compute strand (R166). -/
structure MatrixCtx where
  tile : Option Tile
  latched : List (BitVec 16)
  staged : List (BitVec 16)
  stagedPoison : Bool
  intStream : Bool
  deriving DecidableEq, Repr

/-- The state of a port at its owner (R205); IDLE ports are not listed. `by_` is the address of the PUT or GET that made
the offer and waits for it, none for PUTNB and GETNB (R209); `pulled` says that a withdrawal has been sent. -/
inductive PortState
  | offered (by_ : Option W64) (pulled : Bool)
  | decided (status : W64) (data : V128) (by_ : Option W64)
  deriving DecidableEq, Repr

/-- An AMOP whose target has not acknowledged it yet: its reference, where its target lies (R119, R123), its address, the
lines of its walk (R251), and whether it is performed at issue or only at its target (R248, R327), there in a gang window. -/
structure AmopOut where
  ref : Nat
  home : Home
  va : W64
  lines : List Nat
  away : Bool
  gang : Bool
  deriving DecidableEq, Repr

/-- A helper's trap that its compute strand has not taken yet (R97). -/
structure HelperTrap where
  unit : Agent
  code : Nat
  eaddr : W64
  pc : W64
  deriving DecidableEq, Repr

/-- One context: a compute strand, a helper, or a handler slot's context (R8, R25, R98). -/
structure Strand where
  id : Sid
  place : Place
  res : Residency
  /-- started and not ended: a helper between FORK and END, a handler context between selection and YIELD -/
  live : Bool
  x : Vector W64 32
  v : Vector V128 32
  m : Vector (BitVec 16) 8
  zc : Vector W64 8
  zp : Vector W64 8
  zw : Vector Bool 8
  pc : W64
  level : Level
  fcr : W64
  fstat : W64
  sqcap : W64
  ecause : W64
  epc : W64
  eaddr : W64
  einfo : W64
  tvec : W64
  grp : W64
  racecfg : W64
  unack : Nat
  chwm : Vector W32 64
  /-- the transfer counters (R129) -/
  tcnt : Vector W32 64
  /-- completed transfer IDs above the watermark, by channel (R129) -/
  tdone : List (Nat × W32)
  /-- the generations of the 32 tracker entries (R347) -/
  gens : Vector (BitVec 3) 32
  amops : List AmopOut
  mctx : MatrixCtx
  allocs : List Alloc
  /-- group IDs and member indexes (R18) -/
  groups : List (Nat × Nat)
  ports : AMap Nat PortState
  /-- stolen tiles without TQDONE: transfer record and descriptor (R220, R221, R334) -/
  stolen : List (W64 × W64)
  /-- the current message of an activation: its channel, and its receive-queue index or kick index (R188, R191) -/
  current : Option (Nat × Nat)
  /-- the channel of the activation that runs in a handler slot (R188) -/
  act : Option Nat
  triggered : Bool
  /-- the five interval counters (R269) -/
  ivals : Vector W32 5
  /-- the program timestamp (R255) -/
  pts : Nat
  helperTraps : List HelperTrap
  wait : Option Wait
  pend : List Pend
  /-- trap entry whose first fetch has not succeeded yet (R95) -/
  entering : Bool
  /-- the entry PC of the activation has not been checked yet (R188) -/
  entryDue : Bool
  /-- the strand's own stores since its last load: what a `.rlx` read may still see (R124, R262); oldest first -/
  wlog : List Stored
  /-- the place in the code log up to which SYNCI has brought the strand's fetch (R102) -/
  synced : Nat
  /-- a helper trap waits for the next ERET: the second of two, or one pending at a trap entry (R97, R356) -/
  hheld : Bool
  /-- a CAUSE that waits until the withdrawal of the offer of the port that EADDR names is decided: EADDR and EINFO (R318,
  R209) -/
  causeDue : Option (W64 × W64)
  /-- an outgoing effect of this instruction has been released by the lock-step hold (R367) -/
  released : Bool
  /-- the context whose earlier work this ended context carries on (R358; the model's own; DEDUCED, log entry 48) -/
  was : Option Sid
  deriving DecidableEq, Repr

/-- The queue registers of a slot, and the entries reserved by an instruction that has not retired (R10, R138). -/
structure SlotQueues where
  q : Vector (List V128) 8
  holds : List (Agent × Reg3 × Nat)
  deriving DecidableEq, Repr

/-- One channel's entry of the handler table (R14). -/
structure HEntry where
  pc : W64
  prio : BitVec 3
  enable : Bool
  accept : Bool
  deriving DecidableEq, Repr

/-- A message (R183, R189): its channel, network, sender, unpadded length and padded payload. -/
structure Msg where
  ch : Nat
  rpy : Bool
  vc : Nat
  tid : Nat
  bytes : Nat
  data : List Byte
  deriving DecidableEq, Repr

/-- An entry of a receive queue, in admission order; `idx` is its receive-queue index (R13, R188, R139). -/
structure RqEntry where
  idx : Nat
  msg : Msg
  taken : Nat
  active : Bool
  deriving DecidableEq, Repr

/-- An entry of an injection queue, or a message of the C9 itself on its way to a core (R183, R191). -/
structure InjEntry where
  sender : Option Sid
  launch : Nat
  vc : Nat
  msg : Msg
  /-- atomics of the sender with an earlier reference are performed before it is admitted (R186); 0 for `.rlx` -/
  after : Nat
  /-- the tick at which it was sent (R185) -/
  born : Nat
  deriving DecidableEq, Repr

/-- A notice at its receiver (R130, R131, R346). -/
structure Kick where
  launch : Nat
  handle : W32
  bytes : W32
  buf : W64
  vc : Nat
  tid : Nat
  /-- a pending c0 message: entered, and not yet taken by an activation -/
  pending : Bool
  /-- the tick at which it took its entry -/
  since : Nat
  deriving DecidableEq, Repr

/-- An accumulator bank: free; being cleared after REL; given up by REL, with earlier instructions that target it still to
complete; or held (R12, R161, R162). -/
inductive BankState
  | free
  | clearing
  | leaving (by_ : Sid)
  | held (by_ : Sid)
  deriving DecidableEq, Repr

/-- A run of rising keys: the first and their number, the address of the first, and the leaf that translated it, where
that was a leaf of its own package's memory (R246, R344). -/
structure Run where
  key : Nat
  len : Nat
  va : Nat
  leaf : Option Nat
  deriving DecidableEq, Repr

/-- An instruction accepted into a matrix queue (R159, R175). Memory is named by the keys of its bytes. -/
inductive MatKind
  | mzero
  | mshape
  | mwr (group : Nat) (v : V128)
  | rel
  /-- the 32 bytes of the 16 entries -/
  | mcbl (src : List Nat)
  /-- the bytes of each row of the view -/
  | mwld (fmt : WFmt) (k : Nat) (src : List (List Nat))
  /-- rows still to come: the bytes of each, and whether the tile fetch unit reads them (R343) -/
  | mmulMem (int fetch : Bool) (rows : List (List Nat))
  | mmulQueue (int : Bool) (q : Reg3) (left : Nat)
  | mmuls (int : Bool) (ch : Nat) (left : Nat)
  /-- the allocation's W and type, the element type, FCR.RM, the bytes of each row of the view, the bytes of the
  scales, and the barrier object -/
  | mdrain (w : Nat) (cellInt : Bool) (t : Ty) (rm : Nat) (dst : List (List Nat)) (scale : Option (List Nat)) (bar : Option Nat)
  deriving DecidableEq, Repr

/-- A line that the tile fetch unit has read and pins: its number, its bytes, and whether one was poisoned (R343). -/
structure Pin where
  line : Nat
  bytes : List Byte
  poison : Bool
  deriving DecidableEq, Repr

/-- One entry of a matrix queue: its strand, the banks it targets, its work, and how far it is (R175, R342). -/
structure MatOp where
  ref : Nat
  owner : Sid
  base : Nat
  banks : Nat
  kind : MatKind
  started : Bool
  /-- it has yielded the array (R342) -/
  parked : Bool
  /-- rows done; for a drain, its destination sectors that are not written yet -/
  row : Nat
  /-- entries or chunks taken of a row that is not whole yet (R169, R170) -/
  buf : List Byte
  pins : List Pin
  /-- the issuer's interval counters at issue, when its race detector is on (R270) -/
  stamp : Option (Vector W32 5)
  /-- where its destination lies (R123), and the runs of a drain's destination -/
  homes : List Home
  dst : List Run
  /-- the strand's earlier stores, which a `.rlx` read may come before (R166, R173) -/
  olds : List Old
  /-- for a `.rlx` drain, the earlier stores that may land after it (R173) -/
  laters : List Old
  rlx : Bool
  deriving DecidableEq, Repr

/-- What a moving strand takes from its old core (R199): the bytes of its private slice by offset, the cells of its banks,
and its matrix work. -/
structure Cargo where
  sid : Sid
  from_ : Place
  slice : List (Nat × Byte)
  cells : AMap Nat W32
  poison : List Nat
  work : List MatOp
  deriving DecidableEq, Repr

/-- A core (R7, R12-R15, R25, R286, R340-R346). -/
structure Core where
  htab : Vector HEntry 64
  rq : List RqEntry
  inj : List InjEntry
  /-- messages of the C9 for this core: c1 events and stream pieces (R191, R386) -/
  sys : List InjEntry
  kick : Vector (Option Kick) 8
  waitList : List Kick
  banks : Vector BankState 128
  /-- accumulator cells that are not zero: bank * 512 + cell index -/
  cells : AMap Nat W32
  cellPoison : List Nat
  mq0 : List MatOp
  mq1 : List MatOp
  half0 : BitVec 4
  half1 : BitVec 4
  slotw : W32
  slotwNew : Option W32
  pressure : Bool
  /-- the cores this core has been told are under pressure (R287) -/
  told : List Nat
  /-- channels' stream bytes reserved by instructions that have not retired (R138, R139) -/
  chHolds : List (Sid × Nat × Nat)
  remap : BitVec 16
  quarantined : Bool
  /-- the helper section copied into the instruction stores: its address and bytes (R180, R233) -/
  istore : Option (W64 × List Byte)
  /-- forwarding entries of strands that left by MIGRATE, with the next reference at that time: those before it were issued
  here (R200) -/
  fwd : List (Sid × Nat)
  /-- strands that arrived by MIGRATE and are in no slot yet, earliest first (R199, R283) -/
  arrivals : List Cargo
  /-- its virtual core is being moved one column (R364) -/
  shifting : Bool
  deriving DecidableEq, Repr

/-- A lock-step pair (R366-R369), by its primary core: its checkpoint (the contexts and queue registers of its virtual core,
and the core's record), the old bytes of the scratchpad sectors its strands have written since, the contexts whose effects
are held, oldest first, and the rollbacks to this checkpoint. -/
structure LockStep where
  check : List Strand
  queues : List (Nat × Seat × SlotQueues)
  core : Core
  log : List Host.Cell
  /-- the poisoned sectors of its scratchpad at the checkpoint -/
  poison : List Nat
  held : List Sid
  rolls : Nat
  deriving DecidableEq, Repr

/-- One contiguous piece of a segment: `len` bytes from `src` to `dst`; or one code, from the low or high half of the byte at
`src` to the bits `mask` of the byte at `dst`, which are both its halves for the last of an odd number (R128). -/
inductive Piece
  | run (src dst len : Nat)
  | code (src : Nat) (high : Bool) (dst : Nat) (mask : Byte)
  deriving DecidableEq, Repr

/-- A segment of a copy: its number, the streamer that serves it, its pieces (R344). -/
structure Seg where
  n : Nat
  server : Nat
  pieces : List Piece
  deriving DecidableEq, Repr

/-- A byte on its way to a destination: its key, its value, the bits of it that come. -/
structure Bit8 where
  key : Nat
  byte : Byte
  mask : Byte
  deriving DecidableEq, Repr

/-- A COPY, COPYB or NOTICE in progress: its tracker entry (R124, R344, R348). -/
structure EngOp where
  owner : Sid
  slot : Nat
  gen : BitVec 3
  ch : Nat
  id : W32
  notice : Bool
  /-- the runs of the source, or of a NOTICE's buffer (R329) -/
  src : List Run
  /-- the destination's runs, for the scopes of fences, for PUBLISH and for merging sectors -/
  dst : List Run
  /-- where its destination lies; for a NOTICE, its receiver's core -/
  homes : List Home
  /-- segments that no streamer has read yet -/
  unsent : List Seg
  /-- segments read: number and bytes still on their way -/
  sent : List (Nat × Nat)
  /-- bytes that wait at their bank for the rest of their sector: with their poison marks (R344) -/
  part : List (Bit8 × Bool)
  serial : Bool
  bar : Option Nat
  /-- the issuer's interval counters at issue, when its race detector is on (R270) -/
  stamp : Option (Vector W32 5)
  olds : List Old
  rlx : Bool
  deriving DecidableEq, Repr

/-- A segment command at a streamer: the operation, the segment, the core that issued it (R345). -/
structure SegCmd where
  op : Nat
  seg : Nat
  core : Nat
  deriving DecidableEq, Repr

/-- A streamer: its queue of 32 segment commands, in order of arrival, and the core that it served last (R345). -/
structure Streamer where
  cmds : List SegCmd
  last : Nat
  deriving DecidableEq, Repr

/-- A shadowed buffer registered with its memory's home (R23, R133): its launch, the key of its first half, the
length of one half, and whether the second half is the active one. -/
structure Shadow where
  launch : Nat
  base : Nat
  len : Nat
  second : Bool
  deriving DecidableEq, Repr

/-- The race record of a sector (R269). -/
structure RaceRec where
  tid : Nat
  writer : Sid
  ival : W32
  scope : Nat
  deriving DecidableEq, Repr

/-- The scratchpad of an evicted virtual core in its save area (R289, R237): its bytes, its poisoned sectors, the state of
its shadowed buffers, its race records. -/
structure SavedMem where
  cells : List Host.Cell
  poison : List Nat
  shadows : List Shadow
  races : AMap Nat RaceRec
  deriving DecidableEq, Repr

/-- A translation held by a core's TLB, or by its cluster's where no core is named: tagged with the virtual function,
for a page of 64 KiB or 32 MiB by its number (R249). -/
structure TlbEntry where
  core : Option Nat
  clus : Nat
  vf : Nat
  page : Nat
  leaf : Leaf
  deriving DecidableEq, Repr

/-- The first fault of a launch (R357, R394). -/
structure FaultRec where
  tid : Nat
  ecause : W64
  epc : W64
  eaddr : W64
  einfo : W64
  mchk : Bool
  deriving DecidableEq, Repr

/-- Where a launch stands (R274-R284, R193). -/
inductive LaunchState
  | queued | bound | done
  deriving DecidableEq, Repr

/-- A launch: the queued copy of its record and what was bound to it (R233, R274-R284). -/
structure Launch where
  words : Vector W64 8
  serial : W32
  vf : Nat
  pkgs : List Nat
  home : Nat
  die : Nat
  /-- its queue: die * 16 + queue (R277) -/
  queue : Nat
  state : LaunchState
  /-- the logical cluster of each virtual cluster, in order (R281) -/
  bind : List Nat
  /-- the logical clusters that the scheduler has chosen for the head while their holders are evicted (R281) -/
  chosen : List Nat
  pool : List W64
  /-- the pool as the image holds it (R233) -/
  image : List W64
  kinds : List (BitVec 4)
  poolBase : W64
  text : List (W64 × Nat)
  helper : Option (W64 × List Byte)
  /-- the granules held: die and granule number (R238) -/
  granules : List (Nat × Nat)
  started : List Nat
  ended : List Nat
  triggered : List Nat
  /-- virtual clusters whose placement set is evicted, in eviction order (R289) -/
  evicted : List Nat
  /-- virtual clusters whose placement set has been stopped and is not saved yet (R289) -/
  stopping : List Nat
  routines : AMap Nat W64
  firstFault : Option FaultRec
  /-- it has run to its completion once (R193, R279) -/
  ran : Bool
  reported : Bool
  graph : Option Nat
  deriving DecidableEq, Repr

/-- An image held by handle (R233). -/
structure Image where
  vf : Nat
  records : List (Vector W64 8)
  pool : List W64
  kinds : List (BitVec 4)
  text : List (W64 × Nat)
  helper : Option (W64 × List Byte)
  /-- the 64 KiB pages that its sections and buffers occupy (R233) -/
  pages : List Nat
  deriving DecidableEq, Repr

/-- The states of a graph node (R279). -/
inductive NodeState
  | waiting | ready | running | complete | skipped
  deriving DecidableEq, Repr

/-- A node of a graph: a launch, or a conditional, switch or loop node record (R278). -/
structure GNode where
  num : Nat
  launch : Option Nat
  words : List W64
  st : NodeState
  /-- a loop has started its body; the iterations done -/
  iter : Nat
  started : Bool
  deriving DecidableEq, Repr

structure Graph where
  vf : Nat
  pkg : Nat
  nodes : List GNode
  deriving DecidableEq, Repr

/-- A member's state in the window (R327). -/
inductive WinState
  | pending | attached | detached | departed
  deriving DecidableEq, Repr

/-- A member's state at the home of a reactive domain (R315); one whose LEAVE takes effect at the instant's end is
leaving (R195). -/
inductive ReactState
  | running | blockedSig (s : Nat) | blockedPort (idx : Nat) | paused | leaving | left
  deriving DecidableEq, Repr

/-- A straggler record (R332). -/
structure Straggler where
  hist : Vector (BitVec 16) 8
  score : BitVec 16
  above : Nat
  below : Nat
  lag : Bool
  qocc : Nat
  deriving DecidableEq, Repr

/-- The control state of a tile queue (R334). -/
structure TileQueue where
  ring : Nat
  head : Nat
  count : Nat
  out : Nat
  seq : W32
  deriving DecidableEq, Repr

/-- A member of a group: its map entry, its barrier and straggler state, its tile queue and its reactive state, and
the copies its core holds (R327, R197, R220, R312). -/
structure Member where
  sid : Sid
  idx : Nat
  core : Nat
  /-- still in the group -/
  inside : Bool
  /-- has executed GWOPEN for the opening in progress, with its slice -/
  opening : Option (Nat × Nat)
  base : Nat
  len : Nat
  win : WinState
  /-- it was attached when it departed -/
  wasAtt : Bool
  /-- the window state this member's core has been told: the members it sees as departed, and its DEP bit -/
  seesGone : List Nat
  dep : Bool
  /-- the arrival of this phase counted at the home: the tick at which it came, and the COUNT it carried (R196, R332) -/
  arrived : Option (Nat × Nat)
  strag : Straggler
  /-- the copy of the lagging mark at the member's core -/
  lagCopy : Bool
  queue : Option TileQueue
  react : ReactState
  /-- its may-emit set at the home, and at its own core (R213, R315) -/
  may : BitVec 256
  mine : BitVec 256
  /-- the signals resolved at the member's core this instant: number and PRESENT -/
  sees : List (Nat × Bool)
  /-- restored while it was blocked; the home does not know yet that it runs again (R322) -/
  renew : Bool := false
  deriving DecidableEq, Repr

/-- The status of a signal (R17). -/
inductive SigStatus
  | unknown | present | absent
  deriving DecidableEq, Repr

/-- A declared signal at the domain's home (R312, R314). -/
structure Signal where
  num : Nat
  comb : BitVec 2
  status : SigStatus
  value : W32
  prevVal : W32
  prevPresent : Bool
  deriving DecidableEq, Repr

/-- A group (R18, R194, R324). -/
structure Group where
  launch : Nat
  gid : Nat
  gang : Bool
  reactive : Bool
  strag : Bool
  theta : Nat
  persist : Nat
  tqcap : Nat
  /-- member count of the record -/
  size : Nat
  first : Nat
  /-- pool index of the record -/
  recIdx : Nat
  home : Nat
  formed : Bool
  /-- threads that have executed JOIN and wait for the group to form -/
  joining : List Sid
  /-- the next index of an unflagged group -/
  nextIdx : Nat
  members : List Member
  winOpen : Bool
  /-- the windows opened so far -/
  windows : Nat
  /-- a member departed since the window opened, or while it was opening -/
  departed : Bool
  phases : W32
  /-- stolen tiles not done: victim, steal number, thief (R196, R335) -/
  undone : List (Nat × W32 × Sid)
  inst : W32
  signals : List Signal
  deriving DecidableEq, Repr

/-- The slice of a member that departed from a window: until every member's core has been told and no engine operation uses it,
its bytes belong to the window (R107, R329). -/
structure Export where
  launch : Nat
  gid : Nat
  idx : Nat
  window : Nat
  key : Nat
  len : Nat
  /-- its bytes are cleared when they are free (R364) -/
  clear : Bool
  deriving DecidableEq, Repr

/-- A slot of a port at its home (R304). -/
structure Offer where
  lidx : Nat
  sid : Sid
  idx : Nat
  data : V128
  deriving DecidableEq, Repr

/-- A connector in its home pillow (R299-R306). -/
structure Connector where
  launch : Nat
  hvc : Nat
  num : Nat
  words : List W64
  offers : List Offer
  buffers : List (List V128)
  /-- the row after the last fired one, by class (R306) -/
  ptrs : AMap Nat Nat
  active : Bool
  /-- evaluated in the current instant (R309) -/
  evaluated : Bool
  deriving DecidableEq, Repr

/-- What a split-phase access does at its target (R248, R119, R327). -/
inductive RemoteOp
  | load (n : Nat)
  /-- code words (R47) -/
  | fetch (n : Nat)
  /-- the bytes from the address on; none is a byte that a masked store leaves alone -/
  | store (bytes : List (Option Byte))
  | atomic (op : Nat) (t : Ty) (b : W64) (rm : BitVec 2) (fz dn : Bool)
  | cas (t : Ty) (cmp new : W64)
  /-- the translation of a page of an engine's range: read, or written -/
  | probe (w : Bool)
  deriving DecidableEq, Repr

/-- A remote access on its way or at the peer (R248, R252). -/
structure Remote where
  ref : Nat
  sid : Sid
  pc : W64
  pkg : Nat
  vf : Nat
  va : W64
  fromPkg : Nat
  aper : Nat
  host : Bool
  posted : Bool
  op : RemoteOp
  /-- the node it goes to -/
  node : Nat
  /-- the accesses, where their keys are known: an element access that was probed (R105), or a gang access (R327) -/
  accs : List Acc
  deriving DecidableEq, Repr

/-- A request parked at a peer's fault queue (R252): its die, and the key of the line with its failing entry; `queued`
is false for one that found the queue full; `due` says that the line has been stored to since. -/
structure Parked where
  req : Remote
  die : Nat
  line : Nat
  queued : Bool
  due : Bool
  deriving DecidableEq, Repr

/-- A remote access its requester still waits for (R252); `noticed` counts the keep-waiting notices; `node` is where it went; `gang` marks one to
a gang member's slice (R217), `lines` are those of the walks of its instruction (R251). -/
structure Asked where
  ref : Nat
  sid : Sid
  va : W64
  aper : Nat
  noticed : Nat
  node : Nat
  gang : Bool
  lines : List Nat
  deriving DecidableEq, Repr

/-- The four virtual networks (R371). -/
inductive VNet
  | req | rpy | ctl | blk
  deriving DecidableEq, Repr

/-- What a packet carries (R371). Strands are named by `Sid`, groups by launch and ID, connectors by pillow and
number. -/
inductive Body
  | pressure (core : Nat) (on : Bool) (to_ : Nat)
  | notice (op : Nat) (core : Nat) (k : Kick)
  | noticeRefused (op : Nat) (core : Nat) (k : Kick)
  | nack (launch : Nat) (handle : W32)
  | segCmd (op seg : Nat)
  | sector (op seg : Nat) (bytes : List Bit8) (poison : Bool)
  | segAck (op seg : Nat)
  | decrement (launch key : Nat)
  | swap (sid : Sid) (base ref : Nat)
  | remote (r : Remote)
  | reply (ref : Nat) (sid : Sid) (res : Answer) (posted : Bool)
  | notsup (ref : Nat) (sid : Sid) (va : W64)
  | keepWaiting (ref : Nat)
  | cancel (ref : Nat)
  | amopAck (ref : Nat) (sid : Sid)
  | gbarArrive (launch gid idx : Nat) (count : Nat)
  | gbarRelease (sid : Sid) (launch gid : Nat)
  | winArrive (launch gid idx : Nat) (base len : Nat)
  | depart (launch gid idx window : Nat)
  | steal (launch gid thief victim : Nat) (ref : Nat)
  | stealResult (launch gid thief victim : Nat) (ref : Nat) (status : Nat) (desc : W64) (seq : W32)
  /-- to the home, or to the victim's core -/
  | tqdone (launch gid victim : Nat) (seq : W32) (home : Bool)
  | straggler (launch gid idx : Nat) (f : Nat) (sid : Sid) (ref : Nat)
  | migrate (c : Cargo)
  | offer (pillow conn : Nat) (o : Offer)
  | withdraw (pillow conn lidx : Nat) (sid : Sid) (idx : Nat)
  | portResult (sid : Sid) (idx : Nat) (status : W64) (data : V128)
  | emit (launch gid idx sig : Nat) (value : W32)
  | retract (launch gid idx sig : Nat)
  | pause (launch gid idx : Nat)
  | leave (launch gid idx : Nat)
  | blockSig (launch gid idx sig : Nat)
  | blockPort (launch gid idx port : Nat)
  | unblock (launch gid idx : Nat)
  | resolution (launch gid idx sig : Nat) (present : Bool)
  | cause (launch gid idx : Nat) (einfo : W64)
  | resume (launch gid idx : Nat) (inst : W32)
  deriving DecidableEq, Repr

/-- One of the packets into which a packet's contents are cut: its payload, the links it has still to cross in its package, the link
whose input holds it, and whether it is on the first of the links to cross (R373, R376, R379). -/
structure Part where
  bytes : Nat
  hops : List Nat
  input : Option Nat
  wired : Bool
  deriving DecidableEq, Repr

/-- How far a packet is: the package it is in, and its parts. -/
structure Trip where
  pkg : Nat
  parts : List Part
  deriving DecidableEq, Repr

/-- A packet in flight, or the packets into which its contents are cut (R373). Those of one network from one source to one
destination stay in order (R372). -/
structure Packet where
  vn : VNet
  src : Nat
  dst : Nat
  body : Body
  /-- the packet follows every atomic of this context with an earlier reference (R205, R266) -/
  after : Option (Sid × Nat)
  /-- the tick at which it was sent -/
  sent : Nat
  /-- none for one that has not set out -/
  trip : Option Trip := none
  deriving DecidableEq, Repr

/-- A virtual function on a package (R239, R247, R252, R253, R395). -/
structure VFun where
  l1 : Nat
  apers : List (BitVec 128)
  l2mask : BitVec 16
  dramWeight : Nat
  slotShare : Nat
  pillowShare : Nat
  pager : Option (Nat × Nat)
  resetting : Bool
  /-- replies kept by TAG, the newest 4,096 (R391) -/
  tags : List (W32 × List Byte)
  /-- the source the hypervisor bound it to (R391) -/
  bound : Option Nat
  /-- packages whose accesses this virtual function imports (R248) -/
  imports : List Nat
  deriving DecidableEq, Repr

/-- A package (R25, R276, R280, R389, R398, R399). -/
structure Package where
  gradeB : Bool
  running : Bool
  nextSerial : W32
  /-- launches waiting, by virtual function and die * 16 + queue, oldest first (R276) -/
  queues : AMap (Nat × Nat) (List Nat)
  /-- the last virtual function served, and the last queue served of each (R277) -/
  lastVf : Option Nat
  lastQ : AMap Nat Nat
  /-- the quarantined column of a row: die * 16 + row, column (R280) -/
  quar : AMap Nat Nat
  /-- the part report's quarantine list: core, unit, boot count (R398) -/
  quarList : List (Nat × Nat × Nat)
  corrected : AMap Nat Nat
  linksDown : List Nat
  linkMchk : List Nat
  bootCount : Nat
  firmware : List Byte
  staged : Option (List Byte)
  recovery : Bool
  /-- the clock in MHz (R399) -/
  clock : Nat
  /-- the next page frame that the loader takes (R233; DESIGN CHOICE, log entry 13) -/
  nextFrame : Nat
  /-- the tick of the last boot, from which CYCLE counts (R389 step 4) -/
  bootTick : Nat
  attests : Nat
  /-- the largest program timestamp at the last rebase (R257) -/
  rebased : Nat
  deriving DecidableEq, Repr

/-- A torus flit (R380, R382): its destination and source packages, the tick of its injection, its network; the sequence number
of its packet among those of its source, destination and network, its index within that packet, and the number of the packet's
flits; the link by which it came; and, in the last packet of what was cut into several, the contents. -/
structure TorusFlit where
  dst : Nat
  src : Nat
  born : Nat
  net : VNet
  seq : Nat
  index : Nat
  count : Nat
  via : Nat
  packet : Option Packet
  deriving DecidableEq, Repr

/-- What a flit brings: a packet's bytes, which take an entry at the input; nothing but its credit return; a sync flit's absolute
free counts by network and the number of the last flit accepted (R378); a flit of the torus (R380). -/
inductive FlitLoad
  | data
  | credit
  | sync (free : List (VNet × Nat)) (last : BitVec 12)
  | torus (f : TorusFlit)
  deriving DecidableEq, Repr

/-- A flit (R376, R377): its sequence number, its network, the credits it returns, whether its CRC fails, and what it brings. -/
structure Flit where
  seq : BitVec 12
  net : VNet
  credits : Option (VNet × Nat)
  bad : Bool
  load : FlitLoad
  deriving DecidableEq, Repr

/-- One direction of a link (R376-R379): the sender's credits by network, the flits it keeps for replay, its next sequence
number; the flits in transit; the receiver's next expected number and the credits it has not returned; flits since the last
sync flit; failed retrains in a row. -/
structure Link where
  credits : AMap VNet Nat
  retry : List Flit
  nextSeq : BitVec 12
  wire : List Flit
  expect : BitVec 12
  owed : AMap VNet Nat
  sinceSync : Nat
  retrains : Nat
  down : Bool
  deriving DecidableEq, Repr

/-- A package's torus router and port (R380, R382): the flits that arrived this cycle, the flits to inject, the ejection
buffer; and the sequence numbers given by destination and network, and delivered by source and network. -/
structure TorusNode where
  arrived : List TorusFlit
  inject : List TorusFlit
  eject : List TorusFlit
  given : AMap (Nat × VNet) Nat
  taken : AMap (Nat × VNet) Nat
  deriving DecidableEq, Repr

/-- A guaranteed connection of a die (R374, R375). -/
structure Conn where
  vf : Nat
  die : Nat
  src : Nat
  dst : Nat
  net : VNet
  slots : List Nat
  /-- the slots of the shadow tables, not in force yet; none of them when it is being released -/
  shadow : Option (List Nat)
  /-- the stream graph that it serves (R383) -/
  graph : Option Nat
  deriving DecidableEq, Repr

/-- A message of a stream graph, with its fault if it met one: code, kind, site, offset (R384, R387). -/
structure StreamMsg where
  seq : W32
  sub : Nat
  /-- the next sub-index is the last of its sequence number -/
  last : Bool
  gap : Bool
  data : List Byte
  fault : Option (Nat × Nat × Nat × Nat)
  deriving DecidableEq, Repr

/-- An operator context of a stream graph (R383, R385): kind, site, parameter words, the vocabulary of a TOKENISE, held here and not in
the die scratchpad, where R385 gives its trie no place and no format (DESIGN CHOICE, log entry 18), where
its outputs go (node * 16 + input; the sink is the node after the last), its inputs, and the sub-index it gives next to
outputs of its last sequence number (R384). -/
structure StreamNode where
  kind : Nat
  site : Nat
  params : List Nat
  vocab : List (List Byte)
  outs : List Nat
  inputs : List (List StreamMsg)
  lastSeq : Option W32
  subs : Nat
  deriving DecidableEq, Repr

/-- A stream graph (R383-R388). -/
structure StreamGraph where
  vf : Nat
  pkg : Nat
  num : Nat
  /-- the source: its site, and the number of the ingress traffic that is selected there -/
  site : Nat
  select : Nat
  nextSeq : W32
  nodes : List StreamNode
  /-- the sink: channel, launch, virtual core; ring base and slots -/
  chan : Nat
  launch : Nat
  vc : Nat
  ring : W64
  ringSlots : Nat
  sinkIn : List StreamMsg
  /-- messages that a stalled torus source leaves in its ejection buffer (R386) -/
  waiting : List (List Byte)
  /-- the next place to commit -/
  commitSeq : W32
  commitSub : Nat
  deriving DecidableEq, Repr

/-- A datagram to the host: its TAG, its bytes, and whether it waits for an acknowledgement (R391, R394). -/
structure HostMsg where
  vf : Nat
  bytes : List Byte
  sent : Nat
  deriving DecidableEq, Repr

/-- A priority flow control pause frame that an Ethernet port sends (R386): package, site, priority. -/
structure PauseFrame where
  pkg : Nat
  site : Nat
  prio : Nat
  deriving DecidableEq, Repr

/-- Which agent moves in a step: an event of another agent or of the outside world, the turn of a strand, or a move of the model's
own between the steps that the spec names (DESIGN CHOICE, log entry 1). -/
inductive Pick
  | event (i : Instr)
  | strand (id : Sid)
  | move (k : Nat)
  deriving DecidableEq, Repr

/-- The state of the machine. -/
structure State where
  /-- the context whose turn it is, and the others in the order of their turns (the model's own order, DESIGN CHOICE, log entry 1) -/
  me : Strand
  rest : List Strand
  /-- what moves next when something other than the default order is meant, and the inputs from outside (the model's
  own, DESIGN CHOICE, log entry 2) -/
  sched : List Pick
  /-- the counter at which free values are taken (the model's own, DESIGN CHOICE, log entry 3) -/
  tick : Nat
  queues : AMap (Nat × Seat) SlotQueues
  cores : AMap Nat Core
  locks : AMap Nat LockStep
  mem : List Host.Cell
  /-- poisoned sectors (R362) -/
  poison : List Nat
  /-- those of them that an error in the L2 marked (R354) -/
  l2Poison : List Nat
  races : AMap Nat RaceRec
  /-- write timestamp and read lease end of a line, in scratchpad of a run of 64 bytes of a bank (R255) -/
  stamps : AMap Nat (Nat × Nat)
  codeLog : List Old
  tlb : List TlbEntry
  shadows : List Shadow
  ops : AMap Nat EngOp
  streamers : AMap Nat Streamer
  /-- the next reference of an engine operation, a request or a launch -/
  next : Nat
  asked : List Asked
  parked : List Parked
  net : List Packet
  launches : AMap Nat Launch
  images : AMap Nat Image
  graphs : AMap Nat Graph
  groups : List Group
  exports : List Export
  connectors : List (Nat × Connector)
  /-- the number of the connector that a pillow evaluated last (R307) -/
  pillowTurn : AMap Nat Nat
  /-- contexts and core states of evicted virtual cores: launch, virtual core (R289) -/
  savedCores : AMap (Nat × Nat) Core
  savedMem : AMap (Nat × Nat) SavedMem
  vfs : AMap Nat VFun
  pkgs : AMap Nat Package
  links : AMap Nat Link
  torus : AMap Nat TorusNode
  conns : List Conn
  streams : AMap Nat StreamGraph
  /-- pause frames sent (R386) -/
  pauses : List PauseFrame
  /-- replies and events sent to the host, newest last (R391, R394) -/
  toHost : List HostMsg
  /-- events not yet acknowledged (R394) -/
  unacked : List HostMsg
  nextTag : W32
  deriving DecidableEq, Repr

/-- Where the machine stops. A trap of the C9 is a next state, not one of these. -/
inductive Fault
  /-- raised by `step` when every package has shut down (R399) and nothing from outside moves; safe: it stops. -/
  | shutDown
  deriving DecidableEq, Repr

/-- A refusal of the model. -/
inductive Refusal
  /-- raised by `exec` for an instruction that has no meaning yet; safe. -/
  | notModelled (mnemonic : String)
  deriving DecidableEq, Repr

/-- The matrix context at a strand's start (R166). -/
def MatrixCtx.reset : MatrixCtx :=
  { tile := none, latched := List.replicate 16 0, staged := List.replicate 16 0, stagedPoison := false, intStream := false }

/-- A context with every register at its value at a strand's start (R8, R25, R27), named and placed. The thread ID in
x10 and the launch's SQCAP and RACECFG are set where the strand is placed (R283). -/
def Strand.fresh (id : Sid) (p : Place) : Strand :=
  { id := id, place := p, res := .resident, live := false,
    x := (Vector.replicate 32 0).set 2 0xF000_0000_0000_4000,
    v := Vector.replicate 32 0,
    m := (Vector.replicate 8 0).set 0 0xFFFF,
    zc := Vector.replicate 8 0, zp := Vector.replicate 8 0, zw := Vector.replicate 8 false,
    pc := 0, level := .s, fcr := 0, fstat := 0, sqcap := 16, ecause := 0, epc := 0, eaddr := 0, einfo := 0,
    tvec := Config.runtimeTvec, grp := 0xFFFF, racecfg := 0, unack := 0,
    chwm := Vector.replicate 64 0, tcnt := Vector.replicate 64 0, tdone := [], gens := Vector.replicate 32 0,
    amops := [], mctx := .reset, allocs := [], groups := [], ports := [], stolen := [], current := none, act := none,
    triggered := false, ivals := Vector.replicate 5 0, pts := 0, helperTraps := [], wait := none, pend := [],
    entering := false, entryDue := false, wlog := [], synced := 0, hheld := false, causeDue := none, released := false, was := none }

/-- The queue registers when a slot is filled (R8). -/
def SlotQueues.empty : SlotQueues := { q := Vector.replicate 8 [], holds := [] }

/-- A handler-table entry at launch start (R14). -/
def HEntry.reset (c : Nat) : HEntry := { pc := 0, prio := 0, enable := false, accept := c < 2 }

/-- A core after boot (R389): its accumulators clear, its queues empty, no array row disabled (DESIGN CHOICE, log entry 5). -/
def Core.reset : Core :=
  { htab := Vector.ofFn (fun c => HEntry.reset c.val), rq := [], inj := [], sys := [],
    kick := Vector.replicate 8 none, waitList := [], banks := Vector.replicate 128 .free, cells := [], cellPoison := [],
    mq0 := [], mq1 := [], half0 := 0, half1 := 0, slotw := 0xE4E4_E4E4, slotwNew := none, pressure := false,
    told := [], chHolds := [], remap := 0x003F, quarantined := false, istore := none, fwd := [], arrivals := [], shifting := false }

/-- A virtual function of a package after boot (R239, R247, R253): no apertures; the values with no reset in the spec are
those of DESIGN CHOICE, log entry 7; the pager strand, the imports and the source it is bound to, which the management firmware names, are free
values (DESIGN CHOICE, log entry 66). -/
def VFun.reset (pkg vf : Nat) : VFun :=
  { l1 := 0, apers := List.replicate 15 0, l2mask := 0xFFFF, dramWeight := 1, slotShare := 0, pillowShare := 64,
    pager := Config.pagerOf pkg vf, resetting := false, tags := [], bound := Config.boundOf pkg vf, imports := Config.importsOf pkg vf }

/-- A package after boot: grade A, no quarantine (DESIGN CHOICE, log entry 5), its launch queues empty, its first serial 1 (R276). -/
def Package.reset : Package :=
  { gradeB := false, running := true, nextSerial := 1, queues := [], lastVf := none, lastQ := [], quar := [], quarList := [],
    corrected := [], linksDown := [], linkMchk := [], bootCount := 1, firmware := [], staged := none,
    recovery := false, clock := 2500, nextFrame := 0x1000, bootTick := 0, attests := 0, rebased := 0 }

/-- The context that holds the turn while there is none: it is not live and in no slot, so it never issues. -/
def Strand.nobody : Strand :=
  { Strand.fresh { launch := 0, seat := .placed 0, unit := .compute } { pkg := 0, core := 0, slot := 0, vc := 0 } with
    res := .ended }

/-- The machine right after reset: the boot of R389 has run, no command has come yet, and no launch exists. -/
def State.reset : State :=
  { me := .nobody, rest := [], sched := [], tick := 0, queues := [], cores := [], locks := [], mem := [], poison := [], l2Poison := [], races := [],
    stamps := [], codeLog := [], tlb := [], shadows := [], ops := [], streamers := [], next := 1, asked := [], parked := [], net := [],
    launches := [], images := [], graphs := [], groups := [], exports := [], connectors := [], pillowTurn := [], savedCores := [], savedMem := [],
    vfs := [], pkgs := [(Config.packageId, .reset)], links := [], torus := [], conns := [], streams := [], pauses := [],
    toHost := [], unacked := [], nextTag := 1 }

end Sys2Proof.Machine
end

