-- ==== Sys2Proof/Machine/Assoc.lean ====
section
/-! DEFINITION. Tables keyed by plain data, and memory as a sorted list of the bytes that are not zero. -/

namespace Sys2Proof.Machine

/-- The value a table gives a key. -/
def AMap.get {κ ν : Type} [DecidableEq κ] : AMap κ ν → κ → Option ν
  | [], _ => none
  | (a, b) :: m, k => if a = k then some b else AMap.get m k

/-- The table with the value of a key replaced, or listed at the end. -/
def AMap.put {κ ν : Type} [DecidableEq κ] : AMap κ ν → κ → ν → AMap κ ν
  | [], k, v => [(k, v)]
  | (a, b) :: m, k, v => if a = k then (a, v) :: m else (a, b) :: AMap.put m k v

/-- The table without a key. -/
def AMap.drop {κ ν : Type} [DecidableEq κ] (m : AMap κ ν) (k : κ) : AMap κ ν := m.filter (fun e => !decide (e.1 = k))

/-- The byte at a key: what no entry lists reads as zero (R389 step 4). -/
def Memory.get : List Host.Cell → Nat → Byte
  | [], _ => 0
  | (a, b) :: m, k => if k = a then b else if k < a then 0 else Memory.get m k

/-- Memory with one byte written. Writing zero removes the entry, so that equal memories are equal lists. -/
def Memory.put : List Host.Cell → Nat → Byte → List Host.Cell
  | [], k, v => if v = 0 then [] else [(k, v)]
  | (a, b) :: m, k, v =>
    if k < a then (if v = 0 then (a, b) :: m else (k, v) :: (a, b) :: m)
    else if k = a then (if v = 0 then m else (k, v) :: m)
    else (a, b) :: Memory.put m k v

/-- The canonical form above a bound: keys rise strictly and no byte listed is zero. -/
def Memory.wfFrom : Nat → List Host.Cell → Bool
  | _, [] => true
  | lo, (a, b) :: m => decide (lo ≤ a) && b != 0 && Memory.wfFrom (a + 1) m

/-- The canonical form of memory. -/
def Memory.wf (m : List Host.Cell) : Bool := Memory.wfFrom 0 m

/-- Bytes at rising keys. -/
def Memory.getN (m : List Host.Cell) (k : Nat) : Nat → List Byte
  | 0 => []
  | n + 1 => Memory.get m k :: Memory.getN m (k + 1) n

/-- Bytes written at rising keys. -/
def Memory.putN (m : List Host.Cell) (k : Nat) : List Byte → List Host.Cell
  | [] => m
  | b :: bs => Memory.putN (Memory.put m k b) (k + 1) bs

/-- The little-endian value of bytes (R29). -/
def leNat : List Byte → Nat
  | [] => 0
  | b :: bs => b.toNat + 256 * leNat bs

/-- The `n` low bytes of a value, lowest first (R29). -/
def leBytes : Nat → Nat → List Byte
  | 0, _ => []
  | n + 1, v => BitVec.ofNat 8 v :: leBytes n (v / 256)

/-- The element at an index, or a default. -/
def nth {α : Type} (l : List α) (i : Nat) (d : α) : α := (l[i]?).getD d

/-- The list with the element at an index changed. -/
def modNth {α : Type} (l : List α) (i : Nat) (f : α → α) : List α :=
  match l, i with
  | [], _ => []
  | a :: r, 0 => f a :: r
  | a :: r, n + 1 => a :: modNth r n f

/-- The list without the element at an index. -/
def dropNth {α : Type} (l : List α) (i : Nat) : List α :=
  match l, i with
  | [], _ => []
  | _ :: r, 0 => r
  | a :: r, n + 1 => a :: dropNth r n

/-- The least value of a list, 0 for none. -/
def leastOf : List Nat → Nat
  | [] => 0
  | a :: r => r.foldl Nat.min a

end Sys2Proof.Machine
end

