-- ==== Sys2Proof/Machine/Ops.lean ====
section
/-! DEFINITION. The named operations over registers and the tables of the state; the form of a meaning; blocking;
taking an exception (R94, R97) and returning from one (R96). -/

namespace Sys2Proof.Machine

/-- A trap about to be taken: cause, address and detail (R94), and the sector whose race record it clears (R271). -/
structure Trap where
  code : Nat
  eaddr : W64
  einfo : W64
  clear : Option Nat
  deriving DecidableEq, Repr

/-- Why an instruction does not retire in this step: it traps, or it waits (R5). -/
inductive Stop
  | trap (t : Trap)
  | block (w : Wait)
  deriving DecidableEq, Repr

/-- The computations the longer meanings are written in. -/
abbrev M := EStateM Stop State

/-- The outcome of a step. -/
abbrev Out := Host.Outcome State Fault Refusal

/-- Bits `hi` to `lo` of a value (R5). -/
def bits (w : Nat) (hi lo : Nat) : Nat := (w >>> lo) % 2 ^ (hi + 1 - lo)

/-- Bits `hi` to `lo` of a word (R5). -/
def wbits (w : W64) (hi lo : Nat) : Nat := bits w.toNat hi lo

/-! ## Causes (R353) -/

namespace Cause
def illop : Nat := 1
def badtgt : Nat := 2
def align : Nat := 3
def space : Nat := 4
def foreign : Nat := 5
def page : Nat := 6
def perm : Nat := 7
def raperm : Nat := 8
def amofmt : Nat := 9
def bankc : Nat := 10
def accheld : Nat := 11
def tileheld : Nat := 12
def gone : Nat := 13
def cause : Nat := 14
def sqfull : Nat := 15
def portbad : Nat := 16
def fpe : Nat := 17
def race : Nat := 18
def launchbig : Nat := 19
def mchk : Nat := 20
def trap : Nat := 21
def bkpt : Nat := 22
end Cause

/-- A trap by its parts. -/
def Trap.of (code : Nat) (eaddr einfo : W64) : Trap := { code, eaddr, einfo, clear := none }

/-- An operand ILLOP (R108): the register field and the value. -/
def Trap.operand (field : Reg) (v : W64) : Trap :=
  .of Cause.illop 0 (0x4000_0000_0000_0000 ||| (field.setWidth 64 <<< 32) ||| (v.setWidth 32).setWidth 64)

/-- A context ILLOP (R179). -/
def Trap.context : Trap := .of Cause.illop 0 0x4000_0000_0000_0000

/-- A pool-kind ILLOP (R22). -/
def Trap.pool (idx : Nat) : Trap := .of Cause.illop 0 (BitVec.ofNat 64 idx)

/-- A shape ILLOP (R160). -/
def Trap.shape (reason idx : Nat) : Trap :=
  .of Cause.illop 0 (BitVec.ofNat 64 (0x2000_0000_0000_0000 + reason * 0x100_0000_0000 + idx))

/-- The EINFO of an ILLOP raised by decoding: word position and word 0 (R78). -/
def decodeInfo (pos : Nat) (w0 : W32) : W64 := BitVec.ofNat 64 (2 ^ 63 + pos * 2 ^ 32) ||| w0.setWidth 64

/-- An ILLOP raised by decoding (R78). -/
def Trap.decode (pc : W64) (pos : Nat) (w0 : W32) : Trap :=
  .of Cause.illop (pc + BitVec.ofNat 64 (4 * pos)) (decodeInfo pos w0)

/-! ## Registers of a context -/

/-- The privilege level's rank; a right granted to a level holds for every higher one (R25). -/
def Level.rank : Level → Nat
  | .s => 0 | .k => 1 | .h => 2

/-- The compute strand of a context's slot. -/
def Sid.comp (i : Sid) : Sid := { i with unit := .compute }

/-- A handler context (R188). -/
def Sid.isHandler (i : Sid) : Bool :=
  match i.seat with
  | .handler _ _ => true
  | .placed _ => false

/-- The thread ID, all ones for a handler (R189). -/
def Sid.tid (i : Sid) : Nat :=
  match i.seat with
  | .placed t => t
  | .handler _ _ => 0xFF_FFFF

/-- The number of the core of a place. -/
def Place.gcore (p : Place) : Nat := p.pkg * 2048 + p.core

/-- The logical row and column of a package core within its die (R21). -/
def gridOf (core : Nat) : Nat × Nat :=
  let c := core / 16 % 16
  let k := core % 16
  (c / 4 * 4 + k / 4, c % 4 * 4 + k % 4)

/-- The number of the die of a place. -/
def Place.gdie (p : Place) : Nat := p.pkg * 8 + p.core / 256

namespace Strand

/-- The value of `x[r]`; x0 reads as zero (R9). -/
def getX (c : Strand) (r : Reg) : W64 := if r = 0 then 0 else c.x.get r.toFin

/-- `x[r]` written; x0 discards (R9). -/
def setX (c : Strand) (r : Reg) (v : W64) : Strand := if r = 0 then c else { c with x := c.x.set r.toNat v r.isLt }

/-- The value of `v[r]`. -/
def getV (c : Strand) (r : Reg) : V128 := c.v.get r.toFin

/-- `v[r]` written. -/
def setV (c : Strand) (r : Reg) (v : V128) : Strand := { c with v := c.v.set r.toNat v r.isLt }

/-- The value of `m[r]`; m0 reads as all ones (R9). -/
def getM (c : Strand) (r : Reg3) : BitVec 16 := if r = 0 then 0xFFFF else c.m.get r.toFin

/-- The requests of the instruction at the pc. -/
def pendOf (c : Strand) : Option Pend := c.pend.find? (fun p => decide (p.pc = c.pc))

/-- The requests of the instruction at the pc forgotten, and those of its fetch, which have bit 63 set in their place of an
address. -/
def dropPend (c : Strand) : Strand := { c with pend := c.pend.filter (fun p => !decide (p.pc = c.pc) && !p.pc.msb) }

/-- The requests of the instruction at the pc replaced. -/
def putPend (c : Strand) (p : Pend) : Strand := { c with pend := c.pend.filter (fun q => !decide (q.pc = c.pc)) ++ [p] }

/-- `m[r]` written; m0 discards (R9). -/
def setM (c : Strand) (r : Reg3) (v : BitVec 16) : Strand := if r = 0 then c else { c with m := c.m.set r.toNat v r.isLt }

end Strand

/-! ## The tables of the state -/

/-- A launch with nothing in it, for a reference that names none. -/
def Launch.none : Launch :=
  { words := Vector.replicate 8 0, serial := 0, vf := 0, pkgs := [], home := 0, die := 0, queue := 0, state := .done, bind := [], chosen := [],
    pool := [], image := [], kinds := [], poolBase := 0, text := [], helper := .none, granules := [], started := [], ended := [],
    triggered := [], evicted := [], stopping := [], routines := [], firstFault := .none, ran := false, reported := true,
    graph := .none }

namespace Launch

/-- A field of the launch record (R274). -/
def field (l : Launch) (w hi lo : Nat) : Nat := wbits (l.words.toList.getD w 0) hi lo
def threads (l : Launch) : Nat := l.field 1 24 0
def grid (l : Launch) : Nat := l.field 1 39 32
def cyclic (l : Launch) : Bool := l.field 1 40 40 == 1
def handlers (l : Launch) : Nat := l.field 1 42 41
def sqcap (l : Launch) : Nat := l.field 1 47 43
def priority (l : Launch) : Nat := l.field 1 50 48
def lockstep (l : Launch) : Bool := l.field 1 51 51 == 1
def race (l : Launch) : Bool := l.field 1 52 52 == 1
def accum (l : Launch) : Nat := l.field 2 39 32
def local_ (l : Launch) : Nat := l.field 2 18 0
def slotw (l : Launch) : W32 := BitVec.ofNat 32 (l.field 3 31 0)

/-- RACECFG at strand start (R25, R274). -/
def racecfg (l : Launch) : W64 :=
  BitVec.ofNat 64 (l.field 4 63 6 * 64 + l.field 4 0 0 * 2 + l.field 1 52 52)

/-- Virtual cores of the launch's grid (R281). -/
def vcores (l : Launch) : Nat := 16 * l.grid

/-- The core on which a virtual core runs (R281). -/
def coreOf (l : Launch) (vc : Nat) : Option Nat :=
  if vc < l.vcores then (l.bind[vc / 16]?).map (fun c => c * 16 + vc % 16) else .none

/-- The virtual core that runs on a core, if the launch has one there. -/
def vcOf (l : Launch) (gcore : Nat) : Option Nat :=
  (l.bind.findIdx? (· == gcore / 16)).map (fun v => v * 16 + gcore % 16)

/-- The virtual core of a thread (R281). -/
def vcOfThread (l : Launch) (t : Nat) : Nat :=
  if l.cyclic then t % l.vcores else t / ((l.threads + l.vcores - 1) / l.vcores)

end Launch

namespace State

/-- The record of a core. -/
def core (s : State) (g : Nat) : Core := (AMap.get s.cores g).getD .reset

/-- The state with a core's record changed. -/
def modCore (s : State) (g : Nat) (f : Core → Core) : State := { s with cores := AMap.put s.cores g (f (s.core g)) }

/-- The executing context's core. -/
def myCore (s : State) : Core := s.core s.me.place.gcore

/-- The executing context's core changed. -/
def modMyCore (s : State) (f : Core → Core) : State := s.modCore s.me.place.gcore f

/-- A launch by its reference. -/
def launch (s : State) (u : Nat) : Launch := (AMap.get s.launches u).getD .none

/-- A launch changed. -/
def modLaunch (s : State) (u : Nat) (f : Launch → Launch) : State :=
  { s with launches := AMap.put s.launches u (f (s.launch u)) }

/-- The executing context's launch. -/
def myLaunch (s : State) : Launch := s.launch s.me.id.launch

/-- A virtual function of a package. -/
def vfun (s : State) (pkg vf : Nat) : VFun := (AMap.get s.vfs (pkg * 256 + vf)).getD (.reset pkg vf)

/-- A virtual function changed. -/
def modVfun (s : State) (pkg vf : Nat) (f : VFun → VFun) : State :=
  { s with vfs := AMap.put s.vfs (pkg * 256 + vf) (f (s.vfun pkg vf)) }

/-- A package. -/
def pkg (s : State) (p : Nat) : Package := (AMap.get s.pkgs p).getD .reset

/-- A package runs: it is booted and has not shut down (R389, R399). -/
def alive (s : State) (p : Nat) : Bool := (AMap.get s.pkgs p).any (fun q => q.running && !q.recovery)

/-- A package changed. -/
def modPkg (s : State) (p : Nat) (f : Package → Package) : State := { s with pkgs := AMap.put s.pkgs p (f (s.pkg p)) }

/-- The physical column of a logical place: shifted past the row's quarantined column (R280). -/
def physCol (s : State) (pkg die row col : Nat) : Nat :=
  let q := (AMap.get (s.pkg pkg).quar (die * 16 + row)).getD 17
  if col < q then col else col + 1

/-- Every context. -/
def contexts (s : State) : List Strand := s.me :: s.rest

/-- A context by name. -/
def strand? (s : State) (i : Sid) : Option Strand := s.contexts.find? (fun c => decide (c.id = i))

/-- A context changed. -/
def modStrand (s : State) (i : Sid) (f : Strand → Strand) : State :=
  { s with me := if s.me.id = i then f s.me else s.me,
           rest := s.rest.map (fun c => if c.id = i then f c else c) }

/-- The same state with another context in the place of the executing one, and that one in the other's place. -/
def focus (s : State) (i : Sid) : State :=
  match s.rest.find? (fun c => decide (c.id = i)) with
  | some c => { s with me := c, rest := s.rest.map (fun x => if x.id = i then s.me else x) }
  | none => s

/-- Every context changed. -/
def modAll (s : State) (f : Strand → Strand) : State := { s with me := f s.me, rest := s.rest.map f }

/-- A change made as another context. -/
def asStrand (s : State) (i : Sid) (f : State → State) : State := (f (s.focus i)).focus s.me.id

/-- The executing context changed. -/
def modMe (s : State) (f : Strand → Strand) : State := { s with me := f s.me }

/-- The compute strand, or handler context, of the executing context's slot. -/
def myComp (s : State) : Strand := if s.me.id.unit = .compute then s.me else (s.strand? s.me.id.comp).getD s.me

/-- `x[r]` of the executing context. -/
def x (s : State) (r : Reg) : W64 := s.me.getX r

/-- `x[r]` of the executing context written. -/
def setX (s : State) (r : Reg) (v : W64) : State := s.modMe (·.setX r v)

/-- `v[r]` of the executing context. -/
def v (s : State) (r : Reg) : V128 := s.me.getV r

/-- `v[r]` of the executing context written. -/
def setV (s : State) (r : Reg) (w : V128) : State := s.modMe (·.setV r w)

/-- `m[r]` of the executing context written. -/
def setM (s : State) (r : Reg3) (w : BitVec 16) : State := s.modMe (·.setM r w)

/-- The executing context at an instruction address. -/
def setPc (s : State) (p : W64) : State := s.modMe (fun c => { c with pc := p })

/-- The instruction retires: the context is past its `n` bytes, waits for nothing and keeps no answer. -/
def retire (s : State) (n : Nat) : State :=
  s.modMe (fun c => { c.dropPend with pc := c.pc + BitVec.ofNat 64 n, wait := none })

/-- The instruction retires at a target (R90). -/
def retireTo (s : State) (t : W64) : State := s.modMe (fun c => { c.dropPend with pc := t, wait := none })

/-- The queue registers of a slot. -/
def slotq (s : State) (launch : Nat) (seat : Seat) : SlotQueues := (AMap.get s.queues (launch, seat)).getD .empty

/-- The queue registers of a slot changed. -/
def modSlotq (s : State) (launch : Nat) (seat : Seat) (f : SlotQueues → SlotQueues) : State :=
  { s with queues := AMap.put s.queues (launch, seat) (f (s.slotq launch seat)) }

/-- The package in which a source or destination of packets lies: a core, or one of the C9's units (DESIGN CHOICE, log entry 14). -/
def nodePkg (s : State) (n : Nat) : Nat :=
  if n < 2 ^ 38 then n / 2048
  else if n < 2 ^ 40 then (n - 2 ^ 38) / 128
  else if n < 2 ^ 41 then n - 2 ^ 40
  else if n < 2 ^ 42 then (n - 2 ^ 41) / 2048
  else if n < 2 ^ 43 then (n - 2 ^ 42) / 256
  else if n < 2 ^ 45 then (n - 2 ^ 43) / 256
  else if n < 2 ^ 46 then ((s.launch ((n - 2 ^ 45) / 128)).bind.getD ((n - 2 ^ 45) % 128) 0) / 128
  else if n < 2 ^ 47 then
    ((s.strand? { launch := (n - 2 ^ 46) / 2 ^ 24, seat := .placed ((n - 2 ^ 46) % 2 ^ 24), unit := .compute }).map (·.place.pkg)).getD 0
  else if n < 2 ^ 48 then (n - 2 ^ 47) / 2 ^ 12
  else 2 ^ 22

/-- A package's torus router. -/
def torusNode (s : State) (p : Nat) : TorusNode :=
  (AMap.get s.torus p).getD { arrived := [], inject := [], eject := [], given := [], taken := [] }

/-- A package's torus router changed. -/
def modTorus (s : State) (p : Nat) (f : TorusNode → TorusNode) : State := { s with torus := AMap.put s.torus p (f (s.torusNode p)) }

/-- A packet leaves: the newest of those in flight (R371). -/
def sendPacket (s : State) (p : Packet) : State := { s with net := s.net ++ [p] }

/-- A packet sent (R371). -/
def send (s : State) (vn : VNet) (src dst : Nat) (b : Body) : State :=
  s.sendPacket { vn, src, dst, body := b, after := none, sent := s.tick }

/-- A packet that follows every atomic its context has issued (R205, R266). -/
def sendAfter (s : State) (vn : VNet) (src dst : Nat) (i : Sid) (b : Body) : State :=
  s.sendPacket { vn, src, dst, body := b, after := some (i, s.next), sent := s.tick }

/-- Every packet in flight, in a package or on the torus. -/
def flying (s : State) : List Packet :=
  s.net ++ s.torus.flatMap (fun t => (t.2.arrived ++ t.2.inject ++ t.2.eject).filterMap (·.packet)) ++
    s.links.flatMap (fun l => l.2.wire.filterMap (fun f => match f.load with
      | .torus x => x.packet
      | _ => none))

/-- A packet the executing context's core sends. -/
def sendFromMe (s : State) (vn : VNet) (dst : Nat) (b : Body) : State := s.send vn s.me.place.gcore dst b

/-- CYCLE of a package: the cycles its steps have taken since its boot (R25, R389; DESIGN CHOICE, log entry 9). -/
def cycle (s : State) (pkg : Nat) : Nat :=
  let b := (s.pkg pkg).bootTick
  (List.range (s.tick - b)).foldl (fun a i => a + Config.stepCycles pkg (b + i)) 0

/-- The group of a launch with an ID, while it exists. -/
def group? (s : State) (launch gid : Nat) : Option Group :=
  s.groups.find? (fun g => g.launch == launch && g.gid == gid)

/-- A group changed. -/
def modGroup (s : State) (launch gid : Nat) (f : Group → Group) : State :=
  { s with groups := s.groups.map (fun g => if g.launch == launch && g.gid == gid then f g else g) }

/-- The flagged group of which a strand is a member: the group and its member entry (R18, R25 GRP). -/
def flaggedOf (s : State) (i : Sid) : Option (Group × Member) :=
  s.groups.findSome? (fun g =>
    if g.launch == i.launch && g.formed && (g.gang || g.reactive || g.strag) then
      (g.members.find? (fun m => m.inside && decide (m.sid = i))).map (fun m => (g, m))
    else none)

end State

/-- A member of a group changed. -/
def Group.modMember (g : Group) (idx : Nat) (f : Member → Member) : Group :=
  { g with members := g.members.map (fun m => if m.idx == idx then f m else m) }

/-- The member with an index. -/
def Group.member? (g : Group) (idx : Nat) : Option Member := g.members.find? (fun m => m.idx == idx)

/-! ## Taking an exception and returning from one -/

/-- ECAUSE of a trap taken at a level, from a source (R93): 0 this strand, 1 its loader, 2 its storer. -/
def ecauseOf (code : Nat) (lv : Level) (src : Nat) : W64 :=
  BitVec.ofNat 64 (code % 256 + (if lv = .k then 256 else 0) + src * 1024)

/-- Trap entry of a compute strand or handler (R94): the saved registers written, level K, and the pc at TVEC.
While a helper's trap is taken, or where one is pending, another waits for the next ERET from here on (R97, R356), and only an
instruction's last request outlasts it (R196, R337). -/
def Strand.enter (c : Strand) (t : Trap) (src : Nat) : Strand :=
  { c with pend := c.pend.filter (·.sent), ecause := ecauseOf t.code c.level src, epc := c.pc, eaddr := t.eaddr, einfo := t.einfo,
           level := .k, pc := c.tvec, entering := true, hheld := src != 0 || c.hheld || !c.helperTraps.isEmpty, wait := none }

/-- The entries of a slot's queues and the stream bytes that an instruction of a context held, given up (R138). -/
def State.unhold (s : State) (i : Sid) : State :=
  let s := if (AMap.get s.queues (i.launch, i.seat)).isSome then
    s.modSlotq i.launch i.seat (fun q => { q with holds := q.holds.filter (fun h => !decide (h.1 = i.unit)) }) else s
  let g := match s.strand? i with
    | some c => c.place.gcore
    | none => 0
  if (s.core g).chHolds.isEmpty then s else
    s.modCore g (fun c => { c with chHolds := c.chHolds.filter (fun h => !decide (h.1 = i)) })

/-- A trap is taken at the executing context (R94). The trapping instruction has had no effect: the caller passes the
state before it. A helper stops at its instruction, and its trap waits for its compute strand (R97). -/
def State.takeTrap (s : State) (t : Trap) : State :=
  let s := match t.clear with
    | some k => { s with races := AMap.drop s.races k }
    | none => s
  let s := s.unhold s.me.id
  if s.me.id.unit = .compute then
    s.modMe (fun c => c.enter t 0)
  else
    let h : HelperTrap := { unit := s.me.id.unit, code := t.code, eaddr := t.eaddr, pc := s.me.pc }
    let s := s.modMe (fun c => { c with live := false, wait := none, pend := [] })
    s.modStrand s.me.id.comp (fun c => { c with helperTraps := c.helperTraps ++ [h] })

/-- The helper trap that a compute strand takes first: the loader's before the storer's (R356). -/
def Strand.nextHelperTrap (c : Strand) : Option HelperTrap :=
  match c.helperTraps.find? (fun h => decide (h.unit = .loader)) with
  | some h => some h
  | none => c.helperTraps.head?

/-- EINFO of a helper trap: the helper's instruction address (R97). -/
def HelperTrap.trap (h : HelperTrap) : Trap := .of h.code h.eaddr (h.pc &&& 0x007F_FFFF_FFFF_FFFF)

/-- The source field of a helper's trap (R93). -/
def HelperTrap.src (h : HelperTrap) : Nat := if h.unit = .loader then 1 else 2

/-- The compute strand takes its next helper trap at the instruction it has not executed (R97). -/
def Strand.takeHelperTrap (c : Strand) : Strand :=
  match c.nextHelperTrap with
  | some h => ({ c with helperTraps := c.helperTraps.erase h }).enter h.trap h.src
  | none => c

/-- The return from a trap (R96): the level ECAUSE.PK names, and the pc at EPC. -/
def State.leaveTrap (s : State) : State :=
  s.modMe (fun c => { c with level := if c.ecause.getLsbD 8 then .k else .s, pc := c.epc, hheld := false,
                             entering := false, wait := none })

/-- The executing context waits (R5): it stays at its instruction, which runs again when its turn comes. -/
def State.block (s : State) (w : Wait) : State := s.modMe (fun c => { c with wait := some w })

namespace M

/-- A meaning's outcome: it retires, it traps and has had no effect (R94), or it waits. -/
def run (m : M Unit) (s : State) : Out :=
  match m s with
  | .ok _ t => .next t
  | .error (.trap t) _ => .next (s.takeTrap t)
  | .error (.block w) t => .next (t.block w)

/-- Traps. -/
def trap {α : Type} (t : Trap) : M α := throw (.trap t)

/-- Waits. -/
def block {α : Type} (w : Wait) : M α := throw (.block w)

/-- Traps when a condition holds. -/
def trapIf (b : Bool) (t : Trap) : M Unit := if b then throw (.trap t) else pure ()

/-- Waits when a condition holds. -/
def blockIf (b : Bool) (w : Wait) : M Unit := if b then throw (.block w) else pure ()

/-- The instruction retires after its `n` bytes. -/
def retire (n : Nat) : M Unit := modify (·.retire n)

/-- A check that gives a value or a trap. -/
def check {α : Type} : Except Trap α → M α
  | .ok a => pure a
  | .error t => throw (.trap t)

end M

/-- A check that may fail with a trap, as a plain value. -/
def orTrap (b : Bool) (t : Trap) : Except Trap Unit := if b then .error t else .ok ()

/-! ## Requests and their answers -/

/-- The requests of the executing instruction so far. -/
def State.myPend (s : State) : Pend :=
  s.me.pendOf.getD { pc := s.me.pc, on := .reply, ref := 0, got := [], waiting := false, sent := false, cancel := false,
                       plan := [] }

/-- What goes on of a context's work when it starts anew, under another name: its engine and matrix work, and its AMOPs that are not
performed yet. -/
def Strand.ghost (c : Strand) (i : Sid) : Strand :=
  { c with id := i, res := .ended, live := false, wait := none, pend := [], unack := 0, allocs := [], was := some c.id }

/-- The value of an answer, or the trap it brings. -/
def M.take : Answer → M (List W64)
  | .ok ws => pure ws
  | .trap c a e => throw (.trap (.of c a e))
  | .cancelled => pure []
  | .place _ _ => pure []

/-- The instruction has sent its last request. -/
def State.asking (s : State) : Bool := s.myPend.sent

/-- The answer to the executing instruction's last request, when it has come. -/
def M.final (w : Wait) : M (List W64) := do
  let p := (← get).myPend
  if p.waiting then throw (.block w) else M.take (p.got.getLast?.getD .cancelled)

/-- An answer among the requests of a context. -/
def Pend.answer (p : Pend) (ref : Nat) (a : Answer) : Pend :=
  if p.ref = ref && p.waiting then
    match a with
    | .cancelled => { p with got := [], waiting := false, cancel := false, sent := false, plan := [] }
    | a => { p with got := p.got ++ [a], waiting := false, cancel := false }
  else p

/-- The answer to the last request of an instruction that waits for `w`. -/
def Strand.wake (c : Strand) (w : Wait) (a : Answer) : Strand :=
  { c with pend := c.pend.map (fun p => if p.sent && decide (p.on = w) then p.answer p.ref a else p) }

/-- The answer to a request reaches its context: it is kept for the instruction that asked (R252, R337). -/
def Strand.answer (c : Strand) (ref : Nat) (a : Answer) : Strand := { c with pend := c.pend.map (·.answer ref a) }

end Sys2Proof.Machine
end

