-- ==== Sys2Proof/Machine/Flags.lean ====
section
/-! DEFINITION. Float arithmetic to the bit: the formats, one rounding, the flags and NaN results (R31, R34-R41), and
the step of the matrix array (R42). A finite value is a sign, a natural number and a power of two; every operation is
computed exactly and rounded once. -/

namespace Sys2Proof.Machine

/-- FCR as an instruction samples it at issue (R34, R44): rounding mode, FZ, DN. -/
structure FCtx where
  rm : Nat
  fz : Bool
  dn : Bool
  deriving DecidableEq, Repr

/-- FCR's fields. -/
def fctxOf (fcr : W64) : FCtx := { rm := wbits fcr 1 0, fz := fcr.getLsbD 2, dn := fcr.getLsbD 3 }

/-- The array's arithmetic ignores FCR (R42): RNE, no flush, canonical NaNs. -/
def FCtx.array : FCtx := { rm := 0, fz := false, dn := true }

/-- The five flags in FSTAT's bit order (R35). -/
abbrev Fl := BitVec 5
def Fl.nv : Fl := 1
def Fl.dz : Fl := 2
def Fl.of : Fl := 4
def Fl.uf : Fl := 8
def Fl.nx : Fl := 16

/-- The exact value of an operand: a NaN (signalling or quiet), an infinity, or `m * 2^e`. -/
inductive FV
  | nan (signalling : Bool)
  | inf (neg : Bool)
  | fin (neg : Bool) (m : Nat) (e : Int)
  deriving DecidableEq, Repr

/-- Fraction bits of a float type (R31). -/
def fracBits (t : Ty) : Nat := if t = .bf16 then 7 else 23

/-- The sign bit of an encoding. -/
def fneg (t : Ty) (w : Nat) : Bool := w / 2 ^ (fracBits t + 8) % 2 == 1
/-- The exponent field. -/
def fexp (t : Ty) (w : Nat) : Nat := w / 2 ^ fracBits t % 256
/-- The fraction field. -/
def ffrac (t : Ty) (w : Nat) : Nat := w % 2 ^ fracBits t

/-- An encoding by its fields. -/
def fpack (t : Ty) (neg : Bool) (e f : Nat) : Nat := (if neg then 2 ^ (fracBits t + 8) else 0) + e * 2 ^ fracBits t + f

/-- The canonical NaN (R31). -/
def canonNan (t : Ty) : Nat := fpack t false 255 (2 ^ (fracBits t - 1))

/-- The infinity of a sign. -/
def finf (t : Ty) (neg : Bool) : Nat := fpack t neg 255 0

/-- The value of an encoding (R31). -/
def unpackF (t : Ty) (w : Nat) : FV :=
  let e := fexp t w
  let f := ffrac t w
  if e = 255 then (if f = 0 then .inf (fneg t w) else .nan (f / 2 ^ (fracBits t - 1) == 0))
  else if e = 0 then .fin (fneg t w) f (-(126 + fracBits t : Int))
  else .fin (fneg t w) (2 ^ fracBits t + f) ((e : Int) - (127 + fracBits t : Int))

/-- A subnormal encoding. -/
def isSub (t : Ty) (w : Nat) : Bool := fexp t w == 0 && ffrac t w != 0

/-- FZ on an input (R40). -/
def flushIn (c : FCtx) (t : Ty) (w : Nat) : Nat := if c.fz && isSub t w then fpack t (fneg t w) 0 0 else w

/-- A value shifted right by `k` places and rounded by a mode: the integer, and whether anything was lost. `sticky`
says that the exact value lies above `m` by less than one (R36). -/
def roundShift (rm : Nat) (neg : Bool) (m : Nat) (sticky : Bool) (k : Int) : Nat × Bool :=
  if k ≤ 0 then (m * 2 ^ (-k).toNat, sticky)
  else
    let k := k.toNat
    let q := m / 2 ^ k
    let r := m % 2 ^ k
    let inexact := r != 0 || sticky
    let up := match rm with
      | 0 => decide (2 ^ k < 2 * r) || (2 * r == 2 ^ k && (sticky || q % 2 == 1))
      | 1 => false
      | 2 => inexact && !neg
      | _ => inexact && neg
    (if up then q + 1 else q, inexact)

/-- The number of significant bits. -/
def bitLen (m : Nat) : Nat := if m = 0 then 0 else Nat.log2 m + 1

/-- An overflowing result by its mode and sign (R36). -/
def overflowF (rm : Nat) (t : Ty) (neg : Bool) : Nat :=
  let away := match rm with
    | 0 => true
    | 1 => false
    | 2 => !neg
    | _ => neg
  if away then finf t neg else fpack t neg 254 (2 ^ fracBits t - 1)

/-- The exact value `(m + sticky) * 2^e`, nonzero, rounded once to a format, with its flags (R36, R37, R40). -/
def roundF (c : FCtx) (t : Ty) (neg : Bool) (m : Nat) (e : Int) (sticky : Bool := false) : Nat × Fl :=
  if m = 0 then (fpack t neg 0 0, 0)
  else
    let p := fracBits t + 1
    let k : Int := (bitLen m : Int) - p
    let (q, nx) := roundShift c.rm neg m sticky k
    let carry := q == 2 ^ p
    let top : Int := e + k + fracBits t + (if carry then 1 else 0)
    if 127 < top then (overflowF c.rm t neg, Fl.of ||| Fl.nx)
    else if top < -126 then
      if c.fz then (fpack t neg 0 0, Fl.uf ||| Fl.nx)
      else
        let (q, nx) := roundShift c.rm neg m sticky (-(126 + fracBits t : Int) - e)
        (fpack t neg 0 q, if nx then Fl.uf ||| Fl.nx else 0)
    else
      (fpack t neg ((top + 127).toNat) (if carry then 0 else q - 2 ^ fracBits t), if nx then Fl.nx else 0)

/-- A NaN encoding made quiet in the format of the result (R39): its fraction widened or narrowed; the canonical NaN where
the narrowed fraction is zero. -/
def quieten (src dst : Ty) (w : Nat) : Nat :=
  let f := ffrac src w
  let f := if fracBits src ≤ fracBits dst then f * 2 ^ (fracBits dst - fracBits src) else f / 2 ^ (fracBits src - fracBits dst)
  let h := 2 ^ (fracBits dst - 1)
  if f = 0 then canonNan dst else fpack dst (fneg src w) 255 (h + f % h)

/-- A NaN encoding. -/
def isNanF (t : Ty) (w : Nat) : Bool := fexp t w == 255 && ffrac t w != 0

/-- A signalling NaN. -/
def isSnan (t : Ty) (w : Nat) : Bool := isNanF t w && ffrac t w / 2 ^ (fracBits t - 1) == 0

/-- The NaN a result delivers: the first NaN operand, made quiet, or the canonical NaN (R39). -/
def nanOf (c : FCtx) (dst : Ty) (ops : List (Ty × Nat)) : Nat :=
  if c.dn then canonNan dst
  else match ops.find? (fun o => isNanF o.1 o.2) with
    | some o => quieten o.1 dst o.2
    | none => canonNan dst

/-- NV of a list of operands: some signalling NaN. -/
def nvOf (ops : List (Ty × Nat)) : Fl := if ops.any (fun o => isSnan o.1 o.2) then Fl.nv else 0

/-- A finite value as an integer times a power of two. -/
def signedM (neg : Bool) (m : Nat) : Int := if neg then -(m : Int) else m

/-- The exact sum of finite terms, rounded once (R36). An exact zero from terms that are all zeros of one sign keeps
that sign; any other exact zero is +0, and −0 under RDN. -/
def sumF (c : FCtx) (t : Ty) (terms : List (Bool × Nat × Int)) : Nat × Fl :=
  let lo := terms.foldl (fun a x => min a x.2.2) ((terms.head?.map (·.2.2)).getD 0)
  let s := terms.foldl (fun a x => a + signedM x.1 (x.2.1 * 2 ^ (x.2.2 - lo).toNat)) (0 : Int)
  if s = 0 then
    let neg := if terms.all (·.1) then true else if terms.all (fun x => !x.1) then false else c.rm == 3
    (fpack t neg 0 0, 0)
  else roundF c t (decide (s < 0)) s.natAbs lo

/-- Addition of two values that are no NaN. -/
def addV (c : FCtx) (t : Ty) (a b : FV) : Nat × Fl :=
  match a, b with
  | .inf x, .inf y => if x = y then (finf t x, 0) else (canonNan t, Fl.nv)
  | .inf x, _ => (finf t x, 0)
  | _, .inf y => (finf t y, 0)
  | .fin x m e, .fin y n f => sumF c t [(x, m, e), (y, n, f)]
  | _, _ => (canonNan t, 0)

/-- A value with its sign changed. -/
def FV.negate : FV → FV
  | .nan s => .nan s
  | .inf n => .inf (!n)
  | .fin n m e => .fin (!n) m e

/-- The exact product of two values that are no NaN; none for infinity times zero. -/
def mulV : FV → FV → Option FV
  | .fin a m e, .fin b n f => some (.fin (a != b) (m * n) (e + f))
  | .inf a, .fin b n _ => if n = 0 then none else some (.inf (a != b))
  | .fin a m _, .inf b => if m = 0 then none else some (.inf (a != b))
  | .inf a, .inf b => some (.inf (a != b))
  | _, _ => none

/-- A result that is a NaN when an operand is one (R39), else what the operation gives. -/
def withNans (c : FCtx) (t : Ty) (ops : List (Ty × Nat)) (extra : Fl) (f : Nat × Fl) : Nat × Fl :=
  if ops.any (fun o => isNanF o.1 o.2) then (nanOf c t ops, nvOf ops ||| extra) else f

/-- FADD (R87). -/
def fAdd (c : FCtx) (t : Ty) (a b : Nat) : Nat × Fl :=
  let a := flushIn c t a
  let b := flushIn c t b
  withNans c t [(t, a), (t, b)] 0 (addV c t (unpackF t a) (unpackF t b))

/-- FSUB (R87). -/
def fSub (c : FCtx) (t : Ty) (a b : Nat) : Nat × Fl :=
  let a := flushIn c t a
  let b := flushIn c t b
  withNans c t [(t, a), (t, b)] 0 (addV c t (unpackF t a) (unpackF t b).negate)

/-- A product rounded once. -/
def roundV (c : FCtx) (t : Ty) : Option FV → Nat × Fl
  | some (.fin n m e) => roundF c t n m e
  | some (.inf n) => (finf t n, 0)
  | _ => (canonNan t, Fl.nv)

/-- FMUL (R87). -/
def fMul (c : FCtx) (t : Ty) (a b : Nat) : Nat × Fl :=
  let a := flushIn c t a
  let b := flushIn c t b
  withNans c t [(t, a), (t, b)] 0 (roundV c t (mulV (unpackF t a) (unpackF t b)))

/-- FMA: a × m + b, exact and rounded once; infinity times zero raises NV whatever b is (R37, R89). -/
def fMa (c : FCtx) (t : Ty) (a m b : Nat) : Nat × Fl :=
  let a := flushIn c t a
  let m := flushIn c t m
  let b := flushIn c t b
  let p := mulV (unpackF t a) (unpackF t m)
  let zi : Fl := if p.isNone && !isNanF t a && !isNanF t m then Fl.nv else 0
  withNans c t [(t, a), (t, b), (t, m)] zi
    (match p with
     | some p => addV c t p (unpackF t b)
     | none => (canonNan t, Fl.nv))

/-- FDIV (R87): the quotient to two bits more than the format and a sticky bit. -/
def fDiv (c : FCtx) (t : Ty) (a b : Nat) : Nat × Fl :=
  let a := flushIn c t a
  let b := flushIn c t b
  withNans c t [(t, a), (t, b)] 0
    (match unpackF t a, unpackF t b with
     | .inf x, .fin y _ _ => (finf t (x != y), 0)
     | .inf _, .inf _ => (canonNan t, Fl.nv)
     | .fin x _ _, .inf y => (fpack t (x != y) 0 0, 0)
     | .fin x m e, .fin y n f =>
       if n = 0 then (if m = 0 then (canonNan t, Fl.nv) else (finf t (x != y), Fl.dz))
       else if m = 0 then (fpack t (x != y) 0 0, 0)
       else
         let k := bitLen n + 27 - bitLen m
         let q := m * 2 ^ k / n
         roundF c t (x != y) (2 * q + (if m * 2 ^ k % n = 0 then 0 else 1)) (e - f - k - 1)
     | _, _ => (canonNan t, 0))

/-- The integer square root, by bits from the top: `fuel` bits are left, `r` holds those found. -/
def isqrt (n : Nat) : Nat → Nat → Nat
  | 0, r => r
  | fuel + 1, r => if (r + 2 ^ fuel) ^ 2 ≤ n then isqrt n fuel (r + 2 ^ fuel) else isqrt n fuel r

/-- FSQRT (R87). -/
def fSqrt (c : FCtx) (t : Ty) (a : Nat) : Nat × Fl :=
  let a := flushIn c t a
  withNans c t [(t, a)] 0
    (match unpackF t a with
     | .inf n => if n then (canonNan t, Fl.nv) else (a, 0)
     | .fin n m e =>
       if m = 0 then (a, 0) else if n then (canonNan t, Fl.nv)
       else
         let (m, e) := if e % 2 = 0 then (m, e) else (2 * m, e - 1)
         let big := m * 2 ^ 56
         let r := isqrt big 42 0
         roundF c t false (2 * r + (if r * r = big then 0 else 1)) ((e - 56) / 2 - 1)
     | .nan _ => (canonNan t, 0))

/-- The order of two values that are no NaN: negative, zero or positive. -/
def cmpV (a b : FV) : Int :=
  match a, b with
  | .inf x, .inf y => (if x then -1 else 1) - (if y then -1 else 1)
  | .inf x, _ => if x then -1 else 1
  | _, .inf y => if y then 1 else -1
  | .fin x m e, .fin y n f =>
    let lo := min e f
    signedM x (m * 2 ^ (e - lo).toNat) - signedM y (n * 2 ^ (f - lo).toNat)
  | _, _ => 0

/-- FMIN and FMAX (R39, R87): the other operand when exactly one is a quiet NaN and none is signalling; −0 below +0. One quiet and one
signalling NaN give the first of them, made quiet (DEDUCED, log entry 75). -/
def fMinMax (c : FCtx) (t : Ty) (max : Bool) (a b : Nat) : Nat × Fl :=
  let a := flushIn c t a
  let b := flushIn c t b
  let an := isNanF t a
  let bn := isNanF t b
  if an || bn then
    if isSnan t a || isSnan t b || (an && bn) then (nanOf c t [(t, a), (t, b)], nvOf [(t, a), (t, b)])
    else (if an then b else a, 0)
  else
    let o := cmpV (unpackF t a) (unpackF t b)
    let le := if o = 0 then fneg t a || !fneg t b else decide (o < 0)
    (if le != max then a else b, 0)

/-- The conditions of FEQ, FLT, FLE and VCMP (R39, R87, R144): the outcome, and NV. -/
def fCmp (c : FCtx) (t : Ty) (cc : CC) (a b : Nat) : Bool × Fl :=
  let a := flushIn c t a
  let b := flushIn c t b
  let ops := [(t, a), (t, b)]
  if isNanF t a || isNanF t b then
    let quietOk := match cc with
      | .eq | .ne | .unord => true
      | _ => false
    (decide (cc = .ne) || decide (cc = .unord), if quietOk then nvOf ops else Fl.nv)
  else
    let o := cmpV (unpackF t a) (unpackF t b)
    (match cc with
     | .eq => decide (o = 0)
     | .ne => decide (o ≠ 0)
     | .lt => decide (o < 0)
     | .le => decide (o ≤ 0)
     | .gt => decide (0 < o)
     | .ge => decide (0 ≤ o)
     | .unord => false, 0)

/-- FCLASS, before any flush (R87). -/
def fClass (t : Ty) (w : Nat) : Nat :=
  let n := fneg t w
  let bit :=
    if isNanF t w then (if isSnan t w then 8 else 9)
    else if fexp t w = 255 then (if n then 0 else 7)
    else if fexp t w = 0 then (if ffrac t w = 0 then (if n then 3 else 4) else (if n then 2 else 5))
    else (if n then 1 else 6)
  2 ^ bit

/-- The bounds of an integer type. -/
def tyLo (t : Ty) : Int := if t.signed then -(2 ^ (t.bits - 1) : Nat) else 0
def tyHi (t : Ty) : Int := if t.signed then (2 ^ (t.bits - 1) : Nat) - 1 else (2 ^ t.bits : Nat) - 1

/-- The `n`-bit two's-complement pattern of an integer. -/
def wrap (n : Nat) (v : Int) : Nat := (v % (2 ^ n : Nat)).toNat

/-- The integer an `n`-bit pattern stands for. -/
def asInt (signed : Bool) (n : Nat) (w : Nat) : Int :=
  let w := w % 2 ^ n
  if signed && decide (2 ^ (n - 1) ≤ w) then (w : Int) - (2 ^ n : Nat) else w

/-- An integer clamped to a type's range, as a pattern. -/
def clampTo (t : Ty) (v : Int) : Nat := wrap t.bits (max (tyLo t) (min (tyHi t) v))

/-- A value rounded to an integer of a type: out of range gives the nearest bound and NV, a NaN gives 0 and NV (R41,
R88). -/
def toInt (c : FCtx) (t : Ty) (v : FV) : Nat × Fl :=
  match v with
  | .nan _ => (0, Fl.nv)
  | .inf n => (wrap t.bits (if n then tyLo t else tyHi t), Fl.nv)
  | .fin n m e =>
    let (q, nx) := roundShift c.rm n m false (-e)
    let i := signedM n q
    if i < tyLo t then (wrap t.bits (tyLo t), Fl.nv)
    else if tyHi t < i then (wrap t.bits (tyHi t), Fl.nv)
    else (wrap t.bits i, if nx then Fl.nx else 0)

/-- FCVT and VCVT between float types, and between a float and an integer type (R41, R88). -/
def fCvt (c : FCtx) (dst src : Ty) (w : Nat) : Nat × Fl :=
  if src.isInt then
    let v := asInt src.signed src.bits w
    roundF c dst (decide (v < 0)) v.natAbs 0
  else
    let w := flushIn c src w
    if dst.isFlt then
      if isNanF src w then (nanOf c dst [(src, w)], nvOf [(src, w)])
      else if dst = src then (w, 0)
      else match unpackF src w with
        | .inf n => (finf dst n, 0)
        | .fin n m e => roundF c dst n m e
        | .nan _ => (canonNan dst, 0)
    else toInt c dst (unpackF src w)

/-- One step of a cell of the matrix array in BF16: round(a × w + s) (R42, R43, R338). -/
def macF (s a w : Nat) : Nat := (fMa .array .f32 (a * 65536) (w * 65536) s).1

/-- One step of a cell in INT8 (R42). -/
def macI (s a w : Nat) : Nat := wrap 32 ((s : Int) + asInt true 8 a * asInt true 8 w)

/-- A float instruction whose raised flags meet an enable of FCR raises FPE (R38). -/
def fpeOf (fcr : W64) (fl : Fl) : Bool := ((fcr >>> 4).setWidth 5 &&& fl) != (0 : Fl)

/-- The FPE trap (R38). -/
def Trap.fpe (fl : Fl) : Trap := .of Cause.fpe 0 (fl.setWidth 64)

/-- Flags set in FSTAT (R35). -/
def Strand.raise (c : Strand) (fl : Fl) : Strand := { c with fstat := c.fstat ||| fl.setWidth 64 }

end Sys2Proof.Machine
end

