-- ==== Sys2Proof/Machine/Memory.lean ====
section
/-! DEFINITION. Where a byte lives, the windows, the page tables, and the named operations on memory: the checks of an
access in the order of R104, loads and stores, the race detector, the leases and the poison marks.

The key of a byte: for the DRAM of package p at physical address A it is `p * 2^56 + A` (R245); for offset o of a core's
local scratchpad `p * 2^56 + 2^48 + core * 2^19 + o` (R21); for offset o of a die scratchpad
`p * 2^56 + 2^49 + die * 2^25 + o`; for a byte of host memory `2^79 + connection * 2^64 + address` (R247). -/

namespace Sys2Proof.Machine

/-- The key of a byte of a package's DRAM. -/
def dramKey (pkg pa : Nat) : Nat := pkg * 2 ^ 56 + pa

/-- The key of a byte of a core's local scratchpad. -/
def spKey (g off : Nat) : Nat := g / 2048 * 2 ^ 56 + 2 ^ 48 + g % 2048 * 2 ^ 19 + off

/-- The key of a byte of a die scratchpad. -/
def dieKey (gd off : Nat) : Nat := gd / 8 * 2 ^ 56 + 2 ^ 49 + gd % 8 * 2 ^ 25 + off

/-- The key of a byte of host memory. -/
def hostKey (conn addr : Nat) : Nat := 2 ^ 79 + conn * 2 ^ 64 + addr

/-- The first physical address that names no DRAM (R245). -/
def dramTop : Nat := 0x60_0000_0000

/-- A key in DRAM. -/
def inDram (k : Nat) : Bool := k < 2 ^ 79 && k % 2 ^ 56 < 2 ^ 48

/-- The core whose local scratchpad holds a key. -/
def keyCore (k : Nat) : Option Nat :=
  if 2 ^ 48 ≤ k % 2 ^ 56 && k % 2 ^ 56 < 2 ^ 49 && k < 2 ^ 79 then
    some (k / 2 ^ 56 * 2048 + (k % 2 ^ 56 - 2 ^ 48) / 2 ^ 19)
  else none

/-- The die whose die scratchpad holds a key. -/
def keyDie (k : Nat) : Option Nat :=
  if 2 ^ 49 ≤ k % 2 ^ 56 && k < 2 ^ 79 then some (k / 2 ^ 56 * 8 + (k % 2 ^ 56 - 2 ^ 49) / 2 ^ 25) else none

/-- UNIT of an MCHK for a key (R354). -/
def keyUnit (k : Nat) : Nat := if inDram k then 1 else if (keyCore k).isSome then 4 else 5

/-- The core's own scratchpad as a target. -/
def Home.ofCore (g : Nat) : Home := { core := some g, die := some (g / 256), pkg := some (g / 2048) }

/-- A die as a target: its scratchpad, or the home slice of a global line (R123). -/
def Home.ofDie (gd : Nat) : Home := { core := none, die := some gd, pkg := some (gd / 8) }

/-- A target outside the package: in `.sys` only (R123). -/
def Home.away : Home := { core := none, die := none, pkg := none }

/-- Does a fence's scope, at a place, contain a target (R123)? -/
def inScope (sc : Scope) (p : Place) (h : Home) : Bool :=
  match sc with
  | .core => decide (h.core = some p.gcore)
  | .clus => h.core.any (fun c => c / 16 == p.gcore / 16)
  | .die => decide (h.die = some p.gdie)
  | .pkg => decide (h.pkg = some p.pkg)
  | .sys => true

/-- The number of the narrowest scope that contains both a place and a target (R269). -/
def scopeOf (p : Place) (h : Home) : Nat :=
  if inScope .core p h then 0 else if inScope .clus p h then 1 else if inScope .die p h then 2
  else if inScope .pkg p h then 3 else 4

/-! ## Shadowed buffers (R133) -/

/-- A key in the logical range of a shadowed buffer. -/
def Shadow.has (h : Shadow) (k : Nat) : Bool := h.base ≤ k && k < h.base + h.len

/-- The half that loads, stores and atomics of the logical range reach. -/
def State.activeKey (s : State) (k : Nat) : Nat :=
  match s.shadows.find? (·.has k) with
  | some h => if h.second then k + h.len else k
  | none => k

/-- The half in which an engine's destination writes land (R127). -/
def State.inactiveKey (s : State) (k : Nat) : Nat :=
  match s.shadows.find? (·.has k) with
  | some h => if h.second then k else k + h.len
  | none => k

/-- The key of a byte's contents with the active half of a shadowed buffer taken as the first. -/
def State.normalKey (s : State) (k : Nat) : Nat :=
  match s.shadows.find? (fun h => decide (h.base + h.len ≤ k) && decide (k < h.base + 2 * h.len)) with
  | some h => if h.second then k - h.len else k
  | none => s.activeKey k

/-- Some byte of a range lies behind the halves, where nothing is addressable. -/
def State.behindShadow (s : State) (k n : Nat) : Bool :=
  s.shadows.any (fun h => decide (k < h.base + 2 * h.len) && decide (h.base + h.len < k + n))

/-- A range crosses the boundary of a logical range (R125). -/
def State.crossesShadow (s : State) (k n : Nat) : Bool :=
  s.shadows.any (fun h => decide (k < h.base + h.len) && decide (h.base < k + n) &&
    !(decide (h.base ≤ k) && decide (k + n ≤ h.base + h.len)))

/-! ## The windows (R19-R21, R327) -/

/-- Where a generic address lands. -/
inductive Spot
  | glob (va : Nat)
  | sp (core off : Nat)
  | die (die off : Nat)
  deriving DecidableEq, Repr

/-- Does the cluster field of a package core ID name no core on HFK-C9B (R21)? -/
def State.noCore (s : State) (pkg core : Nat) : Bool := (s.pkg pkg).gradeB && 14 ≤ core % 256 / 16

/-- The gang rows of R20 and R327, judged by the slot's compute strand. -/
def State.gangSpot (s : State) (a : W64) : Except Trap Spot :=
  let space := Trap.of Cause.space a 0
  let i := wbits a 29 18
  let o := wbits a 17 0
  match s.flaggedOf s.me.id.comp with
  | some (g, me) =>
    if !g.gang || !g.winOpen || me.win != .attached then .error space
    else match g.member? i with
      | none => .error space
      | some m =>
        if g.size ≤ i || m.len ≤ o then .error space
        else if me.seesGone.contains i then .error (Trap.of Cause.gone a (BitVec.ofNat 64 i))
        else .ok (.sp m.core (m.base + o))
  | none => .error space

/-- The window checks of R20, in the order of its table. An engine's local pointer may name any core (R125). -/
def State.spot (s : State) (a : W64) (eng : Bool) : Except Trap Spot :=
  let space := Trap.of Cause.space a 0
  let p := s.me.place
  match wbits a 63 56 with
  | 0x00 => if wbits a 55 55 = 1 then .error space else .ok (.glob (wbits a 54 0))
  | 0xF0 =>
    if wbits a 55 14 ≠ 0 then .error space
    else .ok (.sp p.gcore (0x5_0000 + p.slot * 0x4000 + wbits a 13 0))
  | 0xF1 =>
    let o := wbits a 46 36
    if wbits a 55 47 ≠ 0 ∨ wbits a 35 19 ≠ 0 ∨ s.noCore p.pkg o then .error space
    else if !eng && o ≠ p.core then .error (Trap.of Cause.foreign a (BitVec.ofNat 64 (p.core * 65536 + o)))
    else .ok (.sp (p.pkg * 2048 + o) (wbits a 18 0))
  | 0xF2 =>
    if wbits a 55 25 ≠ 0 ∨ s.noCore p.pkg (wbits a 24 17) then .error space
    else .ok (.sp (p.pkg * 2048 + p.core / 256 * 256 + wbits a 24 17) (0x6_0000 + wbits a 16 0))
  | 0xF3 => if wbits a 55 28 ≠ 0 then .error space else .ok (.die (p.pkg * 8 + wbits a 27 25) (wbits a 24 0))
  | 0xF4 => if wbits a 55 30 ≠ 0 then .error space else s.gangSpot a
  | _ => .error space

/-- The bits of a window's offset field, by its top byte; a range may not leave it (R20). -/
def offsetBits (a : W64) : Nat :=
  match wbits a 63 56 with
  | 0x00 => 55
  | 0xF0 => 14
  | 0xF1 => 19
  | 0xF2 => 17
  | 0xF3 => 25
  | _ => 18

/-- The bytes from an address to the end of its window's reach: the offset field, or the gang member's exported
length. -/
def State.reach (s : State) (a : W64) : Nat :=
  let o := a.toNat % 2 ^ offsetBits a
  if wbits a 63 56 = 0xF4 then
    match s.flaggedOf s.me.id.comp with
    | some (g, _) => ((g.member? (wbits a 29 18)).map (·.len)).getD 0 - o
    | none => 0
  else 2 ^ offsetBits a - o

/-- Does the executing launch hold a scratchpad target (R238)? `none` when its virtual cluster is evicted. -/
def Launch.holds (l : Launch) : Spot → Option Bool
  | .glob _ => some true
  | .sp g _ =>
    match l.vcOf g with
    | some v => if l.evicted.contains (v / 16) then Option.none else Option.some true
    | Option.none => Option.some false
  | .die d o => some (l.granules.contains (d, o / 65536))

/-- Does R238 check a window: cluster, die, and local pointers to other cores? -/
def State.checksHold (s : State) (a : W64) : Spot → Bool
  | .sp g _ => wbits a 63 56 = 0xF2 || (wbits a 63 56 = 0xF1 && g != s.me.place.gcore)
  | .die _ _ => true
  | .glob _ => false

/-! ## The page tables (R239-R246) -/

/-- An 8-byte entry of a table in DRAM. -/
def State.entry (s : State) (pkg pa : Nat) : Nat := leNat (Memory.getN s.mem (dramKey pkg pa) 8)

/-- A table entry with a nonzero reserved bit, or a NEXT the level does not allow (R240, R244). -/
def badTable (level e : Nat) : Bool :=
  bits e 63 52 != 0 || bits e 11 1 != 0 || decide (dramTop ≤ bits e 51 12 * 4096) ||
    (level == 1 && bits e 51 12 % 64 != 0) || level == 3

/-- A leaf that raises the walk ILLOP (R244). -/
def badLeaf (level e : Nat) : Bool :=
  level == 1 || bits e 12 8 != 0 || bits e 19 18 == 3 || (bits e 2 2 == 1 && bits e 1 1 == 0) ||
    (bits e 19 18 == 0 && bits e 27 20 != 0) || (bits e 19 18 == 1 && bits e 24 20 != 0) ||
    (level == 2 && bits e 36 28 != 0)

/-- The index of a virtual address at a level (R239). -/
def levelIndex (level va : Nat) : Nat :=
  match level with
  | 1 => bits va 54 40
  | 2 => bits va 39 25
  | _ => bits va 24 16

/-- The walk from a level downward: `fuel` levels are left. A failure is PAGE or the walk ILLOP (R243, R244). -/
def State.walkFrom (s : State) (pkg va : Nat) : Nat → Nat → List Nat → Except Trap Leaf
  | 0, _, _ => .error (Trap.of Cause.page (BitVec.ofNat 64 va) 3)
  | fuel + 1, table, lines =>
    let level := 3 - fuel
    let pa := table + 8 * levelIndex level va
    let e := s.entry pkg pa
    let lines := lines ++ [dramKey pkg pa / 64]
    let ill := Trap.of Cause.illop (BitVec.ofNat 64 va) (BitVec.ofNat 64 (2 ^ 60 + pa))
    if bits e 0 0 = 0 then .error (Trap.of Cause.page (BitVec.ofNat 64 va) (BitVec.ofNat 64 level))
    else if bits e 3 1 = 0 then
      if badTable level e then .error ill else s.walkFrom pkg va fuel (bits e 51 12 * 4096) lines
    else if badLeaf level e then .error ill
    else .ok { word := e, pa, large := level == 2, lines }

/-- The three-level walk (R239). -/
def State.walk (s : State) (pkg vf va : Nat) : Except Trap Leaf := s.walkFrom pkg va 3 (s.vfun pkg vf).l1 []

/-- The rights an access needs of its leaf (R242). -/
structure Need where
  r : Bool
  w : Bool
  x : Bool
  deriving DecidableEq, Repr

def Need.load : Need := { r := true, w := false, x := false }
def Need.store : Need := { r := false, w := true, x := false }
def Need.both : Need := { r := true, w := true, x := false }
def Need.fetch : Need := { r := false, w := false, x := true }

/-- The PERM detail of a leaf that denies an access, if it does (R243). -/
def Leaf.denies (f : Leaf) (n : Need) (lv : Level) : Option Nat :=
  if n.r && bits f.word 1 1 == 0 then some 1
  else if n.w && bits f.word 2 2 == 0 then some 2
  else if n.x && bits f.word 3 3 == 0 then some 3
  else if lv == .s && bits f.word 4 4 == 0 then some 7
  else none

/-- The physical address a leaf gives, in its aperture's numbering (R241, R248). -/
def Leaf.phys (f : Leaf) (va : Nat) : Nat := bits f.word 63 28 * 65536 + (if f.large then va % 2 ^ 25 else va % 65536)

/-- The aperture index of a leaf (R241). -/
def Leaf.aper (f : Leaf) : Nat := bits f.word 16 13

/-- The walk and the checks of its leaf (R239-R244): a leaf the access may use. -/
def State.translate (s : State) (pkg vf : Nat) (lv : Level) (va : Nat) (n : Need) : Except Trap Leaf :=
  match s.walk pkg vf va with
  | .error t => .error t
  | .ok f =>
    if f.aper = 0 && decide (dramTop ≤ f.phys va) then .error (Trap.of Cause.page (BitVec.ofNat 64 va) 0x800)
    else match f.denies n lv with
      | some c => .error (Trap.of Cause.perm (BitVec.ofNat 64 va) (BitVec.ofNat 64 c))
      | none => .ok f

/-! ## The TLBs (R249-R251) -/

/-- The number of the page that a leaf maps at an address. -/
def Leaf.page (f : Leaf) (va : Nat) : Nat := if f.large then va / 2 ^ 25 else va / 2 ^ 16

/-- An entry of a TLB serves an address: its virtual function and its page (R249). -/
def TlbEntry.serves (e : TlbEntry) (vf va : Nat) : Bool := e.vf == vf && e.page == e.leaf.page va

/-- The translation that the TLBs of a core hold: its own, else its cluster's (R249). -/
def State.tlbLeaf (s : State) (g vf va : Nat) : Option Leaf :=
  match s.tlb.find? (fun e => e.core == some g && e.serves vf va) with
  | some e => some e.leaf
  | none => (s.tlb.find? (fun e => e.core == none && e.clus == g / 16 && e.serves vf va)).map (·.leaf)

/-- The translation of an address at a core, in its own package's tables: from a TLB, or by a walk (R239, R249). -/
def State.walkAt (s : State) (g vf va : Nat) : Except Trap Leaf :=
  match s.tlbLeaf g vf va with
  | some f => .ok f
  | none => s.walk (g / 2048) vf va

/-- A place is made in a list of at most `n` of the entries that `mine` picks: where they fill it, one of those that `first`
prefers leaves, else any (R249). Which one is a free choice (DESIGN CHOICE, log entry 10), for each place that `what` names. -/
def State.makeRoom (s : State) (what n : Nat) (mine first : TlbEntry → Bool) (l : List TlbEntry) : List TlbEntry :=
  let own := l.filter mine
  if own.length < n then l
  else
    let out := if own.any first then own.filter first else own
    match out[Config.freeChoice (24 + what) s.tick % out.length]? with
    | some e => l.erase e
    | none => l

/-- A walk fills the TLB of its core, of 64 entries, and the TLB of its cluster, of 256 sets of 8, which replaces entries with
G = 0 first (R249). How a page finds its set is the model's choice: its number modulo 256 (DESIGN CHOICE, log entry 68). -/
def State.fillTlb (s : State) (g vf va : Nat) (f : Leaf) : State :=
  let e : TlbEntry := { core := some g, clus := g / 16, vf, page := f.page va, leaf := f }
  let l := s.tlb.filter (fun x => !((x.core == some g || (x.core == none && x.clus == g / 16)) && x.serves vf va))
  let what := va * 2 ^ 40 + g * 2
  let l := s.makeRoom what 64 (fun x => x.core == some g) (fun _ => true) l
  let l := s.makeRoom (what + 1) 8 (fun x => x.core == none && x.clus == g / 16 && x.page % 256 == e.page % 256)
    (fun x => bits x.leaf.word 7 7 == 0) l
  { s with tlb := l ++ [e, { e with core := none }] }

/-- The walk and the checks of its leaf (R239-R244), at a core: a leaf the access may use. -/
def State.translateAt (s : State) (g vf : Nat) (lv : Level) (va : Nat) (n : Need) : Except Trap Leaf :=
  match s.walkAt g vf va with
  | .error t => .error t
  | .ok f =>
    if f.aper = 0 && decide (dramTop ≤ f.phys va) then .error (Trap.of Cause.page (BitVec.ofNat 64 va) 0x800)
    else match f.denies n lv with
      | some c => .error (Trap.of Cause.perm (BitVec.ofNat 64 va) (BitVec.ofNat 64 c))
      | none => .ok f

/-- The walker sets A, and D for a store (R242). (DEDUCED, log entry 23) -/
def State.markLeaf (s : State) (pkg : Nat) (f : Leaf) (w : Bool) : State :=
  let k := dramKey pkg f.pa
  let b := Memory.get s.mem k
  { s with mem := Memory.put s.mem k (b ||| 0x20 ||| (if w then 0x40 else 0)) }

/-- A translation used at a core: where no TLB held it, or the first store to its page meets D = 0, the walker sets its marks
and the TLBs take it (R242, R249). -/
def State.useLeaf (s : State) (g vf va : Nat) (f : Leaf) (w : Bool) : State :=
  if (s.tlbLeaf g vf va).isSome && (!w || bits f.word 6 6 == 1) then s
  else (s.markLeaf (g / 2048) f w).fillTlb g vf va { f with word := f.word ||| 0x20 ||| (if w then 0x40 else 0) }

/-- The six chunks of a line number, XORed (R246). -/
def hash8 (pa : Nat) : Nat :=
  let l := bits pa 51 6
  (bits l 7 0).xor ((bits l 15 8).xor ((bits l 23 16).xor ((bits l 31 24).xor ((bits l 39 32).xor (bits l 45 40)))))

/-- The home die of a line (R246). -/
def homeDie (pa leaf : Nat) : Nat := if bits leaf 19 18 = 0 then bits (hash8 pa) 7 5 else bits leaf 27 25

/-- The home slice of a line (R246). -/
def homeSlice (pa leaf : Nat) : Nat := if bits leaf 19 18 = 2 then bits leaf 24 20 else bits (hash8 pa) 4 0

/-- The lease of a line (R256). -/
def leaseOf (leaf : Nat) : Nat := if bits leaf 2 2 = 0 then 4096 else 64

/-! ## One access, checked -/

/-- The fields of an aperture entry (R247). -/
def aperKind (e : BitVec 128) : Nat := bits e.toNat 39 38
def aperState (e : BitVec 128) : Nat := bits e.toNat 49 48
def aperTarget (e : BitVec 128) : Nat := bits e.toNat 21 0
def aperTvf (e : BitVec 128) : Nat := bits e.toNat 25 22
def aperRev (e : BitVec 128) : Nat := bits e.toNat 47 40
def aperFmts (e : BitVec 128) : Nat := bits e.toNat 52 50
def aperOps (e : BitVec 128) : Nat := bits e.toNat 63 53
def aperBase (e : BitVec 128) : Nat := bits e.toNat 127 64

/-- An aperture entry with what a probe found: supported atomics, sizes, revision (R247). -/
def probed (e : BitVec 128) (ops : Nat) (fmts rev : Nat) (ok : Bool) : BitVec 128 :=
  BitVec.ofNat 128 (aperBase e * 2 ^ 64 + ops * 2 ^ 53 + fmts * 2 ^ 50 + (if ok then 1 else 2) * 2 ^ 48 +
    rev * 2 ^ 40 + bits e.toNat 39 0)

/-- The aperture entry for an access, probed at its first use (R122): a host supports ADD and CAS on 8 bytes; a package
of this system supports what this one does. The revisions that they report are free values (DESIGN CHOICE, log entry 67). Any other target
is probed by the event APERTURE_PROBE. (DEDUCED, log entry 25) -/
def M.aperture (pkg vf aper : Nat) (va : W64) : M (BitVec 128) := do
  let s ← get
  let e := nth (s.vfun pkg vf).apers (aper - 1) 0
  let fail := Trap.of Cause.page va (BitVec.ofNat 64 (aper * 4096))
  if aperKind e = 0 || aperState e = 2 then throw (.trap fail)
  else if aperState e = 1 then pure e
  else if aperKind e = 2 then do
    let e := probed e (2 ^ 0 + 2 ^ 10) 2 (Config.hostRevision (aperTarget e) % 256) true
    modify (·.modVfun pkg vf (fun v => { v with apers := modNth v.apers (aper - 1) (fun _ => e) }))
    pure e
  else if (AMap.get s.pkgs (aperTarget e)).isSome then do
    let e := probed e 0x7FF 7 (Config.revision (aperTarget e) % 256) true
    modify (·.modVfun pkg vf (fun v => { v with apers := modNth v.apers (aper - 1) (fun _ => e) }))
    pure e
  else throw (.block .reply)

/-- Step 3 of R104 for a global address: translation and permission. The walker's marks are set. -/
def M.global (lv : Level) (va n : Nat) (need : Need) : M Target := do
  let s ← get
  let g := s.me.place.gcore
  let vf := s.myLaunch.vf
  let f ← M.check (s.translateAt g vf lv va need)
  set (s.useLeaf g vf va f need.w)
  if f.aper = 0 then
    let pa := f.phys va
    pure (.mem { va := BitVec.ofNat 64 va, key := dramKey s.me.place.pkg pa, n,
                 home := .ofDie (s.me.place.pkg * 8 + homeDie pa f.word), chk := true, lease := leaseOf f.word, lines := f.lines })
  else do
    let e ← M.aperture s.me.place.pkg vf f.aper (BitVec.ofNat 64 va)
    pure (.far { va := BitVec.ofNat 64 va, t := BitVec.ofNat 64 (aperBase e + f.phys va), n, aper := f.aper, entry := e,
                 rap := bits f.word 17 17 == 1, at_ := none, lines := f.lines })

/-- A scratchpad access that may be performed. -/
def spotAcc (a : W64) (n : Nat) : Spot → Acc
  | .sp g o => { va := a, key := spKey g o, n, home := .ofCore g, chk := true, lease := 0, lines := [] }
  | .die d o => { va := a, key := dieKey d o, n, home := .ofDie d, chk := true, lease := 0, lines := [] }
  | .glob v => { va := a, key := v, n, home := .away, chk := false, lease := 0, lines := [] }

/-- The key a scratchpad spot names. -/
def Spot.key : Spot → Nat
  | .sp g o => spKey g o
  | .die d o => dieKey d o
  | .glob _ => 0

/-- Step 3 of R104 for a scratchpad window (R238). -/
def M.held (a : W64) (sp : Spot) : M Unit := do
  let s ← get
  if s.checksHold a sp then
    match s.myLaunch.holds sp with
    | none => throw (.block .restore)
    | some true => pure ()
    | some false => throw (.trap (Trap.of Cause.perm a 5))

/-- An address in a gang window. -/
def gangVa (a : W64) : Bool := wbits a 63 56 == 0xF4

/-- A gang access to another core is split-phase; any other scratchpad access is made at once (R327). -/
def State.near (s : State) (a : W64) (x : Acc) : Target :=
  if gangVa a && keyCore x.key != some s.me.place.gcore then .gang x else .mem x

/-- The checks of one access of `n` bytes, steps 1 to 3 of R104. -/
def M.resolve (a : W64) (n : Nat) (need : Need) : M Target := do
  let s ← get
  let sp ← M.check (s.spot a false)
  match sp with
  | .glob va => do
    M.trapIf (a.toNat % n != 0) (Trap.of Cause.align a (BitVec.ofNat 64 n))
    M.global s.me.level va n need
  | sp => do
    M.trapIf (s.behindShadow sp.key n) (Trap.of Cause.space a 3)
    M.trapIf (a.toNat % n != 0) (Trap.of Cause.align a (BitVec.ofNat 64 n))
    M.held a sp
    pure (s.near a (spotAcc a n sp))

/-! ## The bytes -/

/-- The bytes of an access as memory holds them, in the active half of a shadowed buffer. -/
def State.peek (s : State) (k n : Nat) : List Byte := (List.range n).map (fun i => Memory.get s.mem (s.activeKey (k + i)))

/-- Bytes written at the active half. -/
def State.poke (s : State) (k : Nat) (bs : List Byte) : State :=
  let m := bs.zipIdx.foldl (fun m (b, i) => Memory.put m (s.activeKey (k + i)) b) s.mem
  { s with mem := m }

/-- A line that a range of keys touches. -/
def touchesLine (k n l : Nat) : Bool := decide (k / 64 ≤ l) && decide (l ≤ (k + n - 1) / 64)

/-- A store to a line from which a TLB filled an entry invalidates the entry (R251), and one to the line of a parked walk's
failing entry makes the walk run again (R252). -/
def State.dropTlb (s : State) (k n : Nat) : State :=
  { s with tlb := s.tlb.filter (fun e => !e.leaf.lines.any (touchesLine k n)),
           parked := s.parked.map (fun p => if touchesLine k n p.line then { p with due := true } else p) }

/-- The lines of the walk of an access (R251). -/
def Target.lines : Target → List Nat
  | .mem a => a.lines
  | .gang a => a.lines
  | .far f => f.lines

/-- The lines from which came the translations that an instruction keeps for accesses it has still to make (R251). -/
def Pend.lines (p : Pend) : List Nat :=
  p.plan.flatMap (fun t => t.2.lines) ++ p.got.flatMap (fun a => match a with
    | .place _ ls => ls
    | _ => [])

/-- A load, store or atomic of another instruction than the one of context `own`, and under another reference, is not performed yet
and used a translation from a line of a range (R251). -/
def State.busyBut (s : State) (own : Sid) (ref k n : Nat) : Bool :=
  inDram k && (s.asked.any (fun a => a.ref != ref && a.lines.any (touchesLine k n)) ||
    s.contexts.any (fun c => c.amops.any (fun a => a.away && a.ref != ref && a.lines.any (touchesLine k n)) ||
      (!decide (c.id = own) && c.pend.any (fun p => p.lines.any (touchesLine k n)))))

/-- An access in flight used a translation from a line of a range that the executing context stores to: references start at 1
(R251). -/
def State.lineBusy (s : State) (k n : Nat) : Bool := s.busyBut s.me.id 0 k n

/-- A store that covers a sector clears its poison; a partial one leaves it (R362). -/
def State.cleanse (s : State) (k n : Nat) : State :=
  if s.poison.isEmpty then s else
    let keep (p : Nat) : Bool := !(decide (k ≤ 32 * p) && decide (32 * p + 32 ≤ k + n))
    { s with poison := s.poison.filter keep, l2Poison := s.l2Poison.filter keep }

/-- The sectors of a range. -/
def sectors (k n : Nat) : List Nat := if n = 0 then [] else (List.range ((k + n - 1) / 32 - k / 32 + 1)).map (· + k / 32)

/-- The byte that bytes from a key on give for a key, if they reach it. -/
def Old.byte? (o : Old) (k : Nat) : Option Byte := if o.key ≤ k then o.old[k - o.key]? else none

/-- A range reaches into a sector. -/
def touchesSector (k n x : Nat) : Bool := decide (k < 32 * x + 32) && decide (32 * x < k + n)

/-- The first poisoned sector of a range. -/
def State.poisoned (s : State) (k n : Nat) : Bool := !s.poison.isEmpty && (sectors k n).any s.poison.contains

/-- UNIT of an MCHK for the poison that a range holds (R354). -/
def State.poisonUnit (s : State) (k n : Nat) : Nat :=
  if ((sectors k n).find? s.poison.contains).any s.l2Poison.contains then 2 else keyUnit k

/-- MCHK for consumed poison (R362, R354). -/
def Trap.poison (va : W64) (unit : Nat) : Trap := .of Cause.mchk va (BitVec.ofNat 64 (2 ^ 63 + 16 + unit))

/-! ## The race detector (R269-R272) -/

/-- The detector of the slot's compute strand is on (R269). -/
def State.raceOn (s : State) : Bool := s.myComp.racecfg.getLsbD 0

/-- The sector of an access. -/
def State.sectorOf (s : State) (a : Acc) : Nat := s.activeKey a.key / 32

/-- The record that makes an access a race (R270). -/
def State.raceAt (s : State) (a : Acc) : Option RaceRec :=
  if !a.chk then none
  else match AMap.get s.races (s.sectorOf a) with
    | none => none
    | some r =>
      if r.writer = s.me.id.comp then none
      else match s.strand? r.writer with
        | none => none
        | some w => if nth w.ivals.toList r.scope 0 = r.ival then some r else none

/-- The trap of R271: in mode 0 the lowest-numbered racing element of the accesses. -/
def State.raceTrap (s : State) (as : List Acc) : Option Trap :=
  if s.raceOn && !s.myComp.racecfg.getLsbD 1 then
    (as.findSome? (fun a => (s.raceAt a).map (fun r => (a, r)))).map (fun x =>
      { code := Cause.race, eaddr := x.1.va, einfo := BitVec.ofNat 64 (x.2.scope * 2 ^ 32 + x.2.tid), clear := some (s.sectorOf x.1) })
  else none

/-- Step 7 of R355: a race in mode 0 traps. -/
def M.race (as : List Acc) : M Unit := do
  match (← get).raceTrap as with
  | some t => throw (.trap t)
  | none => pure ()

/-- A performed store writes the record of its sector, or clears it when the detector is off (R269, R270). A write that is not
checked, such as an atomic's, leaves the record while the detector is on. -/
def State.raceStore (s : State) (a : Acc) : State :=
  if s.raceOn then
    if !a.chk then s else
    let c := s.myComp
    let sc := scopeOf s.me.place a.home
    { s with races := AMap.put s.races (s.sectorOf a) { tid := c.id.tid, writer := c.id, ival := nth c.ivals.toList sc 0, scope := sc } }
  else if s.races.isEmpty then s else { s with races := AMap.drop s.races (s.sectorOf a) }

/-- The 64 bytes of a race log record (R272). -/
def raceRecord (va pc : W64) (atid wtid kind scope : Nat) (aiv wiv : W32) (serial : W32) : List Byte :=
  leBytes 8 va.toNat ++ leBytes 8 pc.toNat ++ leBytes 8 (atid * 2 ^ 40 + wtid * 2 ^ 16 + kind * 256 + scope) ++
    leBytes 8 (aiv.toNat * 2 ^ 32 + wiv.toNat) ++ leBytes 8 serial.toNat ++ List.replicate 24 0

/-- The key of a byte of the log ring, a global address (R20), if a store there would not fault, and the state after its translation.
(DEDUCED, log entry 27) -/
def State.ringKey (s : State) (va : Nat) : Option (Nat × State) :=
  if 2 ^ 55 ≤ va then none else
  match s.translateAt s.me.place.gcore s.myLaunch.vf .k va .store with
  | .ok f => if f.aper = 0 then some (dramKey s.me.place.pkg (f.phys va), s.useLeaf s.me.place.gcore s.myLaunch.vf va f true)
             else none
  | .error _ => none

/-- Mode 1: one record appended to the log ring (R272). (DEDUCED, log entry 27) -/
def State.raceLog (s : State) (a : Acc) (r : RaceRec) (kind : Nat) : State :=
  let c := s.myComp
  let base := wbits c.racecfg 63 6 * 64
  match s.ringKey base with
  | none => s
  | some (h, s) =>
    let cnt := leNat (s.peek h 4)
    let lost := leNat (s.peek (h + 4) 4)
    match s.ringKey (base + 64 * (1 + cnt % 1023)) with
    | none => s.poke (h + 4) (leBytes 4 (lost + 1))
    | some (k, s) =>
      (s.poke k (raceRecord a.va s.me.pc c.id.tid r.tid kind r.scope (nth c.ivals.toList r.scope 0) r.ival s.myLaunch.serial)).poke
        h (leBytes 4 (cnt + 1))

/-- The race of an element access in mode 1, judged when the access is performed (R270, R272). -/
def State.raceOf (s : State) (a : Acc) : Option RaceRec :=
  if s.raceOn && s.myComp.racecfg.getLsbD 1 then s.raceAt a else none

/-- The log record of a race, if there was one, after its access (R272). -/
def State.raceLogged (s : State) (a : Acc) (r : Option RaceRec) (kind : Nat) : State :=
  match r with
  | some r => s.raceLog a r kind
  | none => s

/-- The interval counters incremented (R270). -/
def Strand.bump (c : Strand) (upto : Nat) : Strand :=
  { c with ivals := Vector.ofFn (fun i => if i.val ≤ upto then c.ivals.get i + 1 else c.ivals.get i) }

/-- All five interval counters of the executing context's compute strand. -/
def State.bumpAll (s : State) : State := s.modStrand s.me.id.comp (·.bump 4)

/-! ## Timestamps (R255-R257) -/

/-- The timestamps of the line of a key. -/
def State.stampAt (s : State) (k : Nat) : Nat × Nat := (AMap.get s.stamps (k / 64)).getD (0, 0)

/-- A load at the home of a line, or at its bank in scratchpad, where the lease is 0 (R255; DEDUCED, log entry 78). -/
def State.leaseLoad (s : State) (a : Acc) : State :=
  let (wts, rts) := s.stampAt a.key
  ({ s with stamps := AMap.put s.stamps (a.key / 64) (wts, Nat.max rts (s.me.pts + a.lease)) }).modMe (fun c => { c with pts := Nat.max c.pts wts })

/-- A store at the home of a line, or at its bank (R255). -/
def State.leaseStore (s : State) (a : Acc) : State :=
  let w := Nat.max s.me.pts ((s.stampAt a.key).2 + 1)
  ({ s with stamps := AMap.put s.stamps (a.key / 64) (w, w) }).modMe (fun c => { c with pts := w })

/-- A write of an agent that carries no program timestamp there: an engine's, or a peer's (R255; DEDUCED, log entry 78). -/
def State.stampWrite (s : State) (k : Nat) : State :=
  let w := (s.stampAt k).2 + 1
  { s with stamps := AMap.put s.stamps (k / 64) (w, w) }

/-- The program timestamps of a package's contexts. -/
def State.ptsOf (s : State) (pkg : Nat) : List Nat := (s.contexts.filter (fun c => c.place.pkg == pkg && decide (c.res ≠ .ended))).map (·.pts)

/-- The largest of a list. -/
def largest (l : List Nat) : Nat := l.foldl Nat.max 0

/-- A timestamp of a package is about to pass 2^47: the accesses of the next instruction, which move it by a lease and one for each
element at most, may do so; and the package's largest program timestamp has advanced by 2^40 since the last rebase (R257). -/
def State.rebaseDue (s : State) (pkg : Nat) : Bool :=
  let stamps := (s.stamps.filter (fun x => 64 * x.1 / 2 ^ 56 == pkg)).flatMap (fun x => [x.2.1, x.2.2])
  decide (2 ^ 47 ≤ largest (s.ptsOf pkg ++ stamps) + 8192) && decide ((s.pkg pkg).rebased + 2 ^ 40 ≤ largest (s.ptsOf pkg))

/-! ## Lock-step pairs (R366-R368) -/

/-- A context that stands at a core: it runs there, or has stopped there for an eviction or a move and is not in a save area (R289,
R364). -/
def State.standsAt (s : State) (c : Strand) (g : Nat) : Bool :=
  c.place.gcore == g && (decide (c.res = .resident) ||
    (decide (c.res = .evicted) && !(s.launch c.id.launch).evicted.contains (c.place.vc / 16)))

/-- A pair's virtual core as it stands: its checkpoint, with the contexts that an eviction or a move has stopped. -/
def State.snapshot (s : State) (g : Nat) : LockStep :=
  let cs := s.contexts.filter (s.standsAt · g)
  { check := cs.map (fun c => { c with released := false, wait := none }),
    queues := s.queues.filterMap (fun e => if cs.any (fun c => c.id.launch == e.1.1 && decide (c.id.seat = e.1.2)) then
      some (e.1.1, e.1.2, e.2) else none),
    core := s.core g, log := [], poison := s.poison.filter (fun x => keyCore (32 * x) == some g), held := [], rolls := 0 }

/-- A pair's record changed. -/
def State.modLock (s : State) (g : Nat) (f : LockStep → LockStep) : State :=
  match AMap.get s.locks g with
  | some l => { s with locks := AMap.put s.locks g (f l) }
  | none => s

/-- The checkpoint advances (R367): the log empties. Effects still held stay. -/
def State.advanceCheckpoint (s : State) (g : Nat) : State := s.modLock g (fun l => { s.snapshot g with held := l.held })

/-- Inputs of a pair (R366) are not lost by a rollback: the checkpoint moves past them (DEDUCED, log entry 15). -/
def State.passInputs (s : State) (g : Nat) : State :=
  s.modLock g (fun l => { s.snapshot g with held := l.held, rolls := l.rolls })

/-- An outgoing effect of a lock-step pair waits in the egress hold until it is released (R367). An instruction that has
sent a request has been through it, but not one that is issued anew after a restore. -/
def M.outgoing : M Unit := do
  let s ← get
  match AMap.get s.locks s.me.place.gcore with
  | none => pure ()
  | some l =>
    if s.me.released || s.me.pendOf.any (fun p => !p.again) then pure ()
    else do
      if !l.held.contains s.me.id && l.held.length < 32 then
        set (s.modLock s.me.place.gcore (fun l => { l with held := l.held ++ [s.me.id] }))
      throw (.block .egress)

/-- The last step of an instruction of a pair whose effect was released: the checkpoint of the core advances to the
boundary after it (R367). -/
def M.passed (g : Nat) : M Unit := do
  let s ← get
  if s.me.released then set ((s.modMe (fun c => { c with released := false })).advanceCheckpoint g)

/-- The instruction retires after its `n` bytes, with what its release brings (R367). -/
def M.done (n : Nat) : M Unit := do
  modify (·.retire n)
  M.passed (← get).me.place.gcore

/-- The instruction retires at a target, with what its release brings (R90, R367). -/
def M.doneTo (t : W64) : M Unit := do
  modify (·.retireTo t)
  M.passed (← get).me.place.gcore

/-- An effect of an instruction that waits has left the core: the checkpoint advances past it, so that no rollback repeats
it (R367, R369). -/
def State.leftCore (s : State) : State := if s.me.released then s.advanceCheckpoint s.me.place.gcore else s

/-- A request sent under a new reference; the instruction waits for its answer. -/
def M.post (sent : Bool) (w : Wait) (posts : Nat → State → State) : M (List W64) := do
  let s ← get
  let r := s.next
  set ((posts r { s with next := r + 1 }).modMe (fun c => c.putPend { s.myPend with on := w, ref := r, waiting := true, sent, cancel := false })).leftCore
  throw (.block w)

/-- The `i`-th request of the executing instruction: its answer when it has come, else the request is sent, once, and
the instruction waits (R248). `posts` says how the request leaves the core. (DEDUCED, log entry 45) -/
def M.request (i : Nat) (w : Wait) (posts : Nat → State → State) : M (List W64) := do
  let p := (← get).myPend
  match p.got[i]? with
  | some a => M.take a
  | none => if p.waiting then throw (.block w) else M.post false w posts

/-- A computation under another address in the place of the pc: the requests of a fetch stand apart from those of the
instruction. -/
def M.atPc {α : Type} (p : W64) (m : M α) : M α := fun s =>
  match m (s.setPc p) with
  | .ok a t => .ok a (t.setPc s.me.pc)
  | .error e t => .error e (t.setPc s.me.pc)

/-- The pair whose scratchpad holds a key. -/
def State.lockAt (s : State) (k : Nat) : Option (Nat × LockStep) :=
  if s.locks.isEmpty then none else (keyCore k).bind (fun g => (AMap.get s.locks g).map (fun l => (g, l)))

/-- The old contents of the sectors a pair's own store changes are logged (R368). -/
def State.logSectors (s : State) (k n : Nat) : State :=
  match s.lockAt k with
  | some (g, l) =>
    let new := (sectors k n).filter (fun x => !l.log.any (fun c => c.1 / 32 == x))
    let cells := new.flatMap (fun x => (Memory.getN s.mem (32 * x) 32).zipIdx.map (fun (b, i) => (32 * x + i, b)))
    s.modLock g (fun l => { l with log := l.log ++ cells })
  | none => s

/-- Stores by a pair that find no room for their sectors in its log of 256 wait (R368). -/
def State.logFull (s : State) (ks : List (Nat × Nat)) : Bool :=
  if s.locks.isEmpty then false
  else match AMap.get s.locks s.me.place.gcore with
    | some l =>
      let new := ((ks.filter (fun k => keyCore k.1 == some s.me.place.gcore)).flatMap (fun k => sectors k.1 k.2)).eraseDups.filter
        (fun x => !l.log.any (fun c => c.1 / 32 == x))
      decide (256 < l.log.length / 32 + new.length)
    | none => false

/-- An access to a logged sector waits for the next checkpoint, but one of the pair's own strands (R368): `own` is the core of
the strand that makes it, none for an access of the C9. -/
def State.logged (s : State) (own : Option Nat) (k n : Nat) : Bool :=
  match s.lockAt k with
  | some (g, l) => own != some g && (sectors k n).any (fun x => l.log.any (fun c => c.1 / 32 == x))
  | none => false

/-- One of the bytes with these keys, in the active half of a shadowed buffer, is in a logged sector. -/
def State.loggedAny (s : State) (own : Option Nat) (ks : List Nat) : Bool :=
  !s.locks.isEmpty && ks.any (fun k => s.logged own (s.activeKey k) 1)

/-- An access of the executing context to a sector that another core's pair has logged. -/
def State.loggedElsewhere (s : State) (k n : Nat) : Bool := s.logged (some s.me.place.gcore) k n

/-! ## Loads and stores -/

/-- An AMOP of the context is not performed yet: it is at its peer, host or gang member, or on the way. -/
def Strand.farAmop (c : Strand) : Bool := c.amops.any (·.away)

/-- The steps before accesses are performed: a rebase that is due comes first (R257), and the strand's AMOPs that are not performed
yet (R119, R261 note 4), then races, poison (R355), and the waits of lock-step. -/
def M.ready (as : List Acc) (reads : Bool) : M Unit := do
  M.blockIf ((← get).rebaseDue (← get).me.place.pkg) .rebase
  M.blockIf (← get).me.farAmop .unacked
  M.race as
  let s ← get
  match as.find? (fun a => reads && s.poisoned (s.activeKey a.key) a.n) with
  | some a => throw (.trap (Trap.poison a.va (s.poisonUnit (s.activeKey a.key) a.n)))
  | none => pure ()
  M.blockIf (as.any (fun a => s.loggedElsewhere (s.activeKey a.key) a.n)) .egress
  if as.any (fun a => (keyCore a.key) != some s.me.place.gcore) then M.outgoing

/-- The waits before a write: a full log of a lock-step pair (R368), and accesses in flight that used a translation from a
line it writes (R251). -/
def M.writable (as : List Acc) : M Unit := do
  let s ← get
  M.blockIf (s.logFull (as.map (fun a => (s.activeKey a.key, a.n)))) .egress
  M.blockIf (as.any (fun a => s.lineBusy (s.activeKey a.key) a.n)) .translations

/-- The sectors that a range touches, as memory holds them. -/
def State.sectorsAt (s : State) (k n : Nat) : Old := { key := k / 32 * 32, old := Memory.getN s.mem (k / 32 * 32) (32 * (sectors k n).length) }

/-- A load of the executing context is performed: a `.rlx` read sees every store before it from now on (R262). -/
def Strand.loaded (c : Strand) : Strand := { c with wlog := [] }

/-- One load performed: the lease, and the log of a race. -/
def State.loadAcc (s : State) (a : Acc) : State :=
  ((s.leaseLoad a).modMe Strand.loaded).raceLogged a (s.raceOf a) 0

/-- One load performed: its bytes. -/
def M.loadAcc (a : Acc) : M (List Byte) := do
  let s ← get
  set (s.loadAcc a)
  pure (s.peek a.key a.n)

/-- One store performed. -/
def State.storeAcc (s : State) (a : Acc) (bs : List Byte) : State :=
  let r := s.raceOf a
  let k := s.activeKey a.key
  let old := s.peek a.key a.n
  let s := if (keyCore k).any (· == s.me.place.gcore) then s.logSectors k a.n else s
  let s := s.raceStore a
  let s := if inDram k then { s with codeLog := s.codeLog ++ [{ key := k, old }] } else s
  let s := s.modMe (fun c => { c with wlog := c.wlog ++ [{ key := k, n := a.n, old := s.sectorsAt k a.n }] })
  let s := (s.leaseStore a).poke a.key bs
  ((s.dropTlb k a.n).cleanse k a.n).raceLogged a r 1

/-! ### Requests -/

/-- The node of a host, which is in no package, or of a peer package (DESIGN CHOICE, log entry 14). -/
def targetNode (host : Bool) (target : Nat) : Nat := if host then 2 ^ 48 + target else 2 ^ 40 + target

/-- The node of an access behind an aperture. -/
def farNode (f : Far) : Nat := targetNode (aperKind f.entry == 2) (aperTarget f.entry)

/-- The node at which a request is performed: a core, a peer, or a host; none for an access that its own core makes. -/
def Target.node : Target → Option Nat
  | .mem _ => none
  | .gang a => keyCore a.key
  | .far f => some (farNode f)

/-- The generic address of an access. -/
def Target.va : Target → W64
  | .mem a => a.va
  | .gang a => a.va
  | .far f => f.va

/-- The size of an access. -/
def Target.size : Target → Nat
  | .mem a => a.n
  | .gang a => a.n
  | .far f => f.n

/-- The access with its key, where its key is known. -/
def Target.resolved : Target → Option Acc
  | .mem a => some a
  | .gang a => some a
  | .far f => f.at_.map (fun k => { va := f.va, key := k, n := f.n, home := .away, chk := false, lease := 0, lines := f.lines })

/-- A remote request (R248, R327): of an access that its target translates, or of accesses whose keys are known. -/
def remoteOf (t : Target) (op : RemoteOp) (posted : Bool) (ref : Nat) (accs : List Acc) (s : State) : Remote :=
  match t with
  | .far f =>
    { ref, sid := s.me.id, pc := s.me.pc, pkg := aperTarget f.entry, vf := aperTvf f.entry, va := f.t, fromPkg := s.me.place.pkg,
      aper := f.aper, host := aperKind f.entry == 2, posted, op, node := farNode f, accs }
  | .gang a | .mem a =>
    { ref, sid := s.me.id, pc := s.me.pc, pkg := a.key / 2 ^ 56, vf := s.myLaunch.vf, va := a.va, fromPkg := s.me.place.pkg,
      aper := 0, host := false, posted, op, node := (keyCore a.key).getD 0, accs }

/-- A split-phase request leaves: UNACK counts it (R248), and the requester waits for it unless it is posted. -/
def sendRequest (t : Target) (op : RemoteOp) (posted : Bool) (accs : List Acc) (lines : List Nat) (ref : Nat) (s : State) : State :=
  let r := remoteOf t op posted ref accs s
  let s := if posted then s else
    { s with asked := s.asked ++ [({ ref, sid := s.me.id, va := t.va, aper := r.aper, noticed := 0, node := r.node, gang := gangVa t.va,
                                     lines } : Asked)] }
  (s.modMe (fun c => { c with unack := c.unack + 1 })).sendFromMe .req r.node (.remote r)

/-- The remote request of a single access. -/
def askFor (t : Target) (op : RemoteOp) (posted : Bool) (ref : Nat) (s : State) : State :=
  sendRequest t op posted t.resolved.toList t.lines ref s

/-- The key of an access behind an aperture, from its peer, which checks it: the `k`-th request of the instruction (R105, R248), an
outgoing effect (R367). Its lines are those of both walks from then on (R251). -/
def M.place (k : Nat) (w : Bool) (f : Far) : M Far := do
  M.outgoing
  let _ ← M.request k .reply (sendRequest (.far f) (.probe w) false [] f.lines)
  match (← get).myPend.got[k]? with
  | some (.place key ls) => pure { f with at_ := some key, lines := ls }
  | _ => pure f

/-- The words of a remote answer as bytes. -/
def bytesOfWords (ws : List W64) (n : Nat) : List Byte := (ws.flatMap (fun w => leBytes 8 w.toNat)).take n

/-- Bytes as words of 64 bits. -/
def asWords (bs : List Byte) : List W64 := (List.range ((bs.length + 7) / 8)).map (fun i => BitVec.ofNat 64 (leNat ((bs.drop (8 * i)).take 8)))

/-- The executing instruction's plan: its checked accesses (R104, R107). -/
def State.plan (s : State) : List (Nat × Target) := s.myPend.plan

/-- How many requests of the plan were probes: one for each access that has its key from its peer. -/
def State.probes (s : State) : Nat := (s.plan.filter (fun t => match t.2 with
  | .far f => f.at_.isSome
  | _ => false)).length

/-- None of the instruction's accesses has been performed or asked for yet. -/
def State.unperformed (s : State) : Bool := !s.myPend.waiting && decide (s.myPend.got.length ≤ s.probes)

/-- An access that its own core makes. -/
def Target.isMem : Target → Bool
  | .mem _ => true
  | _ => false

/-- The checked accesses of an instruction that sends requests are kept, once the waits before the first request are over; its
own core's accesses are not, since nothing comes between their checks and them (R104, R107). One that is ordered after the
strand's earlier atomics waits for them. -/
def M.keep (ordered : Bool) (ts : List (Nat × Target)) : M Unit := do
  if ts.all (fun t => t.2.isMem) then pure ()
  else do
    M.blockIf (ordered && (← get).me.farAmop) .unacked
    M.outgoing
    modify (fun s => s.modMe (fun c => c.putPend { s.myPend with plan := ts }))

/-- The access of an instruction that makes one: the one kept, else the one that `m` checks. -/
def M.kept (m : M Target) : M Target := do
  match (← get).plan with
  | (_, t) :: _ => pure t
  | [] => do
    let t ← m
    M.keep true [(0, t)]
    pure t

/-- The access, where it is not behind an aperture. -/
def Target.acc? : Target → Option Acc
  | .mem a => some a
  | .gang a => some a
  | .far _ => none

/-- The accesses of a list that the race detector and the waits of the own package see: all but those behind an aperture. -/
def Target.accs (ts : List Target) : List Acc := ts.filterMap Target.acc?

/-- Those of them that are performed here, where poison is met at once. -/
def Target.mems (ts : List Target) : List Acc :=
  ts.filterMap (fun t => match t with
    | .mem a => some a
    | _ => none)

/-- The one request of the accesses of an instruction, of which the first that its own core does not make says where: they are
performed together there, in lane order (R105, R259; DEDUCED, log entry 69). -/
def askAll (ts : List Target) (op : RemoteOp) (ref : Nat) (s : State) : State :=
  match ts.find? (fun t => !t.isMem) with
  | none => s
  | some t => sendRequest t op false (ts.filterMap Target.resolved) (s.plan.flatMap (fun t => t.2.lines) ++ t.lines) ref s

/-- The bytes of accesses one after another, by access. -/
def splitBytes : List Target → List Byte → List (List Byte)
  | [], _ => []
  | t :: ts, bs => bs.take t.size :: splitBytes ts (bs.drop t.size)

/-- The loads of checked targets, in order (R259): at once where its own core makes every one of them. -/
def M.loads (ts : List Target) : M (List (List Byte)) := do
  if ts.all (·.isMem) then do
    M.ready (Target.mems ts) true
    (Target.mems ts).mapM M.loadAcc
  else do
    let s ← get
    if s.unperformed then do
      M.ready (Target.accs ts) false
      M.ready (Target.mems ts) true
    M.outgoing
    let n := (ts.map (·.size)).sum
    let ws ← M.request s.probes .reply (askAll ts (.load n))
    modify (·.modMe Strand.loaded)
    pure (splitBytes ts (bytesOfWords ws n))

/-- The bytes of a store, with the bytes a masked store leaves alone as they were. -/
def fillIn (new : List (Option Byte)) (old : List Byte) : List Byte := List.zipWith (fun n o => n.getD o) new old

/-- One store performed, with the bytes that a masked store leaves alone as they were. -/
def State.storeMasked (s : State) (a : Acc) (bs : List (Option Byte)) : State := s.storeAcc a (fillIn bs (s.peek a.key a.n))

/-- The near stores performed one after another. -/
def State.nearStores (s : State) : List (Target × List (Option Byte)) → State
  | [] => s
  | (.mem a, bs) :: ts => (s.storeMasked a bs).nearStores ts
  | (_, _) :: ts => s.nearStores ts

/-- Stores of checked targets, in order (R259): at once where its own core makes every one of them. -/
def M.stores (ts : List (Target × List (Option Byte))) : M Unit := do
  if ts.all (fun t => t.1.isMem) then do
    M.ready (Target.mems (ts.map (·.1))) false
    M.writable (Target.mems (ts.map (·.1)))
    modify (·.nearStores ts)
  else do
    let s ← get
    if s.unperformed then M.ready (Target.accs (ts.map (·.1))) false
    M.outgoing
    let _ ← M.request s.probes .reply (askAll (ts.map (·.1)) (.store (ts.flatMap (·.2))))

/-- One load of `n` bytes at an address, checked and performed. -/
def M.load (a : W64) (n : Nat) : M (List Byte) := do
  let t ← M.kept (M.resolve a n .load)
  let r ← M.loads [t]
  pure (nth r 0 [])

/-- One store of bytes at an address, checked and performed. -/
def M.store (a : W64) (bs : List Byte) : M Unit := do
  let t ← M.kept (M.resolve a bs.length .store)
  M.stores [(t, bs.map some)]

end Sys2Proof.Machine
end

