-- ==== Sys2Proof/Machine/Operands.lean ====
section
/-! DEFINITION. Every operand form: source b and its literal (R55, R81), pool words and buffer records (R22, R23), views
(R54, R112), vector elements and masks (R9, R137), the four kinds of vector source with their reservations (R138,
R139), the slot's queues (R10) and the receive queue as a stream (R139). -/

namespace Sys2Proof.Machine

/-! ## Scalar operands -/

/-- The value of source b. -/
def bval (s : State) : SrcB → W64
  | .reg r => s.x r
  | .lit v => v

/-- The length in bytes of an instruction whose base form has `n` bytes and whose literal, if any, takes eight more
(R46). -/
def blen (n : Nat) : SrcB → Nat
  | .reg _ => n
  | .lit _ => n + 8

/-- The value of a source b that names an x register, or of the literal in its place (R55). -/
def xval (s : State) : XSrc → W64
  | .reg r => s.x r
  | .lit _ v => v

/-- The register field that an operand ILLOP of such a source reports (R108): 0 for a literal (DEDUCED, log entry 64). -/
def xfield : XSrc → Reg
  | .reg r => r
  | .lit _ _ => 0

/-- The length of an extended instruction with such a source (R46). -/
def xlen : XSrc → Nat
  | .reg _ => 12
  | .lit _ _ => 20

/-- The mask of a source b that names an m register: the register, or the literal's bits 15:0 (R55; DEDUCED, log
entry 64). -/
def kval (s : State) : KSrc → BitVec 16
  | .reg r => s.me.getM r
  | .lit _ v => v.setWidth 16

/-- The length of an extended instruction with such a source (R46). -/
def klen : KSrc → Nat
  | .reg _ => 12
  | .lit _ _ => 20

/-- The low bits of a source, read at the width of the type (R81). -/
def low (t : Ty) (w : W64) : Nat := w.toNat % 2 ^ t.bits

/-- An `n`-bit result extended to a register by its type's signedness (R81). -/
def ext (t : Ty) (r : Nat) : W64 := BitVec.ofNat 64 (wrap 64 (asInt t.signed t.bits r))

/-- SignExt of a field to a register. -/
def sx {n : Nat} (v : BitVec n) : W64 := v.signExtend 64

/-- A truth value as a register (R82 SLT). -/
def boolW (b : Bool) : W64 := if b then 1 else 0

/-- The operand ILLOP of an imm32: register field 0 (R159, R187). -/
def Trap.imm (v : BitVec 32) : Trap := .operand 0 (v.setWidth 64)

/-! ## The pool -/

/-- A pool word of a kind (R22). -/
def Launch.word (l : Launch) (kind : BitVec 4) (i : Nat) : Except Trap W64 :=
  match l.pool[i]?, l.kinds[i]? with
  | some w, some k => if k = kind then .ok w else .error (Trap.pool i)
  | _, _ => .error (Trap.pool i)

/-- A buffer record (R23). -/
structure BufRec where
  base : W64
  shadow : Bool
  claim : Bool
  ty : Ty
  len : Nat
  e0 : Nat
  e1 : Nat
  e2 : Nat
  e3 : Nat
  s1 : Nat
  s2 : Nat
  s3 : Nat
  deriving DecidableEq, Repr

/-- The record in four pool words (R23). -/
def BufRec.ofWords (w0 w1 w2 w3 : W64) : BufRec :=
  { base := w0, shadow := w1.getLsbD 61, claim := w1.getLsbD 60,
    ty := (Ty.ofCode? (w1.extractLsb' 56 4)).getD .n8, len := wbits w1 31 0,
    e0 := wbits w2 15 0, e1 := wbits w2 31 16, e2 := wbits w2 47 32, e3 := wbits w2 63 48,
    s1 := wbits w3 20 0, s2 := wbits w3 41 21, s3 := wbits w3 62 42 }

/-- The buffer record that an operand names (R22). -/
def Launch.buf (l : Launch) (i : Nat) : Except Trap BufRec :=
  match l.word 2 i with
  | .ok w0 => .ok (.ofWords w0 (nth l.pool (i + 1) 0) (nth l.pool (i + 2) 0) (nth l.pool (i + 3) 0))
  | .error t => .error t

/-- A view of a buffer record: rows `start` to `start + rows − 1` of dimension 1 (R54, R112). -/
structure Window where
  rec_ : BufRec
  idx : Nat
  start : Nat
  rows : Nat
  deriving DecidableEq, Repr

namespace Window

/-- The elements of a row: all of dimension 0. -/
def cols (v : Window) : Nat := v.rec_.e0

/-- The rows of the view, over dimensions 1 to 3. -/
def allRows (v : Window) : Nat := v.rows * v.rec_.e2 * v.rec_.e3

/-- The elements of the view; codes for .c4. -/
def count (v : Window) : Nat := v.cols * v.allRows

/-- The byte address of row `r` of the view, dimension 1 running fastest (R112). -/
def rowAt (v : Window) (r : Nat) : W64 :=
  let i1 := r % v.rows
  let i2 := r / v.rows % v.rec_.e2
  let i3 := r / v.rows / v.rec_.e2
  v.rec_.base + BitVec.ofNat 64 ((v.start + i1) * v.rec_.s1 + i2 * v.rec_.s2 + i3 * v.rec_.s3)

/-- The address of view element `i`, dimension 0 running fastest; for .c4, of the byte that holds its code. -/
def addr (v : Window) (i : Nat) : W64 :=
  v.rowAt (i / v.cols) + BitVec.ofNat 64 (i % v.cols * v.rec_.ty.bits / 8)

/-- The code of a .c4 view is the high nibble of its byte (R32). -/
def high (v : Window) (i : Nat) : Bool := i % v.cols % 2 == 1

end Window

/-- The view that word 2 names, before its SPACE checks. -/
def windowOf (b : BufRec) (v : View) : Window :=
  let start := v.start.toNat
  { rec_ := b, idx := v.idx.toNat, start, rows := if v.count = 0 then b.e1 - start else v.count.toNat }

/-- SPACE of a view: the record's base, and the pool index (R54, R112). -/
def Window.space (v : Window) : Trap := .of Cause.space v.rec_.base (BitVec.ofNat 64 v.idx)

/-- A start at or beyond extent 1, or rows beyond it (R54). -/
def Window.bad (v : Window) : Bool := decide (v.rec_.e1 ≤ v.start) || decide (v.rec_.e1 < v.start + v.rows)

/-- A checked view (R54). -/
def Launch.view (l : Launch) (v : View) : Except Trap Window :=
  match l.buf v.idx.toNat with
  | .ok b => let w := windowOf b v; if w.bad then .error w.space else .ok w
  | .error t => .error t

/-! ## Vector elements and masks -/

/-- The elements of `n` bits of a vector, lowest first (R9). -/
def lanes (n : Nat) (v : V128) : List Nat := (List.range (128 / n)).map (fun i => v.toNat >>> (i * n) % 2 ^ n)

/-- The vector with these elements. -/
def packLanes (n : Nat) (l : List Nat) : V128 :=
  BitVec.ofNat 128 (l.zipIdx.foldl (fun a (e, i) => a + e % 2 ^ n * 2 ^ (i * n)) 0)

/-- The element is active under a mask: the bit of its lowest byte lane (R9). -/
def active (m : BitVec 16) (n i : Nat) : Bool := m.getLsbD (i * n / 8)

/-- The bytes of a vector, lowest first. -/
def vbytes (v : V128) : List Byte := leBytes 16 v.toNat

/-- The vector with these bytes. -/
def ofBytes (bs : List Byte) : V128 := BitVec.ofNat 128 (leNat bs)

/-- The destination of a masked instruction: the new elements where active, zero or the old ones elsewhere (R137). -/
def merge (m : BitVec 16) (z : Bool) (n : Nat) (old : V128) (new : List Nat) : V128 :=
  packLanes n ((lanes n old).zipIdx.map (fun (o, i) => if active m n i then nth new i 0 else if z then 0 else o))

/-! ## Queue registers (R10) -/

/-- Entries of a queue that agents other than `u` have reserved (R138). -/
def SlotQueues.heldByOthers (q : SlotQueues) (u : Agent) (r : Reg3) : Bool :=
  q.holds.any (fun h => !decide (h.1 = u) && decide (h.2.1 = r) && decide (h.2.2 < 16))

/-- Free entries of a queue that other agents have reserved: an LDQ whose load has not come back (R110). -/
def SlotQueues.roomHeld (q : SlotQueues) (u : Agent) (r : Reg3) : Nat :=
  (q.holds.filter (fun h => !decide (h.1 = u) && decide (h.2.1 = r) && decide (h.2.2 = 16))).length

/-- A queue has no entry free for a put by an agent (R10). -/
def SlotQueues.full (q : SlotQueues) (u : Agent) (r : Reg3) : Bool :=
  decide (8 ≤ (q.q.get r.toFin).length + q.roomHeld u r)

/-- The holds of an agent on a queue replaced; 16 holds a free entry. -/
def SlotQueues.hold (q : SlotQueues) (u : Agent) (r : Reg3) (n : Nat) : SlotQueues :=
  { q with holds := q.holds.filter (fun h => !(decide (h.1 = u) && decide (h.2.1 = r))) ++ [(u, r, n)] }

/-- An entry put at the end of a queue. -/
def SlotQueues.push (q : SlotQueues) (r : Reg3) (v : V128) : SlotQueues :=
  { q with q := q.q.set r.toNat (q.q.get r.toFin ++ [v]) r.isLt }

/-- The `n` oldest entries of a queue removed. -/
def SlotQueues.pop (q : SlotQueues) (r : Reg3) (n : Nat) : SlotQueues :=
  { q with q := q.q.set r.toNat ((q.q.get r.toFin).drop n) r.isLt }

/-- The queues of the executing context's slot. -/
def State.myQueues (s : State) : SlotQueues := s.slotq s.me.id.launch s.me.id.seat

/-- The queues of the executing context's slot changed. -/
def State.modMyQueues (s : State) (f : SlotQueues → SlotQueues) : State := s.modSlotq s.me.id.launch s.me.id.seat f

/-- The entry `j` places from the head of a queue, reserved; the instruction waits while another agent holds the queue
or the entry is not there (R138). -/
def M.reserve (r : Reg3) (j : Nat) : M V128 := do
  let s ← get
  let q := s.myQueues
  if q.heldByOthers s.me.id.unit r then throw (.block (.queueEntry r))
  else match (q.q.get r.toFin)[j]? with
    | some v => do
      set (s.modMyQueues (·.hold s.me.id.unit r (j + 1)))
      pure v
    | none => do
      if 0 < (q.q.get r.toFin).length then
        set (s.modMyQueues (·.hold s.me.id.unit r (q.q.get r.toFin).length))
      throw (.block (.queueEntry r))

/-! ## The receive queue and its streams (R13, R139, R287) -/

/-- The cores that contexts are placed on. -/
def State.busyCores (s : State) : List Nat := (s.contexts.map (fun c => c.place.gcore)).eraseDups

/-- The cores that know, or are being told, of a core's pressure. -/
def State.knowing (s : State) (g : Nat) : List Nat :=
  (s.cores.filter (fun c => c.2.told.contains g)).map (·.1) ++
    s.net.filterMap (fun p => match p.body with
      | .pressure h true t => if h = g then some t else none
      | _ => none)

/-- The cores under pressure made known to a core, where a strand starts to run there (R287). -/
def State.learn (s : State) (g : Nat) : State :=
  let hot := (s.cores.filter (fun c => c.2.pressure)).map (·.1)
  if (s.core g).told = hot then s else s.modCore g (fun c => { c with told := hot })

/-- A core's receive queue changed; when its occupancy crosses 48 upward or 16 downward, pressure starts or ends and the
cores are told (R287): where it starts, those that run a strand; where it ends, those that know of it. -/
def State.modRq (s : State) (g : Nat) (f : List RqEntry → List RqEntry) : State :=
  let c := s.core g
  let rq := f c.rq
  let p := if c.pressure then decide (16 ≤ rq.length) else decide (48 ≤ rq.length)
  let s' := s.modCore g (fun c => { c with rq, pressure := p })
  if p = c.pressure then s'
  else (if p then s.busyCores else (s.busyCores ++ s.knowing g).eraseDups).foldl (fun s t => s.send .ctl g t (.pressure g p t)) s'

/-- The bytes of a channel's stream: the payloads of its messages in admission order, less what was taken (R139). A message that an
activation has taken, whose handler was disabled afterwards, is left out of the stream (DESIGN CHOICE, log entry 72). -/
def streamOf (rq : List RqEntry) (c : Nat) : List Byte :=
  rq.flatMap (fun e => if e.msg.ch == c && !e.active then e.msg.data.drop e.taken else [])

/-- The receive queue after `n` bytes of a channel's stream are taken: an entry is freed with its last byte, and an
empty one when a byte after it is taken (R139). -/
def takeStream (c : Nat) : List RqEntry → Nat → List RqEntry
  | [], _ => []
  | e :: es, n =>
    if n = 0 then e :: es
    else if e.msg.ch == c && !e.active then
      let left := e.msg.data.length - e.taken
      if left ≤ n then takeStream c es (n - left)
      else { e with taken := e.taken + n } :: es
    else e :: takeStream c es n

/-- The operand ILLOP of a channel whose handler is enabled (R139). -/
def Trap.channel (c : Chan) : Trap := .operand 0 (c.setWidth 64)

/-- A take from a channel's stream is an operand ILLOP while the channel's handler is enabled (R139). -/
def M.takable (c : Chan) : M Unit := do M.trapIf ((← get).myCore.htab.get c.toFin).enable (Trap.channel c)

/-- The takes of a list of sources judged, in order (R53, R139). -/
def M.takables : List VSrc → M Unit
  | [] => pure ()
  | .chan c :: r => do
    M.takable c
    M.takables r
  | _ :: r => M.takables r

/-- The next 16 bytes of a channel's stream, held until the instruction retires (R138, R139). -/
def M.chunk (c : Chan) : M V128 := do
  let s ← get
  let k := s.myCore
  if k.chHolds.any (fun h => !decide (h.1 = s.me.id) && h.2.1 == c.toNat) then throw (.block (.chunk c))
  else
    let bs := streamOf k.rq c.toNat
    if bs.length < 16 then throw (.block (.chunk c))
    else do
      set (s.modMyCore (fun k =>
        { k with chHolds := k.chHolds.filter (fun h => !decide (h.1 = s.me.id)) ++ [(s.me.id, c.toNat, 16)] }))
      pure (ofBytes (bs.take 16))

/-- The 16 bytes taken. -/
def State.takeChunk (s : State) (c : Chan) : State := s.modRq s.me.place.gcore (fun rq => takeStream c.toNat rq 16)

/-! ## Vector sources (R138) -/

/-- The literal of a vector source (R55). -/
def literal (t : Ty) (k : BitVec 2) (v : W64) : V128 :=
  match k.toNat with
  | 0 => packLanes t.bits (List.replicate (128 / t.bits) v.toNat)
  | 1 => packLanes 32 (List.replicate 4 v.toNat)
  | _ => packLanes 64 [v.toNat, v.toNat]

/-- A pair of pool constants (R138). -/
def Launch.poolPair (l : Launch) (i : Nat) : Except Trap V128 :=
  match l.word 1 i, l.word 1 (i + 1) with
  | .ok a, .ok b => .ok (packLanes 64 [a.toNat, b.toNat])
  | .error t, _ => .error t
  | _, .error t => .error t

/-- The value of a vector source; `j` entries of the same queue belong to an earlier source. -/
def M.vsrc (t : Ty) (j : Nat) : VSrc → M V128
  | .reg r => do pure ((← get).v r)
  | .queue q => M.reserve q j
  | .chan c => M.chunk c
  | .pool i => do M.check ((← get).myLaunch.poolPair i.toNat)
  | .lit k v => pure (literal t k v)

/-- The queue a source names. -/
def queueOf : VSrc → Option Reg3
  | .queue q => some q
  | _ => none

/-- The pool kinds of a list of sources, judged before anything else of the instruction (R355). -/
def M.poolOk : List VSrc → M Unit
  | [] => pure ()
  | .pool i :: r => do
    let _ ← M.check ((← get).myLaunch.poolPair i.toNat)
    M.poolOk r
  | _ :: r => M.poolOk r

/-- The value of a single source. -/
def M.source (t : Ty) (a : VSrc) : M V128 := do
  let v ← M.vsrc t 0 a
  M.takables [a]
  pure v

/-- The values of sources a and b: a is read before b (R53, R138), and b's entry or chunk is held only once a is there (DEDUCED, log
entry 77). A channel whose handler is enabled traps at the take, once both sources are there (R139). -/
def M.vsrcs (t : Ty) (a b : VSrc) : M (V128 × V128) := do
  M.poolOk [a, b]
  let va ← M.vsrc t 0 a
  let vb ← M.vsrc t (if (queueOf a).isSome && decide (queueOf a = queueOf b) then 1 else 0) b
  M.takables [a, b]
  pure (va, vb)

/-- What the sources of a retiring instruction take leaves its queue or stream (R138). -/
def State.takeSource (s : State) : VSrc → State
  | .queue q => s.modMyQueues (fun x => (x.pop q 1))
  | .chan c => s.takeChunk c
  | _ => s

/-- The sources taken, and the reservations given up, at retirement (R138). -/
def M.takeSources (l : List VSrc) : M Unit :=
  modify (fun s => (l.foldl State.takeSource s).unhold s.me.id)

/-- The extra bytes of an extended instruction: its literal (R46). -/
def vlen : VSrc → Nat
  | .lit _ _ => 20
  | _ => 12

end Sys2Proof.Machine
end

