-- ==== Sys2Proof/Machine/Scalar.lean ====
section
/-! DEFINITION. The integer instructions, SEL and the immediate loads (R81-R85). -/

namespace Sys2Proof.Machine

/-- A scalar instruction that writes one register and continues (R81). -/
def putX (s : State) (d : Reg) (v : W64) (n : Nat) : Out := .next ((s.setX d v).retire n)

/-- A two-source integer instruction: both sources read at the type's width, the `n`-bit result extended by it (R81). -/
def int2 (f : Nat → Nat → Nat → Nat) (t : Ty) (d a : Reg) (b : SrcB) (s : State) : Out :=
  putX s d (ext t (f t.bits (low t (s.x a)) (low t (bval s b)))) (blen 4 b)

/-- A one-source integer instruction (R81). -/
def int1 (f : Nat → Nat → Nat) (t : Ty) (d a : Reg) (s : State) : Out :=
  putX s d (ext t (f t.bits (low t (s.x a)))) 4

/-- An operation on the signed values of two operands. -/
def onSigned (f : Int → Int → Int) (n a b : Nat) : Nat := wrap n (f (asInt true n a) (asInt true n b))

/-- DIV (R30, R82). -/
def divS (n a b : Nat) : Nat := if b = 0 then 2 ^ n - 1 else onSigned Int.tdiv n a b

/-- DIVN (R30, R82). -/
def divU (n a b : Nat) : Nat := if b = 0 then 2 ^ n - 1 else a / b

/-- REM (R30, R82). -/
def remS (n a b : Nat) : Nat := if b = 0 then a else onSigned Int.tmod n a b

/-- REMN (R30, R82). -/
def remU (_ a b : Nat) : Nat := if b = 0 then a else a % b

/-- SHRA (R82). -/
def shraN (n a b : Nat) : Nat := wrap n (asInt true n a / (2 ^ (b % n) : Nat))

/-- ROTL (R82). -/
def rotlN (n a b : Nat) : Nat := (a * 2 ^ (b % n) + a / 2 ^ (n - b % n)) % 2 ^ n

/-- Signed order of two operands. -/
def ltS (n a b : Nat) : Bool := decide (asInt true n a < asInt true n b)

/-- Leading zero bits (R82 CLZ). -/
def clzN (n a : Nat) : Nat := n - bitLen a

/-- The one bits of the low `n` bits. -/
def popN (n a : Nat) : Nat := ((List.range n).filter (fun i => a.testBit i)).length

/-- Trailing zero bits (R82 CTZ). -/
def ctzN (n a : Nat) : Nat := ((List.range n).find? (fun i => a.testBit i)).getD n

/-- `ADD` (R82). -/
def execAdd := int2 (fun n a b => (a + b) % 2 ^ n)
/-- `SUB` (R82). -/
def execSub := int2 (fun n a b => (a + 2 ^ n - b) % 2 ^ n)
/-- `MUL` (R82). -/
def execMul := int2 (fun n a b => a * b % 2 ^ n)
/-- `MULH` (R82). -/
def execMulh := int2 (fun n a b => wrap n (asInt true n a * asInt true n b / (2 ^ n : Nat)))
/-- `MULHN` (R82). -/
def execMulhn := int2 (fun n a b => a * b / 2 ^ n)
/-- `DIV` (R82). -/
def execDiv := int2 divS
/-- `DIVN` (R82). -/
def execDivn := int2 divU
/-- `REM` (R82). -/
def execRem := int2 remS
/-- `REMN` (R82). -/
def execRemn := int2 remU
/-- `AND` (R82). -/
def execAnd := int2 (fun _ a b => a &&& b)
/-- `OR` (R82). -/
def execOr := int2 (fun _ a b => a ||| b)
/-- `XOR` (R82). -/
def execXor := int2 (fun _ a b => a ^^^ b)
/-- `ANDN` (R82). -/
def execAndn := int2 (fun n a b => a &&& (2 ^ n - 1 - b))
/-- `SHL` (R82). -/
def execShl := int2 (fun n a b => a * 2 ^ (b % n) % 2 ^ n)
/-- `SHR` (R82). -/
def execShr := int2 (fun n a b => a / 2 ^ (b % n))
/-- `SHRA` (R82). -/
def execShra := int2 shraN
/-- `ROTL` (R82). -/
def execRotl := int2 rotlN
/-- `MIN` (R82). -/
def execMin := int2 (fun n a b => if ltS n b a then b else a)
/-- `MAX` (R82). -/
def execMax := int2 (fun n a b => if ltS n a b then b else a)
/-- `MINN` (R82). -/
def execMinn := int2 (fun _ a b => Nat.min a b)
/-- `MAXN` (R82). -/
def execMaxn := int2 (fun _ a b => Nat.max a b)
/-- `SLT` (R82). -/
def execSlt := int2 (fun n a b => if ltS n a b then 1 else 0)
/-- `SLTN` (R82). -/
def execSltn := int2 (fun _ a b => if a < b then 1 else 0)
/-- `SEQ` (R82). -/
def execSeq := int2 (fun _ a b => if a = b then 1 else 0)
/-- `CLZ` (R82). -/
def execClz := int1 clzN
/-- `CTZ` (R82). -/
def execCtz := int1 ctzN
/-- `POPC` (R82). -/
def execPopc := int1 popN

/-- `SEXT` (R82): sign extension for either signedness of the type. -/
def execSext (t : Ty) (d a : Reg) (s : State) : Out :=
  putX s d (BitVec.ofNat 64 (wrap 64 (asInt true t.bits (low t (s.x a))))) 4

/-- `ZEXT` (R82): zero extension for either signedness of the type. -/
def execZext (t : Ty) (d a : Reg) (s : State) : Out := putX s d (BitVec.ofNat 64 (low t (s.x a))) 4

/-- The field that a specification selects in `n` bits: position and length, if it is not empty (R83). -/
def fieldOf (n : Nat) (spec : W64) : Option (Nat × Nat) :=
  let len := wbits spec 6 0
  let pos := wbits spec 13 8
  if len = 0 ∨ n ≤ pos then none else some (pos, Nat.min len (n - pos))

/-- `BFX` (R83). -/
def execBfx (t : Ty) (d a : Reg) (b : SrcB) (s : State) : Out :=
  putX s d (match fieldOf t.bits (bval s b) with
    | none => 0
    | some (pos, l) => BitVec.ofNat 64 (wrap 64 (asInt t.signed l (low t (s.x a) / 2 ^ pos)))) (blen 4 b)

/-- `BFI` (R83). -/
def execBfi (t : Ty) (d a : Reg) (b : SrcB) (s : State) : Out :=
  let old := low t (s.x d)
  putX s d (match fieldOf t.bits (bval s b) with
    | none => ext t old
    | some (pos, l) =>
      ext t (old % 2 ^ pos + low t (s.x a) % 2 ^ l * 2 ^ pos + old / 2 ^ (pos + l) * 2 ^ (pos + l))) (blen 4 b)

/-- `SEL` (R84). -/
def execSel (t : Ty) (d c a : Reg) (b : SrcB) (s : State) : Out :=
  putX s d (ext t (if s.x c = 0 then low t (bval s b) else low t (s.x a))) (blen 12 b)

/-- `LI` with an immediate (R85). -/
def execLi (d : Reg) (imm : BitVec 20) (s : State) : Out := putX s d (sx imm) 4

/-- `LI` with a literal (R55, R85). -/
def execLiLit (d : Reg) (v : W64) (s : State) : Out := putX s d v 12

/-- `LIH` (R85). -/
def execLih (d : Reg) (imm : BitVec 20) (s : State) : Out := putX s d (sx imm <<< 12) 4

/-- `LK` (R85): a pool constant, or the pool-kind ILLOP (R22). -/
def execLk (d : Reg) (idx : BitVec 16) (s : State) : Out :=
  match s.myLaunch.word 1 idx.toNat with
  | .ok w => putX s d w 4
  | .error t => .next (s.takeTrap t)

/-- `ADDPC` (R85). -/
def execAddpc (d : Reg) (imm : BitVec 20) (s : State) : Out := putX s d (s.me.pc + sx imm <<< 2) 4

/-- `FLI` (R33, R85). -/
def execFli (d : Reg) (imm : BitVec 20) (s : State) : Out := putX s d (imm.setWidth 64 <<< 12) 4

end Sys2Proof.Machine
end

