-- ==== Sys2Proof/Machine/Pointers.lean ====
section
/-! DEFINITION. SPTEST, SPCAST, SPMAKE and PREF: pointers inspected and built without touching memory (R115-R118). -/

namespace Sys2Proof.Machine

/-- The window of an address by its top byte (R19, R115). -/
def winOf (a : W64) : Option Win :=
  match wbits a 63 56 with
  | 0x00 => some .glob
  | 0xF0 => some .priv
  | 0xF1 => some .loc
  | 0xF2 => some .clus
  | 0xF3 => some .die
  | 0xF4 => some .gang
  | _ => none

/-- Every bit outside the window's fields is zero (R19, R115 FMT). -/
def formed (a : W64) : Bool :=
  match winOf a with
  | some .glob => wbits a 55 55 == 0
  | some .priv => wbits a 55 14 == 0
  | some .loc => wbits a 55 47 == 0 && wbits a 35 19 == 0
  | some .clus => wbits a 55 25 == 0
  | some .die => wbits a 55 28 == 0
  | some .gang => wbits a 55 30 == 0
  | none => false

/-- The word SPTEST writes (R115). -/
def State.testWord (s : State) (a : W64) : W64 :=
  let (would, own) := match s.spot a false with
    | .ok (.sp g _) => (0, g == s.me.place.gcore)
    | .ok _ => (0, false)
    | .error t => (t.code, false)
  BitVec.ofNat 64 (would * 256 + (if own then 64 else 0) + (if would = 0 then 32 else 0) + (if formed a then 16 else 0) +
    (match winOf a with | some w => w.code.toNat | none => 15))

/-- `SPTEST` (R115). -/
def execSptest (d a : Reg) (s : State) : Out := putX s d (s.testWord (s.x a)) 4

/-- SPACE of SPCAST and SPMAKE (R116, R117). -/
def Trap.cast (a : W64) (w : Win) : Trap := .of Cause.space a (w.code.setWidth 64)

/-- A local pointer to a package core's scratchpad (R19). -/
def localPtr (core off : Nat) : W64 := BitVec.ofNat 64 (0xF1 * 2 ^ 56 + core * 2 ^ 36 + off)

/-- A cluster pointer (R19). -/
def clusterPtr (core off : Nat) : W64 := BitVec.ofNat 64 (0xF2 * 2 ^ 56 + core % 256 * 2 ^ 17 + off)

/-- The first local offset of a slot's private slice (R21). -/
def sliceAt (slot : Nat) : Nat := 0x5_0000 + slot * 0x4000

/-- The pointer SPCAST gives, if the pair of windows is one of R116. -/
def State.cast (s : State) (w : Win) (a : W64) : Option W64 :=
  let p := s.me.place
  let base := sliceAt p.slot
  if !formed a then none
  else match winOf a, w with
    | some .priv, .loc => some (localPtr p.core (base + wbits a 13 0))
    | some .loc, .priv =>
      if wbits a 46 36 = p.core ∧ base ≤ wbits a 18 0 ∧ wbits a 18 0 < base + 0x4000 then
        some (BitVec.ofNat 64 (0xF0 * 2 ^ 56 + (wbits a 18 0 - base)))
      else none
    | some .loc, .clus =>
      if wbits a 46 36 / 256 = p.core / 256 ∧ 0x6_0000 ≤ wbits a 18 0 then
        some (clusterPtr (wbits a 46 36) (wbits a 18 0 - 0x6_0000))
      else none
    | some .clus, .loc => some (localPtr (p.core / 256 * 256 + wbits a 24 17) (wbits a 16 0 + 0x6_0000))
    | some .gang, .loc =>
      match s.spot a false with
      | .ok (.sp g o) => if g / 2048 = p.pkg then some (localPtr (g % 2048) o) else none
      | _ => none
    | some v, w => if v = w then some a else none
    | none, _ => none

/-- `SPCAST` (R116). -/
def execSpcast (w : Win) (d a : Reg) (s : State) : Out :=
  match s.cast w (s.x a) with
  | some p => putX s d p 4
  | none => .next (s.takeTrap (.cast (s.x a) w))

/-- The pointer SPMAKE gives, if its requirement holds (R117). -/
def State.make (s : State) (w : Win) (x : W64) : Option W64 :=
  let p := s.me.place
  let within (n : Nat) (v : W64) : Option W64 := if x.toNat < n then some v else none
  match w with
  | .glob => if formed x && wbits x 63 56 == 0 then some x else none
  | .priv => within 0x4000 (BitVec.ofNat 64 (0xF0 * 2 ^ 56) + x)
  | .loc => within 0x8_0000 (localPtr p.core x.toNat)
  | .clus => within 0x2_0000 (clusterPtr p.core x.toNat)
  | .die => within 0x200_0000 (BitVec.ofNat 64 (0xF3 * 2 ^ 56 + p.core / 256 * 2 ^ 25 + x.toNat))
  | .gang =>
    match s.flaggedOf s.me.id.comp with
    | some (g, m) =>
      if g.gang && g.winOpen && decide (m.win = .attached) then
        within m.len (BitVec.ofNat 64 (0xF4 * 2 ^ 56 + m.idx * 2 ^ 18 + x.toNat))
      else none
    | none => none

/-- `SPMAKE` (R117). -/
def execSpmake (w : Win) (d a : Reg) (s : State) : Out :=
  match s.make w (s.x a) with
  | some p => putX s d p 4
  | none => .next (s.takeTrap (.cast (s.x a) w))

/-- `PREF` (R118): no visible state changes, and nothing faults. -/
def execPref (_l2 : Bool) (_a : Reg) (s : State) : Out := .next (s.retire 4)

end Sys2Proof.Machine
end

