-- ==== Sys2Proof/Machine/Atomics.lean ====
section
/-! DEFINITION. AMO, AMOP and CAS (R119-R122). -/

namespace Sys2Proof.Machine

/-- The operations of AMO and AMOP by their offsets (R67, R119, R121), on `n`-bit values. -/
def amoFn (c : FCtx) (op : Nat) (t : Ty) (m b : Nat) : Nat :=
  let n := t.bits
  match op with
  | 0 => (m + b) % 2 ^ n
  | 1 => m &&& b
  | 2 => m ||| b
  | 3 => m ^^^ b
  | 4 => if asInt true n b < asInt true n m then b else m
  | 5 => if asInt true n m < asInt true n b then b else m
  | 6 => Nat.min m b
  | 7 => Nat.max m b
  | 8 => b
  | _ => (fAdd c .f32 m b).1

/-- FMTS bit of an atomic's type (R247). -/
def fmtBit (t : Ty) : Nat := if t = .f32 then 2 else if t.bits = 64 then 1 else 0

/-- The checks of an atomic on a far target: RAPERM, then AMOFMT (R122). -/
def farAtomic (f : Far) (op : Nat) (t : Ty) : Except Trap Unit :=
  if !f.rap then .error (.of Cause.raperm f.va (BitVec.ofNat 64 f.aper))
  else if (aperOps f.entry).testBit op && (aperFmts f.entry).testBit (fmtBit t) then .ok ()
  else .error (.of Cause.amofmt f.va (BitVec.ofNat 64 (aperRev f.entry + op * 256 + t.code.toNat * 65536)))

/-- The access of an atomic: never checked by the race detector (R269). -/
def Acc.unchecked (a : Acc) : Acc := { a with chk := false }

/-- The read and the write of an atomic as one event: the old value (R119). `f` answers nothing when it writes nothing. -/
def M.rmw (a : Acc) (f : Nat → Option Nat) : M Nat := do
  M.ready [a] true
  M.writable [a]
  let m := leNat ((← get).peek a.key a.n)
  modify (·.leaseLoad a)
  match f m with
  | some v => modify (·.storeAcc a (leBytes a.n v))
  | none => pure ()
  pure m

/-- The access of an atomic, checked: behind an aperture, it must be supported there (R122). -/
def M.atomicAt (va : W64) (op : Nat) (t : Ty) (need : Need) : M Target := do
  let x ← M.resolve va t.bytes need
  match x with
  | .far f => M.check (farAtomic f op t)
  | _ => pure ()
  pure x

/-- An AMO or CAS: the old value (R119, R120); one that its own core does not perform is split-phase (R248, R327). -/
def M.atomic (va : W64) (op : Nat) (t : Ty) (far : RemoteOp) (f : Nat → Option Nat) : M Nat := do
  match ← M.kept (M.atomicAt va op t .both) with
  | .mem a => M.rmw a.unchecked f
  | x => do
    let ws ← M.request 0 .reply (askFor x far false)
    pure (nth ws 0 0).toNat

/-- The result of an atomic in a register: extended as R81; the bits of a float (R119). -/
def atomicX (t : Ty) (m : Nat) : W64 := if t.isInt then ext t m else BitVec.ofNat 64 m

/-- An AMO (R119). It retires with its value, and the interval counters rise (R270). -/
def amo (op : Nat) (t : Ty) (d a : Reg) (b : SrcB) (s : State) : Out :=
  let c := fctxOf s.me.fcr
  let v := low t (bval s b)
  M.run (do
    let m ← M.atomic (s.x a) op t (.atomic op t (BitVec.ofNat 64 v) (BitVec.ofNat 2 c.rm) c.fz c.dn) (fun m => some (amoFn c op t m v))
    modify (fun u => (u.bumpAll).setX d (atomicX t m))
    M.done (blen 4 b)) s

/-- Where the target of an access lies, for the scopes of fences (R123). -/
def Target.home : Target → Home
  | .mem a => a.home
  | .gang a => a.home
  | .far _ => .away

/-- The entry of an AMOP that its target has not acknowledged (R119, R123). -/
def Target.out (t : Target) (ref : Nat) : AmopOut :=
  { ref, home := t.home, va := t.va, lines := t.lines, away := !t.isMem, gang := gangVa t.va }

/-- An AMOP waits for its acknowledgement. -/
def Strand.await (c : Strand) (o : AmopOut) : Strand := { c with amops := c.amops ++ [o] }

/-- An AMOP (R119): it retires at issue, ordered like a store; UNACK counts it until its target acknowledges it. -/
def amop (op : Nat) (t : Ty) (a : Reg) (b : SrcB) (s : State) : Out :=
  let c := fctxOf s.me.fcr
  let v := low t (bval s b)
  M.run (do
    let t' ← M.atomicAt (s.x a) op t .store
    match t' with
    | .mem x => do
      let _ ← M.rmw x.unchecked (fun m => some (amoFn c op t m v))
      modify (fun u => (({ u with next := u.next + 1 }).modMe (fun k =>
        { k.await (t'.out u.next) with unack := k.unack + 1 })).send .rpy u.me.place.gcore u.me.place.gcore
          (.amopAck u.next u.me.id))
    | _ => do
      M.blockIf s.me.farAmop .unacked
      M.outgoing
      modify (fun u => (askFor t' (.atomic op t (BitVec.ofNat 64 v) (BitVec.ofNat 2 c.rm) c.fz c.dn) true u.next
        ({ u with next := u.next + 1 })).modMe (fun k => k.await (t'.out u.next)))
    M.done (blen 4 b)) s

/-- `AMO.add` (R119). -/
def execAmoAdd := amo 0
/-- `AMO.and` (R119). -/
def execAmoAnd := amo 1
/-- `AMO.or` (R119). -/
def execAmoOr := amo 2
/-- `AMO.xor` (R119). -/
def execAmoXor := amo 3
/-- `AMO.min` (R119). -/
def execAmoMin := amo 4
/-- `AMO.max` (R119). -/
def execAmoMax := amo 5
/-- `AMO.minn` (R119). -/
def execAmoMinn := amo 6
/-- `AMO.maxn` (R119). -/
def execAmoMaxn := amo 7
/-- `AMO.swap` (R119). -/
def execAmoSwap := amo 8
/-- `AMO.fadd` (R119, R121). -/
def execAmoFadd := amo 9
/-- `AMOP.add` (R119). -/
def execAmopAdd := amop 0
/-- `AMOP.and` (R119). -/
def execAmopAnd := amop 1
/-- `AMOP.or` (R119). -/
def execAmopOr := amop 2
/-- `AMOP.xor` (R119). -/
def execAmopXor := amop 3
/-- `AMOP.min` (R119). -/
def execAmopMin := amop 4
/-- `AMOP.max` (R119). -/
def execAmopMax := amop 5
/-- `AMOP.minn` (R119). -/
def execAmopMinn := amop 6
/-- `AMOP.maxn` (R119). -/
def execAmopMaxn := amop 7
/-- `AMOP.swap` (R119). -/
def execAmopSwap := amop 8
/-- `AMOP.fadd` (R119, R121). -/
def execAmopFadd := amop 9

/-- `CAS` (R120): x[c] is stored when memory holds x[b]; a failed comparison is a load. -/
def execCas (t : Ty) (d a : Reg) (b : SrcB) (c : Reg) (s : State) : Out :=
  let want := low t (bval s b)
  let new := low t (s.x c)
  M.run (do
    let m ← M.atomic (s.x a) 10 t (.cas t (BitVec.ofNat 64 want) (BitVec.ofNat 64 new)) (fun m => if m = want then some new else none)
    modify (fun u => (u.bumpAll).setX d (ext t m))
    M.done (blen 12 b)) s

end Sys2Proof.Machine
end

