-- ==== Sys2Proof/Machine/Sync.lean ====
section
/-! DEFINITION. Fences (R123) and barrier objects (R134, R135). -/

namespace Sys2Proof.Machine

/-! ## Fences -/

/-- The messages a context sent that have not departed, in the injection queues of every core it ran on (R184). -/
def State.sentBy (s : State) (i : Sid) : List InjEntry :=
  s.cores.flatMap (fun c => c.2.inj.filter (fun e => decide (e.sender = some i)))

/-- Where the receiver of a message is (R123). -/
def State.messageHome (s : State) (e : InjEntry) : Home :=
  match (s.launch e.launch).coreOf e.vc with
  | some g => Home.ofCore g
  | none => Home.away

/-- A matrix instruction that FENCE.eng waits for: MWLD, MMUL and MDRAIN (R123). (DEDUCED, log entry 30) -/
def MatOp.fenced (o : MatOp) : Bool :=
  match o.kind with
  | .mwld _ _ _ | .mmulMem _ _ _ | .mmulQueue _ _ _ | .mdrain _ _ _ _ _ _ _ => true
  | _ => false

/-- The matrix instructions of a context that are not complete, on every core. -/
def State.matrixBy (s : State) (i : Sid) : List MatOp :=
  s.cores.flatMap (fun c => (c.2.mq0 ++ c.2.mq1).filter (fun o => decide (o.owner = i)))

/-- The copies and notices of a context that are not complete. -/
def State.copiesBy (s : State) (i : Sid) : List EngOp :=
  s.ops.filterMap (fun o => if o.2.owner = i then some o.2 else none)

/-- Engine operations of the executing context within a scope that are not complete (R123). (DEDUCED, log entry 30) -/
def State.engineBusy (s : State) (sc : Scope) : Bool :=
  let p := s.me.place
  (s.copiesBy s.me.id).any (fun o => o.homes.any (inScope sc p)) ||
    (s.sentBy s.me.id).any (fun e => inScope sc p (s.messageHome e)) ||
    (s.matrixBy s.me.id).any (fun o => o.fenced && o.homes.any (inScope sc p))

/-- AMOPs of the executing context within a scope that are not acknowledged (R123). -/
def State.amopBusy (s : State) (sc : Scope) : Bool := s.me.amops.any (fun a => inScope sc s.me.place a.home)

/-- `FENCE` (R123): bit 0 of the kind is .eng, bit 1 .post. Counters 0 to the scope's number rise (R270). -/
def execFence (kind : BitVec 2) (scope : Scope) (s : State) : Out :=
  if kind.getLsbD 0 && s.engineBusy scope then .next (s.block (.engines scope))
  else if kind.getLsbD 1 && s.amopBusy scope then .next (s.block (.amops scope))
  else .next ((s.modStrand s.me.id.comp (·.bump scope.code.toNat)).retire 4)

/-! ## Barrier objects -/

/-- A barrier object (R134). -/
structure Bar where
  phase : Nat
  txn : Nat
  arrp : Nat
  expa : Nat
  deriving DecidableEq, Repr

/-- The object in a word. -/
def Bar.ofNat (w : Nat) : Bar := { phase := bits w 63 48, txn := bits w 47 24, arrp := bits w 23 12, expa := bits w 11 0 }

/-- The word of an object. -/
def Bar.toNat (b : Bar) : Nat := b.phase * 2 ^ 48 + b.txn * 2 ^ 24 + b.arrp * 2 ^ 12 + b.expa

/-- The evaluation that follows every change (R134). -/
def Bar.eval (b : Bar) : Bar :=
  if b.arrp = 0 ∧ b.txn = 0 then { b with phase := (b.phase + 1) % 2 ^ 16, arrp := b.expa } else b

/-- The completion decrement (R134). -/
def Bar.decrement (b : Bar) : Bar := Bar.eval { b with txn := (b.txn + 2 ^ 24 - 1) % 2 ^ 24 }

/-- An arrival (R135 BARARV). -/
def Bar.arrive (b : Bar) : Bar := Bar.eval { b with arrp := b.arrp - 1 }

/-- Transactions expected (R135 BAREXP). -/
def Bar.expect (b : Bar) (n : Nat) : Bar := Bar.eval { b with txn := (b.txn + n) % 2 ^ 24 }

/-- A new object (R135 BARINIT). -/
def Bar.init (n : Nat) : Bar := Bar.eval { phase := 0, txn := 0, arrp := n, expa := n }

/-- An object may not lie in the global or gang window (R125, R135). -/
def Trap.barWindow (a : W64) : Trap := .of Cause.space a 1

/-- Is an address in the global or gang window? -/
def notScratch (a : W64) : Bool := wbits a 63 56 == 0 || wbits a 63 56 == 0xF4

/-- The object at an address, checked as its access: never by the race detector (R269). -/
def M.barAt (a : W64) : M Acc := do
  M.trapIf (notScratch a) (.barWindow a)
  match ← M.resolve a 8 .both with
  | .mem x => pure x.unchecked
  | _ => throw (.trap (.barWindow a))

/-- A load of the object. -/
def M.barLoad (a : W64) : M Bar := do
  let x ← M.barAt a
  M.ready [x] true
  pure (.ofNat (leNat (← M.loadAcc x)))

/-- A change of the object as one event: the object before it. -/
def M.barChange (a : W64) (f : Bar → Bar) : M Bar := do
  let x ← M.barAt a
  let w ← M.rmw x (fun w => some (f (.ofNat w)).toNat)
  pure (.ofNat w)

/-- The instruction retires and the interval counters rise (R270). -/
def M.synced (n : Nat) : M Unit := do
  modify (·.bumpAll)
  M.done n

/-- `BARINIT` (R135): a store. -/
def execBarinit (a b : Reg) (s : State) : Out :=
  let n := (s.x b).toNat
  M.run (do
    M.trapIf (n < 1 || 4095 < n) (.operand b (s.x b))
    let x ← M.barAt (s.x a)
    M.stores [(.mem x, (leBytes 8 (Bar.init n).toNat).map some)]
    M.done 4) s

/-- `BARARV` (R135). -/
def execBararv (d a : Reg) (s : State) : Out :=
  M.run (do
    let x ← M.barAt (s.x a)
    M.ready [x] true
    M.blockIf ((Bar.ofNat (leNat (s.peek x.key 8))).arrp == 0) .arrivalDue
    let b ← M.barChange (s.x a) Bar.arrive
    modify (·.setX d (BitVec.ofNat 64 b.phase))
    M.synced 4) s

/-- `BAREXP` (R135). -/
def execBarexp (a b : Reg) (s : State) : Out :=
  M.run (do
    M.trapIf (2 ^ 23 ≤ (s.x b).toNat) (.operand b (s.x b))
    let _ ← M.barChange (s.x a) (fun o => o.expect (s.x b).toNat)
    M.synced 4) s

/-- `BARWAIT` (R135). -/
def execBarwait (a b : Reg) (s : State) : Out :=
  M.run (do
    let o ← M.barLoad (s.x a)
    M.blockIf (o.phase == wbits (s.x b) 15 0) .phase
    M.synced 4) s

/-- `BARTRY` (R135). -/
def execBartry (d a b : Reg) (s : State) : Out :=
  M.run (do
    let o ← M.barLoad (s.x a)
    modify (·.setX d (boolW (o.phase != wbits (s.x b) 15 0)))
    M.synced 4) s

end Sys2Proof.Machine
end

