-- ==== Sys2Proof/Machine/Engines.lean ====
section
/-! DEFINITION. The instructions that hand work to the streamers: COPY, COPYB, NOTICE, TIDGET, TIDWAIT, PUBLISH and NACK
(R124-R133, R344-R348). -/

namespace Sys2Proof.Machine

/-! ## Ranges -/

/-- Runs of rising keys. -/
abbrev Runs := List Run

/-- A run of a scratchpad. -/
def spRun (key len va : Nat) : Run := { key, len, va, leaf := none }

/-- The rest of a run from an offset. -/
def Run.drop (r : Run) (n : Nat) : Run := { r with key := r.key + n, len := r.len - n, va := r.va + n }

/-- The first bytes of a run. -/
def Run.take (r : Run) (n : Nat) : Run := { r with len := n }

/-- A run holds a key. -/
def Run.has (r : Run) (k : Nat) : Bool := decide (r.key ≤ k) && decide (k < r.key + r.len)

/-- Where a byte of a run lies (R123, R246): none where another package's tables or a host place it. -/
def Run.homeOf (r : Run) (k : Nat) : Home :=
  match keyCore k, keyDie k, r.leaf with
  | some g, _, _ => .ofCore g
  | _, some d, _ => .ofDie d
  | _, _, some w => .ofDie (k / 2 ^ 56 * 8 + homeDie (k % 2 ^ 56) w)
  | _, _, none => .away

/-- Where a byte of a list of runs lies. -/
def homeIn (rs : Runs) (k : Nat) : Home := ((rs.find? (·.has k)).map (·.homeOf k)).getD .away

/-- The homes of a run, line by line. -/
def Run.homes (r : Run) : List Home :=
  ((List.range ((r.key + r.len - 1) / 64 - r.key / 64 + 1)).map (fun i => r.homeOf (r.key - r.key % 64 + 64 * i))).eraseDups

/-- The homes of a list of runs. -/
def homesOf (rs : Runs) : List Home := (rs.flatMap Run.homes).eraseDups

/-- SPACE of a range (R125). -/
def Trap.range (a : W64) (n : Nat) : Trap := .of Cause.space a (BitVec.ofNat 64 n)

/-- The pages of a range of addresses: first address and length of each part. -/
def pageParts (va n : Nat) : List (Nat × Nat) :=
  if n = 0 then []
  else (List.range ((va + n - 1) / 65536 - va / 65536 + 1)).map (fun i =>
    let p := va / 65536 + i
    let lo := Nat.max va (p * 65536)
    (lo, Nat.min (va + n) ((p + 1) * 65536) - lo))

/-- The pages of a global range checked and translated one after another (R124); `i` counts the probes of peers. (DEDUCED, log entry 36) -/
def M.pages (need : Need) : Nat → List (Nat × Nat) → M (Runs × Nat)
  | i, [] => pure ([], i)
  | i, (va, n) :: r => do
    let s ← get
    match ← M.global s.me.level va n need with
    | .far f =>
      let (k, i) ← (if aperKind f.entry = 2 then pure (hostKey (aperTarget f.entry) f.t.toNat, i)
        else do
          let f ← M.place i need.w f
          pure (f.at_.getD 0, i + 1))
      let (rs, i) ← M.pages need i r
      pure ({ key := k, len := n, va, leaf := none } :: rs, i)
    | t =>
      let leaf := match s.walkAt s.me.place.gcore s.myLaunch.vf va with
        | .ok f => some f.word
        | .error _ => none
      let (rs, i) ← M.pages need i r
      pure ({ key := (t.acc?.map (·.key)).getD 0, len := n, va, leaf } :: rs, i)

/-- The parts of a scratchpad range that R238 judges one by one: 64 KiB granules of a die scratchpad. -/
def holdParts (a : W64) (n : Nat) : Spot → List (W64 × Spot)
  | .die d o => (pageParts o n).map (fun (x, _) => (a + BitVec.ofNat 64 (x - o), .die d x))
  | sp => [(a, sp)]

/-- R238 for an engine's range: an evicted target does not block. -/
def State.engineHold (s : State) (a : W64) (n : Nat) (sp : Spot) : Except Trap Unit :=
  match (holdParts a n sp).find? (fun (x, p) => s.checksHold x p && s.myLaunch.holds p == some false) with
  | some (x, _) => .error (Trap.of Cause.perm x 5)
  | none => .ok ()

/-- An engine's range of `n` bytes, with every check of R104, R125 and R238. (DEDUCED, log entry 31) (DEDUCED, log entry 36) -/
def M.range (need : Need) (i : Nat) (a : W64) (n : Nat) : M (Runs × Nat) := do
  if n = 0 then pure ([], i)
  else
    let s ← get
    let sp ← M.check (s.spot a true)
    M.trapIf (s.reach a < n) (.range (a + BitVec.ofNat 64 (s.reach a)) 2)
    match sp with
    | .glob va => M.pages need i (pageParts va n)
    | sp => do
      M.trapIf (s.crossesShadow sp.key n) (.range a 2)
      M.trapIf (s.behindShadow sp.key n) (.range a 3)
      M.check (s.engineHold a n sp)
      pure ([spRun sp.key n a.toNat], i)

/-- Several source ranges in order. -/
def M.ranges (need : Need) : Nat → List (W64 × Nat) → M (List Runs × Nat)
  | i, [] => pure ([], i)
  | i, (a, n) :: r => do
    let (rs, i) ← M.range need i a n
    let (rss, i) ← M.ranges need i r
    pure (rs :: rss, i)

/-- The barrier operand of an engine command: none for x0 (R125). (DEDUCED, log entry 31) -/
def M.barOperand (d : Reg) : M (Option Nat) := do
  let s ← get
  let a := s.x d
  if d = 0 then pure none
  else do
    M.trapIf (notScratch a) (.barWindow a)
    let sp ← M.check (s.spot a true)
    M.trapIf (s.behindShadow sp.key 8) (.range a 3)
    M.trapIf (a.toNat % 8 != 0) (Trap.of Cause.align a 8)
    M.check (s.engineHold a 8 sp)
    pure (some sp.key)

/-! ## Segments (R128, R344) -/

/-- A run cut at 4 KiB boundaries. -/
def cutRun (r : Run) : Runs :=
  if r.len = 0 then []
  else (List.range ((r.key + r.len - 1) / 4096 - r.key / 4096 + 1)).map (fun i =>
    let lo := Nat.max r.key ((r.key / 4096 + i) * 4096)
    (r.drop (lo - r.key)).take (Nat.min (r.key + r.len) ((r.key / 4096 + i + 1) * 4096) - lo))

/-- The first `n` bytes of a list of runs, and the rest. -/
def splitRuns : Runs → Nat → Runs × Runs
  | [], _ => ([], [])
  | x :: r, n =>
    if n = 0 then ([], x :: r)
    else if x.len ≤ n then (let (a, b) := splitRuns r (n - x.len); (x :: a, b))
    else ([x.take n], x.drop n :: r)

/-- The pieces that carry a run of source bytes to runs of the destination. -/
def pieces : Nat → Runs → List Piece
  | _, [] => []
  | src, x :: r => .run src x.key x.len :: pieces (src + x.len) r

/-- The segments of source runs, each with the destination of its bytes. -/
def segmentsOf : Runs → Runs → List (Run × List Piece)
  | [], _ => []
  | x :: r, dst =>
    let (a, b) := splitRuns dst x.len
    (x, pieces x.key a) :: segmentsOf r b

/-- Two lists of runs share a byte. -/
def overlaps (a b : Runs) : Bool :=
  a.any (fun x => b.any (fun y => decide (x.key < y.key + y.len) && decide (y.key < x.key + x.len)))

/-- The key at an offset of a list of runs. -/
def keyAt : Runs → Nat → Nat
  | [], _ => 0
  | x :: r, i => if i < x.len then x.key + i else keyAt r (i - x.len)

/-- A list in parts of at most `n`. -/
def chunks {α : Type} (n : Nat) : Nat → List α → List (List α)
  | 0, _ => []
  | fuel + 1, l => if l.isEmpty then [] else l.take n :: chunks n fuel (l.drop n)

/-- Every key of a list of runs, in order. -/
def runKeys (r : Runs) : List Nat := r.flatMap (fun x => (List.range x.len).map (x.key + ·))

/-- Code `i` of `n` in all, at half `j` of the bytes of a row part that starts at a key (R128). -/
def codePiece (dst : Runs) (n key i j : Nat) : Piece :=
  .code (key + j / 2) (j % 2 == 1) (keyAt dst (i / 2)) (if i % 2 = 1 then 0xF0 else if i + 1 = n then 0xFF else 0x0F)

/-- The segments of the parts of one row of codes: `i` is the number of its first code, `left` counts its codes, `n` all (R128). -/
def codeRow (dst : Runs) (n : Nat) : Nat → Nat → Runs → List (Run × List Piece)
  | _, _, [] => []
  | i, left, x :: r =>
    let k := Nat.min left (2 * x.len)
    (x, (List.range k).map (fun j => codePiece dst n x.key (i + j) j)) :: codeRow dst n (i + k) (left - k) r

/-- The segments of a view whose rows end in the middle of a byte. -/
def codeSegments (dst : Runs) (n cols : Nat) (rows : List Runs) : List (Run × List Piece) :=
  (rows.zipIdx.map (fun (r, i) => codeRow dst n (i * cols) cols (r.flatMap cutRun))).flatten

/-- The streamer that serves a segment: its core's, its bank's, its home slice's, or, behind an aperture, that of a slice of
the issuing die (R344). -/
def Run.server (die : Nat) (r : Run) : Nat :=
  match keyCore r.key, keyDie r.key, r.leaf with
  | some g, _, _ => 2 ^ 41 + g
  | _, some d, _ => 2 ^ 42 + d * 32 + bits r.key 10 6
  | _, _, some w => 2 ^ 43 + (r.key / 2 ^ 56 * 8 + homeDie (r.key % 2 ^ 56) w) * 32 + homeSlice (r.key % 2 ^ 56) w
  | _, _, none => 2 ^ 43 + die * 32 + bits r.va 11 7

/-- Segments numbered, each with its streamer. -/
def numbered (die : Nat) (l : List (Run × List Piece)) : List Seg := l.zipIdx.map (fun (x, i) => { n := i, server := x.1.server die, pieces := x.2 })

/-- The stores, of those a read may come before, that one read event of a sector does come before: all from a point on (R262). Each
keeps its sector as it stood before it, so that the event sees the sector as it was at one place of the order. -/
def oldsAt (site tick sector : Nat) (olds : List Old) : List Old :=
  let l := olds.filter (fun o => touchesSector o.key o.old.length sector)
  match l.zipIdx.find? (fun o => Config.freeOld site tick (sector + 2 ^ 80 * o.2)) with
  | some o => l.drop o.2
  | none => []

/-- One byte as an engine reads it, with its poison mark: its sector as it stood before the first of the stores that the sector's
read comes before (R262). -/
def State.engineByte (s : State) (olds : List Old) (k : Nat) : Byte × Bool :=
  let k := s.activeKey k
  (((oldsAt 2 s.tick (k / 32) olds).findSome? (·.byte? k)).getD (Memory.get s.mem k), s.poisoned k 1)

/-! ## The tracker (R129, R348) -/

/-- The next transfer ID of a channel: one more, skipping 0 (R129). -/
def Strand.nextId (c : Strand) (ch : Chan) : W32 :=
  let n := c.tcnt.get ch.toFin + 1
  if n = 0 then 1 else n

/-- The watermark raised past every unbroken run of completed IDs (R129). -/
def Strand.raise_ (c : Strand) (ch : Chan) : Nat → Strand
  | 0 => c
  | fuel + 1 =>
    let n := c.chwm.get ch.toFin + 1
    let n := if n = 0 then 1 else n
    if c.tdone.contains (ch.toNat, n) then
      Strand.raise_ { c with chwm := c.chwm.set ch.toNat n ch.isLt, tdone := c.tdone.erase (ch.toNat, n) } ch fuel
    else c

/-- A transfer ID completed (R129). -/
def Strand.finish (c : Strand) (ch : Chan) (id : W32) : Strand :=
  let c := { c with tdone := c.tdone ++ [(ch.toNat, id)] }
  c.raise_ ch c.tdone.length

/-- The number of a memory unit, as a packet names it: a core's scratchpad, a bank of a die scratchpad, or a package or host
(R371; DESIGN CHOICE, log entry 14). -/
def unitOf (k : Nat) : Nat :=
  match keyCore k, keyDie k with
  | some g, _ => 2 ^ 41 + g
  | _, some d => 2 ^ 42 + d * 32 + bits k 10 6
  | _, _ => 2 ^ 40 + k / 2 ^ 56

/-- The completion decrement sent to a barrier object (R134, R348). -/
def State.sendDecrement (s : State) (launch src : Nat) : Option Nat → State
  | some k => s.send .ctl src (unitOf k) (.decrement launch k)
  | none => s

/-- The lowest tracker entry that no outstanding operation of a context uses. -/
def State.freeSlot (s : State) (i : Sid) : Nat :=
  ((List.range 32).find? (fun n => !(s.copiesBy i).any (fun o => o.slot == n))).getD 0

/-- A new tracker entry for the executing context: its number, and the state in which the entry's generation has
advanced and the transfer ID is taken (R129, R347, R348). -/
def State.track (s : State) (r : Nat) (ch : Chan) (notice : Bool) (src dst : Runs) (homes : List Home) (segs : List Seg)
    (serial : Bool) (bar : Option Nat) (olds : List Old) (rlx : Bool) : State :=
  let slot := s.freeSlot s.me.id
  let op : EngOp :=
    { owner := s.me.id, slot, gen := nth s.me.gens.toList slot 0, ch := ch.toNat, id := s.me.nextId ch, notice, src, dst, homes,
      unsent := segs, sent := [], part := [], serial, bar,
      stamp := if s.raceOn then some s.myComp.ivals else none, olds, rlx }
  let s := { s with ops := AMap.put s.ops r op }
  s.modMe (fun c => { c with tcnt := c.tcnt.set ch.toNat op.id ch.isLt,
                             gens := Vector.ofFn (fun i => if i.val = slot then c.gens.get i + 1 else c.gens.get i) })

/-- A store touches a run. -/
def State.storeIn (s : State) (o : Stored) (r : Run) : Bool :=
  decide (s.activeKey r.key < o.key + o.n) && decide (o.key < s.activeKey r.key + r.len)

/-- The stores of the strand that a `.rlx` read of runs may come before (R124, R262). (DEDUCED, log entry 60) -/
def State.oldsIn (s : State) (rlx : Bool) (src : Runs) : List Old := if rlx then (s.me.wlog.filter (fun o => src.any (s.storeIn o))).map (·.old) else []

/-- The core where a context is. -/
def State.ownerCore (s : State) (i : Sid) : Nat := (s.strand? i).elim 0 (·.place.gcore)

/-- The command of a segment leaves for its streamer on REQ (R344); that of an `.ord` operation follows its strand's earlier
atomics (R262). -/
def State.command (s : State) (ref : Nat) (op : EngOp) (g : Seg) : State :=
  s.sendPacket { vn := .req, src := s.ownerCore op.owner, dst := g.server, body := .segCmd ref g.n,
                 after := if op.rlx then none else some (op.owner, ref), sent := s.tick }

/-- The commands of an operation's segments that are due: all of them, or the next one where the ranges overlap (R345). -/
def State.commands (s : State) (ref : Nat) : State :=
  match AMap.get s.ops ref with
  | some op => (if op.serial then (if op.sent.isEmpty then op.unsent.take 1 else []) else op.unsent).foldl (fun s g => s.command ref op g) s
  | none => s

/-- Runs with the offset of each. -/
def withOffsets (r : Runs) : List (Nat × Run) := (r.foldl (fun (a : Nat × List (Nat × Run)) x => (a.1 + x.len, a.2 ++ [(a.1, x)])) (0, [])).2

/-- The destination lies above the source: the first byte that they share, at two offsets, has the lower one in the destination
(R126; DEDUCED, log entry 34). -/
def above (src dst : Runs) : Bool :=
  ((withOffsets src).findSome? (fun x => (withOffsets dst).findSome? (fun y =>
    let k := Nat.max x.2.key y.2.key
    let i := x.1 + (k - x.2.key)
    let j := y.1 + (k - y.2.key)
    if k < x.2.key + x.2.len && k < y.2.key + y.2.len && i != j then some (decide (j < i)) else none))).getD false

/-- A checked copy is accepted (R124, R125): it waits for a tracker entry; one of no bytes completes at once. -/
def M.issueCopy (rlx : Bool) (ch : Chan) (src dst : Runs) (segs : List (Run × List Piece)) (bar : Option Nat) : M Unit := do
  let s ← get
  M.blockIf (32 ≤ (s.copiesBy s.me.id).length) .tracker
  M.outgoing
  if segs.isEmpty then
    modify (fun s => (s.modMe (fun c =>
      { c with tcnt := c.tcnt.set ch.toNat (c.nextId ch) ch.isLt }.finish ch (c.nextId ch))).sendDecrement s.me.id.launch s.me.place.gcore bar)
  else
    let serial := overlaps src dst
    let l := numbered s.me.place.gdie segs
    modify (fun s => (({ s with next := s.next + 1 }).track s.next ch false src dst (homesOf dst)
      (if serial && above src dst then l.reverse else l) serial bar (s.oldsIn rlx src) rlx).commands s.next)
  M.done 12

/-- `COPY` (R125): the destination range, the source range, then the barrier operand are checked. -/
def execCopy (rlx : Bool) (ch : Chan) (a b c d : Reg) (s : State) : Out :=
  let n := (s.x c).toNat
  M.run (do
    M.trapIf (2 ^ 32 ≤ n) (.operand c (s.x c))
    let (dst, i) ← M.range .store 0 (s.x a) n
    let (src, _) ← M.range .load i (s.x b) n
    let bar ← M.barOperand d
    M.issueCopy rlx ch src dst (segmentsOf (src.flatMap cutRun) dst) bar) s

/-- The rows of a view as ranges: those that follow one another without a gap make one (R344). -/
def joinRows : List (W64 × Nat) → List (W64 × Nat)
  | [] => []
  | (a, n) :: r =>
    match joinRows r with
    | (b, m) :: r' => if b = a + BitVec.ofNat 64 n then (a, n + m) :: r' else (a, n) :: (b, m) :: r'
    | [] => [(a, n)]

/-- The bytes of one row of a view. -/
def Window.rowBytes (v : Window) : Nat := (v.cols * v.rec_.ty.bits + 7) / 8

/-- A .c4 view whose rows end in the middle of a byte (R128). -/
def Window.ragged (v : Window) : Bool := decide (v.rec_.ty = .c4) && v.cols % 2 == 1

/-- The rows of a view as ranges of the source window. -/
def Window.ranges (v : Window) : List (W64 × Nat) :=
  let rows := (List.range v.allRows).map (fun r => (v.rowAt r, v.rowBytes))
  if v.rowBytes = 0 then [] else if v.ragged then rows else joinRows rows

/-- The bytes that a view packs to (R128). -/
def Window.packed (v : Window) : Nat := (v.count * v.rec_.ty.bits + 7) / 8

/-- `COPYB` (R128): its view stands in the place of the source range (R125). (DEDUCED, log entry 31) -/
def execCopyb (rlx : Bool) (ch : Chan) (a : Reg) (view : View) (d : Reg) (s : State) : Out :=
  M.run (do
    let b ← M.check (s.myLaunch.buf view.idx.toNat)
    let w := windowOf b view
    let (dst, i) ← M.range .store 0 (s.x a) w.packed
    M.trapIf w.bad w.space
    let (rows, _) ← M.ranges .load i w.ranges
    let bar ← M.barOperand d
    let src := rows.flatten
    M.issueCopy rlx ch src dst
      (if w.ragged then codeSegments dst w.count w.cols rows else segmentsOf (src.flatMap cutRun) dst) bar) s

/-- `TIDGET` (R129). -/
def execTidget (d : Reg) (ch : Chan) (s : State) : Out := .next ((s.setX d ((s.me.tcnt.get ch.toFin).setWidth 64)).retire 12)

/-- `TIDWAIT` (R129): the distance is taken modulo 2^32. -/
def execTidwait (ch : Chan) (a : Reg) (s : State) : Out :=
  if (s.me.chwm.get ch.toFin - (s.x a).setWidth 32).toNat < 2 ^ 31 then .next (s.bumpAll.retire 12)
  else .next (s.block (.transfer ch))

/-! ## Notices (R130-R132) -/

/-- The sender buffer as a receiver sees it: a private one becomes a local pointer to the sender's core (R130). A local one
that names another core, which R125 allows to an engine, stays as it is, so that the receiver reads the buffer that was checked
(DEDUCED, log entry 35). -/
def State.noticeBuf (s : State) (b : W64) : W64 :=
  if wbits b 63 56 = 0xF0 then localPtr s.me.place.core (sliceAt s.me.place.slot + wbits b 13 0) else b

/-- A buffer that a receiver on another package can reach: global or gang (R130). -/
def shared (b : W64) : Bool := wbits b 63 56 == 0 || wbits b 63 56 == 0xF4

/-- A notice's handle (R347). (DEDUCED, log entry 35) -/
def handleOf (tid slot : Nat) (gen : BitVec 3) : W32 := BitVec.ofNat 32 (tid * 256 + slot * 8 + gen.toNat)

/-- The NOTICE leaves: its tracker entry, and the notice on REQ to the receiver's core. -/
def State.postNotice (ch : Chan) (vc : Nat) (buf : W64) (n : Nat) (src : Runs) (bar : Option Nat) (r : Nat) (s : State) : State :=
  let g := (s.myLaunch.coreOf vc).getD 0
  let slot := s.freeSlot s.me.id
  let k : Kick := { launch := s.me.id.launch, handle := handleOf s.me.id.tid slot (nth s.me.gens.toList slot 0),
                    bytes := BitVec.ofNat 32 n, buf, vc := s.me.place.vc, tid := s.me.id.tid, pending := false, since := 0 }
  (s.track r ch true src [] [.ofCore g] [] false bar [] false).sendFromMe .req g (.notice r g k)

/-- `NOTICE` (R130): its receiver, its buffer and its barrier are checked; it waits until the notice is entered or
listed. -/
def execNotice (rlx : Bool) (ch : Chan) (a b c d : Reg) (s : State) : Out :=
  let n := (s.x c).toNat
  M.run (do
    let _ ← (if s.asking then M.final .notice
      else do
        M.trapIf (2 ^ 32 ≤ n) (.operand c (s.x c))
        let bad := Trap.of Cause.space (s.x b) (s.x a)
        match s.myLaunch.coreOf (s.x a).toNat with
        | none => M.trap bad
        | some g => M.trapIf (g / 2048 != s.me.place.pkg && !shared (s.x b)) bad
        let (src, _) ← M.range .load 0 (s.x b) n
        let bar ← M.barOperand d
        M.blockIf (32 ≤ (s.copiesBy s.me.id).length) .tracker
        M.blockIf (!rlx && s.me.farAmop) .notice
        M.outgoing
        M.post true .notice (State.postNotice ch (s.x a).toNat (s.noticeBuf (s.x b)) n src bar))
    M.synced 12) s

/-- The outstanding notice that a handle names (R347). -/
def State.noticeOf (s : State) (launch : Nat) (h : W32) : Option (Nat × EngOp) :=
  s.ops.find? (fun o => o.2.notice && o.2.owner.launch == launch && handleOf o.2.owner.tid o.2.slot o.2.gen == h)

/-- `NACK` (R132): it never waits for the sender, to whose core it travels after every access that its strand issued before
(R265, R347). (DEDUCED, log entry 35) -/
def execNack (a : Reg) (s : State) : Out :=
  let h := (s.x a).extractLsb' 32 32
  M.run (do
    M.outgoing
    match s.noticeOf s.me.id.launch h with
    | some (_, op) => modify (fun s => s.sendAfter .rpy s.me.place.gcore (s.ownerCore op.owner) s.me.id (.nack s.me.id.launch h))
    | none => pure ()
    M.synced 4) s

/-! ## PUBLISH (R133) -/

/-- The bytes that a matrix drain has still to write. -/
def MatOp.targets (o : MatOp) : List Nat :=
  match o.kind with
  | .mdrain _ _ _ _ dst _ _ => dst.flatten
  | _ => []

/-- Copies and drains of the executing context into a logical range that are not complete (R133). -/
def State.publishBusy (s : State) (base len : Nat) : Bool :=
  (s.copiesBy s.me.id).any (fun o => overlaps o.dst [spRun base len 0]) ||
    (s.matrixBy s.me.id).any (fun o => o.targets.any (fun k => decide (base ≤ k) && decide (k < base + len)))

/-- `PUBLISH` (R133): it waits for the strand's own copies into the range, then for the swap at the home; it follows the strand's
atomics (R261), and its swap in another memory is an outgoing effect (R367). -/
def execPublish (idx : BitVec 16) (s : State) : Out :=
  M.run (do
    let b ← M.check (s.myLaunch.buf idx.toNat)
    M.trapIf (!b.shadow) (.pool idx.toNat)
    let sp ← M.check (s.spot b.base true)
    M.check (s.engineHold b.base 1 sp)
    M.blockIf (s.myPend.got.isEmpty && s.publishBusy sp.key b.len) .publish
    M.blockIf s.me.farAmop .unacked
    if keyCore sp.key != some s.me.place.gcore then M.outgoing
    let _ ← M.request 0 .publish (fun r s => s.sendFromMe .ctl (unitOf sp.key) (.swap s.me.id sp.key r))
    M.synced 12) s

end Sys2Proof.Machine
end

