-- ==== Sys2Proof/Machine/Fetch.lean ====
section
/-! DEFINITION. Fetching an instruction's words and the boundary bitmap (R47, R56-R58, R102), the check of a branch
target, and the peer side of an address behind an aperture. -/

namespace Sys2Proof.Machine

/-- The global address of the bitmap byte of a code word (R56). -/
def bitmapVa (pc : W64) : Nat := 2 ^ 54 + pc.toNat / 32

/-- The key a peer's own tables give an address (R248): the walk of its virtual function, at level S. A peer's leaf that itself
names an aperture gives none. (DEDUCED, log entry 21) (DEDUCED, log entry 49) -/
def State.peerKey (s : State) (pkg vf va : Nat) (n : Need) : Except Trap (Nat × Leaf) :=
  match s.translate pkg vf .s (va % 2 ^ 55) n with
  | .ok f => if f.aper = 0 then .ok (dramKey pkg (f.phys (va % 2 ^ 55)), f) else .error (Trap.of Cause.page (BitVec.ofNat 64 va) 0x800)
  | .error t => .error t

/-- The bytes from a key on as they were before the stores that a fetch may not have seen: those after the context's last SYNCI
from a chosen point on (R102). `what` names the word or bit that is fetched, for which the choice is made. -/
def State.codeBytes (s : State) (k n what : Nat) : List Byte :=
  let l := (s.codeLog.drop s.me.synced).filter (fun o => decide (k < o.key + o.old.length) && decide (o.key < k + n))
  let l := match l.zipIdx.find? (fun o => Config.freeOld 1 s.tick (what + 2 ^ 100 * o.2)) with
    | some o => l.drop o.2
    | none => []
  (List.range n).map (fun i => (l.findSome? (·.byte? (k + i))).getD (Memory.get s.mem (k + i)))

/-- The bytes at a virtual address that fetch reads, under a need; those behind an aperture by a split-phase access (R248). -/
def M.fetchBytes (va n : Nat) (need : Need) (what : Nat) : M (List Byte) := do
  let s ← get
  match ← M.global s.me.level va n need with
  | .far f => do
    let ws ← M.atPc (BitVec.ofNat 64 (2 ^ 63 + va)) (M.request 0 .reply
      (sendRequest (.far f) (if need.x then .fetch n else .load n) false [] f.lines))
    pure (bytesOfWords ws n)
  | t => do
    let s ← get
    let k := (t.acc?.map (·.key)).getD 0
    M.trapIf (s.poisoned k n) (Trap.poison (BitVec.ofNat 64 va) (s.poisonUnit k n))
    pure (s.codeBytes k n what)

/-- One code word: from memory, or from the instruction store for a helper (R180). (DEDUCED, log entry 22) (DEDUCED, log entry 26) -/
def M.fetchWord (va : W64) : M W32 := do
  let s ← get
  if s.me.id.unit = .compute then do
    let bs ← M.fetchBytes (va.toNat % 2 ^ 55) 4 .fetch va.toNat
    pure (BitVec.ofNat 32 (leNat bs))
  else
    match s.myCore.istore with
    | some (base, bs) =>
      if base.toNat ≤ va.toNat && va.toNat + 4 ≤ base.toNat + bs.length then
        pure (BitVec.ofNat 32 (leNat ((bs.drop (va.toNat - base.toNat)).take 4)))
      else throw (.trap (.of Cause.illop va (decodeInfo 0 0)))
    | none => throw (.trap (.of Cause.illop va (decodeInfo 0 0)))

/-- The boundary bit of a code word; a bitmap byte that cannot be read raises PAGE (R56, R57). -/
def M.bitmapBit (pc : W64) : M Bool := do
  let s ← get
  let va := bitmapVa pc
  match M.fetchBytes va 1 .load (2 ^ 80 + pc.toNat) s with
  | .ok bs t => do
    set t
    pure ((nth bs 0 0).getLsbD (pc.toNat / 4 % 8))
  | .error (.trap t) _ =>
    if t.code = Cause.mchk then throw (.trap t)
    else throw (.trap (.of Cause.page (BitVec.ofNat 64 va) (if t.code = Cause.page then t.einfo else 0)))
  | .error (.block w) t => do
    set t
    throw (.block w)

/-- Code executes only from global addresses whose bit 54 is zero (R47, R57). -/
def codeAddr (t : W64) : Bool := t.toNat < 2 ^ 54

/-- The check of a taken branch's target (R57). -/
def M.target (t : W64) : M Unit := do
  M.trapIf (t.toNat % 4 != 0 || !codeAddr t) (Trap.of Cause.badtgt t 0)
  let b ← M.bitmapBit t
  M.trapIf (!b) (Trap.of Cause.badtgt t 0)

/-- The number of words of an instruction whose word 0 is known, less one (R46). -/
def moreWords (w0 : W32) : Nat :=
  match (w0.extractLsb' 0 2).toNat with
  | 0 => 0
  | 3 => 4
  | _ => 2

/-- The words after word 0; those at or above 2^54 are fetched as any others (DEDUCED, log entry 22). -/
def M.fetchMore (pc : W64) : Nat → Nat → M (List W32)
  | _, 0 => pure []
  | i, n + 1 => do
    let w ← M.fetchWord (pc + BitVec.ofNat 64 (4 * i))
    let r ← M.fetchMore pc (i + 1) n
    pure (w :: r)

/-- What fetch finds at the pc: an instruction's words, or a word where no instruction starts (R47, R58). -/
inductive Fetched
  | words (ws : List W32)
  | unmarked (w0 : W32)
  deriving DecidableEq, Repr

/-- The fetch of the instruction at the pc: every word, then the bitmap (R47, R56, R58). (DEDUCED, log entry 22) -/
def M.fetch : M Fetched := do
  let s ← get
  let pc := s.me.pc
  if !codeAddr pc then pure (.unmarked 0)
  else do
    let w0 ← M.fetchWord pc
    let r ← M.fetchMore pc 1 (moreWords w0)
    let b ← M.bitmapBit pc
    pure (if b then .words (w0 :: r) else .unmarked w0)

end Sys2Proof.Machine
end

