-- ==== Sys2Proof/Machine/Control.lean ====
section
/-! DEFINITION. Branches, jumps and LOOP (R57, R90-R92). -/

namespace Sys2Proof.Machine

/-- A displacement in words from the instruction (R90). -/
def dispTo (s : State) {n : Nat} (d : BitVec n) : W64 := s.me.pc + sx d <<< 2

/-- The strand continues at a checked target (R57). -/
def M.jump (t : W64) : M Unit := do
  M.target t
  modify (·.retireTo t)

/-- A conditional branch (R90). -/
def branch {n : Nat} (c : Bool) (disp : BitVec n) (s : State) : Out :=
  if c then M.run (M.jump (dispTo s disp)) s else .next (s.retire 4)

/-- `BEQ` (R90). -/
def execBeq (a b : Reg) (disp : BitVec 10) (s : State) : Out := branch (s.x a == s.x b) disp s
/-- `BNE` (R90). -/
def execBne (a b : Reg) (disp : BitVec 10) (s : State) : Out := branch (s.x a != s.x b) disp s
/-- `BLT` (R90). -/
def execBlt (a b : Reg) (disp : BitVec 10) (s : State) : Out := branch ((s.x a).slt (s.x b)) disp s
/-- `BGE` (R90). -/
def execBge (a b : Reg) (disp : BitVec 10) (s : State) : Out := branch (!(s.x a).slt (s.x b)) disp s
/-- `BLTN` (R90). -/
def execBltn (a b : Reg) (disp : BitVec 10) (s : State) : Out := branch ((s.x a).ult (s.x b)) disp s
/-- `BGEN` (R90). -/
def execBgen (a b : Reg) (disp : BitVec 10) (s : State) : Out := branch (!(s.x a).ult (s.x b)) disp s
/-- `BZ` (R90). -/
def execBz (a : Reg) (disp : BitVec 15) (s : State) : Out := branch (s.x a == 0) disp s
/-- `BNZ` (R90). -/
def execBnz (a : Reg) (disp : BitVec 15) (s : State) : Out := branch (s.x a != 0) disp s
/-- `BLTZ` (R90). -/
def execBltz (a : Reg) (disp : BitVec 15) (s : State) : Out := branch ((s.x a).slt 0) disp s
/-- `BGEZ` (R90). -/
def execBgez (a : Reg) (disp : BitVec 15) (s : State) : Out := branch (!(s.x a).slt 0) disp s
/-- `BGTZ` (R90). -/
def execBgtz (a : Reg) (disp : BitVec 15) (s : State) : Out := branch ((0 : W64).slt (s.x a)) disp s
/-- `BLEZ` (R90). -/
def execBlez (a : Reg) (disp : BitVec 15) (s : State) : Out := branch (!(0 : W64).slt (s.x a)) disp s

/-- `J` (R91). -/
def execJ (imm : BitVec 25) (s : State) : Out := M.run (M.jump (dispTo s imm)) s

/-- `JAL` (R91): the target is checked before x1 is written. -/
def execJal (imm : BitVec 25) (s : State) : Out :=
  M.run (do
    M.target (dispTo s imm)
    modify (fun t => (t.setX 1 (s.me.pc + 4)).retireTo (dispTo s imm))) s

/-- `JALR` (R91): the target is computed from x[a] before x[d] is written. -/
def execJalr (d a : Reg) (imm : BitVec 15) (s : State) : Out :=
  let t := s.x a + sx imm
  M.run (do
    M.target t
    modify (fun u => (u.setX d (s.me.pc + 4)).retireTo t)) s

/-- `LOOP` (R92): a bad target leaves the counter as it was. -/
def execLoop (a : Reg) (imm : BitVec 15) (s : State) : Out :=
  let n := s.x a - 1
  if n = 0 then .next ((s.setX a n).retire 4)
  else M.run (do
    M.target (dispTo s imm)
    modify (fun u => (u.setX a n).retireTo (dispTo s imm))) s

end Sys2Proof.Machine
end

