-- ==== Sys2Proof/Machine/Slot.lean ====
section
/-! DEFINITION. The slot's helpers and its queue registers: FORK, RDV, END, QPUT, QGET and QTRY (R179-R182). -/

namespace Sys2Proof.Machine

/-- A context ILLOP in a handler (R179). -/
def M.notHandler : M Unit := do M.trapIf (← get).me.id.isHandler .context

/-- A helper of the executing context's slot. -/
def State.helper (s : State) (u : Agent) : Option Strand := s.strand? { s.me.id with unit := u }

/-- Both helpers are idle; one that never started, ended or trapped is (R181). -/
def State.helpersIdle (s : State) : Bool :=
  !(s.helper .loader).any (·.live) && !(s.helper .storer).any (·.live)

/-- A context listed, or in place of the one it replaces. -/
def State.setStrand (s : State) (c : Strand) : State :=
  if (s.strand? c.id).isSome then s.modStrand c.id (fun _ => c) else { s with rest := s.rest ++ [c] }

/-- The launch's helper section holds an address (R180). -/
def Launch.inHelper (l : Launch) (e : W64) : Bool :=
  match l.helper with
  | some (base, bs) => decide (base.toNat ≤ e.toNat) && decide (e.toNat < base.toNat + bs.length)
  | .none => false

/-- The check of a helper's entry; 0 starts nothing (R180). -/
def M.helperEntry (e : W64) (n : Nat) : M Unit := do
  if e ≠ 0 then
    let bad := Trap.of Cause.badtgt e (BitVec.ofNat 64 n)
    M.trapIf (e.toNat % 4 != 0 || !codeAddr e) bad
    let b ← M.bitmapBit e
    M.trapIf (!b || !(← get).myLaunch.inHelper e) bad

/-- The engine operations of a context that starts anew run on under a name of its own. -/
def State.orphan (s : State) (c : Strand) : State :=
  if s.ops.any (fun o => decide (o.2.owner = c.id)) then
    let ghost : Sid := { launch := c.id.launch, seat := .placed (2 ^ 24 + s.next), unit := .compute }
    { s with next := s.next + 1, ops := s.ops.map (fun (o : Nat × EngOp) => if o.2.owner = c.id then (o.1, { o.2 with owner := ghost }) else o),
             rest := s.rest ++ [c.ghost ghost] }
  else s

/-- A helper started at its entry: x10 to x17 are the compute strand's, every other x register is zero (R180), and its state
registers have their values at a strand's start (R25). (DEDUCED, log entry 28) -/
def State.startHelper (s : State) (u : Agent) (e : W64) : State :=
  if e = 0 then s
  else
    let new := Strand.fresh { s.me.id with unit := u } s.me.place
    let old := (s.helper u).getD new
    (s.orphan old).setStrand
      { new with x := Vector.ofFn (fun i => if 10 ≤ i.val && i.val ≤ 17 then s.me.x.get i else 0), pc := e, live := true,
                 sqcap := BitVec.ofNat 64 s.myLaunch.sqcap, gens := old.gens, pts := Nat.max old.pts s.me.pts,
                 synced := ((s.helper u).map (·.synced)).getD s.codeLog.length }

/-- `FORK` (R180). -/
def execFork (a b : Reg) (s : State) : Out :=
  M.run (do
    M.notHandler
    M.blockIf (!s.helpersIdle) .helpers
    M.helperEntry (s.x a) 1
    M.helperEntry (s.x b) 2
    modify (fun u => ((u.startHelper .loader (s.x a)).startHelper .storer (s.x b)).bumpAll)
    M.retire 4) s

/-- `RDV` (R181). -/
def execRdv (s : State) : Out :=
  M.run (do
    M.notHandler
    M.blockIf (!s.helpersIdle) .helpers
    modify (·.bumpAll)
    M.retire 4) s

/-- `END` (R181): the helper's earlier stores, and the AMOPs that are ordered like them (R261), are performed; it is idle and
keeps its registers. -/
def execEndHelper (s : State) : Out :=
  M.run (do
    M.trapIf (decide (s.me.id.unit = .compute)) .context
    M.blockIf s.me.farAmop .unacked
    M.retire 4
    modify (·.modMe (fun c => { c with live := false }))) s

/-- The value that QPUT enqueues (R182). -/
def State.putValue (s : State) (x : Bool) (b : Reg) : V128 := if x then (s.x b).setWidth 128 else s.v b

/-- `QPUT` (R182). -/
def execQput (x : Bool) (q : Reg3) (b : Reg) (s : State) : Out :=
  if s.myQueues.full s.me.id.unit q then .next (s.block (.queueRoom q))
  else .next ((s.modMyQueues (·.push q (s.putValue x b))).retire 4)

/-- The entry taken from a queue written to a register of the class. -/
def State.gotEntry (s : State) (x : Bool) (d : Reg) (q : Reg3) (v : V128) : State :=
  let s := (s.unhold s.me.id).modMyQueues (·.pop q 1)
  if x then s.setX d (v.setWidth 64) else s.setV d v

/-- `QGET` (R182). -/
def execQget (x : Bool) (d : Reg) (q : Reg3) (s : State) : Out :=
  M.run (do
    let v ← M.reserve q 0
    modify (·.gotEntry x d q v)
    M.retire 4) s

/-- `QTRY` (R182): the status is written after the entry. (DEDUCED, log entry 41) -/
def execQtry (x : Bool) (d : Reg) (q : Reg3) (b : Reg) (s : State) : Out :=
  let k := s.myQueues
  match k.q.get q.toFin with
  | v :: _ =>
    if k.heldByOthers s.me.id.unit q then .next ((s.setX b 0).retire 4)
    else .next (((s.gotEntry x d q v).setX b 1).retire 4)
  | [] => .next ((s.setX b 0).retire 4)

end Sys2Proof.Machine
end

