-- ==== Sys2Proof/Machine/System.lean ====
section
/-! DEFINITION. TRAP, BKPT, ERET, SYNCI, and the state registers read and written by MFS and MTS (R24-R26, R93-R102). -/

namespace Sys2Proof.Machine

/-! ## Views of the state that registers show (R25) -/

/-- IDENT (R25). -/
def State.ident (s : State) (pkg : Nat) : W64 :=
  BitVec.ofNat 64 (0x4846 * 2 ^ 48 + 2 ^ 40 + (if (s.pkg pkg).gradeB then 0xB else 0xA) * 2 ^ 36 + pkg % 2 ^ 22)

/-- PCORE (R25, R280). -/
def State.pcore (s : State) (p : Place) : W64 :=
  let (r, c) := gridOf p.core
  BitVec.ofNat 64 (p.core + p.core / 256 * 2 ^ 16 + r * 2 ^ 20 + s.physCol p.pkg (p.core / 256) r c * 2 ^ 24)

/-- The kind field of SLOT (R25). -/
def Agent.code : Agent → Nat
  | .compute => 0 | .loader => 1 | .storer => 2

/-- The bits of a predicate on positions. -/
def bitsOf (n : Nat) (f : Nat → Bool) : Nat := (List.range n).foldl (fun a i => if f i then a + 2 ^ i else a) 0

/-- HMASK: the enable bits (R14). -/
def Core.hmask (c : Core) : W64 := BitVec.ofNat 64 (bitsOf 64 (fun i => (c.htab.toList[i]?).any (·.enable)))

/-- HACC: the accept bits (R14). -/
def Core.hacc (c : Core) : W64 := BitVec.ofNat 64 (bitsOf 64 (fun i => (c.htab.toList[i]?).any (·.accept)))

/-- Occupied kick entries (R25 KICKQ). -/
def Core.kickq (c : Core) : Nat := (c.kick.toList.filter (·.isSome)).length

/-- Is a bank held by a strand (R12)? -/
def Core.holds (c : Core) (b : Nat) (i : Sid) : Bool := decide (c.banks.toList[b]? = some (.held i))

/-- The value of a state register (R25) as the executing context reads it. A helper reads its compute strand's GRP,
RACECFG and domain. (DEDUCED, log entry 28) (DEDUCED, log entry 29) -/
def State.sysReg (s : State) (n : Nat) : W64 :=
  let c := s.me
  let k := s.myCore
  match n with
  | 0x000 => s.ident c.place.pkg
  | 0x001 => BitVec.ofNat 64 c.id.tid
  | 0x002 => BitVec.ofNat 64 (s.myLaunch.serial.toNat + s.myLaunch.vf * 2 ^ 32 + s.myLaunch.priority * 2 ^ 36)
  | 0x003 => BitVec.ofNat 64 (c.place.slot + c.id.unit.code * 4 + (if c.id.isHandler then 16 else 0))
  | 0x004 => BitVec.ofNat 64 c.place.vc
  | 0x005 => s.pcore c.place
  | 0x006 => s.myComp.grp
  | 0x008 => c.fcr
  | 0x009 => c.fstat
  | 0x00A => c.sqcap
  | 0x010 => c.ecause
  | 0x011 => c.epc
  | 0x012 => c.eaddr
  | 0x013 => c.einfo
  | 0x014 => c.tvec
  | 0x018 => k.hmask
  | 0x019 => k.hacc
  | 0x01A => BitVec.ofNat 64 k.kickq
  | 0x01C => BitVec.ofNat 64 (bitsOf 64 (fun i => k.holds i c.id))
  | 0x01D => BitVec.ofNat 64 (bitsOf 64 (fun i => k.holds (64 + i) c.id))
  | 0x020 => match s.flaggedOf c.id.comp with
    | some (g, _) => if g.reactive then g.inst.setWidth 64 else 0
    | none => 0
  | 0x021 => BitVec.ofNat 64 (s.cycle c.place.pkg)
  | 0x022 => BitVec.ofNat 64 (c.unack % 65536)
  | 0x023 => s.myComp.racecfg
  | 0x030 => (k.slotwNew.getD k.slotw).setWidth 64
  | 0x0F0 => ((s.vfun c.place.pkg s.myLaunch.vf).l2mask).setWidth 64
  | n => (nth c.chwm.toList (n - 0x40) 0).setWidth 64

/-- The lowest level that may read a register (R25). -/
def readLevel (n : Nat) : Level := if n = 0x011 ∨ n = 0x014 then .k else if n = 0x0F0 then .h else .s

/-- The lowest level that may write a register, if one may (R25). -/
def writeLevel (n : Nat) : Option Level :=
  if n = 0x008 ∨ n = 0x009 ∨ n = 0x018 ∨ n = 0x019 then some .s
  else if n = 0x00A ∨ (0x010 ≤ n ∧ n ≤ 0x014) ∨ n = 0x023 ∨ n = 0x030 then some .k
  else if n = 0x0F0 then some .h
  else none

/-- The values a writable register takes: no reserved bit, every field in its range (R24, R34, R35, R93, R101, R187). (DEDUCED, log entry 32) -/
def fits (n : Nat) (v : W64) : Bool :=
  let w := v.toNat
  match n with
  | 0x008 => w < 2 ^ 9
  | 0x009 => w < 2 ^ 5
  | 0x00A => 1 ≤ w && w ≤ 16
  | 0x010 => w < 2 ^ 12 && bits w 9 9 == 0 && bits w 11 10 != 3
  | 0x014 => w % 4 == 0
  | 0x019 => w % 4 == 3
  | 0x023 => bits w 5 2 == 0
  | 0x030 => w < 2 ^ 32
  | 0x0F0 => w < 2 ^ 16
  | _ => true

/-- PERM of a state register (R24). -/
def Trap.reg (n : Nat) : Trap := .of Cause.perm (BitVec.ofNat 64 n) 0

/-- Word 0 of a SYS instruction (R48, R64, R99). -/
def sysWord (sub n : Nat) (d a : Reg) : W32 :=
  BitVec.ofNat 32 ((sub * 4096 + n) * 2 ^ 17 + a.toNat * 2 ^ 12 + d.toNat * 2 ^ 7 + 14 * 4)

/-- The four registers a helper does not have (R25). -/
def noHelper (n : Nat) : Bool := n == 0x008 || n == 0x009 || n == 0x01C || n == 0x01D

/-- The checks of an MTS of a register: those of R25 for helpers, the value (R24, before the level: R355), the level. (DEDUCED, log entry 32) -/
def mtsCheck (n : Nat) (a : Reg) (s : State) : Except Trap Unit :=
  if s.me.id.unit ≠ .compute && noHelper n then .error (.decode s.me.pc 0 (sysWord 3 n 0 a))
  else match writeLevel n with
    | none => .error (.reg n)
    | some l =>
      if !fits n (s.x a) then .error (.operand a (s.x a))
      else if s.me.level.rank < l.rank then .error (.reg n) else .ok ()

/-- An MTS: its checks, then its effect at retirement (R26, R101). -/
def mtsWith (n : Nat) (a : Reg) (f : W64 → State → State) (s : State) : Out :=
  match mtsCheck n a s with
  | .ok () => .next ((f (s.x a) s).retire 4)
  | .error t => .next (s.takeTrap t)

/-! ## The instructions -/

/-- `TRAP` (R100). -/
def execTrap (n : BitVec 12) (s : State) : Out := .next (s.takeTrap (.of Cause.trap 0 (n.setWidth 64)))

/-- `BKPT` (R100). -/
def execBkpt (n : BitVec 12) (s : State) : Out := .next (s.takeTrap (.of Cause.bkpt 0 (n.setWidth 64)))

/-- `MFS` of any register: the checks of R24 and R25, then the value (R101). -/
def execMfs (d : Reg) (reg : BitVec 12) (s : State) : Out :=
  if s.me.id.unit ≠ .compute && noHelper reg.toNat then .next (s.takeTrap (.decode s.me.pc 0 (sysWord 2 reg.toNat d 0)))
  else if s.me.level.rank < (readLevel reg.toNat).rank then .next (s.takeTrap (.reg reg.toNat))
  else .next ((s.setX d (s.sysReg reg.toNat)).retire 4)

/-- `MFS` of FSTAT: every earlier float instruction of the strand has retired (R45), since each retires in its step. -/
def execMfsFstat (d : Reg) (s : State) : Out := execMfs d 0x009 s

/-- `MTS` of a register with no row of its own: ECAUSE, EPC, EADDR, EINFO, RACECFG at level K; every other one is
read-only (R24, R25). -/
def execMts (reg : BitVec 12) (a : Reg) (s : State) : Out :=
  mtsWith reg.toNat a (fun v s => s.modMe (fun c =>
    match reg.toNat with
    | 0x010 => { c with ecause := v }
    | 0x011 => { c with epc := v }
    | 0x012 => { c with eaddr := v }
    | 0x013 => { c with einfo := v }
    | 0x023 => { c with racecfg := v }
    | _ => c)) s

/-- `MTS` of FCR (R34). -/
def execMtsFcr (a : Reg) (s : State) : Out := mtsWith 0x008 a (fun v s => s.modMe (fun c => { c with fcr := v })) s

/-- `MTS` of FSTAT (R35, R45). -/
def execMtsFstat (a : Reg) (s : State) : Out := mtsWith 0x009 a (fun v s => s.modMe (fun c => { c with fstat := v })) s

/-- `MTS` of SQCAP (R101). -/
def execMtsSqcap (a : Reg) (s : State) : Out := mtsWith 0x00A a (fun v s => s.modMe (fun c => { c with sqcap := v })) s

/-- `MTS` of TVEC (R101). -/
def execMtsTvec (a : Reg) (s : State) : Out := mtsWith 0x014 a (fun v s => s.modMe (fun c => { c with tvec := v })) s

/-- The handler table with its enable bits replaced (R14). -/
def Core.setMask (c : Core) (v : W64) : Core :=
  { c with htab := Vector.ofFn (fun i => { c.htab.get i with enable := v.getLsbD i.val }) }

/-- The handler table with its accept bits replaced (R14). -/
def Core.setAcc (c : Core) (v : W64) : Core :=
  { c with htab := Vector.ofFn (fun i => { c.htab.get i with accept := v.getLsbD i.val }) }

/-- Does an accepted MMULS of the core stream from a channel (R170)? -/
def Core.streams (c : Core) (ch : Nat) : Bool :=
  (c.mq0 ++ c.mq1).any (fun o => match o.kind with
    | .mmuls _ k _ => k == ch
    | _ => false)

/-- The first channel that a new set of enable bits would enable while an MMULS streams from it (R170). -/
def Core.streamClash (c : Core) (v : W64) : Option Nat :=
  (List.range 64).find? (fun i => v.getLsbD i && !(c.htab.toList[i]?).any (·.enable) && c.streams i)

/-- `MTS` of HMASK (R14, R15, R170). -/
def execMtsHmask (a : Reg) (s : State) : Out :=
  match s.myCore.streamClash (s.x a) with
  | some i => .next (s.block (.stream (BitVec.ofNat 6 i)))
  | none => mtsWith 0x018 a (fun v s => s.modMyCore (·.setMask v)) s

/-- `MTS` of HACC (R14, R15, R187). -/
def execMtsHacc (a : Reg) (s : State) : Out := mtsWith 0x019 a (fun v s => s.modMyCore (·.setAcc v)) s

/-- `MTS` of SLOTW: the written table waits for the next table boundary (R26). (DEDUCED, log entry 29) -/
def execMtsSlotw (a : Reg) (s : State) : Out :=
  mtsWith 0x030 a (fun v s => s.modMyCore (fun c => { c with slotwNew := some (v.setWidth 32) })) s

/-- `MTS` of L2MASK, of the strand's virtual function (R25, R254). -/
def execMtsL2mask (a : Reg) (s : State) : Out :=
  mtsWith 0x0F0 a (fun v s => s.modVfun s.me.place.pkg s.myLaunch.vf (fun f => { f with l2mask := v.setWidth 16 })) s

/-- `ERET` (R96): PERM at level S; the check of EPC as a target; then the return. -/
def execEret (s : State) : Out :=
  M.run (do
    M.trapIf (decide (s.me.level = .s)) (.of Cause.perm 0 0)
    M.target s.me.epc
    modify (·.leaveTrap)) s

/-- `SYNCI` (R102): every earlier store is performed; from here on fetch sees them all. (DEDUCED, log entry 26) -/
def execSynci (s : State) : Out :=
  if s.me.farAmop then .next (s.block (.amops .sys))
  else .next ((s.modMe (fun c => { c with synced := s.codeLog.length })).retire 4)

end Sys2Proof.Machine
end

