-- ==== Sys2Proof/Machine/Messages.lean ====
section
/-! DEFINITION. Messages and handlers up to the core's edge: SEND, SENDB, HSET, MSGRD, MSGDONE and YIELD (R183-R191, R287).
The events that carry messages stand in `Machine/MessageEvents.lean`. -/

namespace Sys2Proof.Machine

/-! ## Sending (R183-R186) -/

/-- The core of virtual core x[a], or an operand ILLOP (R183). -/
def State.vcTarget (s : State) (a : Reg) : Except Trap Nat :=
  match s.myLaunch.coreOf (s.x a).toNat with
  | some g => .ok g
  | none => .error (.operand a (s.x a))

/-- SQFULL (R184). -/
def Trap.sqfull (x : W64) (occ : Nat) (ch : Chan) : Trap := .of Cause.sqfull x (BitVec.ofNat 64 (occ % 32 + ch.toNat * 256))

/-- The occupancy check, then the waits for pressure and for an injection-queue entry (R184, R287). -/
def M.sendGate (a : Reg) (g : Nat) (ch : Chan) : M Unit := do
  let s ← get
  let occ := (s.sentBy s.me.id).length
  M.trapIf (decide (s.me.sqcap.toNat ≤ occ)) (.sqfull (s.x a) occ ch)
  M.blockIf (!s.me.id.isHandler && s.myCore.told.contains g) .pressure
  M.blockIf (16 ≤ s.myCore.inj.length) .injection

/-- A payload padded with zeros to whole chunks (R183). -/
def padded (bs : List Byte) : List Byte := bs ++ List.replicate ((16 - bs.length % 16) % 16) 0

/-- A message enters the core's injection queue (R183, R185, R186, R189). -/
def State.inject (s : State) (rlx : Bool) (ch : Chan) (vc : Nat) (bs : List Byte) : State :=
  let m : Msg := { ch := ch.toNat, rpy := s.me.id.isHandler, vc := s.me.place.vc, tid := s.me.id.tid, bytes := bs.length, data := padded bs }
  s.modMyCore (fun c => { c with inj := c.inj ++
    [{ sender := some s.me.id, launch := s.me.id.launch, vc, msg := m, after := if rlx then 0 else s.next, born := s.tick }] })

/-- `SEND` (R183): what its source gives is taken when it retires. -/
def execSend (rlx : Bool) (ch : Chan) (a : Reg) (b : VSrc) (s : State) : Out :=
  M.run (do
    M.poolOk [b]
    let g ← M.check (s.vcTarget a)
    M.sendGate a g ch
    M.outgoing
    let v ← M.source .n8 b
    M.takeSources [b]
    modify (·.inject rlx ch (s.x a).toNat (vbytes v))
    M.synced 12) s

/-- The targets of the bytes of a range, in order; the bytes of one page of the global window go together (R104, R183). -/
def M.byteTargets : List (Nat × Nat) → M (List Target)
  | [] => pure []
  | (a, n) :: r => do
    let s ← get
    let w := BitVec.ofNat 64 a
    let ts ← (match s.spot w false with
      | .ok (.glob va) => do pure [← M.global s.me.level va n .load]
      | _ => (List.range n).mapM (fun i => M.resolve (w + BitVec.ofNat 64 i) 1 .load))
    let us ← M.byteTargets r
    pure (ts ++ us)

/-- The bytes of a range at one gang member are one access there. -/
def joinGang (ts : List Target) : List Target :=
  match ts with
  | .gang a :: _ => [.gang { a with n := ts.length }]
  | _ => ts

/-- The source of SENDB checked byte by byte: the bytes within its window's reach, then the first one beyond it (R104, R183,
R20). -/
def M.sendTargets (a : W64) (n : Nat) : M (List Target) := do
  let reach := (← get).reach a
  let ts ← M.byteTargets (pageParts a.toNat (Nat.min n reach))
  M.trapIf (reach < n) (Trap.of Cause.space (a + BitVec.ofNat 64 reach) 0)
  pure (joinGang ts)

/-- The checked source of SENDB: with `.ord` it is read only after the strand's earlier atomics are performed (R186). -/
def M.sendSource (rlx : Bool) (a : W64) (n : Nat) : M (List Target) := do
  match (← get).plan with
  | [] => do
    let ts ← M.sendTargets a n
    M.blockIf (!rlx && (← get).me.farAmop) .unacked
    M.keep false (ts.zipIdx.map (fun (t, i) => (i, t)))
    pure ts
  | l => pure (l.map (·.2))

/-- The bytes of the accesses that are made elsewhere, requested one after another; none for the core's own. -/
def M.sendRequests : Nat → List Target → M (List (List Byte))
  | _, [] => pure []
  | i, .mem _ :: ts => do
    let r ← M.sendRequests i ts
    pure ([] :: r)
  | i, t :: ts => do
    let ws ← M.request i .reply (askFor t (.load t.size) false)
    let r ← M.sendRequests (i + 1) ts
    pure (bytesOfWords ws t.size :: r)

/-- A byte as SENDB reads it at its own core: an old one where `.rlx` allows it (R186). -/
def State.sendByte (s : State) (rlx : Bool) (k : Nat) : Byte := (s.engineByte (if rlx then s.me.wlog.map (·.old) else []) k).1

/-- The bytes of checked targets, in order; `got` are those that came from elsewhere. -/
def State.sendBytes (s : State) (rlx : Bool) : List Target → List (List Byte) → List Byte
  | .mem a :: ts, _ :: got => (List.range a.n).map (fun i => s.sendByte rlx (a.key + i)) ++ s.sendBytes rlx ts got
  | _ :: ts, bs :: got => bs ++ s.sendBytes rlx ts got
  | _, _ => []

/-- `SENDB` (R183): its bytes are read before it retires. -/
def execSendb (rlx : Bool) (ch : Chan) (a b c : Reg) (s : State) : Out :=
  let n := (s.x c).toNat
  M.run (do
    let g ← M.check (s.vcTarget a)
    M.trapIf (256 < n) (.operand c (s.x c))
    M.sendGate a g ch
    let ts ← M.sendSource rlx (s.x b) n
    let got ← M.sendRequests 0 ts
    let s ← get
    let as := Target.mems ts
    match as.find? (fun a => s.poisoned (s.activeKey a.key) a.n) with
    | some a => M.trap (Trap.poison a.va (s.poisonUnit (s.activeKey a.key) a.n))
    | none => pure ()
    M.blockIf (as.any (fun a => s.loggedElsewhere (s.activeKey a.key) a.n)) .egress
    M.outgoing
    modify (fun u => u.inject rlx ch (s.x a).toNat (u.sendBytes rlx ts got))
    M.synced 12) s

/-! ## The handler table (R187) -/

/-- `HSET` (R187). -/
def execHset (ch : Chan) (a : Reg) (f : BitVec 32) (s : State) : Out :=
  let e : HEntry := { pc := s.x a, prio := f.extractLsb' 0 3, enable := f.getLsbD 3, accept := f.getLsbD 4 }
  M.run (do
    M.trapIf (bits f.toNat 31 5 != 0) (.imm f)
    M.trapIf ((s.x a).toNat % 4 != 0 || !codeAddr (s.x a)) (.operand a (s.x a))
    M.trapIf (!e.accept && decide (ch.toNat < 2)) (.imm f)
    M.blockIf (e.enable && !(s.myCore.htab.get ch.toFin).enable && s.myCore.streams ch.toNat) (.stream ch)
    modify (·.modMyCore (fun c => { c with htab := c.htab.set ch.toNat e ch.isLt }))
    M.retire 12) s

/-! ## The current message (R188-R191) -/

/-- A kick-register entry as a c0 message (R131, R191). -/
def Kick.msg (k : Kick) : Msg :=
  { ch := 0, rpy := false, vc := k.vc, tid := k.tid, bytes := 16,
    data := leBytes 8 k.buf.toNat ++ leBytes 4 k.bytes.toNat ++ leBytes 4 k.handle.toNat }

/-- The current message of an activation. -/
def State.curMsg (s : State) : Option Msg :=
  match s.me.current with
  | some (0, i) => (nth s.myCore.kick.toList i none).map Kick.msg
  | some (_, i) => (s.myCore.rq.find? (fun e => e.idx == i)).map (·.msg)
  | none => none

/-- The header that MSGRD reads (R189). -/
def Msg.header (m : Msg) : W64 :=
  BitVec.ofNat 64 (m.vc % 2 ^ 24 * 2 ^ 40 + m.tid * 2 ^ 16 + (if m.rpy then 2 ^ 15 else 0) + m.ch * 512 + m.bytes)

/-- Unit `i` of `n` bytes of a payload (R189). -/
def Msg.unit (m : Msg) (n i : Nat) : Nat := leNat ((m.data.drop (n * i)).take n)

/-- `MSGRD` (R189). -/
def execMsgrd (x : Bool) (d a : Reg) (s : State) : Out :=
  let i := (s.x a).toNat
  M.run (do
    match s.curMsg with
    | none => M.trap .context
    | some m => do
      if x && decide (s.x a = BitVec.allOnes 64) then modify (·.setX d m.header)
      else if x && decide (i < (m.bytes + 7) / 8) then modify (·.setX d (BitVec.ofNat 64 (m.unit 8 i)))
      else if !x && decide (i < (m.bytes + 15) / 16) then modify (·.setV d (BitVec.ofNat 128 (m.unit 16 i)))
      else M.trap (.operand a (s.x a))
    M.retire 4) s

/-- A kick entry is freed: the oldest notice on the wait list takes it and becomes a pending c0 message (R191, R346). -/
def State.freeKick (s : State) (g i : Nat) : State :=
  s.modCore g (fun c =>
    let set (k : Option Kick) : Vector (Option Kick) 8 := Vector.ofFn (fun j => if j.val = i then k else c.kick.get j)
    match c.waitList with
    | n :: r => { c with kick := set (some { n with pending := true, since := s.tick }), waitList := r }
    | [] => { c with kick := set none })

/-- The current message of a context freed (R190, R191). -/
def State.freeMessage (s : State) (c : Strand) : State :=
  let g := c.place.gcore
  let s := match c.current with
    | some (0, i) => s.freeKick g i
    | some (_, i) => s.modRq g (fun rq => rq.filter (fun e => e.idx != i))
    | none => s
  s.modStrand c.id (fun c => { c with current := none })

/-- `MSGDONE` (R190). -/
def execMsgdone (s : State) : Out :=
  M.run (do
    M.trapIf s.me.current.isNone .context
    modify (·.freeMessage s.me)
    M.synced 4) s

/-- `YIELD` (R190): it ends a handler's activation; in a placed strand it only gives up cycles. -/
def execYieldSlot (s : State) : Out :=
  M.run (do
    if s.me.id.isHandler then
      modify (·.freeMessage s.me)
      M.synced 4
      modify (·.modMe (fun c => { c with live := false, act := none }))
    else M.synced 4) s

end Sys2Proof.Machine
end

