-- ==== Sys2Proof/Machine/Groups.lean ====
section
/-! DEFINITION. Groups: their records (R324, R325), JOIN and GBAR (R194, R196), and what the home of a group does: forming,
the completing step of a barrier (R197, R332), the opening of a window (R216), and a signal's resolution (R316). -/

namespace Sys2Proof.Machine

/-! ## Group records (R324, R325) -/

/-- The header of a group record. -/
structure GroupRec where
  idx : Nat
  gid : Nat
  gang : Bool
  reactive : Bool
  strag : Bool
  size : Nat
  first : Nat
  theta : Nat
  persist : Nat
  tqcap : Nat
  deriving DecidableEq, Repr

/-- The header's fields. -/
def GroupRec.ofWords (idx : Nat) (w0 w1 : W64) : GroupRec :=
  { idx, gid := wbits w0 63 48, gang := w0.getLsbD 47, reactive := w0.getLsbD 46, strag := w0.getLsbD 45,
    size := wbits w0 44 32, first := wbits w0 31 8, theta := wbits w1 63 48, persist := wbits w1 47 40, tqcap := wbits w1 39 29 }

/-- The group record that an operand names (R22). -/
def Launch.group (l : Launch) (i : Nat) : Except Trap GroupRec :=
  match l.word 5 i with
  | .ok w0 => .ok (.ofWords i w0 (nth l.pool (i + 1) 0))
  | .error t => .error t

/-- The record carries a flag. -/
def GroupRec.flagged (r : GroupRec) : Bool := r.gang || r.reactive || r.strag

/-- The pool index of the record of a member. -/
def GroupRec.memberAt (r : GroupRec) (i : Nat) : Nat :=
  r.idx + 2 + i * ((if r.strag then 2 else 0) + (if r.reactive then 4 else 0))

/-- The neighbour list of a member. -/
def Launch.neighbours (l : Launch) (r : GroupRec) (i : Nat) : List Nat :=
  let a := nth l.pool (r.memberAt i) 0
  let b := nth l.pool (r.memberAt i + 1) 0
  (List.range (wbits a 63 60)).map (fun j => if j < 5 then wbits a (12 * j + 11) (12 * j) else wbits b (12 * (j - 5) + 11) (12 * (j - 5)))

/-- The may-emit set of a member record. -/
def Launch.mayEmit (l : Launch) (r : GroupRec) (i : Nat) : BitVec 256 :=
  let at_ := r.memberAt i + (if r.strag then 2 else 0)
  BitVec.ofNat 256 ((List.range 4).foldl (fun a j => a + (nth l.pool (at_ + j) 0).toNat * 2 ^ (64 * j)) 0)

/-- The record of a group. -/
def Launch.recOf (l : Launch) (g : Group) : GroupRec := .ofWords g.recIdx (nth l.pool g.recIdx 0) (nth l.pool (g.recIdx + 1) 0)

/-- A flagged group applies to a launch whose threads reach its last listed strand (R284). -/
def Launch.applies (l : Launch) (r : GroupRec) : Bool := r.first + r.size ≤ l.threads

/-! ## Members and packets of a group -/

/-- The members of a group that have not left it. -/
def Group.current (g : Group) : List Member := g.members.filter (·.inside)

/-- The current member that a strand is. -/
def Group.memberOf (g : Group) (i : Sid) : Option Member := g.current.find? (fun m => decide (m.sid = i))

/-- The core where a context is. -/
def State.coreOf (s : State) (i : Sid) (else_ : Nat) : Nat := ((s.strand? i).map (·.place.gcore)).getD else_

/-- A packet from a group's home to a member's core. -/
def State.toMember (s : State) (g : Group) (m : Member) (b : Body) : State := s.send .ctl g.home (s.coreOf m.sid m.core) b

/-- A report from the executing member to its group's home: it follows the member's atomics (R266). -/
def State.report (s : State) (g : Group) (b : Body) : State := s.sendAfter .ctl s.me.place.gcore g.home s.me.id b

/-- The flagged group of the executing context, if it is one and a property of it holds: else a context ILLOP (R202). -/
def M.domain (p : Group → Bool) : M (Group × Member) := do
  let s ← get
  match s.flaggedOf s.me.id with
  | some (g, m) => if p g && !s.me.id.isHandler then pure (g, m) else throw (.trap .context)
  | none => throw (.trap .context)

/-! ## Signals at the home (R314-R317) -/

/-- The signals that the launch declares for a group, each once. -/
def Launch.signals (l : Launch) (gid : Nat) : List Signal :=
  let ws := (l.pool.zip l.kinds).filterMap (fun (w, k) => if k = 6 && wbits w 63 48 == gid then some w else Option.none)
  let nums := (ws.map (fun w => wbits w 47 40)).eraseDups
  nums.map (fun n =>
    { num := n, comb := ((ws.find? (fun w => wbits w 47 40 == n)).getD 0).extractLsb' 38 2, status := .unknown, value := 0,
      prevVal := 0, prevPresent := false })

/-- N(s): the members whose may-emit set holds a signal. -/
def Group.mayCount (g : Group) (n : Nat) : Nat := (g.members.filter (fun m => m.may.getLsbD n)).length

/-- A signal of a group. -/
def Group.signal? (g : Group) (n : Nat) : Option Signal := g.signals.find? (fun x => x.num == n)

/-- A signal changed. -/
def Group.modSignal (g : Group) (n : Nat) (f : Signal → Signal) : Group :=
  { g with signals := g.signals.map (fun x => if x.num == n then f x else x) }

/-- A signal is resolved: members blocked on it run again, and every member's core is told (R316). -/
def State.resolve (s : State) (launch gid n : Nat) (present : Bool) : State :=
  let s := s.modGroup launch gid (fun g =>
    let g := g.modSignal n (fun x => { x with status := if present then .present else .absent })
    { g with members := g.members.map (fun m => if m.react = .blockedSig n then { m with react := .running } else m) })
  match s.group? launch gid with
  | some g => g.current.foldl (fun s m => s.toMember g m (.resolution launch gid m.idx n present)) s
  | none => s

/-- Every signal that is unknown and in no may-emit set becomes absent (R316, R317). -/
def State.absences (s : State) (launch gid : Nat) : State :=
  match s.group? launch gid with
  | some g =>
    (g.signals.filter (fun x => decide (x.status = .unknown) && g.mayCount x.num == 0)).foldl
      (fun s x => s.resolve launch gid x.num false) s
  | none => s

/-- Signals removed from a member's may-emit set at the home (R213, R214). -/
def State.dropMay (s : State) (launch gid idx : Nat) (keep : BitVec 256) : State :=
  (s.modGroup launch gid (fun g => g.modMember idx (fun m => { m with may := m.may &&& keep }))).absences launch gid

/-! ## Forming (R194, R333, R334) -/

/-- A straggler record when a group forms (R332). -/
def Straggler.new : Straggler := { hist := Vector.replicate 8 0, score := 0, above := 0, below := 0, lag := false, qocc := 0 }

/-- The ring of a listed member (R333). -/
def Launch.ringOf (l : Launch) (r : GroupRec) (i : Nat) : Nat :=
  let vc (j : Nat) : Nat := l.vcOfThread (r.first + j)
  0x5_0000 - 8 * r.tqcap * (((List.range i).filter (fun j => vc j == vc i)).length + 1)

/-- A new member (R327, R332, R334). -/
def Member.new (l : Launch) (r : GroupRec) (i : Sid) (idx core : Nat) : Member :=
  let may := if r.reactive then l.mayEmit r idx else 0
  { sid := i, idx, core, inside := true, opening := none, base := 0, len := 0, win := .pending, wasAtt := false, seesGone := [],
    dep := false, arrived := none, strag := .new, lagCopy := false,
    queue := if r.strag && r.tqcap ≠ 0 then some { ring := l.ringOf r idx, head := 0, count := 0, out := 0, seq := 0 } else none,
    react := .running, may, mine := may, sees := [] }

/-- GRP of a member of a flagged group (R25). -/
def GroupRec.grp (r : GroupRec) (idx : Nat) : W64 :=
  BitVec.ofNat 64 (r.gid + idx * 2 ^ 16 + (if r.gang then 2 ^ 28 else 0) + (if r.reactive then 2 ^ 29 else 0) + (if r.strag then 2 ^ 30 else 0))

/-- A group with no member. -/
def Group.new (launch : Nat) (r : GroupRec) (home : Nat) : Group :=
  { launch, gid := r.gid, gang := r.gang, reactive := r.reactive, strag := r.strag, theta := r.theta, persist := r.persist,
    tqcap := r.tqcap, size := r.size, first := r.first, recIdx := r.idx, home, formed := !r.flagged, joining := [], nextIdx := 0,
    members := [], winOpen := false, windows := 0, departed := false, phases := 0, undone := [], inst := 0, signals := [] }

/-- The pricking's CLK and CGRP (R299). -/
def Connector.clocked (c : Connector) : Bool := (nth c.words 0 0).getLsbD 47
def Connector.cgrp (c : Connector) : Nat := wbits (nth c.words 0 0) 63 48

/-- No clocked connector of a domain has evaluated in the instant that starts (R309, R320). -/
def State.unevaluated (s : State) (launch gid : Nat) : State :=
  { s with connectors := s.connectors.map (fun x =>
      if x.2.launch == launch && x.2.clocked && x.2.cgrp == gid then (x.1, { x.2 with evaluated := false }) else x) }

/-- A flagged group forms in one step: its members enter in index order, and its domain's first instant starts (R194,
R313, R320). -/
def State.form (s : State) (g : Group) (r : GroupRec) : State :=
  let l := s.launch g.launch
  let sid (i : Nat) : Sid := { launch := g.launch, seat := .placed (r.first + i), unit := .compute }
  let ms := (List.range r.size).map (fun i => Member.new l r (sid i) i (s.coreOf (sid i) 0))
  let s := s.modGroup g.launch g.gid (fun g =>
    { g with formed := true, joining := [], members := ms, home := (ms.head?.map (·.core)).getD g.home,
             inst := if r.reactive then 1 else 0, signals := if r.reactive then l.signals r.gid else [] })
  let s := ms.foldl (fun (s : State) m => s.modStrand m.sid (fun c => { c with groups := c.groups ++ [(g.gid, m.idx)], grp := r.grp m.idx })) s
  (if r.reactive then s.unevaluated g.launch g.gid else s).absences g.launch g.gid

/-- The operand ILLOP of a group instruction: register field 0, the group ID (R194-R196). -/
def Trap.group (r : GroupRec) : Trap := .operand 0 (BitVec.ofNat 64 r.gid)

/-- The strand may not join a flagged group (R194). (DEDUCED, log entry 43) -/
def State.mayNotJoin (s : State) (r : GroupRec) : Bool :=
  let t := s.me.id.tid
  decide (s.me.grp ≠ 0xFFFF) || decide (t < r.first) || decide (r.first + r.size ≤ t) || !s.myLaunch.applies r

/-- The executing core's earlier packets to a group's home are still on their way: a JOIN, which travels on CTL, comes after them
(R371, R372). -/
def State.joinsAfter (s : State) (g : Group) : Bool :=
  s.flying.any (fun p => decide (p.vn = .ctl) && p.src == s.me.place.gcore && p.dst == g.home)

/-- `JOIN` (R194). (DEDUCED, log entry 43) -/
def execJoin (d : Reg) (idx : BitVec 16) (s : State) : Out :=
  let u := s.me.id.launch
  M.run (do
    let r ← M.check (s.myLaunch.group idx.toNat)
    let g := s.group? u r.gid
    match g.bind (fun g => if g.formed then g.memberOf s.me.id else none) with
    | some m => do
      modify (·.setX d (BitVec.ofNat 64 m.idx))
      M.retire 12
    | none => do
      let waiting := g.any (fun g => g.joining.contains s.me.id)
      M.trapIf (8 ≤ s.me.groups.length) (.group r)
      M.trapIf (r.flagged && s.mayNotJoin r) (.group r)
      M.blockIf waiting .forming
      M.blockIf (g.any s.joinsAfter) .order
      M.outgoing
      let full := g.isNone && decide (4096 ≤ (s.groups.filter (fun g => g.launch == u)).length)
      let used := g.any (fun g => (r.flagged && g.formed) || (!r.flagged && decide (g.size ≤ g.nextIdx)))
      if full || used then do
        modify (·.setX d (BitVec.allOnes 64))
        M.done 12
      else do
        if g.isNone then modify (fun s => { s with groups := s.groups ++ [Group.new u r s.me.place.gcore] })
        if r.flagged then do
          modify (·.modGroup u r.gid (fun g => { g with joining := g.joining ++ [s.me.id] }))
          let n := (((← get).group? u r.gid).map (·.joining.length)).getD 0
          if n < r.size then throw (.block .forming)
          else do
            modify (fun s => (s.group? u r.gid).elim s (fun g => s.form g r))
            modify (·.setX d (BitVec.ofNat 64 (s.me.id.tid - r.first)))
        else do
          let i := (g.map (·.nextIdx)).getD 0
          modify (fun s => (s.modGroup u r.gid (fun g =>
            { g with nextIdx := i + 1, members := g.members ++ [Member.new s.myLaunch r s.me.id i s.me.place.gcore] })).modMe (fun c =>
              { c with groups := c.groups ++ [(r.gid, i)] }))
          modify (·.setX d (BitVec.ofNat 64 i))
        M.done 12) s

/-! ## GBAR (R196, R197, R332) -/

/-- CYCLE of a package as it stood at a tick. -/
def cycleAt (pkg tick : Nat) : Nat := (List.range tick).foldl (fun a i => a + Config.stepCycles pkg i) 0

/-- A straggler record after a completed phase (R197). -/
def Straggler.update (r : Straggler) (theta persist late qocc : Nat) : Straggler :=
  let late := Nat.min late 65535
  let score := Nat.min ((7 * r.score.toNat + late) / 8) 65535
  let (above, below) := if theta < score then (Nat.min (r.above + 1) 255, 0) else (0, Nat.min (r.below + 1) 255)
  let lag := r.lag || decide (persist ≤ above)
  { hist := Vector.ofFn (fun i => if i.val = 0 then BitVec.ofNat 16 late else nth r.hist.toList (i.val - 1) 0),
    score := BitVec.ofNat 16 score, above, below, lag := lag && !decide (persist ≤ below), qocc }

/-- The completing step of a phase: records, marks and counts, then the release of every member that arrived. -/
def State.gbarComplete (s : State) (g : Group) : State :=
  let pkg := g.home / 2048
  let t0 := leastOf (g.members.filterMap (fun m => m.arrived.map (·.1)))
  let step (m : Member) : Member :=
    match m.arrived with
    | some (t, n) =>
      let st := if g.strag then m.strag.update g.theta g.persist ((cycleAt pkg t - cycleAt pkg t0) / 256) n else m.strag
      { m with arrived := none, strag := st, lagCopy := st.lag }
    | none => m
  let s := s.modGroup g.launch g.gid (fun g => { g with phases := g.phases + 1, members := g.members.map step })
  (g.members.filter (fun m => m.arrived.isSome)).foldl (fun s m => s.toMember g m (.gbarRelease m.sid g.launch g.gid)) s

/-- The phase completes when every current member has arrived and no stolen tile is undone (R196). -/
def State.gbarCheck (s : State) (launch gid : Nat) : State :=
  match s.group? launch gid with
  | some g =>
    if g.members.any (fun m => m.arrived.isSome) && g.current.all (fun m => m.arrived.isSome) && (!g.strag || g.undone.isEmpty) then
      s.gbarComplete g
    else s
  | none => s

/-- An arrival counted at the home. -/
def State.gbarArrive (s : State) (launch gid idx count : Nat) : State :=
  (s.modGroup launch gid (fun g => g.modMember idx (fun m => { m with arrived := some (s.tick, count) }))).gbarCheck launch gid

/-- A member's tile-queue COUNT. -/
def Member.count (m : Member) : Nat := (m.queue.map (·.count)).getD 0

/-- `GBAR` (R196). -/
def execGbar (idx : BitVec 16) (s : State) : Out :=
  let u := s.me.id.launch
  M.run (do
    let r ← M.check (s.myLaunch.group idx.toNat)
    match (s.group? u r.gid).bind (fun g => (if g.formed then g.memberOf s.me.id else none).map (fun m => (g, m))) with
    | none => M.trap (.group r)
    | some (g, m) => do
      if s.asking then do let _ ← M.final (.barrier r.gid)
      else do
        M.outgoing
        let _ ← M.post true (.barrier r.gid) (fun _ s => s.report g (.gbarArrive u r.gid m.idx m.count))
    M.synced 12) s

/-! ## The opening of a window (R216) -/

/-- Every current member has executed GWOPEN: the window opens in one step, or, when a member has departed meanwhile, the
opening has failed for each of them; either answer comes then, to all of them. -/
def State.openCheck (s : State) (launch gid : Nat) : State :=
  match s.group? launch gid with
  | some g =>
    if g.current.isEmpty || !g.current.all (fun m => m.opening.isSome) || g.winOpen then s
    else
      let step (m : Member) : Member :=
        match m.opening with
        | some (b, n) => if g.departed then { m with opening := none } else
            { m with opening := none, base := b, len := n, win := .attached, wasAtt := false, dep := false, seesGone := [] }
        | none => { m with dep := false, seesGone := [], len := if g.departed then m.len else 0 }
      let s := s.modGroup launch gid (fun g =>
        { g with members := g.members.map step, winOpen := !g.departed, windows := if g.departed then g.windows else g.windows + 1, departed := false })
      g.current.foldl (fun (s : State) m => s.modStrand m.sid (·.wake .window (.ok [if g.departed then 2 else 0]))) s
  | none => s

/-- A GWOPEN reaches the home. -/
def State.openArrive (s : State) (launch gid idx base len : Nat) : State :=
  (s.modGroup launch gid (fun g => g.modMember idx (fun m => { m with opening := some (base, len) }))).openCheck launch gid

/-! ## The slices of departed members (R107, R329) -/

/-- A range of keys reaches into the slice of a departed member. -/
def Export.meets (x : Export) (k n : Nat) : Bool := decide (k < x.key + x.len) && decide (x.key < k + n)

/-- Some member's core has not been told of a departure from the window. -/
def State.untold (s : State) (x : Export) : Bool :=
  (s.group? x.launch x.gid).any (fun g => g.winOpen && g.windows == x.window &&
    g.current.any (fun p => p.idx != x.idx && !p.seesGone.contains x.idx))

/-- An engine operation was accepted against a slice, or an access that passed its check is on its way there. -/
def State.usesSlice (s : State) (x : Export) : Bool :=
  s.ops.any (fun o => (o.2.src ++ o.2.dst).any (fun r => x.meets r.key r.len)) ||
    s.net.any (fun p => match p.body with
      | .remote r => r.accs.any (fun a => x.meets a.key a.n)
      | _ => false)

/-- The bytes of a departed member's slice still belong to its window (R329). -/
def State.held (s : State) (x : Export) : Bool := s.untold x || s.usesSlice x

/-- The slices of a launch in a range that its windows still hold (R329). -/
def State.heldIn (s : State) (launch k n : Nat) : List Export := s.exports.filter (fun x => x.launch == launch && x.meets k n && s.held x)

/-- The last detach closes the window (R217, R330). (DEDUCED, log entry 44) -/
def State.closeCheck (s : State) (launch gid : Nat) : State :=
  s.modGroup launch gid (fun g =>
    if g.winOpen && !g.current.any (fun m => decide (m.win = .attached)) then
      { g with winOpen := false, departed := false, members := g.members.map (fun m => { m with len := 0 }) }
    else g)

end Sys2Proof.Machine
end

