-- ==== Sys2Proof/Machine/Ports.lean ====
section
/-! DEFINITION. Ports at their owner: PUT, GET, PUTNB, GETNB, PWAIT and PWDRAW (R202-R209). What a connector decides stands
in `Machine/Pillow.lean`. -/

namespace Sys2Proof.Machine

/-- A port word (R298). -/
structure PortRec where
  owner : Nat
  hvc : Nat
  w : Nat
  sink : Bool
  conn : Nat
  lidx : Nat
  deriving DecidableEq, Repr

/-- The fields of a port word. -/
def PortRec.ofWord (w : W64) : PortRec :=
  { owner := wbits w 55 32, hvc := wbits w 31 25, w := wbits w 24 20, sink := w.getLsbD 19, conn := wbits w 11 6,
    lidx := wbits w 5 0 }

/-- PORTBAD (R204). -/
def Trap.portbad (reason : Nat) (idx : BitVec 16) : Trap := .of Cause.portbad 0 (BitVec.ofNat 64 (reason * 65536 + idx.toNat))

/-- The port that an operand names: reasons 1 and 2, after the context check (R202, R204). -/
def M.port (idx : BitVec 16) : M PortRec := do
  let s ← get
  M.trapIf s.me.id.isHandler .context
  match s.myLaunch.word 3 idx.toNat with
  | .ok w => do
    let p := PortRec.ofWord w
    M.trapIf (p.owner != s.me.id.tid) (.portbad 2 idx)
    pure p
  | .error _ => M.trap (.portbad 1 idx)

/-- The state of a port at the executing strand; none is IDLE (R205). -/
def State.portState (s : State) (idx : BitVec 16) : Option PortState := AMap.get s.me.ports idx.toNat

/-- A port of the executing strand in a state. -/
def State.setPort (s : State) (idx : BitVec 16) (p : PortState) : State :=
  s.modMe (fun c => { c with ports := AMap.put c.ports idx.toNat p })

/-- A port of the executing strand is IDLE. -/
def State.idlePort (s : State) (idx : BitVec 16) : State :=
  s.modMe (fun c => { c with ports := AMap.drop c.ports idx.toNat })

/-- Reasons 3, 4 and 6 (R204). -/
def M.mayOffer (idx : BitVec 16) (p : PortRec) (sink : Bool) : M Unit := do
  let s ← get
  M.trapIf (8 ≤ s.me.ports.length) (.portbad 3 idx)
  M.trapIf (s.portState idx).isSome (.portbad 4 idx)
  M.trapIf (p.sink != sink) (.portbad 6 idx)

/-- A connector of a launch by its home and number. -/
def State.conn? (s : State) (launch hvc num : Nat) : Option Connector :=
  (s.connectors.find? (fun c => c.2.launch == launch && c.2.hvc == hvc && c.2.num == num)).map (·.2)

/-- The reactive domain of a clocked port, and the executing strand's member entry there (R309). -/
def State.portDomain (s : State) (p : PortRec) : Option (Group × Member) :=
  match s.conn? s.me.id.launch p.hvc p.conn with
  | some c =>
    if c.clocked then (s.group? s.me.id.launch c.cgrp).bind (fun g => (g.memberOf s.me.id).map (fun m => (g, m))) else none
  | none => none

/-- The member reports that it is blocked on a clocked port (R315, R310). -/
def State.reportPort (s : State) (idx : BitVec 16) (p : PortRec) : State :=
  match s.portDomain p with
  | some (g, m) => s.report g (.blockPort g.launch g.gid m.idx idx.toNat)
  | none => s

/-- A message from the executing strand to a connector's home: offers and withdrawals of one owner keep their order, and
follow its atomics (R205, R303). -/
def State.toPillow (s : State) (p : PortRec) (b : Body) : State :=
  s.sendAfter .ctl (2 ^ 46 + s.me.id.launch * 2 ^ 24 + s.me.id.tid) (2 ^ 45 + s.me.id.launch * 128 + p.hvc) s.me.id b

/-- An offer leaves (R205, R303): `by_` is the PUT or GET that waits for it. -/
def State.offer (s : State) (idx : BitVec 16) (p : PortRec) (by_ : Option W64) (data : V128) : State :=
  (s.setPort idx (.offered by_ false)).toPillow p
    (.offer p.hvc p.conn { lidx := p.lidx, sid := s.me.id, idx := idx.toNat, data })

/-- The executing instruction has noted that it waits for `w`; what it does once is not done again (R5). -/
def State.noteWait (s : State) (w : Wait) : State := s.modMe (·.putPend { s.myPend with on := w, again := false })

/-- The executing instruction has to report that it is blocked: it has not yet, or not since its restore (R315, R322). -/
def Strand.unreported (c : Strand) : Bool := c.pendOf.all (·.again)

/-- The low `w` bytes of a vector. -/
def lowBytes (w : Nat) (v : V128) : V128 := BitVec.ofNat 128 (v.toNat % 2 ^ (8 * w))

/-- The result of a port has data for its sink: FIRED or ABSENT-FIRE (R206). -/
def carriesData (status : W64) : Bool := status.toNat % 8 == 0 || status.toNat % 8 == 3

/-- A blocking offer: it is made once, and the instruction waits until the port is DECIDED for it (R207, R209). -/
def M.offerAndWait (idx : BitVec 16) (p : PortRec) (sink : Bool) (data : V128) : M (W64 × V128) := do
  let s ← get
  let own (b : Option W64) : Bool := decide (b = some s.me.pc)
  let anew : M (W64 × V128) := do
    M.mayOffer idx p sink
    M.outgoing
    modify (fun s => (((s.offer idx p (some s.me.pc) data).reportPort idx p).noteWait (.port idx.toNat)).leftCore)
    throw (.block (.port idx.toNat))
  match s.portState idx with
  | some (.offered b _) => if own b then throw (.block (.port idx.toNat)) else anew
  | some (.decided st d b) =>
    if own b then do
      modify (·.idlePort idx)
      pure (st, d)
    else anew
  | none => anew

/-- `PUT` (R207). (DEDUCED, log entry 46) -/
def execPut (d : Reg) (idx : BitVec 16) (a : Reg) (s : State) : Out :=
  M.run (do
    let p ← M.port idx
    let r ← M.offerAndWait idx p false (lowBytes p.w (s.v a))
    modify (·.setX d r.1)
    M.synced 12) s

/-- `GET` (R207). (DEDUCED, log entry 46) -/
def execGet (d e : Reg) (idx : BitVec 16) (s : State) : Out :=
  M.run (do
    let p ← M.port idx
    let r ← M.offerAndWait idx p true 0
    modify (·.setX e r.1)
    if carriesData r.1 then modify (·.setV d r.2)
    M.synced 12) s

/-- `PUTNB` (R207). -/
def execPutnb (idx : BitVec 16) (a : Reg) (s : State) : Out :=
  M.run (do
    let p ← M.port idx
    M.mayOffer idx p false
    M.outgoing
    modify (·.offer idx p none (lowBytes p.w (s.v a)))
    M.done 12) s

/-- `GETNB` (R207). -/
def execGetnb (idx : BitVec 16) (s : State) : Out :=
  M.run (do
    let p ← M.port idx
    M.mayOffer idx p true
    M.outgoing
    modify (·.offer idx p none 0)
    M.done 12) s

/-- `PWAIT` (R207). -/
def execPwait (d e : Reg) (idx : BitVec 16) (s : State) : Out :=
  M.run (do
    let p ← M.port idx
    match s.portState idx with
    | none => M.trap (.portbad 5 idx)
    | some (.offered _ _) => do
      if s.me.unreported then do
        if (s.portDomain p).isSome then M.outgoing
        modify (fun s => ((s.reportPort idx p).noteWait (.port idx.toNat)).leftCore)
      throw (.block (.port idx.toNat))
    | some (.decided st data _) => do
      modify (fun s => (s.idlePort idx).setX d st)
      if p.sink && carriesData st then modify (·.setV e data)
      M.synced 12) s

/-- `PWDRAW` (R207): 2 is WITHDRAWN, 4 is NONE. -/
def execPwdraw (d : Reg) (idx : BitVec 16) (s : State) : Out :=
  M.run (do
    let p ← M.port idx
    match s.portState idx with
    | none => modify (·.setX d 4)
    | some (.offered b pulled) => do
      if !pulled then do
        M.outgoing
        modify (fun s => ((s.setPort idx (.offered b true)).toPillow p (.withdraw p.hvc p.conn p.lidx s.me.id idx.toNat)))
      modify (fun s => (s.noteWait (.port idx.toNat)).leftCore)
      throw (.block (.port idx.toNat))
    | some (.decided st _ _) => do
      modify (·.setX d st)
      if s.me.pendOf.isSome && st.toNat % 8 == 2 then modify (·.idlePort idx)
    M.synced 12) s

/-- A result reaches the port's owner: DECIDED, or IDLE where the withdrawal of a blocked PUT's or GET's offer won (R205,
R209). -/
def Strand.decided (c : Strand) (idx : Nat) (status : W64) (data : V128) : Strand :=
  match AMap.get c.ports idx with
  | some (.offered b pulled) =>
    if pulled && b.isSome && status.toNat % 8 == 2 then { c with ports := AMap.drop c.ports idx }
    else { c with ports := AMap.put c.ports idx (.decided status data b) }
  | _ => c

/-- The withdrawal of an offer of the executing strand, if it is still out and none has been sent (R209). -/
def State.withdrawPort (s : State) (idx : Nat) : State :=
  match AMap.get s.me.ports idx, s.myLaunch.pool[idx]? with
  | some (.offered b false), some w =>
    let r := PortRec.ofWord w
    (s.modMe (fun c => { c with ports := AMap.put c.ports idx (.offered b true) })).toPillow r (.withdraw r.hvc r.conn r.lidx s.me.id idx)
  | _, _ => s

/-- The offer that the PUT or GET at the pc made is still out (R209). -/
def State.ownOffer (s : State) : Option Nat :=
  (s.me.ports.find? (fun p => match p.2 with
    | .offered (some q) _ => decide (q = s.me.pc)
    | _ => false)).map (·.1)

/-- The withdrawal of every offer of the executing strand (R209). -/
def State.withdrawAll (s : State) : State := s.me.ports.foldl (fun s p => s.withdrawPort p.1) s

end Sys2Proof.Machine
end

