-- ==== Sys2Proof/Machine/Gang.lean ====
section
/-! DEFINITION. Gang windows, tile queues and straggler records as their instructions see them: GWOPEN, GWDETACH, GWSTAT,
TQPUSH, TQTAKE, TQSTEAL, TQDONE and STRAGRD (R216-R222). What cores and homes decide stands in `Machine/Peers.lean`. -/

namespace Sys2Proof.Machine

/-! ## The window (R216-R218) -/

/-- x[a] of GWOPEN names no 16-byte aligned place of the executing core's local scratchpad (R216). -/
def State.badSlice (s : State) (p : W64) : Bool :=
  wbits p 63 56 != 0xF1 || wbits p 55 47 != 0 || wbits p 35 19 != 0 || wbits p 46 36 != s.me.place.core || p.toNat % 16 != 0

/-- `GWOPEN` (R216). A slice that ends past the local scratchpad is an operand ILLOP, as R216 says, and not the SPACE of R20 (DEDUCED,
log entry 73); of two bad operands x[a] is named (DESIGN CHOICE, log entry 62). -/
def execGwopen (d a b : Reg) (s : State) : Out :=
  let p := s.x a
  let n := (s.x b).toNat
  let o := wbits p 18 0
  M.run (do
    let (g, m) ← M.domain (·.gang)
    M.trapIf (s.badSlice p) (.operand a p)
    M.trapIf (n % 16 != 0 || n < 16 || 262144 < n || 0x8_0000 < o + n) (.operand b (s.x b))
    if (← get).asking then do
      let ws ← M.final .window
      modify (·.setX d (nth ws 0 0))
    else if g.winOpen && decide (m.win = .attached) then modify (·.setX d 1)
    else if g.winOpen then modify (·.setX d 3)
    else do
      M.outgoing
      let _ ← M.post true .window (fun _ s => s.report g (.winArrive g.launch g.gid m.idx o n))
    M.done 12) s

/-- A member detached (R217, R330). -/
def State.detach (s : State) (g : Group) (m : Member) : State :=
  if g.winOpen && decide (m.win = .attached) then
    (s.modGroup g.launch g.gid (fun g => g.modMember m.idx (fun m => { m with win := .detached }))).closeCheck g.launch g.gid
  else s

/-- A gang access of the executing context's slot is not performed yet (R217, R20). -/
def State.gangBusy (s : State) : Bool :=
  s.asked.any (fun a => a.gang && decide (a.sid.comp = s.me.id.comp)) ||
    s.contexts.any (fun c => decide (c.id.comp = s.me.id.comp) && c.amops.any (·.gang))

/-- The executing member detaches once its slot's gang accesses are performed (R217, R330). -/
def M.detach (g : Group) (m : Member) : M Unit := do
  M.blockIf (g.winOpen && decide (m.win = .attached) && (← get).gangBusy) .unacked
  modify (·.detach g m)

/-- `GWDETACH` (R217). -/
def execGwdetach (s : State) : Out :=
  M.run (do
    let (g, m) ← M.domain (·.gang)
    M.detach g m
    M.retire 12) s

/-- The members attached, as a member's core sees them: one that has departed counts until the core is told (R218, R331). -/
def Group.attached (g : Group) (m : Member) : Nat :=
  (g.members.filter (fun x => g.winOpen && (decide (x.win = .attached) ||
    (decide (x.win = .departed) && x.wasAtt && !m.seesGone.contains x.idx)))).length

/-- The word that GWSTAT writes (R218). (DEDUCED, log entry 44) -/
def gwstat (g : Group) (m : Member) : W64 :=
  BitVec.ofNat 64 (m.len * 2 ^ 32 + g.attached m * 2 ^ 16 + m.idx * 16 + (if m.dep then 4 else 0) + (if g.winOpen then 2 else 0) +
    (if g.winOpen && decide (m.win = .attached) then 1 else 0))

/-- `GWSTAT` (R218). -/
def execGwstat (d : Reg) (s : State) : Out :=
  M.run (do
    let (g, m) ← M.domain (·.gang)
    modify (·.setX d (gwstat g m))
    M.retire 12) s

/-! ## Tile queues (R219-R221, R333, R334) -/

/-- A member's tile queue changed. -/
def State.modQueue (s : State) (launch gid idx : Nat) (f : TileQueue → TileQueue) : State :=
  s.modGroup launch gid (fun g => g.modMember idx (fun m => { m with queue := m.queue.map f }))

/-- The key of slot `k` of a queue's ring. -/
def slotKey (core cap : Nat) (q : TileQueue) (k : Nat) : Nat := spKey core (q.ring + 8 * (k % cap))

/-- A slot written: a store event of its core. -/
def State.writeSlot (s : State) (key : Nat) (d : W64) : State := (s.logSectors key 8).poke key (leBytes 8 d.toNat)

/-- A slot read. -/
def State.readSlot (s : State) (key : Nat) : W64 := BitVec.ofNat 64 (leNat (s.peek key 8))

/-- The tile queue of the executing member (R202). -/
def M.myQueue : M (Group × Member × TileQueue) := do
  let (g, m) ← M.domain (·.strag)
  match m.queue with
  | some q => pure (g, m, q)
  | none => M.trap .context

/-- `TQPUSH` (R219): the owner's earlier accesses, its AMOPs among them, come before the decision (R266). -/
def execTqpush (a : Reg) (s : State) : Out :=
  M.run (do
    let (g, m, q) ← M.myQueue
    M.trapIf (g.tqcap ≤ q.count + q.out) (.operand a (s.x a))
    M.blockIf (s.logFull [(slotKey s.me.place.gcore g.tqcap q (q.head + q.count), 8)]) .egress
    M.blockIf s.me.farAmop .unacked
    M.outgoing
    modify (fun s => (s.writeSlot (slotKey s.me.place.gcore g.tqcap q (q.head + q.count)) (s.x a)).modQueue g.launch g.gid m.idx
      (fun q => { q with count := q.count + 1 }))
    M.done 12) s

/-- `TQTAKE` (R219, R266). (DEDUCED, log entry 41) -/
def execTqtake (d e : Reg) (s : State) : Out :=
  M.run (do
    let (g, m, q) ← M.myQueue
    M.blockIf s.me.farAmop .unacked
    M.outgoing
    if q.count = 0 then modify (·.setX e 0)
    else
      modify (fun s => ((s.setX d (s.readSlot (slotKey s.me.place.gcore g.tqcap q q.head))).setX e 1).modQueue g.launch g.gid m.idx
        (fun q => { q with head := (q.head + 1) % g.tqcap, count := q.count - 1 }))
    M.synced 12) s

/-- `TQSTEAL` (R220): the answer is the descriptor and the transfer record, whose low bits are the status. -/
def execTqsteal (d e a : Reg) (s : State) : Out :=
  let v := (s.x a).toNat
  M.run (do
    let (g, m) ← M.domain (·.strag)
    let l := s.myLaunch
    M.trapIf (v == m.idx || !(l.neighbours (l.recOf g) m.idx).contains v) (.operand a (s.x a))
    if (← get).asking then do
      let ws ← M.final .request
      if (nth ws 1 0).toNat % 8 = 1 then modify (·.setX d (nth ws 0 0))
      modify (·.setX e (nth ws 1 0))
    else do
      M.outgoing
      let core := (g.member? v).elim g.home (fun m => s.coreOf m.sid m.core)
      let _ ← M.post true .request (fun r s => s.sendAfter .ctl s.me.place.gcore core s.me.id (.steal g.launch g.gid m.idx v r))
    M.synced 12) s

/-- The victim and the steal number of a transfer record (R220). -/
def recVictim (r : W64) : Nat := wbits r 27 16
def recSeq (r : W64) : W32 := r.extractLsb' 32 32

/-- `TQDONE` (R221): the completion goes to the group's home and to the victim's core. -/
def execTqdone (a : Reg) (s : State) : Out :=
  let r := s.x a
  M.run (do
    let (g, _) ← M.domain (·.strag)
    let v := recVictim r
    let core := (g.member? v).elim g.home (fun m => s.coreOf m.sid m.core)
    M.trapIf (!s.me.stolen.any (fun t => t.1 == r)) (.operand a r)
    M.blockIf (s.me.unack != 0) .unacked
    M.outgoing
    modify (fun s => ((s.modMe (fun c => { c with stolen := c.stolen.filter (fun t => t.1 != r) })).report g
      (.tqdone g.launch g.gid v (recSeq r) true)).sendAfter .ctl s.me.place.gcore core s.me.id (.tqdone g.launch g.gid v (recSeq r) false))
    M.synced 12) s

/-! ## Straggler records (R222) -/

/-- The field of a straggler record that STRAGRD reads (R222): a member that has left keeps its last record (R332). -/
def stragField (g : Group) (m : Member) (f : Nat) : W64 :=
  let r := m.strag
  let h (i : Nat) : Nat := (nth r.hist.toList i 0).toNat
  match f with
  | 0 => r.score.setWidth 64
  | 1 => BitVec.ofNat 64 (h 0 + h 1 * 2 ^ 16 + h 2 * 2 ^ 32 + h 3 * 2 ^ 48)
  | 2 => BitVec.ofNat 64 (h 4 + h 5 * 2 ^ 16 + h 6 * 2 ^ 32 + h 7 * 2 ^ 48)
  | 3 => BitVec.ofNat 64 ((if r.lag then 1 else 0) + r.above * 256 + r.below * 2 ^ 16)
  | 4 => g.phases.setWidth 64
  | _ => if g.tqcap = 0 then 0 else BitVec.ofNat 64 (r.qocc + g.tqcap * 2 ^ 16)

/-- `STRAGRD` (R222); of two bad operands x[a] is named (DESIGN CHOICE, log entry 62). -/
def execStragrd (d a : Reg) (f : BitVec 32) (s : State) : Out :=
  M.run (do
    let (g, _) ← M.domain (·.strag)
    M.trapIf (g.size ≤ (s.x a).toNat) (.operand a (s.x a))
    M.trapIf (5 < f.toNat) (.imm f)
    if (← get).asking then do
      let ws ← M.final .request
      modify (·.setX d (nth ws 0 0))
    else do
      M.outgoing
      let _ ← M.post true .request (fun r s => s.report g (.straggler g.launch g.gid (s.x a).toNat f.toNat s.me.id r))
    M.done 12) s

end Sys2Proof.Machine
end

