-- ==== Sys2Proof/Machine/Mesh.lean ====
section
/-! DEFINITION. The way of a packet: the places of the C9's units on the dies' meshes (R400), the routes between them (R373,
R379, R380), the links with their credits and retry buffers (R376-R379), and the arrival of a packet in its order (R372). -/

namespace Sys2Proof.Machine

/-! ## Places and routes (R373, R400) -/

/-- A router: its die, its physical row and column. -/
structure Router where
  die : Nat
  row : Nat
  col : Nat
  deriving DecidableEq, Repr

/-- The router of a core. -/
def State.coreRouter (s : State) (g : Nat) : Router :=
  { die := g / 256, row := (gridOf (g % 2048)).1, col := s.physCol (g / 2048) (g / 256 % 8) (gridOf (g % 2048)).1 (gridOf (g % 2048)).2 }

/-- The router of L2 slice and die-scratchpad bank `i` of a die. -/
def sliceRouter (die i : Nat) : Router := { die, row := i / 2, col := if i % 2 = 0 then 0 else 16 }

/-- The router of the pillow of a logical cluster. -/
def pillowRouter (c : Nat) : Router := { die := c / 16, row := 4 * (c % 16 / 4) + 1, col := 4 * (c % 4) + 1 }

/-- The router of a die's torus port. -/
def torusRouter (die : Nat) : Router := { die, row := 7, col := 8 }

/-- The router of a source or destination of packets. A package as a whole is at its first torus port (DESIGN CHOICE, log entry
14). -/
def State.router (s : State) (n : Nat) : Router :=
  if n < 2 ^ 38 then s.coreRouter n
  else if n < 2 ^ 40 then pillowRouter (n - 2 ^ 38)
  else if n < 2 ^ 41 then torusRouter ((n - 2 ^ 40) * 8)
  else if n < 2 ^ 42 then s.coreRouter (n - 2 ^ 41)
  else if n < 2 ^ 43 then sliceRouter ((n - 2 ^ 42) / 32) (n % 32)
  else if n < 2 ^ 45 then sliceRouter ((n - 2 ^ 43) / 32) (n % 32)
  else if n < 2 ^ 46 then pillowRouter ((s.launch ((n - 2 ^ 45) / 128)).bind.getD ((n - 2 ^ 45) % 128) 0)
  else if 2 ^ 47 ≤ n then
    { die := (n - 2 ^ 47) / 2 ^ 9, row := (n - 2 ^ 47) % 2 ^ 9 / 32, col := n % 32 }
  else s.coreRouter (((s.strand? { launch := (n - 2 ^ 46) / 2 ^ 24, seat := .placed ((n - 2 ^ 46) % 2 ^ 24), unit := .compute }).map
    (·.place.gcore)).getD 0)

/-- The number of a router as a source or destination. -/
def Router.node (r : Router) : Nat := 2 ^ 47 + r.die * 2 ^ 9 + r.row * 32 + r.col

/-- The routers of a route on a die with the output taken at each: along the row first, then along the column, then out to
the destination (R373). Outputs: 0 and 1 along the row, 2 and 3 along the column, 4 to the core. -/
def routeOf (r0 c0 r1 c1 : Nat) : List (Nat × Nat × Nat) :=
  let row := if c0 ≤ c1 then (List.range (c1 - c0)).map (fun i => (r0, c0 + i, 0)) else (List.range (c0 - c1)).map (fun i => (r0, c0 - i, 1))
  let col := if r0 ≤ r1 then (List.range (r1 - r0)).map (fun i => (r0 + i, c1, 2)) else (List.range (r0 - r1)).map (fun i => (r0 - i, c1, 3))
  row ++ col ++ [(r1, c1, 4)]

/-- The key of a mesh link, by its router and output. -/
def meshLink (die : Nat) (o : Nat × Nat × Nat) : Nat := 2 ^ 61 + die * 2 ^ 13 + (o.1 * 32 + o.2.1) * 8 + o.2.2

/-- The key of the link from a die to another. -/
def dieLink (a b : Nat) : Nat := a * 2 ^ 25 + b

/-- The mesh links from one router of a die to another. -/
def meshHops (a b : Router) : List Nat := ((routeOf a.row a.col b.row b.col).filter (fun o => o.2.2 != 4)).map (meshLink a.die)

/-- The router of a die's port toward another: the next column lower or higher, or the other row (R400). -/
def portRouter (die to_ : Nat) : Router :=
  if to_ / 4 % 2 ≠ die / 4 % 2 then { die, row := if die / 4 % 2 = 0 then 15 else 0, col := 8 }
  else { die, row := 8, col := if to_ < die then 0 else 16 }

/-- The dies of a route after the first: columns first, then the row (R400). -/
def dieSteps (a b : Nat) : List Nat :=
  let base := a / 4 * 4
  let cols := if a % 4 ≤ b % 4 then (List.range (b % 4 - a % 4)).map (fun i => base + a % 4 + i + 1)
    else (List.range (a % 4 - b % 4)).map (fun i => base + a % 4 - i - 1)
  if a / 4 = b / 4 then cols else cols ++ [b]

/-- The router from which a mesh or die-to-die link leaves. -/
def linkStart (k : Nat) : Router :=
  if k < 2 ^ 60 then portRouter (k / 2 ^ 25) (k % 2 ^ 25)
  else { die := (k - 2 ^ 61) / 2 ^ 13, row := (k - 2 ^ 61) % 2 ^ 13 / 256, col := k % 256 / 8 }

/-- The package of a link's sender. -/
def linkPkg (k : Nat) : Nat := if k < 2 ^ 60 then k / 2 ^ 25 / 8 else if k < 2 ^ 61 then (k - 2 ^ 60) / 8 else (k - 2 ^ 61) / 2 ^ 16

/-- The links of the fabric that are down. -/
def State.linkDown (s : State) (k : Nat) : Bool := (AMap.get s.links k).any (·.down)

/-- Every link of a list of dies is up. -/
def State.stepsUp (s : State) : Nat → List Nat → Bool
  | _, [] => true
  | a, b :: r => !s.linkDown (dieLink a b) && s.stepsUp b r

/-- The neighbours of a die in the 2 × 4 arrangement. -/
def dieNeighbours (a : Nat) : List Nat :=
  (if a % 4 = 0 then [] else [a - 1]) ++ (if a % 4 = 3 then [] else [a + 1]) ++ [if a / 4 % 2 = 0 then a + 4 else a - 4]

/-- The ways of a number of steps from a die over links that are up. -/
def State.dieWays (s : State) : Nat → Nat → List (List Nat)
  | 0, _ => [[]]
  | n + 1, a => ((dieNeighbours a).filter (fun b => !s.linkDown (dieLink a b))).flatMap (fun b => (s.dieWays n b).map (b :: ·))

/-- The dies that a packet passes: the route of R400, or, where a link of it is down, a shortest one over the remaining paths
(R379; which one is the model's choice, DESIGN CHOICE, log entry 14). -/
def State.dieRoute (s : State) (a b : Nat) : List Nat :=
  if s.stepsUp a (dieSteps a b) then dieSteps a b
  else (((List.range 8).flatMap (fun n => s.dieWays n a)).find? (fun w => w.getLast? == some b)).getD (dieSteps a b)

/-- The links from a router through dies to another router. -/
def hopsThrough (a b : Router) : List Nat → List Nat
  | [] => meshHops a b
  | d :: r => meshHops a (portRouter a.die d) ++ [dieLink a.die d] ++ hopsThrough (portRouter d a.die) b r

/-- The links from one router of a package to another. -/
def State.hops (s : State) (a b : Router) : List Nat := hopsThrough a b (s.dieRoute a.die b.die)

/-! ## The torus's places (R380, R400) -/

/-- The sizes of the four dimensions (DESIGN CHOICE, log entry 14). -/
def torusSize (k : Nat) : Nat := if k < 2 then 64 else 32

/-- The first bit of a dimension's coordinate in a package ID (DESIGN CHOICE, log entry 14). -/
def torusBit (k : Nat) : Nat := if k ≤ 2 then 6 * k else 17

/-- A coordinate of a package. -/
def torusAt (p k : Nat) : Nat := p / 2 ^ torusBit k % torusSize k

/-- The package at the end of torus link `o`: 2k runs in the positive direction of dimension k, 2k + 1 in the negative one. -/
def torusNext (p o : Nat) : Nat :=
  let k := o / 2
  let a := torusAt p k
  let b := if o % 2 = 0 then (a + 1) % torusSize k else (a + torusSize k - 1) % torusSize k
  p - a * 2 ^ torusBit k + b * 2 ^ torusBit k

/-- The outputs that bring a flit closer to its destination. (DEDUCED, log entry 59) -/
def torusCloser (p dst : Nat) : List Nat :=
  (List.range 8).filter (fun o =>
    let k := o / 2
    let d := (torusAt dst k + torusSize k - torusAt p k) % torusSize k
    d != 0 && (if o % 2 = 0 then decide (2 * d ≤ torusSize k) else decide (torusSize k ≤ 2 * d)))

/-! ## Packets and flits (R373) -/

/-- The bytes of a packet's contents (DESIGN CHOICE, log entry 14). -/
def Body.bytes : Body → Nat
  | .sector _ _ bs _ => bs.length
  | .notice _ _ _ | .noticeRefused _ _ _ | .offer _ _ _ | .portResult _ _ _ _ | .stealResult _ _ _ _ _ _ _ _ => 32
  | .remote r => 16 + (match r.op with
    | .store bs => bs.length
    | .atomic _ _ _ _ _ _ => 8
    | .cas _ _ _ => 16
    | _ => 0)
  | .reply _ _ (.ok ws) _ => 8 * ws.length
  | .migrate c => 1024 + c.slice.length + 4 * c.cells.length
  | _ => 16

/-- The payloads of the packets into which contents are cut: at most 144 bytes each (R373). -/
def payloads (n : Nat) : List Nat := (List.range (Nat.max 1 ((n + 143) / 144))).map (fun i => Nat.min 144 (n - 144 * i))

/-- The flits of a packet with its 16-byte header: of 16 bytes on a mesh link, of 32 on a die-to-die or torus link (R373, R379). -/
def flitsOn (link n : Nat) : Nat := if 2 ^ 61 ≤ link then (16 + n + 15) / 16 else (16 + n + 31) / 32

/-! ## Links (R376-R379) -/

/-- A link that has carried nothing yet, with all its credits. -/
def Link.fresh : Link :=
  { credits := [], retry := [], nextSeq := 0, wire := [], expect := 0, owed := [], sinceSync := 0, retrains := 0, down := false }

/-- The entries of a link's input for each network: 16 flits on the mesh, 64 on a die-to-die link (R376). -/
def linkRoom (link : Nat) : Nat := if 2 ^ 61 ≤ link then 16 else 64

/-- The credits that a sender holds for a network. -/
def Link.credit (l : Link) (room : Nat) (n : VNet) : Nat := (AMap.get l.credits n).getD room

/-- Credits returned to the sender (R376). -/
def Link.give (l : Link) (room : Nat) (n : VNet) (k : Nat) : Link := { l with credits := AMap.put l.credits n (l.credit room n + k) }

/-- Credits that the receiver owes put into a return: at most 63 of one network (R376). -/
def Link.return_ (l : Link) : Link × Option (VNet × Nat) :=
  match l.owed.find? (fun e => e.2 != 0) with
  | some (n, k) => ({ l with owed := AMap.put l.owed n (k - Nat.min 63 k) }, some (n, Nat.min 63 k))
  | none => (l, none)

/-- A flit put on a link: it gets the next number, and the sender keeps it for a replay, 256 of them at most (R377). -/
def Link.put (l : Link) (n : VNet) (back : Option (VNet × Nat)) (load : FlitLoad) : Link :=
  let f : Flit := { seq := l.nextSeq, net := n, credits := back, bad := false, load }
  let r := l.retry ++ [f]
  { l with retry := r.drop (r.length - 256), nextSeq := l.nextSeq + 1, wire := l.wire ++ [f], sinceSync := l.sinceSync + 1 }

/-- A flit of a packet sent: it takes a credit and carries a return (R376). -/
def Link.sendFlit (l : Link) (room : Nat) (n : VNet) (back : Option (VNet × Nat)) : Link :=
  { l with credits := AMap.put l.credits n (l.credit room n - 1) }.put n back .data

/-- The receiver takes a flit: one that fails its CRC is discarded; one whose number is not the next, which was accepted before
or comes after one that failed, is discarded whole, with its credit return (R377). -/
def Link.takes (l : Link) (f : Flit) : Bool := !f.bad && f.seq == l.expect

/-- A flit received: the link works again (R379). -/
def Link.receive (l : Link) (f : Flit) : Link := if l.takes f then { l with expect := l.expect + 1, retrains := 0 } else l

/-- The flits in transit received in order, and those of them that are accepted. -/
def Link.receiveAll (l : Link) : Link × List Flit :=
  let r := l.wire.foldl (fun (x : Link × List Flit) f => (x.1.receive f, x.2 ++ (if x.1.takes f then [f] else []))) (l, [])
  ({ r.1 with wire := [] }, r.2)

/-- Entries of a network freed: their credits are owed (R376). -/
def Link.free (l : Link) (n : VNet) (k : Nat) : Link :=
  if k = 0 then l else { l with owed := AMap.put l.owed n ((AMap.get l.owed n).getD 0 + k) }

/-- The sender replays from the flit that the receiver expects, in the original order (R377). -/
def Link.replay (l : Link) : Link := { l with wire := l.retry.filter (fun f => (f.seq - l.expect).toNat < 2048) }

/-- A sync flit's counts taken over: each becomes the free count less the flits of the network sent after the last one that the
receiver had accepted (R378). -/
def Link.synced (l : Link) (free : List (VNet × Nat)) (last : BitVec 12) : Link :=
  let after (n : VNet) : Nat := (l.retry.filter (fun f =>
    decide (f.net = n) && decide (f.load = .data) && decide ((f.seq - last - 1).toNat < 2048))).length
  { l with credits := free.map (fun e => (e.1, e.2 - after e.1)) }

/-- A link by its key: from die `key / 2^25` to die `key mod 2^25`; 2^60 + package * 8 + d for torus link d; 2^61 and more for a
mesh link. -/
def State.link (s : State) (k : Nat) : Link := (AMap.get s.links k).getD .fresh

/-- A link changed. -/
def State.modLink (s : State) (k : Nat) (f : Link → Link) : State := { s with links := AMap.put s.links k (f (s.link k)) }

/-- The same link in the other direction: of a mesh link, the opposite output of the next router. -/
def reverseLink (k : Nat) : Nat :=
  if k < 2 ^ 60 then dieLink (k % 2 ^ 25) (k / 2 ^ 25)
  else if k < 2 ^ 61 then 2 ^ 60 + torusNext ((k - 2 ^ 60) / 8) (k % 8) * 8 + (k % 8).xor 1
  else match k % 8 with
    | 0 => k + 8 + 1
    | 1 => k - 8 - 1
    | 2 => k + 256 + 1
    | _ => k - 256 - 1

/-- A link of the torus. -/
def torusLink (k : Nat) : Bool := decide (2 ^ 60 ≤ k) && decide (k < 2 ^ 61)

/-- What an accepted flit brings takes effect: its credit return, or its sync flit's counts, in the other direction, whose receiver
sent them (R376, R378); a torus flit at the next package's router, by the port of its link (R380). -/
def State.accept (s : State) (k : Nat) (f : Flit) : State :=
  let back := reverseLink k
  let s := match f.credits with
    | some c => s.modLink back (fun l => l.give (linkRoom back) c.1 c.2)
    | none => s
  match f.load with
  | .data | .credit => s
  | .sync free last => s.modLink back (fun l => l.synced free last)
  | .torus x => s.modTorus (linkPkg back) (fun t => { t with arrived := t.arrived ++ [{ x with via := back % 8 }] })

/-- A torus link that carries flits: it is up, and leads to a package that runs (R379, R399). -/
def State.torusUp (s : State) (p o : Nat) : Bool := !s.linkDown (2 ^ 60 + p * 8 + o) && s.alive (torusNext p o)

/-! ## Packets on their way -/

/-- A packet with a source or destination in no package, a host's, has no way to go in the fabric (R391). -/
def State.outside (s : State) (p : Packet) : Bool := decide (2 ^ 22 ≤ s.nodePkg p.src) || decide (2 ^ 22 ≤ s.nodePkg p.dst)

/-- The way of a packet from a router of a package: to its destination there, or to the torus port of the link that its route
takes first (R400). -/
def State.way (s : State) (p : Packet) (pkg : Nat) (r : Router) : Trip :=
  let hops := if s.outside p then [] else if s.nodePkg p.dst = pkg then s.hops r (s.router p.dst)
    else s.hops r (torusRouter (pkg * 8 + (torusCloser pkg (s.nodePkg p.dst)).headD 0))
  { pkg, parts := (payloads p.body.bytes).map (fun n => { bytes := n, hops, input := none, wired := false }) }

/-- How far a packet is; one that has not set out is at its source. -/
def State.trip (s : State) (p : Packet) : Trip := p.trip.getD (s.way p (s.nodePkg p.src) (s.router p.src))

/-- A packet is whole at its destination's router: every part of it has come there (R373). -/
def State.landed (s : State) (p : Packet) : Bool :=
  s.outside p || ((s.trip p).parts.all (·.hops.isEmpty) && (s.trip p).pkg == s.nodePkg p.dst)

/-- An atomic of a context, or of what goes on of its earlier work, that was issued before a reference and is not performed yet:
`.ord` waits for it (R124, R166, R186). -/
def State.atomicsBefore (s : State) (i : Sid) (ref : Nat) : Bool :=
  s.contexts.any (fun c => (decide (c.id = i) || decide (c.was = some i)) && c.amops.any (fun a => a.away && decide (a.ref < ref)))

/-- A matrix instruction in a core's queues. -/
def Core.matrix? (c : Core) (ref : Nat) : Option MatOp := (c.mq0 ++ c.mq1).find? (fun o => o.ref == ref)

/-- A matrix instruction by its reference. -/
def State.matrix? (s : State) (ref : Nat) : Option MatOp := s.cores.findSome? (fun c => c.2.matrix? ref)

/-- The virtual cluster of a launch on a core is evicted: what is bound for its scratchpad waits (R345, R349), whoever holds the
core now. -/
def State.evictedAt (s : State) (launch g : Nat) : Bool :=
  ((s.launch launch).bind.findIdx? (· == g / 16)).any (s.launch launch).evicted.contains

/-- The scratchpad that holds a key belongs to an evicted virtual cluster of a launch. -/
def State.evictedKey (s : State) (launch k : Nat) : Bool := (keyCore k).any (s.evictedAt launch)

/-- The launch for whose virtual core or scratchpad a packet's contents are. -/
def State.addressee (s : State) : Body → Option Nat
  | .notice _ _ k | .noticeRefused _ _ k => some k.launch
  | .decrement launch _ | .gbarArrive launch _ _ _ | .winArrive launch _ _ _ _ | .steal launch _ _ _ _
  | .stealResult launch _ _ _ _ _ _ _ | .tqdone launch _ _ _ _ | .straggler launch _ _ _ _ _ => some launch
  | .emit launch _ _ _ _ | .retract launch _ _ _ | .pause launch _ _ | .leave launch _ _ | .blockSig launch _ _ _
  | .blockPort launch _ _ _ | .unblock launch _ _ => some launch
  | .migrate c => some c.sid.launch
  | .sector ref _ _ _ => match AMap.get s.ops ref with
    | some op => some op.owner.launch
    | none => (s.matrix? ref).map (·.owner.launch)
  | _ => none

/-- A packet that has come waits for the restore of the virtual cluster it is for (R289, R345, R349); those behind it that are for
another do not. -/
def State.putBy (s : State) (p : Packet) : Bool :=
  s.landed p && (s.addressee p.body).any (fun l => match p.body with
    | .decrement _ k => s.evictedKey l k
    | .sector _ _ bs _ => s.evictedKey l ((bs.head?.map (·.key)).getD 0)
    | _ => decide (p.dst < 2 ^ 38) && s.evictedAt l p.dst)

/-- Two sectors of one operation, which have no order (R263). -/
def Packet.unordered (p q : Packet) : Bool :=
  match p.body, q.body with
  | .sector a _ _ _, .sector b _ _ _ => a == b
  | _, _ => false

/-- Two packets are of one network, source and destination, and stay in order (R372). -/
def Packet.sameWay (p q : Packet) : Bool := decide (q.vn = p.vn) && q.src == p.src && q.dst == p.dst && !p.unordered q

/-- A packet that the packet with an index follows is still on its way (R372). -/
def State.behind (s : State) (k : Nat) (p : Packet) : Bool :=
  (s.net.take k).any (fun q => p.sameWay q && decide (q.sent ≤ p.sent) && !s.putBy q) ||
    s.flying.any (fun q => p.sameWay q && decide (q.sent < p.sent) && !s.putBy q)

/-- What the packet with an index carries, if it may arrive: it has come to its destination, packets of one network from one
source to one destination keep their order (R372), and one that follows its context's atomics waits for them (R266). -/
def State.arriving (s : State) (k : Nat) : Option Body :=
  match s.net[k]? with
  | some p => if !s.landed p || s.behind k p || p.after.any (fun a => s.atomicsBefore a.1 a.2) then none else some p.body
  | none => none

/-- The packet with an index has arrived: it is in flight no more. -/
def State.deliver (s : State) (k : Nat) : State := { s with net := dropNth s.net k }

/-- The packet with an index is at a point of its way. -/
def State.moved (s : State) (k : Nat) (t : Trip) : State := { s with net := modNth s.net k (fun p => { p with trip := some t }) }

/-- A packet leaves its package by the torus: its flits wait for a cycle of the router (R380, R382). The last packet of what was
cut into several brings the contents. -/
def State.injectTorus (s : State) (p : Packet) (a : Nat) : State :=
  let b := s.nodePkg p.dst
  s.modTorus a (fun t =>
    let n := (AMap.get t.given (b, p.vn)).getD 0
    let l := payloads p.body.bytes
    let flits := l.zipIdx.flatMap (fun (m, j) => (List.range (flitsOn 0 m)).map (fun i =>
      ({ dst := b, src := a, born := 0, net := p.vn, seq := n + j, index := i, count := flitsOn 0 m, via := 0,
         packet := if j + 1 = l.length then some p else none } : TorusFlit)))
    { t with inject := t.inject ++ flits, given := AMap.put t.given (b, p.vn) (n + l.length) })

/-- A part is on a link. -/
def Part.on (x : Part) (l : Nat) : Bool := x.wired && x.hops.head? == some l

/-- The entries of a link's input in use by a network: those of the parts that wait there (R376). -/
def State.heldAt (s : State) (k : Nat) (n : VNet) : Nat :=
  (((s.net.filter (fun p => decide (p.vn = n))).flatMap (fun p => (p.trip.map (·.parts)).getD [])).map
    (fun x => if x.input = some k then flitsOn k x.bytes else 0)).sum

/-- Another packet of the same network is on the link that a packet comes to. -/
def State.linkTaken (s : State) (n : VNet) (l : Nat) : Bool :=
  s.net.any (fun q => decide (q.vn = n) && q.trip.any (fun t => t.parts.any (·.on l)))

/-- The flits of a part put on a link, each with a return of the credits that the sender's own input owes (R376). -/
def State.sendFlits (l : Nat) (n : VNet) : Nat → State → State
  | 0, s => s
  | c + 1, s =>
    let (u, back) := (s.link (reverseLink l)).return_
    State.sendFlits l n c ((s.modLink (reverseLink l) (fun _ => u)).modLink l (fun x => x.sendFlit (linkRoom l) n back))

/-- The first part of a packet that may go on: its next link is up and free of its network, the sender holds a credit for each of its
flits, and no part before it waits for that link. -/
def State.partFor (s : State) (p : Packet) (t : Trip) : Option (Nat × Part × Nat) :=
  (t.parts.zipIdx.findSome? (fun (x, i) => match x.hops with
    | [] => none
    | l :: _ =>
      if x.wired || s.linkDown l || s.linkTaken p.vn l || (t.parts.take i).any (fun y => !y.wired && y.hops.head? == some l) ||
          decide ((s.link l).credit (linkRoom l) p.vn < flitsOn l x.bytes) then none
      else some (i, x, l)))

/-- The packet with an index moves on: a part of it onto its next link, which frees the input where it waited; all of it into the
torus at its port, once it is there whole (R376, R379, R382). -/
def State.carry (k : Nat) (s : State) : State :=
  match s.net[k]? with
  | none => s
  | some p =>
    let t := s.trip p
    if s.landed p || s.behind k p then s
    else if t.parts.all (·.hops.isEmpty) then ({ s with net := dropNth s.net k }).injectTorus p t.pkg
    else match s.partFor p t with
      | none => s
      | some (i, x, l) =>
        let s := match x.input with
          | some q => s.modLink q (fun y => y.free p.vn (flitsOn q x.bytes))
          | none => s
        (s.sendFlits l p.vn (flitsOn l x.bytes)).moved k
          { t with parts := modNth t.parts i (fun x => { x with input := none, wired := true }) }

/-- A part that was on a link is across it: it waits at the input, or is taken in at the end of its way. -/
def Part.across (x : Part) (l : Nat) : Part :=
  if x.on l then { x with hops := x.hops.tail, input := if x.hops.tail.isEmpty then none else some l, wired := false } else x

/-- The flits on a link arrive: what they bring takes effect, and the parts they make up have crossed it whole (R379). The entries of
what does not wait at the input are free. -/
def State.land (l : Nat) (s : State) : State :=
  if (s.link l).wire.isEmpty then s
  else
    let (u, fs) := (s.link l).receiveAll
    let came (n : VNet) : Nat := (fs.filter (fun f => decide (f.net = n) && decide (f.load = .data))).length
    let used (s : State) (n : VNet) : Nat := s.heldAt l n
    let t := fs.foldl (fun s f => s.accept l f) (s.modLink l (fun _ => u))
    let t := { t with net := t.net.map (fun p => { p with trip := p.trip.map (fun r => { r with parts := r.parts.map (·.across l) }) }) }
    [VNet.req, .rpy, .ctl, .blk].foldl (fun t n => t.modLink l (fun y => y.free n (came n + used s n - used t n))) t

end Sys2Proof.Machine
end

