-- ==== Sys2Proof/Machine/EngineEvents.lean ====
section
/-! DEFINITION. The events of the streamers, the trackers, notices and PUBLISH (R127, R132-R134,
R344-R349). An event whose cause is not there, or that must wait, leaves the state as it is. -/

namespace Sys2Proof.Machine

/-- A choice among `n` that the spec leaves open (DESIGN CHOICE, log entry 10). -/
def State.choose (s : State) (site n : Nat) : Nat := Config.freeChoice site s.tick % n

/-! ## Streamers (R344, R345) -/

/-- The bytes that a piece carries, with their poison marks. -/
def State.pieceBytes (s : State) (op : EngOp) : Piece → List (Bit8 × Bool)
  | .run src dst n => (List.range n).map (fun i =>
    let (byte, p) := s.engineByte op.olds (src + i)
    ({ key := dst + i, byte, mask := 0xFF }, p))
  | .code src high dst mask =>
    let (b, p) := s.engineByte op.olds src
    let c : Byte := if high then b >>> 4 else b &&& 0xF
    [({ key := dst, byte := if mask = 0xF0 then c <<< 4 else c, mask }, p)]

/-- The keys that a piece reads: the first and how many. -/
def Piece.source : Piece → Nat × Nat
  | .run src _ n => (src, n)
  | .code src _ _ _ => (src, 1)

/-- The bytes of a sector that an operation writes: each once, however many of its runs hold it. -/
def bytesIn (dst : Runs) (sector : Nat) : Nat := ((List.range 32).filter (fun i => dst.any (·.has (32 * sector + i)))).length

/-- The context of an operation's owner is evicted: its segments wait (R349). -/
def State.ownerEvicted (s : State) (i : Sid) : Bool := (s.strand? i).any (fun c => decide (c.res = .evicted))

/-- The unit that holds a byte of a destination: its home slice where the leaf names it (R246), else as `unitOf`. -/
def unitIn (dst : Runs) (k : Nat) : Nat :=
  match (dst.find? (·.has k)).bind (·.leaf) with
  | some w => if inDram k then 2 ^ 43 + (k / 2 ^ 56 * 8 + homeDie (k % 2 ^ 56) w) * 32 + homeSlice (k % 2 ^ 56) w else unitOf k
  | none => unitOf k

/-- The sectors that bytes belong to. -/
def sectorsOf (bs : List (Bit8 × Bool)) : List Nat := (bs.map (fun b => b.1.key / 32)).eraseDups

/-- Bytes read leave their streamer as packets on BLK, one for each sector, to the bank that holds it (R344). -/
def State.sendSectors (s : State) (src ref seg : Nat) (dst : Runs) (bs : List (Bit8 × Bool)) : State :=
  (sectorsOf bs).foldl (fun s x =>
    let mine := bs.filter (fun b => b.1.key / 32 == x)
    s.send .blk src (unitIn dst (32 * x)) (.sector ref seg (mine.map (·.1)) (mine.any (·.2)))) s

/-- A streamer. -/
def State.streamer (s : State) (n : Nat) : Streamer := (AMap.get s.streamers n).getD { cmds := [], last := 0 }

/-- A streamer changed. -/
def State.modStreamer (s : State) (n : Nat) (f : Streamer → Streamer) : State :=
  { s with streamers := AMap.put s.streamers n (f (s.streamer n)) }

/-- The segment command that the packet with an index brings to a streamer. -/
def State.commandAt (s : State) (n k : Nat) : Option (Nat × Nat) :=
  match s.arriving k with
  | some (.segCmd op seg) => if (s.net[k]?).any (fun p => p.dst == n) then some (op, seg) else none
  | _ => none

/-- Segment commands that have come to a streamer enter its queue of 32; the others wait in the network (R345). -/
def State.queueCommands (s : State) (n : Nat) : Nat → State
  | 0 => s
  | fuel + 1 =>
    if 32 ≤ (s.streamer n).cmds.length then s
    else match (List.range s.net.length).findSome? (fun k => (s.commandAt n k).map (fun c => (k, c))) with
      | none => s
      | some (k, op, seg) =>
        ((s.deliver k).modStreamer n (fun x =>
          { x with cmds := x.cmds ++ [{ op, seg, core := (AMap.get s.ops op).elim 0 (fun o => s.ownerCore o.owner) }] })).queueCommands n fuel

/-- The segment of a command, while it is not read; none where its operation's context is evicted: it stays in the saved tracker
entry (R349). -/
def State.segment? (s : State) (c : SegCmd) : Option (EngOp × Seg) :=
  (AMap.get s.ops c.op).bind (fun op =>
    if s.ownerEvicted op.owner then none else (op.unsent.find? (fun g => g.n == c.seg)).map (fun g => (op, g)))

/-- A segment may be read: its source is not evicted (R345), and no pair's log holds it (R368). -/
def State.readable (s : State) (x : EngOp × Seg) : Bool :=
  x.2.pieces.all (fun p => !s.evictedKey x.1.owner.launch p.source.1 &&
    !s.loggedAny none ((List.range p.source.2).map (· + p.source.1)))

/-- The command that a streamer serves next: the first of the issuing core that comes next after the one served last (R345). -/
def State.nextCommand (s : State) (n : Nat) : Option SegCmd :=
  let x := s.streamer n
  let ready := x.cmds.filter (fun c => (s.segment? c).any s.readable)
  match ready.filter (fun c => decide (x.last < c.core)) with
  | c :: r => some (r.foldl (fun a b => if b.core < a.core then b else a) c)
  | [] => match ready with
    | c :: r => some (r.foldl (fun a b => if b.core < a.core then b else a) c)
    | [] => none

/-- A segment read, and its sectors sent (R344). -/
def State.serve (s : State) (n : Nat) (c : SegCmd) : State :=
  match s.segment? c with
  | none => s
  | some (op, g) =>
    let bs := g.pieces.flatMap (s.pieceBytes op)
    let s := { s with ops := AMap.put s.ops c.op { op with unsent := op.unsent.filter (fun x => x.n != g.n), sent := op.sent ++ [(g.n, bs.length)] } }
    s.sendSectors n c.op g.n op.dst bs

/-- `STREAMER_SEGMENT` (R344, R345): a streamer takes the commands that have come, forgets those with nothing left to read, and
serves the next one. -/
def execStreamerSegment (k : Nat) (s : State) : Out :=
  let s := s.queueCommands k s.net.length
  let s := if (s.streamer k).cmds.all (fun c => (s.segment? c).isSome) then s else
    s.modStreamer k (fun x => { x with cmds := x.cmds.filter (fun c => (s.segment? c).isSome) })
  match s.nextCommand k with
  | none => .next s
  | some c => .next ((s.modStreamer k (fun x => { cmds := x.cmds.erase c, last := c.core })).serve k c)

/-- The race record of a sector that an engine writes: the issuer's counters at issue, or none (R270). -/
def State.engineRecord (s : State) (owner : Sid) (stamp : Option (Vector W32 5)) (dst : Runs) (k : Nat) : State :=
  match stamp with
  | some iv =>
    let sc := match s.strand? owner with
      | some c => scopeOf c.place (homeIn dst k)
      | none => 4
    { s with races := AMap.put s.races (s.inactiveKey k / 32) { tid := owner.tid, writer := owner.comp, ival := nth iv.toList sc 0, scope := sc } }
  | none => if s.races.isEmpty then s else { s with races := AMap.drop s.races (s.inactiveKey k / 32) }

/-- A byte with the bits that come put in. -/
def Bit8.into (b : Bit8) (m : List Host.Cell) : List Host.Cell := Memory.put m b.key ((Memory.get m b.key &&& ~~~b.mask) ||| (b.byte &&& b.mask))

/-- A sector is poisoned, by an error in the L2 or not (R362, R354). -/
def State.mark (s : State) (x : Nat) (l2 : Bool) : State :=
  { s with poison := if s.poison.contains x then s.poison else s.poison ++ [x],
           l2Poison := s.l2Poison.filter (· != x) ++ (if l2 then [x] else []) }

/-- A sector becomes new in one event: in the inactive half of a shadowed buffer, else in place (R127, R362). The old bytes of
one in DRAM are kept for fetch (R236). -/
def State.writeSector (s : State) (bs : List Bit8) (poison : Bool) : State :=
  let bs := bs.map (fun b => { b with key := s.inactiveKey b.key })
  let x := ((bs.head?.map (·.key)).getD 0) / 32
  let s := if inDram (32 * x) then { s with codeLog := s.codeLog ++ [{ key := 32 * x, old := Memory.getN s.mem (32 * x) 32 }] } else s
  let s := { s with mem := bs.foldl (fun m (b : Bit8) => b.into m) s.mem }
  let s := (s.dropTlb (32 * x) 32).stampWrite (32 * x)
  if poison then s.mark x false
  else if (bs.map (·.key)).eraseDups.length = 32 then s.cleanse (32 * x) 32 else s

/-- Bytes of a segment have come to their bank. -/
def countDown (sent : List (Nat × Nat)) (seg n : Nat) : List (Nat × Nat) := sent.map (fun x => if x.1 == seg then (x.1, x.2 - n) else x)

/-- Every bit of the bytes of a sector that an operation writes has come. -/
def wholeSector (dst : Runs) (x : Nat) (bs : List Bit8) : Bool :=
  let ks := (bs.map (·.key)).eraseDups
  ks.length == bytesIn dst x && ks.all (fun k => ((bs.filter (fun b => b.key == k)).foldl (fun m b => m ||| b.mask) 0) == 0xFF)

/-- A matrix instruction changed, in whichever queue holds it. -/
def State.modMatrix (s : State) (ref : Nat) (f : MatOp → MatOp) : State :=
  let m (q : List MatOp) : List MatOp := q.map (fun o => if o.ref == ref then f o else o)
  { s with cores := s.cores.map (fun c => if (c.2.matrix? ref).isSome then (c.1, { c.2 with mq0 := m c.2.mq0, mq1 := m c.2.mq1 }) else c) }

/-- The bytes of a sector come to the bank of a copy's destination: those of a sector that is not whole yet wait there for the
rest; a whole one becomes new in one event (R127, R344; DEDUCED, log entry 34). -/
def State.mergeSector (s : State) (ref : Nat) (op : EngOp) (seg : Nat) (bs : List Bit8) (poison : Bool) : State :=
  let x := ((bs.head?.map (·.key)).getD 0) / 32
  let here := op.part.filter (fun b => b.1.key / 32 == x) ++ bs.map (fun b => (b, poison))
  let sent := countDown op.sent seg bs.length
  if wholeSector op.dst x (here.map (·.1)) then
    let s := { s with ops := AMap.put s.ops ref { op with sent, part := op.part.filter (fun b => b.1.key / 32 != x) } }
    (s.writeSector (here.map (·.1)) (here.any (·.2))).engineRecord op.owner op.stamp op.dst ((bs.head?.map (·.key)).getD 0)
  else { s with ops := AMap.put s.ops ref { op with sent, part := op.part ++ bs.map (fun b => (b, poison)) } }

/-- The acknowledgement of a segment whose last byte has come leaves its bank on BLK (R348, R371). -/
def State.ackSegment (s : State) (ref : Nat) (op : EngOp) (seg key : Nat) : State :=
  if (AMap.get s.ops ref).any (fun o => o.sent.any (fun x => x.1 == seg && x.2 == 0)) then
    s.send .blk (unitIn op.dst key) (s.ownerCore op.owner) (.segAck ref seg)
  else s

/-- `SECTOR_WRITE` (R127, R344): the bytes of a sector arrive at their bank; the segment whose last byte they hold is
acknowledged. A drain's sector is whole, and is acknowledged by itself (R173). What is bound for the scratchpad of an evicted
virtual cluster waits (R345). -/
def execSectorWrite (k : Nat) (s : State) : Out :=
  match s.arriving k with
  | some (.sector ref seg bs poison) =>
    let key := (bs.head?.map (·.key)).getD 0
    let waits (launch : Nat) : Bool := s.evictedKey launch key || s.logged none (s.inactiveKey key) 1
    match AMap.get s.ops ref with
    | some op =>
      if waits op.owner.launch then .next s
      else .next (((s.deliver k).mergeSector ref op seg bs poison).ackSegment ref op seg key)
    | none =>
      match s.matrix? ref with
      | none => .next ((s.deliver k).writeSector bs poison)
      | some o =>
        if waits o.owner.launch then .next s
        else .next (((((s.deliver k).writeSector bs poison).engineRecord o.owner o.stamp o.dst key).send .blk (unitIn o.dst key)
          (s.ownerCore o.owner) (.segAck ref 0)))
  | _ => .next s

/-- An operation is complete: its tracker entry is free, the watermark rises and the decrement leaves (R348). -/
def State.completeOp (s : State) (ref : Nat) (op : EngOp) : State :=
  let s := { s with ops := AMap.drop s.ops ref }
  let s := s.modStrand op.owner (·.finish (BitVec.ofNat 6 op.ch) op.id)
  s.sendDecrement op.owner.launch (s.ownerCore op.owner) op.bar

/-- `SEGMENT_COMPLETE` (R348): a segment's acknowledgement reaches the tracker; the last one completes the operation. One of
overlapping ranges sends its next segment (R345). -/
def execSegmentComplete (k : Nat) (s : State) : Out :=
  match s.arriving k with
  | some (.segAck ref seg) =>
    let s := s.deliver k
    match AMap.get s.ops ref with
    | none => .next (s.modMatrix ref (fun o => { o with row := o.row - 1 }))
    | some op =>
      let op := { op with sent := op.sent.filter (fun x => x.1 != seg) }
      if op.unsent.isEmpty && op.sent.isEmpty then .next (s.completeOp ref op)
      else
        let s := { s with ops := AMap.put s.ops ref op }
        .next (if op.serial then s.commands ref else s)
  | _ => .next s

/-- A change of the barrier object at a key, as one event. -/
def State.changeBar (s : State) (k : Nat) (f : Bar → Bar) : State :=
  s.poke k (leBytes 8 (f (.ofNat (leNat (s.peek k 8)))).toNat)

/-- `COMPLETION_DECREMENT` (R134): one bound for an evicted scratchpad waits (R349). -/
def execCompletionDecrement (k : Nat) (s : State) : Out :=
  match s.arriving k with
  | some (.decrement launch key) =>
    if s.evictedKey launch key || s.logged none (s.activeKey key) 8 then .next s
    else .next ((s.deliver k).changeBar key Bar.decrement)
  | _ => .next s

/-- `PUBLISH_SWAP` (R133): the active half of the record's range becomes the other half, in one event at the home. -/
def execPublishSwap (k : Nat) (s : State) : Out :=
  match s.arriving k with
  | some (.swap sid base ref) =>
    let s := s.deliver k
    let s := { s with shadows := s.shadows.map (fun (h : Shadow) => if h.base == base then { h with second := !h.second } else h) }
    .next (s.modStrand sid (·.answer ref (.ok [])))
  | _ => .next s

/-! ## Notices (R346, R347) -/

/-- A notice at its receiver: it takes a free kick entry, which becomes a pending c0 message, or it joins the wait list;
none when both are full (R346). -/
def State.enterNotice (s : State) (g : Nat) (n : Kick) : Option State :=
  let c := s.core g
  let free := (List.range 8).filter (fun i => (nth c.kick.toList i none).isNone)
  if free.length ≠ 0 then
    let i := nth free (s.choose 2 free.length) 0
    some (s.modCore g (fun c => { c with kick := Vector.ofFn (fun j => if j.val = i then some { n with pending := true, since := s.tick } else c.kick.get j) }))
  else if c.waitList.length < 16 then some (s.modCore g (fun c => { c with waitList := c.waitList ++ [n] }))
  else none

/-- A notice arrives at its receiver: its sender's NOTICE retires when it is entered or listed (R346). -/
def State.noticeAt (s : State) (op g : Nat) (n : Kick) : State :=
  match s.enterNotice g n with
  | some t =>
    match AMap.get s.ops op with
    | some o => t.modStrand o.owner (·.answer op (.ok []))
    | none => t
  | none => s.send .req g g (.noticeRefused op g n)

/-- `NOTICE_ARRIVAL` (R346). -/
def execNoticeArrival (k : Nat) (s : State) : Out :=
  match s.arriving k with
  | some (.notice op g n) => if s.evictedAt n.launch g then .next s else .next ((s.deliver k).noticeAt op g n)
  | _ => .next s

/-- `NOTICE_RETRY` (R346): a refused notice is tried again. -/
def execNoticeRetry (k : Nat) (s : State) : Out :=
  match s.arriving k with
  | some (.noticeRefused op g n) => if s.evictedAt n.launch g then .next s else .next ((s.deliver k).noticeAt op g n)
  | _ => .next s

/-- `NACK_ARRIVAL` (R132, R347): the notice that the handle names is complete; a handle that names none does nothing. A NACK whose
sender has moved on follows it from core to core (R200). -/
def execNackArrival (k : Nat) (s : State) : Out :=
  match s.arriving k with
  | some (.nack launch h) =>
    let at_ := ((s.net[k]?).map (·.dst)).getD 0
    let s := s.deliver k
    match s.noticeOf launch h with
    | some (ref, op) =>
      if s.ownerCore op.owner ≠ at_ then .next (s.send .rpy at_ (s.ownerCore op.owner) (.nack launch h)) else .next (s.completeOp ref op)
    | none => .next s
  | _ => .next s

end Sys2Proof.Machine
end

