-- ==== Sys2Proof/Machine/MessageEvents.lean ====
section
/-! DEFINITION. The events of messages and handlers: admission, pressure notices, handler selection (R15, R185, R188,
R287), and the system events that the C9 raises on c1 (R191, R360). -/

namespace Sys2Proof.Machine

/-! ## System events (R191, R360) -/

/-- A c1 event on its way to a virtual core of a launch: it waits at that core for its admission. -/
def State.systemEvent (s : State) (launch vc code : Nat) (addr : W64) : State :=
  match (s.launch launch).coreOf vc with
  | some g =>
    let m : Msg := { ch := 1, rpy := false, vc := 0xFF_FFFF, tid := 0xFF_FFFF, bytes := 16, data := leBytes 8 code ++ leBytes 8 addr.toNat }
    s.modCore g (fun c => { c with sys := c.sys ++ [{ sender := none, launch, vc, msg := m, after := 0, born := s.tick }] })
  | none => s

/-! ## Admission (R15, R185, R186) -/

/-- Replies to operations that a strand issued before a reference are still due: its other operations are over at MIGRATE,
which waits for UNACK = 0 and for its offers (R199, R200, R209). Those of its slot's helpers are among them. -/
def State.forwards (s : State) (i : Sid) (upto : Nat) : Bool :=
  s.ops.any (fun o => decide (o.1 < upto) &&
    (decide (o.2.owner.comp = i) || (s.strand? o.2.owner).any (fun c => c.was.any (fun w => decide (w.comp = i)))))

/-- The core that a message for a virtual core reaches: where its strand now runs, however often it has moved, while the
forwarding entry lasts and the virtual core holds no other placed strand (R185, R200). -/
def State.reaches (s : State) (launch vc : Nat) : Option Nat :=
  match (s.launch launch).coreOf vc with
  | none => none
  | some g =>
    if s.contexts.any (fun c => c.id.launch == launch && c.place.vc == vc && !c.id.isHandler && decide (c.res = .resident)) then some g
    else match (s.core g).fwd.reverse.find? (fun f => f.1.launch == launch && s.forwards f.1 f.2) with
      | some f => some (s.ownerCore f.1)
      | none => some g

/-- Two messages whose admission order is kept: one sender, one virtual core, one channel (R185). -/
def InjEntry.orders (a b : InjEntry) : Bool :=
  decide (a.sender = b.sender) && a.launch == b.launch && a.vc == b.vc && a.msg.ch == b.msg.ch

/-- An earlier message of the same sender to the same place has not departed: one before it in the queue, or one in the
queue of a core that the sender has left. -/
def State.sentEarlier (s : State) (g k : Nat) (e : InjEntry) : Bool :=
  ((s.core g).inj.take k).any (·.orders e) ||
    s.cores.any (fun c => c.1 != g && c.2.inj.any (fun x => x.orders e && decide (x.born < e.born)))

/-- The receive queue has room and the channel accepts (R15, R185). -/
def Core.admits (c : Core) (m : Msg) : Bool :=
  (nth c.htab.toList m.ch (HEntry.reset m.ch)).accept && decide (c.rq.length < 64) &&
    (m.rpy || decide ((c.rq.filter (fun e => !e.msg.rpy)).length < 48))

/-- A message enters a receive queue, at an index that no entry has. -/
def State.intoRq (s : State) (g : Nat) (m : Msg) : State :=
  let free := (List.range 64).filter (fun i => !(s.core g).rq.any (fun e => e.idx == i))
  let i := nth free (s.choose 4 free.length) 0
  s.modRq g (fun rq => rq ++ [{ idx := i, msg := m, taken := 0, active := false }])

/-- The core to which a message may be admitted now: its virtual core, and the one that its strand has moved to, are resident (R289),
and nothing it must follow is left. -/
def State.admissible (s : State) (e : InjEntry) : Option Nat :=
  if (s.launch e.launch).evicted.contains (e.vc / 16) || e.sender.any (fun i => s.atomicsBefore i e.after) then none
  else (s.reaches e.launch e.vc).filter (fun t => !s.evictedAt e.launch t && (s.core t).admits e.msg)

/-- `MESSAGE_ADMIT` (R185): entry `k` of a core's injection queue departs, or a system event that waits at the core is
admitted there (R191). -/
def execMessageAdmit (g k : Nat) (s : State) : Out :=
  let c := s.core g
  match c.inj[k]? with
  | some e =>
    if s.sentEarlier g k e then .next s
    else match s.admissible e with
      | none => .next s
      | some t => .next ((s.modCore g (fun c => { c with inj := dropNth c.inj k })).intoRq t e.msg)
  | none =>
    let j := k - c.inj.length
    match c.sys[j]? with
    | none => .next s
    | some e =>
      if (c.sys.take j).any (·.orders e) || (s.launch e.launch).evicted.contains (e.vc / 16) || !c.admits e.msg then .next s
      else .next ((s.modCore g (fun c => { c with sys := dropNth c.sys j })).intoRq g e.msg)

/-- `PRESSURE_NOTICE` (R287). -/
def execPressureNotice (k : Nat) (s : State) : Out :=
  match s.arriving k with
  | some (.pressure core on to_) =>
    .next ((s.deliver k).modCore to_ (fun c =>
      { c with told := if on then (if c.told.contains core then c.told else c.told ++ [core]) else c.told.filter (· != core) }))
  | _ => .next s

/-! ## Handler selection (R188) -/

/-- The oldest message of a channel that no activation has taken: its receive-queue index, or its kick-register index. One that a
stream has read in part is passed over (DESIGN CHOICE, log entry 72). -/
def Core.oldest (c : Core) (ch : Nat) : Option Nat :=
  if ch = 0 then
    let ks := (c.kick.toList.zipIdx).filterMap (fun (k, i) => k.bind (fun k => if k.pending then some (k.since, i) else none))
    (ks.find? (fun a => ks.all (fun b => a.1 ≤ b.1))).map (·.2)
  else (c.rq.find? (fun e => e.msg.ch == ch && !e.active && e.taken == 0)).map (·.idx)

/-- The priority of a channel, raised under pressure (R287). -/
def Core.prioOf (c : Core) (ch : Nat) : Nat :=
  Nat.min 7 ((nth c.htab.toList ch (HEntry.reset ch)).prio.toNat + (if c.pressure then 1 else 0))

/-- The handler contexts of a core. -/
def State.handlersOf (s : State) (g : Nat) : List Strand :=
  s.contexts.filter (fun c => c.id.isHandler && c.place.gcore == g && decide (c.res = .resident))

/-- The candidate that selection takes: highest priority, then lowest channel. -/
def State.candidate (s : State) (g : Nat) : Option (Nat × Nat) :=
  let c := s.core g
  let busy := (s.handlersOf g).filterMap (fun h => if h.live then h.act else none)
  let cs := (List.range 64).filterMap (fun ch =>
    if (nth c.htab.toList ch (HEntry.reset ch)).enable && !busy.contains ch then (c.oldest ch).map (fun i => (ch, i)) else none)
  cs.find? (fun a => cs.all (fun b => c.prioOf b.1 < c.prioOf a.1 || (c.prioOf b.1 == c.prioOf a.1 && a.1 ≤ b.1)))

/-- A message taken by an activation. -/
def Core.taken (c : Core) (ch i : Nat) : Core :=
  if ch = 0 then
    { c with kick := Vector.ofFn (fun j => if j.val = i then (c.kick.get j).map (fun k => { k with pending := false }) else c.kick.get j) }
  else { c with rq := c.rq.map (fun e => if e.idx == i then { e with active := true } else e) }

/-- The check of an entry PC, as the executing context: BADTGT or PAGE is taken at entry (R188, step 4). Where the boundary bit
comes from a peer, the check is due until it has come. -/
def State.checkEntry (s : State) : State :=
  let checked (t : State) : State := t.modMe (fun c => { c with entryDue := false })
  match M.bitmapBit s.me.pc s with
  | .ok true t => checked t
  | .ok false t => (checked t).takeTrap (Trap.of Cause.badtgt t.me.pc (BitVec.ofNat 64 (t.me.act.getD 0)))
  | .error (.trap e) _ => (checked s).takeTrap e
  | .error (.block w) t => (t.modMe (fun c => { c with entryDue := true })).block w

/-- `HANDLER_SELECT` (R188): one activation starts in a free handler slot of a core. -/
def execHandlerSelect (g : Nat) (s : State) : Out :=
  let free := (s.handlersOf g).filter (fun h => !h.live)
  match s.candidate g, free[s.choose 5 free.length]? with
  | some (ch, i), some h =>
    let s := s.modCore g (·.taken ch i)
    let pc := (nth (s.core g).htab.toList ch (HEntry.reset ch)).pc
    let s := s.modStrand h.id (fun c =>
      { ((c.setX 10 (BitVec.ofNat 64 ch)).setX 11 (BitVec.ofNat 64 i)).bump 4 with
          pc, level := .s, live := true, current := some (ch, i), act := some ch, wait := none, pend := [], entering := false })
    .next (s.asStrand h.id State.checkEntry)
  | _, _ => .next s

end Sys2Proof.Machine
end

