-- ==== Sys2Proof/Machine/Matrix.lean ====
section
/-! DEFINITION. The matrix and accumulator instructions up to their acceptance (R159-R178). What the array does with an
accepted one stands in `Machine/MatrixEvents.lean`. The checks are those of R159, in its order. -/

namespace Sys2Proof.Machine

/-! ## Accumulator cells -/

/-- An accumulator cell: bank, and index in the bank (R164). -/
def Core.cell (c : Core) (bank i : Nat) : W32 := (AMap.get c.cells (bank * 512 + i)).getD 0

/-- A cell written; it is not poisoned any more. (DEDUCED, log entry 39) -/
def Core.setCell (c : Core) (bank i : Nat) (v : W32) : Core :=
  let k := bank * 512 + i
  { c with cells := if v = 0 then AMap.drop c.cells k else AMap.put c.cells k v,
           cellPoison := c.cellPoison.filter (fun x => x != k) }

/-- Every cell of a run of banks zero. -/
def Core.zeroBanks (c : Core) (base n : Nat) : Core :=
  let out (k : Nat) : Bool := !(decide (base * 512 ≤ k) && decide (k < (base + n) * 512))
  { c with cells := c.cells.filter (fun e => out e.1), cellPoison := c.cellPoison.filter out }

/-! ## Tenancy and the queue (R177, R178, R341) -/

/-- The array is split. -/
def Core.split (c : Core) : Bool := c.half0 != 0 || c.half1 != 0

/-- The tenant of a slot: false for half 0 and for the array that is not split; none for a slot in neither half. -/
def Core.tenant (c : Core) (slot : Nat) : Option Bool :=
  if !c.split || c.half0.getLsbD slot then some false else if c.half1.getLsbD slot then some true else none

/-- A tenant's matrix queue. -/
def Core.mq (c : Core) (t : Bool) : List MatOp := if t then c.mq1 else c.mq0

/-- A tenant's matrix queue replaced. -/
def Core.setMq (c : Core) (t : Bool) (q : List MatOp) : Core := if t then { c with mq1 := q } else { c with mq0 := q }

/-- Shape reason 8 (R160): the executing context's tenant. -/
def State.tenant (s : State) : Except Trap Bool :=
  match s.myCore.tenant s.me.place.slot with
  | some t => .ok t
  | none => .error (.shape 8 0)

/-- An instruction for a matrix queue, which reads and writes nothing but banks. -/
def State.matOp (s : State) (base banks : Nat) (kind : MatKind) : MatOp :=
  { ref := 0, owner := s.me.id, base, banks, kind, started := false, parked := false, row := 0, buf := [], pins := [],
    stamp := if s.raceOn then some s.myComp.ivals else none, homes := [], dst := [], olds := [], laters := [], rlx := false }

/-- The executing context's core, as a target. -/
def State.here (s : State) : Home := .ofCore s.me.place.gcore

/-- An instruction for a matrix queue that reads memory (R166, R168). -/
def State.matRead (s : State) (base banks : Nat) (kind : MatKind) (rlx : Bool) (src : Runs) : MatOp :=
  { s.matOp base banks kind with homes := [s.here], olds := s.oldsIn rlx src, rlx }

/-- An accepted instruction enters its tenant's queue; the 17th waits (R159, R178). (DEDUCED, log entry 61) -/
def M.accept (t : Bool) (op : MatOp) : M Unit := do
  let s ← get
  M.blockIf (16 ≤ (s.myCore.mq t).length) .matrixQueue
  set (({ s with next := s.next + 1 }).modMyCore (fun c => c.setMq t (c.mq t ++ [{ op with ref := s.next }])))
  M.done 12

/-- An instruction that touches banks only. (DEDUCED, log entry 61) -/
def M.acceptBanks (base banks : Nat) (kind : MatKind) : M Unit := do
  let s ← get
  let t ← M.check s.tenant
  M.accept t (s.matOp base banks kind)

/-- Work that reads or writes outside the core's scratchpad leaves it (R367). -/
def M.leaves (runs : Runs) : M Unit := do
  let s ← get
  if runs.any (fun r => keyCore r.key != some s.me.place.gcore) then M.outgoing

/-! ## Allocations (R161-R165) -/

/-- The allocation whose first bank is x[a], or an operand ILLOP. -/
def State.allocAt (s : State) (a : Reg) : Except Trap Alloc :=
  match s.me.allocs.find? (fun l => l.base == (s.x a).toNat) with
  | some l => .ok l
  | none => .error (.operand a (s.x a))

/-- Banks held by the strand contexts of the executing context's virtual core (R161). (DEDUCED, log entry 38) -/
def State.banksHeld (s : State) : Nat :=
  let cs := s.contexts.filter (fun c => c.id.launch == s.me.id.launch && c.place.vc == s.me.place.vc && !decide (c.res = .moving) &&
    !decide (c.res = .ended))
  (cs.map (fun c => (c.allocs.map (·.n)).sum)).sum

/-- A bank's state. -/
def Core.bankState (c : Core) (b : Nat) : BankState := nth c.banks.toList b .free

/-- The states of a run of banks replaced. -/
def Core.setBanks (c : Core) (base n : Nat) (st : BankState) : Core :=
  { c with banks := Vector.ofFn (fun i => if base ≤ i.val && i.val < base + n then st else c.banks.get i) }

/-- Each bank of a run is free or being cleared: a bank that REL has given up counts only once it is freed (R162). -/
def Core.fits (c : Core) (base n : Nat) : Bool :=
  (List.range n).all (fun i => decide (c.bankState (base + i) = .free) || decide (c.bankState (base + i) = .clearing))

/-- `ACQ` (R161, R275): the lowest run of banks that are free; it waits for one that is being cleared. It enters no matrix queue,
so shape reason 8 does not apply to it. (DEDUCED, log entry 38) (DEDUCED, log entry 61) -/
def execAcq (d : Reg) (n : BitVec 32) (s : State) : Out :=
  let k := n.toNat
  M.run (do
    M.trapIf (k < 1 || 128 < k) (.imm n)
    match (List.range (129 - k)).find? (fun b => s.myCore.fits b k) with
    | none => modify (·.setX d (BitVec.allOnes 64))
    | some b =>
      if s.myLaunch.accum < s.banksHeld + k then modify (·.setX d (BitVec.allOnes 64))
      else do
        M.blockIf ((List.range k).any (fun i => s.myCore.bankState (b + i) == .clearing)) .bankClear
        modify (fun u => ((u.modMyCore (fun c => c.setBanks b k (.held u.me.id))).modMe (fun c =>
          { c with allocs := c.allocs ++ [{ base := b, n := k, int := false, w := 1 }] })).setX d (BitVec.ofNat 64 b))
    M.retire 12) s

/-- `REL` (R162): the banks leave ACCMAP when it retires, and are freed when the strand's earlier matrix instructions are done. -/
def execRel (a : Reg) (n : BitVec 32) (s : State) : Out :=
  M.run (do
    let l ← M.check (s.allocAt a)
    M.trapIf (l.n != n.toNat) (.operand a (s.x a))
    M.acceptBanks l.base l.n .rel
    modify (fun u => (u.modMyCore (fun c => c.setBanks l.base l.n (.leaving u.me.id))).modMe (fun c =>
      { c with allocs := c.allocs.erase l }))) s

/-- `MSHAPE` (R163): later instructions of the strand see the new shape and type. Where both operands are bad, the one named is
the model's choice: here x[a], on which the check of the other rests (DESIGN CHOICE, log entry 62). -/
def execMshape (a : Reg) (sh : BitVec 32) (s : State) : Out :=
  let w := bits sh.toNat 7 0
  let ty := bits sh.toNat 11 8
  M.run (do
    let l ← M.check (s.allocAt a)
    M.trapIf (bits sh.toNat 31 12 != 0 || (ty != 2 && ty != 9) || w < 1 || 128 < w || l.n % w != 0) (.imm sh)
    M.acceptBanks l.base l.n .mshape
    modify (·.modMe (fun c => { c with allocs := c.allocs.map (fun x => if x.base == l.base then { x with int := ty == 2, w } else x) }))) s

/-- `MZERO` (R165). Where both operands are bad, the imm32 is named (DESIGN CHOICE, log entry 62). -/
def execMzero (a : Reg) (n : BitVec 32) (s : State) : Out :=
  let b := (s.x a).toNat
  M.run (do
    M.trapIf (n.toNat < 1 || 128 < n.toNat) (.imm n)
    M.trapIf (128 < b + n.toNat || (List.range n.toNat).any (fun i => !s.myCore.holds (b + i) s.me.id)) (.operand a (s.x a))
    M.acceptBanks b n.toNat .mzero) s

/-! ## Weights, codebook, stream format (R166, R167) -/

/-- K of a weight format on the whole array (R166). -/
def weightK : WFmt → Nat
  | .i8 => 128
  | .c4 => 64
  | _ => 32

/-- K of a weight format as the array stands (R166, R177). -/
def Core.kOf (c : Core) (f : WFmt) : Nat := if c.split then weightK f / 2 else weightK f

/-- The record type of a weight format (R166). -/
def weightTy : WFmt → Ty
  | .i8 => .i8
  | .c4 => .c4
  | _ => .bf16

/-- The weight format that is latched when the instructions accepted so far are done (R166). -/
def State.weights (s : State) : Option WFmt :=
  match ((s.matrixBy s.me.id).filterMap (fun o => match o.kind with | .mwld f _ _ => some f | _ => none)).getLast? with
  | some f => some f
  | none => s.me.mctx.tile.map (·.fmt)

/-- A record source, checked as an engine source: the keys of the bytes of each row of its view, and its runs. -/
def M.rowsOf (need : Need) (i : Nat) (w : Window) : M (List (List Nat) × Runs × Nat) := do
  M.trapIf w.bad w.space
  let (rs, i) ← M.ranges need i w.ranges
  let runs := rs.flatten
  pure (chunks w.rowBytes (w.allRows + 1) (runKeys runs), runs, i)

/-- `MCBL` (R167). -/
def execMcbl (view : View) (s : State) : Out :=
  M.run (do
    let b ← M.check (s.myLaunch.buf view.idx.toNat)
    let w := windowOf b view
    let t ← M.check s.tenant
    M.trapIf (b.ty != .bf16 || w.count != 16) (.shape 9 w.idx)
    let (rows, runs, _) ← M.rowsOf .load 0 w
    M.leaves runs
    M.accept t (s.matRead 0 0 (.mcbl rows.flatten) false runs)) s

/-- `MWLD` (R166). (DEDUCED, log entry 37) -/
def execMwld (fmt : WFmt) (rlx : Bool) (view : View) (s : State) : Out :=
  M.run (do
    let b ← M.check (s.myLaunch.buf view.idx.toNat)
    let w := windowOf b view
    let k := s.myCore.kOf fmt
    let (rows, cols) := if fmt = .bf16t then (32, k) else (k, 32)
    M.trapIf (w.allRows != rows || w.cols != cols) (.shape 1 w.idx)
    M.trapIf (b.ty != weightTy fmt) (.shape 2 w.idx)
    let t ← M.check s.tenant
    let (src, runs, _) ← M.rowsOf .load 0 w
    M.leaves runs
    M.accept t (s.matRead 0 0 (.mwld fmt k src) rlx runs)) s

/-- `MCFG` (R167). It enters no matrix queue, so shape reason 8 does not apply to it (DEDUCED, log entry 61). -/
def execMcfg (f : BitVec 32) (s : State) : Out :=
  if 1 < f.toNat then .next (s.takeTrap (.imm f))
  else .next ((s.modMe (fun c => { c with mctx := { c.mctx with intStream := f == 1 } })).retire 12)

/-! ## MMUL and MMULS (R168-R170) -/

/-- Banks of `m` rows. -/
def rowBanks (m : Nat) : Nat := (m + 15) / 16

/-- The banks of M rows from x[a] on lie in one allocation (R168). -/
def State.inAlloc (s : State) (a : Reg) (m : Nat) : Except Trap Unit :=
  let b := (s.x a).toNat
  if s.me.allocs.any (fun l => decide (l.base ≤ b) && decide (b + rowBanks m ≤ l.base + l.n)) then .ok ()
  else .error (.operand a (s.x a))

/-- The row counts and banks of the kinds that give M (R168, R170). Where both are bad, the imm32 is named (DESIGN CHOICE, log
entry 62). -/
def State.mRows (s : State) (a : Reg) (m : BitVec 32) : Except Trap Unit :=
  if m.toNat < 1 ∨ 2048 < m.toNat then .error (.imm m) else s.inAlloc a m.toNat

/-- Shape reasons 3, 4, 5 and 8 (R160, R167, R168): the weight format and the tenant. -/
def State.mShape (s : State) (a : Reg) : Except Trap (WFmt × Bool) :=
  match s.weights with
  | none => .error (.shape 3 0)
  | some f =>
    let b := (s.x a).toNat
    if s.me.mctx.intStream != (f == .i8) then .error (.shape 4 0)
    else if s.me.allocs.any (fun l => decide (l.base ≤ b) && decide (b < l.base + l.n) && l.int != (f == .i8)) then .error (.shape 5 0)
    else match s.tenant with
      | .ok t => .ok (f, t)
      | .error e => .error e

/-- The bytes of an activation row (R168). -/
def rowSize (k : Nat) (int : Bool) : Nat := if int then k else 2 * k

/-- A row of the register kind: each page global, with aperture index 0 (R168). (DEDUCED, log entry 40) -/
def M.rowAt (a : W64) (n : Nat) : M (List Nat × Runs) := do
  let s ← get
  M.trapIf (wbits a 63 56 != 0) (Trap.of Cause.perm a 4)
  let _ ← M.check (s.spot a true)
  M.trapIf (s.reach a < n) (.range (a + BitVec.ofNat 64 (s.reach a)) 2)
  let parts := pageParts a.toNat n
  let rec go : List (Nat × Nat) → M Runs
    | [] => pure []
    | (va, l) :: r => do
      let s ← get
      let f ← M.check (s.translateAt s.me.place.gcore s.myLaunch.vf s.me.level va .load)
      M.trapIf (f.aper != 0) (Trap.of Cause.perm (BitVec.ofNat 64 va) 4)
      set (s.useLeaf s.me.place.gcore s.myLaunch.vf va f false)
      let rs ← go r
      pure ({ key := dramKey s.me.place.pkg (f.phys va), len := l, va, leaf := some f.word } :: rs)
  let runs ← go parts
  pure (runKeys runs, runs)

/-- The rows of the register kind, in stream order. -/
def M.rowsAt (b c : W64) (n : Nat) : Nat → Nat → M (List (List Nat) × Runs)
  | _, 0 => pure ([], [])
  | i, m + 1 => do
    let (r, u) ← M.rowAt (b + BitVec.ofNat 64 i * c) n
    let (rs, us) ← M.rowsAt b c n (i + 1) m
    pure (r :: rs, u ++ us)

/-- `MMUL` (R168, R169). A view that R54 refuses has no row count, so its SPACE comes before the checks of M. (DESIGN CHOICE, log entry 62) -/
def execMmul (rlx : Bool) (a : Reg) (src : MSrc) (s : State) : Out :=
  let bank := (s.x a).toNat
  let int := s.me.mctx.intStream
  M.run (match src with
    | .queue q m => do
      M.check (s.mRows a m)
      let (_, t) ← M.check (s.mShape a)
      M.accept t (s.matRead bank (rowBanks m.toNat) (.mmulQueue int q m.toNat) rlx [])
    | .mem b c m => do
      M.check (s.mRows a m)
      let (f, t) ← M.check (s.mShape a)
      M.trapIf ((s.x b).toNat % 16 != 0) (Trap.of Cause.align (s.x b) 16)
      M.trapIf ((s.x c).toNat % 16 != 0) (Trap.of Cause.align (s.x c) 16)
      let (rows, runs) ← M.rowsAt (s.x b) (s.x c) (rowSize (s.myCore.kOf f) int) 0 m.toNat
      M.leaves runs
      M.accept t (s.matRead bank (rowBanks m.toNat) (.mmulMem int true rows) rlx runs)
    | .buf view => do
      let b ← M.check (s.myLaunch.buf view.idx.toNat)
      let w := windowOf b view
      M.trapIf (b.ty != (if int then .i8 else .bf16)) (.shape 2 w.idx)
      let (f, t) ← M.check (s.mShape a)
      M.trapIf (w.cols != s.myCore.kOf f) (.shape 10 w.idx)
      M.trapIf w.bad w.space
      M.trapIf (w.allRows < 1 || 2048 < w.allRows) (.operand a (s.x a))
      M.check (s.inAlloc a w.allRows)
      M.trapIf (wbits b.base 63 56 == 0xF4) (Trap.of Cause.space b.base 4)
      let (rows, runs, _) ← M.rowsOf .load 0 w
      M.leaves runs
      M.accept t (s.matRead bank (rowBanks w.allRows) (.mmulMem int false rows) rlx runs)) s

/-- `MMULS` (R170). -/
def execMmuls (a : Reg) (ch : Chan) (m : BitVec 32) (s : State) : Out :=
  M.run (do
    M.check (s.mRows a m)
    let (_, t) ← M.check (s.mShape a)
    M.trapIf (s.myCore.htab.get ch.toFin).enable (.shape 11 0)
    M.accept t (s.matRead (s.x a).toNat (rowBanks m.toNat) (.mmuls s.me.mctx.intStream ch.toNat m.toNat) false [])) s

/-! ## MDRAIN (R171-R173) -/

/-- The target types of a cell type (R172). -/
def drains (int : Bool) (t : Ty) : Bool := if int then decide (t = .bf16) || decide (t = .f32) ||
  (t.isInt && decide (t.bits ≤ 32) && decide (8 ≤ t.bits)) else decide (t = .bf16) || decide (t = .f32)

/-- The windows of an MDRAIN destination (R171). -/
def drainWindow (a : W64) : Bool := decide (0xF0 ≤ wbits a 63 56) && decide (wbits a 63 56 ≤ 0xF3)

/-- The bytes of the scale factors, none for c = 0 (R171). (DESIGN CHOICE, log entry 62) -/
def M.scales (i : Nat) (c : Reg) (n : Nat) : M (Option (List Nat) × Runs × Nat) := do
  let s ← get
  if c = 0 then pure (none, [], i)
  else do
    let _ ← M.check (s.spot (s.x c) true)
    M.trapIf ((s.x c).toNat % 4 != 0) (Trap.of Cause.align (s.x c) 4)
    let (rs, i) ← M.range .load i (s.x c) (4 * n)
    pure (some (runKeys rs), rs, i)

/-- The stores of the strand that a `.rlx` drain may come before (R173). (DEDUCED, log entry 60) -/
def State.latersIn (s : State) (rlx : Bool) (dst : Runs) : List Old :=
  if rlx then
    (s.me.wlog.filter (fun o => dst.any (fun r => decide (s.inactiveKey r.key < o.key + o.n) && decide (o.key < s.inactiveKey r.key + r.len)))).map
      (fun o => { key := o.key, old := Memory.getN s.mem o.key o.n })
  else []

/-- `MDRAIN` (R171): the destination, the scales and the barrier are checked in that order; FCR.RM is sampled (R44). (DEDUCED, log entry 37) -/
def execMdrain (t : Ty) (rlx : Bool) (a : Reg) (view : View) (d c : Reg) (s : State) : Out :=
  M.run (do
    let l ← M.check (s.allocAt a)
    let b ← M.check (s.myLaunch.buf view.idx.toNat)
    let w := windowOf b view
    M.trapIf (b.ty != t) (.shape 2 w.idx)
    M.trapIf (w.allRows != 16 * l.n / l.w || w.cols != 32 * l.w) (.shape 6 w.idx)
    M.trapIf (!drains l.int t) (.shape 7 w.idx)
    let ten ← M.check s.tenant
    M.trapIf (!drainWindow b.base) (.shape 11 w.idx)
    let (dst, runs, i) ← M.rowsOf .store 0 w
    let (scale, sruns, _) ← M.scales i c (32 * l.w)
    let bar ← M.barOperand d
    M.leaves (runs ++ sruns)
    M.accept ten { s.matRead l.base l.n (.mdrain l.w l.int t (wbits s.me.fcr 1 0) dst scale bar) rlx sruns with
      homes := homesOf runs, dst := runs, laters := s.latersIn rlx runs }) s

/-! ## MRD, MWR and MSPLIT (R174, R177) -/

/-- The checks of MRD and MWR. Where both operands are bad, the imm32 is named (DESIGN CHOICE, log entry 62). -/
def State.groupOk (s : State) (a : Reg) (g : BitVec 32) : Except Trap Unit :=
  if 127 < g.toNat then .error (.imm g)
  else if s.myCore.holds (s.x a).toNat s.me.id then .ok () else .error (.operand a (s.x a))

/-- MCHK of a poisoned accumulator cell (R362). -/
def Trap.cell : Trap := Trap.poison 0 6

/-- `MRD` (R174): it waits for the strand's earlier instructions on the bank. It enters no matrix queue, so shape reason 8 does
not apply to it (DEDUCED, log entry 61). -/
def execMrd (d a : Reg) (g : BitVec 32) (s : State) : Out :=
  let b := (s.x a).toNat
  M.run (do
    M.check (s.groupOk a g)
    M.blockIf ((s.matrixBy s.me.id).any (fun o => decide (o.base ≤ b) && decide (b < o.base + o.banks))) .bank
    let c := s.myCore
    M.trapIf ((List.range 4).any (fun i => c.cellPoison.contains (b * 512 + 4 * g.toNat + i))) .cell
    modify (·.setV d (packLanes 32 ((List.range 4).map (fun i => (c.cell b (4 * g.toNat + i)).toNat))))
    M.retire 12) s

/-- `MWR` (R174). -/
def execMwr (a b : Reg) (g : BitVec 32) (s : State) : Out :=
  M.run (do
    M.check (s.groupOk a g)
    M.acceptBanks (s.x a).toNat 1 (.mwr g.toNat (s.v b))) s

/-- `MSPLIT` (R177): its operand is checked before its level (R355). It enters no matrix queue, so shape reason 8 does not apply
to it (DEDUCED, log entry 61). -/
def execMsplit (t : BitVec 32) (s : State) : Out :=
  let h0 := t.extractLsb' 0 4
  let h1 := t.extractLsb' 4 4
  M.run (do
    M.trapIf (bits t.toNat 31 8 != 0 || (t != 0 && (h0 == 0 || h1 == 0 || (h0 &&& h1) != 0))) (.imm t)
    M.trapIf (decide (s.me.level = .s)) (.of Cause.perm 0 0)
    M.blockIf (!(s.myCore.mq0 ++ s.myCore.mq1).isEmpty) .matrixQueue
    let g := s.me.place.gcore
    let clear (c : Strand) : Strand := if c.place.gcore == g then { c with mctx := { c.mctx with tile := none } } else c
    modify (fun u => { u.modMyCore (fun c => { c with half0 := h0, half1 := h1 }) with me := clear u.me, rest := u.rest.map clear })
    M.retire 12) s

end Sys2Proof.Machine
end

