-- ==== Sys2Proof/Machine/Vector.lean ====
section
/-! DEFINITION. The vector instructions, VEC and XVEC (R137-R157). -/

namespace Sys2Proof.Machine

/-- VEC forms are unmasked (R137). -/
def everyLane : Qual := { mask := 0, z := false }

/-- An operation on one element of each source: the result and the flags it raises. -/
abbrev ElemOp := FCtx → Ty → Nat → Nat → Nat × Fl

/-- An element read by its type's signedness. -/
def rd (t : Ty) (e : Nat) : Int := asInt t.signed t.bits e

/-- An integer result, wrapped or clamped (R142). -/
def fit (t : Ty) (sat : Bool) (v : Int) : Nat × Fl := (if sat then clampTo t v else wrap t.bits v, 0)

/-- VADD (R141, R142). -/
def vAdd (sat : Bool) : ElemOp := fun c t a b => if t.isFlt then fAdd c t a b else fit t sat (rd t a + rd t b)
/-- VSUB. -/
def vSub (sat : Bool) : ElemOp := fun c t a b => if t.isFlt then fSub c t a b else fit t sat (rd t a - rd t b)
/-- VMUL. -/
def vMul (sat : Bool) : ElemOp := fun c t a b => if t.isFlt then fMul c t a b else fit t sat (rd t a * rd t b)
/-- VMULH. -/
def vMulh : ElemOp := fun _ t a b => (wrap t.bits (rd t a * rd t b / (2 ^ t.bits : Nat)), 0)
/-- VMIN. -/
def vMin : ElemOp := fun c t a b => if t.isFlt then fMinMax c t false a b else (if rd t b < rd t a then b else a, 0)
/-- VMAX. -/
def vMax : ElemOp := fun c t a b => if t.isFlt then fMinMax c t true a b else (if rd t a < rd t b then b else a, 0)
/-- VABS. -/
def vAbs : ElemOp := fun _ t a _ =>
  (if t.isFlt then a % 2 ^ (t.bits - 1) else if rd t a < 0 then wrap t.bits (-(rd t a)) else a, 0)
/-- VNEG. -/
def vNeg : ElemOp := fun _ t a _ =>
  (if t.isFlt then a ^^^ 2 ^ (t.bits - 1) else wrap t.bits (-(a : Int)), 0)
/-- VAND. -/
def vAnd : ElemOp := fun _ _ a b => (a &&& b, 0)
/-- VOR. -/
def vOr : ElemOp := fun _ _ a b => (a ||| b, 0)
/-- VXOR. -/
def vXor : ElemOp := fun _ _ a b => (a ^^^ b, 0)
/-- VSHL. -/
def vShl (sat : Bool) : ElemOp := fun _ t a b => fit t sat (rd t a * (2 ^ (b % t.bits) : Nat))
/-- VSHR. -/
def vShr : ElemOp := fun _ t a b => (a / 2 ^ (b % t.bits), 0)
/-- VSHRA. -/
def vShra : ElemOp := fun _ t a b => (shraN t.bits a b, 0)

/-- The union of the flags of the active elements (R37). -/
def flagsOf (m : BitVec 16) (n : Nat) (rs : List (Nat × Fl)) : Fl :=
  rs.zipIdx.foldl (fun f (r, i) => if active m n i then f ||| r.2 else f) 0

/-- The flags of a vector instruction: FPE when one is enabled (R38), else they are set (R35). -/
def M.flags (fl : Fl) : M Unit := do
  let s ← get
  M.trapIf (fpeOf s.me.fcr fl) (.fpe fl)
  set (s.modMe (·.raise fl))

/-- An element-wise instruction of two sources (R137): every source is read before the write. -/
def vec2 (f : ElemOp) (t : Ty) (q : Qual) (d : Reg) (a b : VSrc) (len : Nat) (s : State) : Out :=
  M.run (do
    let (va, vb) ← M.vsrcs t a b
    let m := s.me.getM q.mask
    let rs := List.zipWith (f (fctxOf s.me.fcr) t) (lanes t.bits va) (lanes t.bits vb)
    M.flags (flagsOf m t.bits rs)
    modify (·.setV d (merge m q.z t.bits (s.v d) (rs.map (·.1))))
    M.takeSources [a, b]
    M.retire len) s

/-- An element-wise instruction of one source. -/
def vec1 (f : ElemOp) (t : Ty) (q : Qual) (d : Reg) (a : VSrc) (len : Nat) (s : State) : Out :=
  M.run (do
    let (va, _) ← M.vsrcs t a (.reg 0)
    let m := s.me.getM q.mask
    modify (·.setV d (merge m q.z t.bits (s.v d) ((lanes t.bits va).map (fun e => (f (fctxOf s.me.fcr) t e 0).1))))
    M.takeSources [a]
    M.retire len) s

/-- `VADD` of VEC (R141). -/
def execVadd (t : Ty) (d a b : Reg) (s : State) : Out := vec2 (vAdd false) t everyLane d (.reg a) (.reg b) 4 s
/-- `VSUB` of VEC (R141). -/
def execVsub (t : Ty) (d a b : Reg) (s : State) : Out := vec2 (vSub false) t everyLane d (.reg a) (.reg b) 4 s
/-- `VMUL` of VEC (R141). -/
def execVmul (t : Ty) (d a b : Reg) (s : State) : Out := vec2 (vMul false) t everyLane d (.reg a) (.reg b) 4 s
/-- `VMULH` of VEC (R141). -/
def execVmulh (t : Ty) (d a b : Reg) (s : State) : Out := vec2 vMulh t everyLane d (.reg a) (.reg b) 4 s
/-- `VMIN` of VEC (R141). -/
def execVmin (t : Ty) (d a b : Reg) (s : State) : Out := vec2 vMin t everyLane d (.reg a) (.reg b) 4 s
/-- `VMAX` of VEC (R141). -/
def execVmax (t : Ty) (d a b : Reg) (s : State) : Out := vec2 vMax t everyLane d (.reg a) (.reg b) 4 s
/-- `VABS` of VEC (R141). -/
def execVabs (t : Ty) (d a : Reg) (s : State) : Out := vec1 vAbs t everyLane d (.reg a) 4 s
/-- `VNEG` of VEC (R141). -/
def execVneg (t : Ty) (d a : Reg) (s : State) : Out := vec1 vNeg t everyLane d (.reg a) 4 s
/-- `VAND` of VEC (R141). -/
def execVand (t : Ty) (d a b : Reg) (s : State) : Out := vec2 vAnd t everyLane d (.reg a) (.reg b) 4 s
/-- `VOR` of VEC (R141). -/
def execVor (t : Ty) (d a b : Reg) (s : State) : Out := vec2 vOr t everyLane d (.reg a) (.reg b) 4 s
/-- `VXOR` of VEC (R141). -/
def execVxor (t : Ty) (d a b : Reg) (s : State) : Out := vec2 vXor t everyLane d (.reg a) (.reg b) 4 s
/-- `VSHL` of VEC (R141). -/
def execVshl (t : Ty) (d a b : Reg) (s : State) : Out := vec2 (vShl false) t everyLane d (.reg a) (.reg b) 4 s
/-- `VSHR` of VEC (R141). -/
def execVshr (t : Ty) (d a b : Reg) (s : State) : Out := vec2 vShr t everyLane d (.reg a) (.reg b) 4 s
/-- `VSHRA` of VEC (R141). -/
def execVshra (t : Ty) (d a b : Reg) (s : State) : Out := vec2 vShra t everyLane d (.reg a) (.reg b) 4 s
/-- `VADD` of XVEC (R141, R142). -/
def execVaddX (t : Ty) (sat : Bool) (q : Qual) (d : Reg) (a b : VSrc) (s : State) : Out := vec2 (vAdd sat) t q d a b (vlen b) s
/-- `VSUB` of XVEC (R141, R142). -/
def execVsubX (t : Ty) (sat : Bool) (q : Qual) (d : Reg) (a b : VSrc) (s : State) : Out := vec2 (vSub sat) t q d a b (vlen b) s
/-- `VMUL` of XVEC (R141, R142). -/
def execVmulX (t : Ty) (sat : Bool) (q : Qual) (d : Reg) (a b : VSrc) (s : State) : Out := vec2 (vMul sat) t q d a b (vlen b) s
/-- `VMULH` of XVEC (R141). -/
def execVmulhX (t : Ty) (q : Qual) (d : Reg) (a b : VSrc) (s : State) : Out := vec2 vMulh t q d a b (vlen b) s
/-- `VMIN` of XVEC (R141). -/
def execVminX (t : Ty) (q : Qual) (d : Reg) (a b : VSrc) (s : State) : Out := vec2 vMin t q d a b (vlen b) s
/-- `VMAX` of XVEC (R141). -/
def execVmaxX (t : Ty) (q : Qual) (d : Reg) (a b : VSrc) (s : State) : Out := vec2 vMax t q d a b (vlen b) s
/-- `VABS` of XVEC (R141). -/
def execVabsX (t : Ty) (q : Qual) (d : Reg) (a : VSrc) (s : State) : Out := vec1 vAbs t q d a 12 s
/-- `VNEG` of XVEC (R141). -/
def execVnegX (t : Ty) (q : Qual) (d : Reg) (a : VSrc) (s : State) : Out := vec1 vNeg t q d a 12 s
/-- `VAND` of XVEC (R141). -/
def execVandX (t : Ty) (q : Qual) (d : Reg) (a b : VSrc) (s : State) : Out := vec2 vAnd t q d a b (vlen b) s
/-- `VOR` of XVEC (R141). -/
def execVorX (t : Ty) (q : Qual) (d : Reg) (a b : VSrc) (s : State) : Out := vec2 vOr t q d a b (vlen b) s
/-- `VXOR` of XVEC (R141). -/
def execVxorX (t : Ty) (q : Qual) (d : Reg) (a b : VSrc) (s : State) : Out := vec2 vXor t q d a b (vlen b) s
/-- `VSHL` of XVEC (R141, R142). -/
def execVshlX (t : Ty) (sat : Bool) (q : Qual) (d : Reg) (a b : VSrc) (s : State) : Out := vec2 (vShl sat) t q d a b (vlen b) s
/-- `VSHR` of XVEC (R141). -/
def execVshrX (t : Ty) (q : Qual) (d : Reg) (a b : VSrc) (s : State) : Out := vec2 vShr t q d a b (vlen b) s
/-- `VSHRA` of XVEC (R141). -/
def execVshraX (t : Ty) (q : Qual) (d : Reg) (a b : VSrc) (s : State) : Out := vec2 vShra t q d a b (vlen b) s

/-- `VFMA` (R141): a × v[c] + b. -/
def execVfma (t : Ty) (q : Qual) (d : Reg) (a : VSrc) (c : Reg) (b : VSrc) (s : State) : Out :=
  M.run (do
    let (va, vb) ← M.vsrcs t a b
    let m := s.me.getM q.mask
    let rs := (List.zip (lanes t.bits va) (List.zip (lanes t.bits (s.v c)) (lanes t.bits vb))).map
      (fun (x, y, z) => fMa (fctxOf s.me.fcr) t x y z)
    M.flags (flagsOf m t.bits rs)
    modify (·.setV d (merge m q.z t.bits (s.v d) (rs.map (·.1))))
    M.takeSources [a, b]
    M.retire (vlen b)) s

/-! ## Compare and select -/

/-- An integer comparison by the type's signedness (R144). -/
def intCmp (cc : CC) (a b : Int) : Bool :=
  match cc with
  | .eq => a == b
  | .ne => a != b
  | .lt => decide (a < b)
  | .le => decide (a ≤ b)
  | .gt => decide (b < a)
  | .ge => decide (b ≤ a)
  | .unord => false

/-- `VCMP` (R144): every byte-lane bit of an active element set or cleared together. -/
def execVcmp (cc : CC) (t : Ty) (q : Qual) (d : Reg3) (a b : VSrc) (s : State) : Out :=
  M.run (do
    let (va, vb) ← M.vsrcs t a b
    let m := s.me.getM q.mask
    let n := t.bits
    let rs := List.zipWith (fun x y =>
      if t.isFlt then (let (r, fl) := fCmp (fctxOf s.me.fcr) t cc x y; ((if r then 1 else 0 : Nat), fl))
      else (if intCmp cc (rd t x) (rd t y) then 1 else 0, (0 : Fl))) (lanes n va) (lanes n vb)
    M.flags (flagsOf m n rs)
    let old := s.me.getM d
    let bit (j : Nat) : Bool :=
      let i := 8 * j / n
      if active m n i then (nth rs i (0, 0)).1 == 1 else if q.z then false else old.getLsbD j
    modify (·.setM d (BitVec.ofNat 16 ((List.range 16).foldl (fun x j => if bit j then x + 2 ^ j else x) 0)))
    M.takeSources [a, b]
    M.retire (vlen b)) s

/-- `VSEL` (R145). -/
def execVsel (t : Ty) (mask : Reg3) (d : Reg) (a b : VSrc) (s : State) : Out :=
  M.run (do
    let (va, vb) ← M.vsrcs t a b
    modify (·.setV d (merge (s.me.getM mask) false t.bits vb (lanes t.bits va)))
    M.takeSources [a, b]
    M.retire (vlen b)) s

/-! ## Moving elements -/

/-- VSPLAT (R146). -/
def splat (t : Ty) (q : Qual) (d a : Reg) (len : Nat) (s : State) : Out :=
  .next ((s.setV d (merge (s.me.getM q.mask) q.z t.bits (s.v d) (List.replicate (128 / t.bits) (low t (s.x a))))).retire len)

/-- VINS (R146). -/
def insert (t : Ty) (q : Qual) (d a : Reg) (b : XSrc) (len : Nat) (s : State) : Out :=
  let i := (xval s b).toNat
  if 128 / t.bits ≤ i then .next (s.takeTrap (.operand (xfield b) (xval s b)))
  else
    let new := modNth (lanes t.bits (s.v d)) i (fun _ => low t (s.x a))
    .next ((s.setV d (merge (s.me.getM q.mask) q.z t.bits (s.v d) new)).retire len)

/-- An element in a register: extended for integer types, zero-extended for float types (R146, R149). -/
def elemX (t : Ty) (e : Nat) : W64 := if t.isInt then ext t e else BitVec.ofNat 64 e

/-- VEXT (R146): x[d] keeps its value when the element is inactive. -/
def extract (t : Ty) (mask : Reg3) (d : Reg) (a : VSrc) (b : XSrc) (len : Nat) (s : State) : Out :=
  let i := (xval s b).toNat
  M.run (do
    M.poolOk [a]
    M.trapIf (128 / t.bits ≤ i) (.operand (xfield b) (xval s b))
    let va ← M.source t a
    if active (s.me.getM mask) t.bits i then modify (·.setX d (elemX t (nth (lanes t.bits va) i 0)))
    M.takeSources [a]
    M.retire len) s

/-- `VSPLAT` of VEC (R146). -/
def execVsplat (t : Ty) (d a : Reg) (s : State) : Out := splat t everyLane d a 4 s
/-- `VINS` of VEC (R146). -/
def execVins (t : Ty) (d a b : Reg) (s : State) : Out := insert t everyLane d a (.reg b) 4 s
/-- `VEXT` of VEC (R146). -/
def execVext (t : Ty) (d a b : Reg) (s : State) : Out := extract t 0 d (.reg a) (.reg b) 4 s
/-- `VSPLAT` of XVEC (R146). -/
def execVsplatX (t : Ty) (q : Qual) (d a : Reg) (s : State) : Out := splat t q d a 12 s
/-- `VINS` of XVEC (R146). -/
def execVinsX (t : Ty) (q : Qual) (d a : Reg) (b : XSrc) (s : State) : Out := insert t q d a b (xlen b) s
/-- `VEXT` of XVEC (R146). -/
def execVextX (t : Ty) (mask : Reg3) (d : Reg) (a : VSrc) (b : XSrc) (s : State) : Out := extract t mask d a b (xlen b) s

/-- An instruction of two sources whose result elements are a function of both registers, `n` bits each. -/
def vecWhole (n : Nat) (f : V128 → V128 → List Nat) (t : Ty) (q : Qual) (d : Reg) (a b : VSrc) (len : Nat) (s : State) : Out :=
  M.run (do
    let (va, vb) ← M.vsrcs t a b
    modify (·.setV d (merge (s.me.getM q.mask) q.z n (s.v d) (f va vb)))
    M.takeSources [a, b]
    M.retire len) s

/-- The bytes VPERM gives (R147). -/
def permute (a b : V128) : V128 :=
  packLanes 8 ((lanes 8 b).map (fun j => if j < 16 then nth (lanes 8 a) j 0 else 0))

/-- `VPERM` of VEC (R147). -/
def execVperm (t : Ty) (d a b : Reg) (s : State) : Out :=
  vecWhole t.bits (fun x y => lanes t.bits (permute x y)) t everyLane d (.reg a) (.reg b) 4 s
/-- `VPERM` of XVEC (R147). -/
def execVpermX (t : Ty) (q : Qual) (d : Reg) (a b : VSrc) (s : State) : Out :=
  vecWhole t.bits (fun x y => lanes t.bits (permute x y)) t q d a b (vlen b) s

/-- The elements VZIP gives (R148). -/
def zipped (h : BitVec 2) (n : Nat) (a b : V128) : List Nat :=
  let c := 128 / n / 2
  let x := lanes n a
  let y := lanes n b
  match h.toNat with
  | 0 => (List.range c).flatMap (fun i => [nth x i 0, nth y i 0])
  | 1 => (List.range c).flatMap (fun i => [nth x (c + i) 0, nth y (c + i) 0])
  | 2 => (List.range c).map (fun i => nth x (2 * i) 0) ++ (List.range c).map (fun i => nth y (2 * i) 0)
  | _ => (List.range c).map (fun i => nth x (2 * i + 1) 0) ++ (List.range c).map (fun i => nth y (2 * i + 1) 0)

/-- `VZIP.lo` of VEC (R148). -/
def execVzip (t : Ty) (d a b : Reg) (s : State) : Out := vecWhole t.bits (zipped 0 t.bits) t everyLane d (.reg a) (.reg b) 4 s
/-- `VZIP` of XVEC (R148). -/
def execVzipX (h : BitVec 2) (t : Ty) (q : Qual) (d : Reg) (a b : VSrc) (s : State) : Out :=
  vecWhole t.bits (zipped h t.bits) t q d a b (vlen b) s

/-! ## Reductions and dot products -/

/-- The three reductions (R149). -/
inductive Fold
  | add | max | min
  deriving DecidableEq, Repr

/-- The result of a reduction of no element (R149). -/
def foldEmpty (k : Fold) (t : Ty) : W64 :=
  if t.isFlt then (match k with
    | .add => 0
    | .max => BitVec.ofNat 64 (finf t true)
    | .min => BitVec.ofNat 64 (finf t false))
  else match k with
    | .add => 0
    | .max => ext t (wrap t.bits (tyLo t))
    | .min => ext t (wrap t.bits (tyHi t))

/-- One step of a float reduction. -/
def foldStep (k : Fold) (c : FCtx) (t : Ty) (x : Nat × Fl) (e : Nat) : Nat × Fl :=
  let (r, fl) := match k with
    | .add => fAdd c t x.1 e
    | .max => fMinMax c t true x.1 e
    | .min => fMinMax c t false x.1 e
  (r, x.2 ||| fl)

/-- The fold of the active elements in rising lane order (R149). A single one makes no step: its bits are the result, with no flag
(DEDUCED, log entry 76). -/
def foldRun (k : Fold) (c : FCtx) (t : Ty) : List Nat → W64 × Fl
  | [] => (foldEmpty k t, 0)
  | e :: es =>
    if t.isFlt then (let (r, fl) := es.foldl (foldStep k c t) (e, 0); (BitVec.ofNat 64 r, fl))
    else match k with
      | .add => (BitVec.ofNat 64 (wrap 64 ((e :: es).foldl (fun a x => a + rd t x) 0)), 0)
      | .max => (ext t (wrap t.bits (es.foldl (fun a x => max a (rd t x)) (rd t e))), 0)
      | .min => (ext t (wrap t.bits (es.foldl (fun a x => min a (rd t x)) (rd t e))), 0)

/-- A reduction (R149). -/
def reduction (k : Fold) (t : Ty) (mask : Reg3) (d : Reg) (a : VSrc) (len : Nat) (s : State) : Out :=
  M.run (do
    let (va, _) ← M.vsrcs t a (.reg 0)
    let m := s.me.getM mask
    let es := ((lanes t.bits va).zipIdx.filter (fun x => active m t.bits x.2)).map (·.1)
    let (r, fl) := foldRun k (fctxOf s.me.fcr) t es
    M.flags fl
    modify (·.setX d r)
    M.takeSources [a]
    M.retire len) s

/-- `VREDADD` of VEC (R149). -/
def execVredadd (t : Ty) (d a : Reg) (s : State) : Out := reduction .add t 0 d (.reg a) 4 s
/-- `VREDMAX` of VEC (R149). -/
def execVredmax (t : Ty) (d a : Reg) (s : State) : Out := reduction .max t 0 d (.reg a) 4 s
/-- `VREDMIN` of VEC (R149). -/
def execVredmin (t : Ty) (d a : Reg) (s : State) : Out := reduction .min t 0 d (.reg a) 4 s
/-- `VREDADD` of XVEC (R149). -/
def execVredaddX (t : Ty) (mask : Reg3) (d : Reg) (a : VSrc) (s : State) : Out := reduction .add t mask d a 12 s
/-- `VREDMAX` of XVEC (R149). -/
def execVredmaxX (t : Ty) (mask : Reg3) (d : Reg) (a : VSrc) (s : State) : Out := reduction .max t mask d a 12 s
/-- `VREDMIN` of XVEC (R149). -/
def execVredminX (t : Ty) (mask : Reg3) (d : Reg) (a : VSrc) (s : State) : Out := reduction .min t mask d a 12 s

/-- A finite value as a term of an exact sum. -/
def termOf : Option FV → List (Bool × Nat × Int)
  | some (.fin n m e) => [(n, m, e)]
  | _ => []

/-- The sign of an infinite term. -/
def infOf : Option FV → List Bool
  | some (.inf n) => [n]
  | _ => []

/-- One element of a BF16 dot product (R150): the exact sum of two products and an FP32 value, rounded once. The first
NaN operand, in the order a, b, a, b, v[d], is the one delivered. (DEDUCED, log entry 33) -/
def fDot (c : FCtx) (acc a0 b0 a1 b1 : Nat) : Nat × Fl :=
  let f := flushIn c .bf16
  let acc := flushIn c .f32 acc
  let ops := [(Ty.bf16, f a0), (Ty.bf16, f b0), (Ty.bf16, f a1), (Ty.bf16, f b1), (Ty.f32, acc)]
  let u := unpackF .bf16
  let prods := [(f a0, f b0), (f a1, f b1)].map (fun (x, y) =>
    if isNanF .bf16 x || isNanF .bf16 y then (none, false) else (mulV (u x) (u y), (mulV (u x) (u y)).isNone))
  let terms := prods.map (·.1) ++ [if isNanF .f32 acc then none else some (unpackF .f32 acc)]
  let infs := terms.flatMap infOf
  let bad := prods.any (·.2) || (infs.contains true && infs.contains false)
  withNans c .f32 ops (if bad then Fl.nv else 0)
    (if bad then (canonNan .f32, Fl.nv)
     else match infs with
       | n :: _ => (finf .f32 n, 0)
       | [] => sumF c .f32 (terms.flatMap termOf))

/-- Destination element `i` of VDOT (R150). -/
def dotElem (c : FCtx) (t : Ty) (acc : Nat) (xs ys : List Nat) (i : Nat) : Nat × Fl :=
  let g := 32 / t.bits
  if t.isFlt then
    fDot c acc (nth xs (2 * i) 0) (nth ys (2 * i) 0) (nth xs (2 * i + 1) 0) (nth ys (2 * i + 1) 0)
  else
    (wrap 32 ((acc : Int) + (List.range g).foldl (fun a j => a + rd t (nth xs (g * i + j) 0) * rd t (nth ys (g * i + j) 0)) 0), 0)

/-- VDOT (R150). -/
def dot (t : Ty) (q : Qual) (d : Reg) (a b : VSrc) (len : Nat) (s : State) : Out :=
  M.run (do
    let (va, vb) ← M.vsrcs t a b
    let m := s.me.getM q.mask
    let rs := (lanes 32 (s.v d)).zipIdx.map (fun (acc, i) =>
      dotElem (fctxOf s.me.fcr) t acc (lanes t.bits va) (lanes t.bits vb) i)
    M.flags (flagsOf m 32 rs)
    modify (·.setV d (merge m q.z 32 (s.v d) (rs.map (·.1))))
    M.takeSources [a, b]
    M.retire len) s

/-- `VDOT` of VEC (R150). (DEDUCED, log entry 33) -/
def execVdot (t : Ty) (d a b : Reg) (s : State) : Out := dot t everyLane d (.reg a) (.reg b) 4 s
/-- `VDOT` of XVEC (R150). -/
def execVdotX (t : Ty) (q : Qual) (d : Reg) (a b : VSrc) (s : State) : Out := dot t q d a b (vlen b) s

/-! ## Conversions and codebook decode -/

/-- VCVT (R151): target elements beyond the converted ones are zero whatever the mask. -/
def convertV (dst src : Ty) (q : Qual) (d : Reg) (a : VSrc) (len : Nat) (s : State) : Out :=
  M.run (do
    let (va, _) ← M.vsrcs src a (.reg 0)
    let m := s.me.getM q.mask
    let n := dst.bits
    let cnt := 128 / Nat.max src.bits dst.bits
    let rs := ((lanes src.bits va).take cnt).map (fCvt (fctxOf s.me.fcr) dst src)
    M.flags (flagsOf m n rs)
    modify (·.setV d (packLanes n ((lanes n (merge m q.z n (s.v d) (rs.map (·.1)))).take cnt)))
    M.takeSources [a]
    M.retire len) s

/-- `VCVT` of VEC (R151). -/
def execVcvt (dst src : Ty) (d a : Reg) (s : State) : Out := convertV dst src everyLane d (.reg a) 4 s
/-- `VCVT` of XVEC (R151). -/
def execVcvtX (dst src : Ty) (q : Qual) (d : Reg) (a : VSrc) (s : State) : Out := convertV dst src q d a 12 s

/-- An element narrowed to half its width (R152). -/
def narrowed (t : Ty) (sat : Bool) (e : Nat) : Nat :=
  let h := t.bits / 2
  if sat then
    let lo : Int := if t.signed then -((2 ^ (h - 1) : Nat) : Int) else 0
    let hi : Int := if t.signed then ((2 ^ (h - 1) : Nat) : Int) - 1 else ((2 ^ h : Nat) : Int) - 1
    wrap h (max lo (min hi (rd t e)))
  else e % 2 ^ h

/-- VNARROW (R152). -/
def narrow (t : Ty) (sat hi : Bool) (q : Qual) (d : Reg) (a : VSrc) (len : Nat) (s : State) : Out :=
  M.run (do
    let (va, _) ← M.vsrcs t a (.reg 0)
    let h := t.bits / 2
    let c := 128 / t.bits
    let rs := (lanes t.bits va).map (narrowed t sat)
    let old := lanes h (s.v d)
    let new := lanes h (merge (s.me.getM q.mask) q.z h (s.v d) (if hi then List.replicate c 0 ++ rs else rs))
    modify (·.setV d (packLanes h (if hi then old.take c ++ new.drop c else new.take c)))
    M.takeSources [a]
    M.retire len) s

/-- `VNARROW` of VEC (R152). -/
def execVnarrow (t : Ty) (d a : Reg) (s : State) : Out := narrow t false false everyLane d (.reg a) 4 s
/-- `VNARROW` of XVEC (R152). -/
def execVnarrowX (t : Ty) (sat hi : Bool) (q : Qual) (d : Reg) (a : VSrc) (s : State) : Out := narrow t sat hi q d a 12 s

/-- The elements VWIDEN gives: one source half, each extended to twice its width (R152). -/
def widened (t : Ty) (hi : Bool) (a : V128) : List Nat :=
  let c := 64 / t.bits
  (((lanes t.bits a).drop (if hi then c else 0)).take c).map (fun e => wrap (2 * t.bits) (rd t e))

/-- `VWIDEN` of VEC (R152). -/
def execVwiden (t : Ty) (d a : Reg) (s : State) : Out :=
  vecWhole (2 * t.bits) (fun x _ => widened t false x) t everyLane d (.reg a) (.reg 0) 4 s
/-- `VWIDEN` of XVEC (R152). -/
def execVwidenX (t : Ty) (hi : Bool) (q : Qual) (d : Reg) (a : VSrc) (s : State) : Out :=
  vecWhole (2 * t.bits) (fun x _ => widened t hi x) t q d a (.reg 0) 12 s

/-- The table of VLUT: v[b] then v[b+1], or a literal's eight bytes four times (R153). -/
def lutTable (s : State) : VSrc → List Byte
  | .lit _ v => (List.replicate 4 (leBytes 8 v.toNat)).flatten
  | .reg b => vbytes (s.v b) ++ vbytes (s.v (b + 1))
  | _ => []

/-- The elements VLUT gives, in the width of the result (R153). -/
def looked (t : Ty) (g : Nat) (table : List Byte) (a : V128) : List Nat :=
  if t = .c4 then
    (List.range 8).map (fun i => leNat ((table.drop (2 * nth (lanes 4 a) (8 * g + i) 0)).take 2))
  else (lanes 8 a).map (fun j => if j < 32 then (nth table j 0).toNat else 0)

/-- VLUT (R153). -/
def lut (t : Ty) (g : Nat) (q : Qual) (d : Reg) (a b : VSrc) (len : Nat) (s : State) : Out :=
  M.run (do
    let (va, _) ← M.vsrcs t a (.reg 0)
    let n := if t = .c4 then 16 else 8
    modify (·.setV d (merge (s.me.getM q.mask) q.z n (s.v d) (looked t g (lutTable s b) va)))
    M.takeSources [a]
    M.retire len) s

/-- `VLUT` of VEC (R153). -/
def execVlut (t : Ty) (d a b : Reg) (s : State) : Out := lut t 0 everyLane d (.reg a) (.reg b) 4 s
/-- `VLUT` of XVEC (R153). -/
def execVlutX (t : Ty) (g : BitVec 2) (q : Qual) (d : Reg) (a b : VSrc) (s : State) : Out := lut t g.toNat q d a b (vlen b) s

/-! ## Compress, expand and top-k -/

/-- The elements VCOMP packs, with their count (R154). -/
def compressed (n : Nat) (sel : Nat → Bool) (a : V128) : List Nat × Nat :=
  let l := ((lanes n a).zipIdx.filter (fun x => sel x.2)).map (·.1)
  (l, l.length)

/-- The elements VEXPND spreads, with their count (R154). -/
def expanded (n : Nat) (sel : Nat → Bool) (a : V128) : List Nat × Nat :=
  let xs := lanes n a
  let before (i : Nat) : Nat := ((List.range i).filter sel).length
  ((List.range (128 / n)).map (fun i => if sel i then nth xs (before i) 0 else 0), before (128 / n))

/-- VCOMP and VEXPND (R154). -/
def pick (f : Nat → (Nat → Bool) → V128 → List Nat × Nat) (t : Ty) (mask : Reg3) (d : Reg) (a : VSrc) (b : KSrc) (e : Reg)
    (len : Nat) (s : State) : Out :=
  M.run (do
    let (va, _) ← M.vsrcs t a (.reg 0)
    let sel (i : Nat) : Bool := active (kval s b) t.bits i && active (s.me.getM mask) t.bits i
    let (r, cnt) := f t.bits sel va
    modify (fun u => (u.setV d (packLanes t.bits r)).setX e (BitVec.ofNat 64 cnt))
    M.takeSources [a]
    M.retire len) s

/-- `VCOMP` of VEC: no count (R154). -/
def execVcomp (t : Ty) (d a : Reg) (b : Reg3) (s : State) : Out := pick compressed t 0 d (.reg a) (.reg b) 0 4 s
/-- `VEXPND` of VEC: no count (R154). -/
def execVexpnd (t : Ty) (d a : Reg) (b : Reg3) (s : State) : Out := pick expanded t 0 d (.reg a) (.reg b) 0 4 s
/-- `VCOMP` of XVEC (R154). -/
def execVcompX (t : Ty) (mask : Reg3) (d : Reg) (a : VSrc) (b : KSrc) (e : Reg) (s : State) : Out :=
  pick compressed t mask d a b e (klen b) s
/-- `VEXPND` of XVEC (R154). -/
def execVexpndX (t : Ty) (mask : Reg3) (d : Reg) (a : VSrc) (b : KSrc) (e : Reg) (s : State) : Out :=
  pick expanded t mask d a b e (klen b) s

/-- Does element `x` rank before a later element `y`, by value alone (R155)? -/
def outranks (t : Ty) (x y : Nat) : Bool :=
  if t.isFlt then !isNanF t x && (isNanF t y || decide (0 < cmpV (unpackF t x) (unpackF t y)))
  else decide (rd t y < rd t x)

/-- An element placed among those ranked so far: after every one it does not outrank. -/
def rankIn (t : Ty) (x : Nat × Nat) : List (Nat × Nat) → List (Nat × Nat)
  | [] => [x]
  | y :: r => if outranks t x.1 y.1 then x :: y :: r else y :: rankIn t x r

/-- The elements in rank order, with their indexes (R155). -/
def ranked (t : Ty) (es : List (Nat × Nat)) : List (Nat × Nat) := es.foldl (fun r x => rankIn t x r) []

/-- VTOPK (R155). With an index list and d = e both writes go to one register and the list is written last (DESIGN
CHOICE, log entry 65). -/
def topk (t : Ty) (list : Bool) (mask : Reg3) (d : Reg) (a : VSrc) (b : XSrc) (e : Reg) (len : Nat) (s : State) : Out :=
  let k := (xval s b).toNat
  M.run (do
    M.poolOk [a]
    M.trapIf (128 / t.bits < k) (.operand (xfield b) (xval s b))
    let va ← M.source t a
    let m := s.me.getM mask
    let r := (ranked t ((lanes t.bits va).zipIdx.filter (fun x => active m t.bits x.2))).take k
    modify (fun u => u.setV d (packLanes t.bits (r.map (·.1))))
    if list then modify (fun u => u.setV e (packLanes 8 ((List.range 16).map (fun i => ((r[i]?).map (·.2)).getD 0xFF))))
    M.takeSources [a]
    M.retire len) s

/-- `VTOPK` of VEC (R155). -/
def execVtopk (t : Ty) (d a b : Reg) (s : State) : Out := topk t false 0 d (.reg a) (.reg b) 0 4 s
/-- `VTOPK` of XVEC (R155). -/
def execVtopkX (t : Ty) (list : Bool) (mask : Reg3) (d : Reg) (a : VSrc) (b : XSrc) (e : Reg) (s : State) : Out :=
  topk t list mask d a b e (xlen b) s

/-! ## Mask operations (R156) -/

/-- The bits of a mask operation: the new value where the mask is set, zero or the old one elsewhere. -/
def maskMerge (m : BitVec 16) (z : Bool) (old new : BitVec 16) : BitVec 16 := (new &&& m) ||| (if z then 0 else old &&& ~~~m)

/-- A mask operation (R156). -/
def maskOp (f : BitVec 16 → BitVec 16 → BitVec 16) (q : Qual) (d a : Reg3) (b : KSrc) (len : Nat) (s : State) : Out :=
  .next ((s.setM d (maskMerge (s.me.getM q.mask) q.z (s.me.getM d) (f (s.me.getM a) (kval s b)))).retire len)

/-- `MAND` of VEC (R156). -/
def execMand (d a b : Reg3) (s : State) : Out := maskOp (· &&& ·) everyLane d a (.reg b) 4 s
/-- `MOR` of VEC (R156). -/
def execMor (d a b : Reg3) (s : State) : Out := maskOp (· ||| ·) everyLane d a (.reg b) 4 s
/-- `MNOT` of VEC (R156). -/
def execMnot (d a : Reg3) (s : State) : Out := maskOp (fun x _ => ~~~x) everyLane d a (.reg 0) 4 s
/-- `MPOPC` of VEC (R156). -/
def execMpopc (d : Reg) (a : Reg3) (s : State) : Out := putX s d (BitVec.ofNat 64 (popN 16 (s.me.getM a).toNat)) 4
/-- `MAND` of XVEC (R156). -/
def execMandX (q : Qual) (d a : Reg3) (b : KSrc) (s : State) : Out := maskOp (· &&& ·) q d a b (klen b) s
/-- `MOR` of XVEC (R156). -/
def execMorX (q : Qual) (d a : Reg3) (b : KSrc) (s : State) : Out := maskOp (· ||| ·) q d a b (klen b) s
/-- `MNOT` of XVEC (R156). -/
def execMnotX (q : Qual) (d a : Reg3) (s : State) : Out := maskOp (fun x _ => ~~~x) q d a (.reg 0) 12 s
/-- `MPOPC` of XVEC (R156). -/
def execMpopcX (mask : Reg3) (d : Reg) (a : Reg3) (s : State) : Out :=
  putX s d (BitVec.ofNat 64 (popN 16 (s.me.getM a &&& s.me.getM mask).toNat)) 12

/-! ## VACCS (R157) -/

/-- A stream end word: bits 127:96 and 95:64 both hold the mark (R157). -/
def picot (v : V128) : Bool := v.extractLsb' 64 64 == (0xFFC1_C0DE_FFC1_C0DE : W64)

/-- `VACCS` (R157): one chunk a time; the instruction runs again until the end word. -/
def execVaccs (t : Ty) (q : Qual) (d : Reg) (ch : Chan) (s : State) : Out :=
  M.run (do
    let x ← M.source t (.chan ch)
    if picot x then do
      M.takeSources [.chan ch]
      M.retire 12
    else do
      let m := s.me.getM q.mask
      let rs := List.zipWith (vAdd false (fctxOf s.me.fcr) t) (lanes t.bits (s.v d)) (lanes t.bits x)
      M.flags (flagsOf m t.bits rs)
      modify (·.setV d (merge m q.z t.bits (s.v d) (rs.map (·.1))))
      M.takeSources [.chan ch]
      M.retire 0) s

end Sys2Proof.Machine
end

