-- ==== Sys2Proof/Machine/MatrixEvents.lean ====
section
/-! DEFINITION. The matrix array: the events by which it serves its tenants' queues (R42, R43, R161, R166-R174, R338-R343).
The tile fetch unit reads lines ahead; rows enter the chain one by one; drains leave as sectors. -/

namespace Sys2Proof.Machine

/-! ## The cell chain (R42, R43, R338) -/

/-- The weight of a tile at a logical row and column: a code stands for its entry of the latched codebook. -/
def weightAt (x : MatrixCtx) (t : Tile) (k j : Nat) : Nat :=
  let e := nth (nth t.rows k []) j 0
  if t.fmt = .c4 then (nth x.latched e.toNat 0).toNat else e.toNat

/-- One column of one row: the cell's value after the K steps, in rising k. -/
def chainCell (x : MatrixCtx) (t : Tile) (acts : List Nat) (j s : Nat) : Nat :=
  (List.range t.k).foldl (fun acc k =>
    (if t.fmt = .i8 then macI else macF) acc (nth acts k 0) (weightAt x t k j)) s

/-- The elements of an activation row. -/
def rowElems (int : Bool) (bs : List Byte) : List Nat :=
  if int then bs.map (·.toNat) else (List.range (bs.length / 2)).map (fun i => leNat ((bs.drop (2 * i)).take 2))

/-- A row enters: row `r` of the target takes part in the sum of every column; a poisoned row or tile poisons them
(R168, R362). -/
def Core.enterRow (c : Core) (x : MatrixCtx) (bank r : Nat) (acts : List Nat) (poison : Bool) : Core :=
  match x.tile with
  | none => c
  | some t =>
    let b := bank + r / 16
    let at_ (j : Nat) : Nat := r % 16 * 32 + j
    let bad := poison || t.poison
    (List.range 32).foldl (fun (u : Core) j =>
      let was := u.cellPoison.contains (b * 512 + at_ j)
      let u := u.setCell b (at_ j) (BitVec.ofNat 32 (chainCell x t acts j (u.cell b (at_ j)).toNat))
      if bad || was then { u with cellPoison := u.cellPoison ++ [b * 512 + at_ j] } else u) c

/-! ## The queue's service -/

/-- A drain whose sectors are on their way: the array is free of it. -/
def MatOp.draining (o : MatOp) : Bool :=
  o.started && (match o.kind with | .mdrain _ _ _ _ _ _ _ => true | _ => false)

/-- The instruction in the array. -/
def running (q : List MatOp) : Option MatOp := q.find? (fun o => o.started && !o.draining)

/-- The matrix context of an instruction's strand. -/
def State.mctxOf (s : State) (o : MatOp) : MatrixCtx := ((s.strand? o.owner).map (·.mctx)).getD .reset

/-- The bytes of a row of a stream as its strand's weights stand (R168). -/
def State.rowBytes (s : State) (o : MatOp) (int : Bool) : Nat :=
  match (s.mctxOf o).tile with
  | some t => rowSize t.k int
  | none => 16

/-- The entries of a queue that the array may take: none while an instruction has reserved some (R138, R169). -/
def State.arrayQueue (s : State) (o : MatOp) (q : Reg3) : List V128 :=
  let x := s.slotq o.owner.launch o.owner.seat
  if x.holds.any (fun h => decide (h.2.1 = q) && decide (h.2.2 < 16)) then [] else x.q.get q.toFin

/-- The whole chunks of a channel's stream that the array may take (R139, R170). -/
def Core.arrayStream (c : Core) (ch : Nat) : List V128 :=
  if c.chHolds.any (fun h => h.2.1 == ch) then []
  else
    let bs := streamOf c.rq ch
    (List.range (bs.length / 16)).map (fun i => ofBytes ((bs.drop (16 * i)).take 16))

/-- The lines of a row's bytes. -/
def rowLines (keys : List Nat) : List Nat := (keys.map (· / 64)).eraseDups

/-- The bytes of a row taken from the pinned lines, if each is pinned. -/
def MatOp.fetched (o : MatOp) (keys : List Nat) : Option (List Byte × Bool) :=
  if (rowLines keys).all (fun l => o.pins.any (fun p => p.line == l)) then
    let at_ (k : Nat) : Byte := ((o.pins.find? (fun p => p.line == k / 64)).map (fun p => nth p.bytes (k % 64) 0)).getD 0
    some (keys.map at_, (rowLines keys).any (fun l => o.pins.any (fun p => p.line == l && p.poison)))
  else none

/-- The pins left when a row has entered the array: those of the rows that are read ahead, and of the one that is being read
(R343). -/
def stillPinned (pins : List Pin) (rest : List (List Nat)) : List Pin :=
  let n := (rest.takeWhile (fun r => (rowLines r).all (fun l => pins.any (fun p => p.line == l)))).length
  let need := (rest.take (n + 1)).flatMap rowLines
  pins.filter (fun p => need.contains p.line)

/-- The next row of a stream is present (R342): those that the tile fetch unit reads, when their lines are pinned. -/
def State.rowPresent (s : State) (g : Nat) (o : MatOp) : Bool :=
  match o.kind with
  | .mmulQueue int q _ => decide (s.rowBytes o int ≤ o.buf.length + 16 * (s.arrayQueue o q).length)
  | .mmuls int ch _ =>
    let l := (s.core g).arrayStream ch
    decide (s.rowBytes o int ≤ o.buf.length + 16 * l.length) || l.any picot
  | .mmulMem _ true (keys :: _) => (o.fetched keys).isSome
  | _ => true

/-- The instruction that the array begins next: in queue order, past the drains under way, and past a stream that has
yielded and its strand's later instructions (R342). A REL waits for the strand's drains (R162). -/
def State.nextMatrix (s : State) (g : Nat) : List MatOp → List Sid → List Sid → Option MatOp
  | [], _, _ => none
  | o :: r, drained, past =>
    if past.contains o.owner then s.nextMatrix g r drained past
    else if o.draining then s.nextMatrix g r (o.owner :: drained) past
    else if o.parked && !s.rowPresent g o then s.nextMatrix g r drained (o.owner :: past)
    else if decide (o.kind = .rel) && drained.contains o.owner then none
    else if !o.rlx && s.atomicsBefore o.owner o.ref then none
    else some o

/-! ## MDRAIN (R172, R173) -/

/-- One element: the cell's value, scaled and converted (R172). -/
def drainElem (int : Bool) (t : Ty) (rm v : Nat) (scale : Option Nat) : Nat :=
  let c : FCtx := { rm, fz := false, dn := true }
  if !int && decide (t = .f32) && scale.isNone then v
  else
    let x : FV := if int then (let i := asInt true 32 v; .fin (decide (i < 0)) i.natAbs 0) else unpackF .f32 v
    let p : Option FV := match scale with
      | none => some x
      | some k => mulV x (unpackF .f32 k)
    if t.isInt then (match p with | some y => (toInt c t y).1 | none => 0)
    else (roundV c t p).1

/-- The 4 bytes of a scale factor of a column, and its poison mark. -/
def State.scaleAt (s : State) (o : MatOp) (keys : List Nat) (j : Nat) : Nat × Bool :=
  let bs := ((keys.drop (4 * j)).take 4).map (s.engineByte o.olds)
  (leNat (bs.map (·.1)), bs.any (·.2))

/-- The bytes of a row of the destination, with their poison marks. Where an earlier store of the strand lands after a `.rlx` drain,
the byte stays what that store, or one after it, made it (R173, R263). -/
def State.drainRow (s : State) (c : Core) (o : MatOp) (w : Nat) (int : Bool) (t : Ty) (rm r : Nat) (dst : List Nat)
    (scale : List (Option (Nat × Bool))) : List (Bit8 × Bool) :=
  (List.range (32 * w)).flatMap (fun j =>
    let b := o.base + j / 32 * (o.banks / w) + r / 16
    let i := r % 16 * 32 + j % 32
    let k : Option (Nat × Bool) := nth scale j none
    let e := drainElem int t rm (c.cell b i).toNat (k.map (·.1))
    let bad := c.cellPoison.contains (b * 512 + i) || k.any (·.2)
    (((dst.drop (j * t.bytes)).take t.bytes).zip (leBytes t.bytes e)).map (fun (key, byte) =>
      let k := s.inactiveKey key
      ({ key, byte, mask := if (oldsAt 3 s.tick (k / 32) o.laters).any (fun o => (o.byte? k).isSome) then 0 else 0xFF }, bad)))

/-- The destination sectors of a drain leave (R173). -/
def State.startDrain (s : State) (g : Nat) (o : MatOp) (w : Nat) (int : Bool) (t : Ty) (rm : Nat) (dst : List (List Nat))
    (scale : Option (List Nat)) : State :=
  let sc : List (Option (Nat × Bool)) := match scale with
    | some ks => (List.range (32 * w)).map (fun j => some (s.scaleAt o ks j))
    | none => []
  let bs : List (Bit8 × Bool) := (dst.zipIdx.map (fun (d, r) => s.drainRow (s.core g) o w int t rm r d sc)).flatten
  (s.sendSectors (2 ^ 41 + g) o.ref 0 o.dst bs).modMatrix o.ref (fun o => { o with row := (sectorsOf bs).length })

/-- What an instruction would read next is in sectors that another core's pair has logged: it waits for the next checkpoint (R368). -/
def State.matrixWaits (s : State) (g : Nat) (o : MatOp) : Bool :=
  s.loggedAny (some g) (match o.kind with
    | .mcbl src => src
    | .mwld _ _ src => src.flatten
    | .mmulMem _ false (keys :: _) => keys
    | .mdrain _ _ _ _ _ (some ks) _ => if o.started then [] else ks
    | _ => [])

/-- `MATRIX_OP_START` (R342): the array of a tenant, free, begins the next instruction of its queue. -/
def execMatrixOpStart (g tenant : Nat) (s : State) : Out :=
  let q := (s.core g).mq (tenant == 1)
  if (running q).isSome then .next s
  else match s.nextMatrix g q [] [] with
    | none => .next s
    | some o =>
      let t := s.modMatrix o.ref (fun o => { o with started := true, parked := false })
      match o.kind with
      | .mdrain w int ty rm dst scale _ => if s.matrixWaits g o then .next s else .next (t.startDrain g o w int ty rm dst scale)
      | _ => .next t

/-! ## Rows (R168-R170, R339, R343) -/

/-- A whole row enters the chain. -/
def State.rowIn (s : State) (g : Nat) (o : MatOp) (int : Bool) (bs : List Byte) (poison : Bool) : State :=
  (s.modCore g (fun c => c.enterRow (s.mctxOf o) o.base o.row (rowElems int bs) poison)).modMatrix o.ref
    (fun o => { o with row := o.row + 1, buf := [] })

/-- One chunk of a stream row: the row enters with its last chunk. -/
def State.chunkIn (s : State) (g : Nat) (o : MatOp) (int : Bool) (v : V128) (kind : Nat → MatKind) (left : Nat) : State :=
  let buf := o.buf ++ vbytes v
  if buf.length < s.rowBytes o int then s.modMatrix o.ref (fun o => { o with buf })
  else (s.modMatrix o.ref (fun o => { o with kind := kind (left - 1) })).rowIn g o int buf false

/-- `MATRIX_ROW_ENTRY` (R339): the next row of the instruction in the array enters the cell chain. A row from a queue or
a channel comes chunk by chunk; a picot word ends an MMULS (R169, R170). -/
def execMatrixRowEntry (g tenant : Nat) (s : State) : Out :=
  match running ((s.core g).mq (tenant == 1)) with
  | none => .next s
  | some o =>
    match o.kind with
    | .mmulMem int false (keys :: rest) =>
      if s.matrixWaits g o then .next s else
      let bs := keys.map (s.engineByte o.olds)
      .next ((s.modMatrix o.ref (fun o => { o with kind := .mmulMem int false rest })).rowIn g o int (bs.map (·.1)) (bs.any (·.2)))
    | .mmulMem int true (keys :: rest) =>
      match o.fetched keys with
      | none => .next s
      | some (bs, poison) =>
        .next ((s.modMatrix o.ref (fun o => { o with kind := .mmulMem int true rest, pins := stillPinned o.pins rest })).rowIn g o int bs poison)
    | .mmulQueue int q (left + 1) =>
      match s.arrayQueue o q with
      | [] => .next s
      | v :: _ =>
        .next ((s.modSlotq o.owner.launch o.owner.seat (fun x => x.pop q 1)).chunkIn g o int v (.mmulQueue int q) (left + 1))
    | .mmuls int ch (left + 1) =>
      match (s.core g).arrayStream ch with
      | [] => .next s
      | v :: _ =>
        let s := s.modRq g (fun rq => takeStream ch rq 16)
        if picot v then .next (s.modMatrix o.ref (fun o => { o with kind := .mmuls int ch 0, buf := [] }))
        else .next (s.chunkIn g o int v (.mmuls int ch) (left + 1))
    | _ => .next s

/-- `MATRIX_STALL_YIELD` (R342): a stream without its next row yields the array to another strand. -/
def execMatrixStallYield (g tenant : Nat) (s : State) : Out :=
  let q := (s.core g).mq (tenant == 1)
  match running q with
  | none => .next s
  | some o =>
    if s.rowPresent g o || !q.any (fun p => !p.started && !decide (p.owner = o.owner)) then .next s
    else .next (s.modMatrix o.ref (fun o => { o with started := false, parked := true }))

/-- The lines of the row of a register-kind MMUL that enters the array next. -/
def MatOp.nextLines (o : MatOp) : List Nat :=
  match o.kind with
  | .mmulMem _ true (r :: _) => rowLines r
  | _ => []

/-- The lines that the tile fetch unit has still to read for a register-kind MMUL: all of one in the array, those of the next row of
one that has yielded it (R342, R343). -/
def MatOp.toFetch (o : MatOp) : List Nat :=
  (match o.kind with
    | .mmulMem _ true rows => if o.started then rows.flatMap rowLines else if o.parked then o.nextLines else []
    | _ => []).filter (fun l => !o.pins.any (fun p => p.line == l))

/-- The read that the tile fetch unit makes next for an instruction: a line of its next row at any time; one further ahead while more
than eight of the core's 64 slots are free, so that each strand's next row finds its two lines a place (R343; DEDUCED, log
entry 40). -/
def MatOp.nextFetch (o : MatOp) (pinned : Nat) : Option Nat :=
  (o.toFetch.head?).filter (fun l => o.nextLines.contains l || decide (pinned < 56))

/-- `TILE_FETCH_READ` (R343): the tile fetch unit reads the next line of a register-kind MMUL that the array runs or has left for
another strand's, once, and pins it. None is read before the strand's earlier atomics are performed (R166). (DEDUCED, log entry 40) -/
def execTileFetchRead (g tenant : Nat) (s : State) : Out :=
  let c := s.core g
  let pinned := ((c.mq0 ++ c.mq1).map (fun o => o.pins.length)).sum
  match (c.mq (tenant == 1)).findSome? (fun o =>
    if !o.rlx && s.atomicsBefore o.owner o.ref then none else (o.nextFetch pinned).map (fun l => (o, l))) with
  | none => .next s
  | some (o, l) =>
    let bs := (List.range 64).map (fun i => s.engineByte o.olds (64 * l + i))
    .next (s.modMatrix o.ref (fun o => { o with pins := o.pins ++ [{ line := l, bytes := bs.map (·.1), poison := bs.any (·.2) }] }))

/-! ## Completion -/

/-- The instruction in the array has nothing left to do but its last step. -/
def MatOp.finishing (o : MatOp) : Bool :=
  o.started && (match o.kind with
    | .mmulMem _ _ rows => rows.isEmpty
    | .mmulQueue _ _ left => left == 0
    | .mmuls _ _ left => left == 0
    | .mdrain _ _ _ _ _ _ _ => o.row == 0
    | _ => true)

/-- The 16-bit or 8-bit elements, or codes, of a tile row's bytes. -/
def tileElems (fmt : WFmt) (bs : List Byte) : List (BitVec 16) :=
  match fmt with
  | .i8 => bs.map (fun (b : Byte) => b.setWidth 16)
  | .c4 => bs.flatMap (fun (b : Byte) => [(b &&& 15).setWidth 16, (b >>> 4).setWidth 16])
  | _ => (List.range (bs.length / 2)).map (fun i => BitVec.ofNat 16 (leNat ((bs.drop (2 * i)).take 2)))

/-- A tile read from memory; a transposed one has an output column in each row of the view (R166). (DEDUCED, log entry 39) -/
def State.readTile (s : State) (o : MatOp) (fmt : WFmt) (k : Nat) (src : List (List Nat)) : Tile :=
  let bs := src.map (fun r => r.map (s.engineByte o.olds))
  let rows := bs.map (fun r => tileElems fmt (r.map (·.1)))
  { fmt, k, poison := bs.any (fun r => r.any (·.2)),
    rows := if fmt = .bf16t then (List.range k).map (fun i => rows.map (fun r => nth r i 0)) else rows }

/-- The matrix context of a strand changed. -/
def State.modMctx (s : State) (i : Sid) (f : MatrixCtx → MatrixCtx) : State :=
  s.modStrand i (fun c => { c with mctx := f c.mctx })

/-- What an instruction does in its last step (R163, R165-R167, R174). -/
def State.finishMatrix (s : State) (g : Nat) (o : MatOp) : State :=
  match o.kind with
  | .mzero => s.modCore g (·.zeroBanks o.base o.banks)
  | .mwr grp v => s.modCore g (fun c =>
      (List.range 4).foldl (fun c i => c.setCell o.base (4 * grp + i) (v.extractLsb' (32 * i) 32)) c)
  | .mcbl src =>
    let bs := src.map (s.engineByte o.olds)
    s.modMctx o.owner (fun x => { x with staged := tileElems .bf16 (bs.map (·.1)), stagedPoison := bs.any (·.2) })
  | .mwld fmt k src =>
    let t := s.readTile o fmt k src
    s.modMctx o.owner (fun x =>
      { x with tile := some { t with poison := t.poison || (decide (fmt = .c4) && x.stagedPoison) },
               latched := if fmt = .c4 then x.staged else x.latched })
  | .mdrain _ _ _ _ _ _ bar => s.sendDecrement o.owner.launch (s.ownerCore o.owner) bar
  | .rel => s.modCore g (fun c => (List.range o.banks).foldl (fun c i =>
      if c.bankState (o.base + i) = .leaving o.owner then c.setBanks (o.base + i) 1 .clearing else c) c)
  | _ => s

/-- A matrix instruction leaves its queue. -/
def State.dropMatrix (s : State) (g ref : Nat) : State :=
  s.modCore g (fun c => { c with mq0 := c.mq0.filter (fun o => o.ref != ref), mq1 := c.mq1.filter (fun o => o.ref != ref) })

/-- `MATRIX_OP_COMPLETE` (R342): a matrix instruction completes; a drain with its last sector written, whatever the array
does meanwhile. -/
def execMatrixOpComplete (g tenant : Nat) (s : State) : Out :=
  match ((s.core g).mq (tenant == 1)).find? (fun o => o.finishing && !s.matrixWaits g o) with
  | none => .next s
  | some o => .next ((s.finishMatrix g o).dropMatrix g o.ref)

/-- `BANK_CLEAR_DONE` (R161): a freed bank is clear. -/
def execBankClearDone (g bank : Nat) (s : State) : Out :=
  if (s.core g).bankState bank = .clearing then .next (s.modCore g (fun c => (c.zeroBanks bank 1).setBanks bank 1 .free))
  else .next s

end Sys2Proof.Machine
end

