-- ==== Sys2Proof/Machine/Peers.lean ====
section
/-! DEFINITION. What the home of a group and the cores of its members decide: arrivals and releases of barriers, the opening
of a window, departures, steals and their replies, and straggler records (R196, R216, R220-R222, R327-R337). -/

namespace Sys2Proof.Machine

/-- `GBAR_ARRIVAL` (R196). -/
def execGbarArrival (k : Nat) (s : State) : Out :=
  match s.arriving k with
  | some (.gbarArrive launch gid idx n) =>
    if (s.group? launch gid).any (fun g => s.evictedAt launch g.home) then .next s else .next ((s.deliver k).gbarArrive launch gid idx n)
  | _ => .next s

/-- `GBAR_RELEASE` (R196). -/
def execGbarRelease (k : Nat) (s : State) : Out :=
  match s.arriving k with
  | some (.gbarRelease i _ gid) => .next ((s.deliver k).modStrand i (·.wake (.barrier gid) (.ok [])))
  | _ => .next s

/-- `WINDOW_OPEN` (R216): a member's GWOPEN reaches the home; with the last one the window opens. -/
def execWindowOpen (k : Nat) (s : State) : Out :=
  match s.arriving k with
  | some (.winArrive launch gid idx base len) =>
    if (s.group? launch gid).any (fun g => s.evictedAt launch g.home) then .next s else .next ((s.deliver k).openArrive launch gid idx base len)
  | _ => .next s

/-- A departure is written at one member's core: DEPARTED and DEP, in one step (R331). -/
def State.departAt (s : State) (launch gid idx gone : Nat) : State :=
  s.modGroup launch gid (fun g => g.modMember idx (fun m => { m with dep := true, seesGone := m.seesGone ++ [gone] }))

/-- `MEMBER_DEPART` (R331): the packet to a member's core names the departed member, at `idx` of its group; the member
told is the one whose core it reaches. -/
def execMemberDepart (k : Nat) (s : State) : Out :=
  match s.arriving k, s.net[k]? with
  | some (.depart launch gid idx window), some p =>
    match s.group? launch gid with
    | some g =>
      let at_ := g.members.filter (fun m => m.inside && s.coreOf m.sid m.core == p.dst && !m.seesGone.contains idx)
      if g.winOpen && g.windows == window then .next (at_.foldl (fun s m => s.departAt launch gid m.idx idx) (s.deliver k)) else .next (s.deliver k)
    | none => .next (s.deliver k)
  | _, _ => .next s

/-! ## Steals (R220, R334-R337) -/

/-- A tile returned at its victim (R334): where a pair has logged the slot, after its next checkpoint (R368). -/
def State.returnTile (s : State) (launch gid victim : Nat) (d : W64) : State :=
  match (s.group? launch gid).bind (fun g => (g.member? victim).bind (fun m => m.queue.map (fun q => (g, m, q)))) with
  | some (g, m, q) =>
    let head := (q.head + g.tqcap - 1) % g.tqcap
    let key := slotKey (s.coreOf m.sid m.core) g.tqcap q head
    let s := if s.logged none key 8 then s.advanceCheckpoint (s.coreOf m.sid m.core) else s
    (s.poke key (leBytes 8 d.toNat)).modQueue launch gid victim
      (fun q => { q with head, count := q.count + 1, out := q.out - 1 })
  | none => s

/-- The next steal number (R334). -/
def nextSeq (n : W32) : W32 := if n + 1 = 0 then 1 else n + 1

/-- The case of R220 that a steal meets. A victim that has only stopped for an eviction is decided as usual, since its set is saved
after that (R337); one that moves is not resident (R335). -/
def State.stealCase (s : State) (v : Member) (held : Nat) : Nat :=
  if !v.inside || (s.strand? v.sid).isNone then 3
  else if (s.strand? v.sid).any (fun c => decide (c.res = .moving)) || (s.core (s.coreOf v.sid v.core)).shifting then 5
  else if 8 ≤ held then 4
  else if !v.lagCopy then 0
  else if v.count = 0 then 2
  else 1

/-- `STEAL_DECISION` (R220, R334): the victim's core decides in one step; the result goes to the home (R335). -/
def execStealDecision (k : Nat) (s : State) : Out :=
  match s.arriving k with
  | some (.steal launch gid thief victim r) =>
    match (s.group? launch gid).bind (fun g => (g.member? victim).map (fun v => (g, v))) with
    | none => .next (s.deliver k)
    | some (g, v) =>
      if s.evictedAt launch (s.coreOf v.sid v.core) then .next s
      else
        let held := ((g.member? thief).bind (fun t => s.strand? t.sid)).elim 0 (·.stolen.length)
        let core := s.coreOf v.sid v.core
        match s.stealCase v held, v.queue with
        | 1, some q =>
          let key := slotKey core g.tqcap q (q.head + q.count - 1)
          if s.logged none key 8 then .next s
          else
            let d := s.readSlot key
            let seq := nextSeq q.seq
            let s := (s.deliver k).modQueue launch gid victim (fun q => { q with count := q.count - 1, out := q.out + 1, seq })
            .next (s.send .ctl core g.home (.stealResult launch gid thief victim r 1 d seq))
        | c, _ => .next ((s.deliver k).send .ctl core g.home (.stealResult launch gid thief victim r (if c = 1 then 2 else c) 0 0))
  | _ => .next s

/-- The transfer record of a steal (R220). -/
def transferRecord (seq : W32) (victim : Nat) : W64 := BitVec.ofNat 64 (seq.toNat * 2 ^ 32 + victim * 2 ^ 16 + 1)

/-- `STEAL_REPLY` (R335): the home registers a successful steal and answers the thief; the tile of a thief that is gone
returns at once (R336). -/
def execStealReply (k : Nat) (s : State) : Out :=
  match s.arriving k with
  | some (.stealResult launch gid thief victim r st d seq) =>
    if (s.group? launch gid).any (fun g => s.evictedAt launch g.home) then .next s
    else
      let s := s.deliver k
      match (s.group? launch gid).bind (·.member? thief) with
      | none => .next s
      | some t =>
        if !t.inside then .next (if st = 1 then s.returnTile launch gid victim d else s)
        else if st = 1 then
          let rec_ := transferRecord seq victim
          let s := s.modGroup launch gid (fun g => { g with undone := g.undone ++ [(victim, seq, t.sid)] })
          .next (s.modStrand t.sid (fun c => { c.answer r (.ok [d, rec_]) with stolen := c.stolen ++ [(rec_, d)] }))
        else .next (s.modStrand t.sid (·.answer r (.ok [0, BitVec.ofNat 64 st])))
  | _ => .next s

/-- A stolen tile leaves the phase accounting (R196, R336). -/
def State.tileOver (s : State) (launch gid victim : Nat) (seq : W32) : State :=
  (s.modGroup launch gid (fun g => { g with undone := g.undone.filter (fun u => !(u.1 == victim && u.2.1 == seq)) })).gbarCheck launch gid

/-- `TQDONE_ARRIVAL` (R221): at the home the tile leaves the phase accounting; at the victim's core OUT falls (R334). -/
def execTqdoneArrival (k : Nat) (s : State) : Out :=
  match s.arriving k with
  | some (.tqdone launch gid victim seq true) =>
    if (s.group? launch gid).any (fun g => s.evictedAt launch g.home) then .next s
    else .next ((s.deliver k).tileOver launch gid victim seq)
  | some (.tqdone launch gid victim _ false) =>
    if (s.net[k]?).any (fun p => s.evictedAt launch p.dst) then .next s
    else .next ((s.deliver k).modQueue launch gid victim (fun q => { q with out := q.out - 1 }))
  | _ => .next s

/-- `STRAGRD_REPLY` (R222). -/
def execStragrdReply (k : Nat) (s : State) : Out :=
  match s.arriving k with
  | some (.straggler launch gid idx f i r) =>
    if (s.group? launch gid).any (fun g => s.evictedAt launch g.home) then .next s
    else
      let v := ((s.group? launch gid).bind (fun g => (g.member? idx).map (fun m => stragField g m f))).getD 0
      .next ((s.deliver k).modStrand i (·.answer r (.ok [v])))
  | _ => .next s

end Sys2Proof.Machine
end

