-- ==== Sys2Proof/Machine/Reactive.lean ====
section
/-! DEFINITION. The instructions of a reactive domain: EMIT, SIGTST, BSIG, RETRACT, PAUSE, ZRD, ZWR and SIGPRE (R210-R215).
What the domain's home does stands in `Machine/Instants.lean`. -/

namespace Sys2Proof.Machine

/-- The signal that an operand names, in the executing member's domain: the pool kind, the context, then the declaration's
group (R202, R210, R355). -/
def M.signal (idx : BitVec 16) : M (Group × Member × Nat) := do
  let w ← M.check ((← get).myLaunch.word 6 idx.toNat)
  let (g, m) ← M.domain (·.reactive)
  M.trapIf (wbits w 63 48 != g.gid) (.operand 0 (idx.setWidth 64))
  pure (g, m, wbits w 47 40)

/-- The may-emit set held at a member's core changed (R213). -/
def State.modMine (s : State) (g : Group) (m : Member) (f : BitVec 256 → BitVec 256) : State :=
  s.modGroup g.launch g.gid (fun g => g.modMember m.idx (fun m => { m with mine := f m.mine }))

/-- A signal set without one signal. -/
def without (n : Nat) : BitVec 256 := ~~~BitVec.ofNat 256 (2 ^ n)

/-- `EMIT` (R211). -/
def execEmit (idx : BitVec 16) (a : Reg) (s : State) : Out :=
  M.run (do
    let (g, m, n) ← M.signal idx
    M.trapIf (!m.mine.getLsbD n) (.operand 0 (BitVec.ofNat 64 n))
    M.outgoing
    modify (·.report g (.emit g.launch g.gid m.idx n ((s.x a).setWidth 32)))
    M.synced 12) s

/-- `RETRACT` (R213). -/
def execRetract (idx : BitVec 16) (s : State) : Out :=
  M.run (do
    let (g, m, n) ← M.signal idx
    if m.mine.getLsbD n then do
      M.outgoing
      modify (fun s => (s.modMine g m (· &&& without n)).report g (.retract g.launch g.gid m.idx n))
    M.synced 12) s

/-- The status of a signal once it has resolved at the member's core: PRESENT or not. A test that finds it UNKNOWN reports
that it blocks, once, and once more after a restore (R212, R315, R322). -/
def M.status (idx : BitVec 16) : M Bool := do
  let (g, m, n) ← M.signal idx
  match m.sees.find? (fun x => x.1 == n) with
  | some x => pure x.2
  | none => do
    if (← get).me.unreported then do
      M.outgoing
      modify (fun s => ((s.report g (.blockSig g.launch g.gid m.idx n)).noteWait (.signal idx.toNat)).leftCore)
    throw (.block (.signal idx.toNat))

/-- `SIGTST` (R212). -/
def execSigtst (d : Reg) (idx : BitVec 16) (s : State) : Out :=
  M.run (do
    let p ← M.status idx
    modify (·.setX d (if p then 1 else 2))
    M.synced 12) s

/-- `BSIG` (R212). -/
def execBsig (abs : Bool) (idx disp : BitVec 16) (s : State) : Out :=
  M.run (do
    let p ← M.status idx
    if p != abs then do
      M.target (dispTo s disp)
      modify (·.bumpAll)
      M.doneTo (dispTo s disp)
    else M.synced 12) s

/-- `PAUSE` (R214): its answer is the resumption. -/
def execPause (s : State) : Out :=
  M.run (do
    let (g, m) ← M.domain (·.reactive)
    if (← get).asking then do let _ ← M.final .instant
    else do
      M.outgoing
      modify (·.modMine g m (fun _ => 0))
      let _ ← M.post true .instant (fun _ s => s.report g (.pause g.launch g.gid m.idx))
    M.synced 12) s

/-- `ZRD` (R215): the committed half. -/
def execZrd (d : Reg) (a : Reg3) (s : State) : Out :=
  .next ((s.setX d (s.me.zc.get a.toFin)).retire 12)

/-- A delay register written: the pending half and its mark in a domain, both halves outside (R215, R321). -/
def Strand.setZ (c : Strand) (d : Reg3) (v : W64) (inDomain : Bool) : Strand :=
  if inDomain then { c with zp := c.zp.set d.toNat v d.isLt, zw := c.zw.set d.toNat true d.isLt }
  else { c with zp := c.zp.set d.toNat v d.isLt, zc := c.zc.set d.toNat v d.isLt }

/-- The executing strand is a member of a reactive domain. -/
def State.inDomain (s : State) : Bool := (s.flaggedOf s.me.id).any (·.1.reactive)

/-- `ZWR` (R215). -/
def execZwr (d : Reg3) (a : Reg) (s : State) : Out :=
  .next ((s.modMe (·.setZ d (s.x a) s.inDomain)).retire 12)

/-- What SIGPRE reads of a signal (R215). -/
def Signal.prev (x : Signal) : W64 := BitVec.ofNat 64 (x.prevVal.toNat + (if x.prevPresent then 2 ^ 32 else 0))

/-- `SIGPRE` (R215). (DEDUCED, log entry 47) -/
def execSigpre (d : Reg) (idx : BitVec 16) (s : State) : Out :=
  M.run (do
    let (g, _, n) ← M.signal idx
    modify (·.setX d ((g.signal? n).elim 0 Signal.prev))
    M.retire 12) s

/-- The marked pending halves committed (R320 step 2, R321). -/
def Strand.commitZ (c : Strand) : Strand :=
  { c with zc := Vector.ofFn (fun i => if c.zw.get i then c.zp.get i else c.zc.get i), zw := Vector.replicate 8 false }

end Sys2Proof.Machine
end

