-- ==== Sys2Proof/Machine/Strands.lean ====
section
/-! DEFINITION. The end of a strand's membership and of the strand: LEAVE and EXIT (R192, R195); graph dependencies: WAITDEP
and TRIGGER (R198); MIGRATE and its arrival (R199, R200); and the killing of a strand or of a handler's activation (R357,
R358). -/

namespace Sys2Proof.Machine

/-! ## LEAVE (R195) -/

/-- The stolen tile that TILEHELD names: the lowest victim, and of those the lowest steal number (R336). -/
def lowestTile (ts : List (W64 × W64)) : Option W64 :=
  let before (a b : W64) : Bool := decide (recVictim a < recVictim b) ||
    (recVictim a == recVictim b && decide ((recSeq a).toNat ≤ (recSeq b).toNat))
  (ts.find? (fun a => ts.all (fun b => before a.1 b.1))).map (·.1)

/-- TILEHELD where the strand holds a stolen tile (R192 step 2). -/
def M.noTiles : M Unit := do
  match lowestTile (← get).me.stolen with
  | some r => M.trap (.of Cause.tileheld 0 r)
  | none => pure ()

/-- A group without members is gone (R195). -/
def State.dissolve (s : State) (launch gid : Nat) : State :=
  { s with groups := s.groups.filter (fun g => !(g.launch == launch && g.gid == gid && g.current.isEmpty && g.joining.isEmpty)) }

/-- A member takes no part in its group any more: it counts as arrived at a GBAR in progress, and its tile queue is
discarded (R195, R192, R357). -/
def State.outOfGroup (s : State) (i : Sid) (g : Group) (m : Member) : State :=
  let s := s.modGroup g.launch g.gid (fun g => g.modMember m.idx (fun m =>
    { m with inside := false, arrived := none, opening := none, queue := none, mine := 0 }))
  let s := s.modStrand i (fun c =>
    { c with groups := c.groups.filter (fun x => x.1 != g.gid), grp := if g.gang || g.reactive || g.strag then 0xFFFF else c.grp })
  (((s.closeCheck g.launch g.gid).openCheck g.launch g.gid).gbarCheck g.launch g.gid).dissolve g.launch g.gid

/-- The effects of LEAVE on the executing member, after its TILEHELD check: the holds, then the end of its membership. -/
def M.leaveGroup (gid : Nat) : M Unit := do
  let s ← get
  match (s.group? s.me.id.launch gid).bind (fun g => (g.memberOf s.me.id).map (fun m => (g, m))) with
  | none => pure ()
  | some (g, m) => do
    M.detach g m
    let s ← get
    let peers := ((s.group? g.launch gid).map (fun g =>
      g.winOpen && g.current.any (fun p => p.idx != m.idx && decide (p.win = .attached)))).getD false
    M.blockIf peers .hold
    M.blockIf (m.queue.any (fun q => q.out != 0)) .hold
    if g.reactive then do
      if s.asking then do let _ ← M.final .instant
      else do
        M.outgoing
        modify (·.modMine g m (fun _ => 0))
        let _ ← M.post true .instant (fun _ s => s.report g (.leave g.launch g.gid m.idx))
    else M.outgoing
    modify (fun s => s.outOfGroup s.me.id g m)

/-- `LEAVE` (R195). -/
def execLeave (idx : BitVec 16) (s : State) : Out :=
  M.run (do
    let r ← M.check (s.myLaunch.group idx.toNat)
    let inside := (s.group? s.me.id.launch r.gid).any (fun g => g.formed && (g.memberOf s.me.id).isSome)
    M.trapIf (!inside) (.group r)
    M.noTiles
    M.leaveGroup r.gid
    M.done 12) s

/-! ## EXIT (R192) -/

/-- The lowest bank that the executing strand holds (R176). -/
def State.lowestBank (s : State) : Option Nat := (List.range 128).find? (fun b => s.myCore.holds b s.me.id)

/-- The lowest-numbered port with an outstanding offer. -/
def lowestPort (ps : AMap Nat PortState) : Option Nat :=
  if ps.isEmpty then none else some (leastOf (ps.map (·.1)))

/-- The executing strand's work is not complete (R192 step 5). -/
def State.working (s : State) : Bool :=
  !(s.matrixBy s.me.id).isEmpty || !(s.copiesBy s.me.id).isEmpty || s.me.unack != 0 || !(s.sentBy s.me.id).isEmpty

/-- The groups of the executing strand are left one after another. -/
def M.leaveAll : List (Nat × Nat) → M Unit
  | [] => pure ()
  | (gid, _) :: r => do
    M.leaveGroup gid
    M.leaveAll r

/-- A thread that has ended (R192 step 7, R193). -/
def Launch.finish (l : Launch) (t : Nat) : Launch :=
  { l with ended := if l.ended.contains t then l.ended else l.ended ++ [t],
           triggered := if l.triggered.contains t then l.triggered else l.triggered ++ [t] }

/-- A context's effect leaves the egress hold unreleased (R369, R357). -/
def State.unheld (s : State) (i : Sid) : State :=
  { s with locks := s.locks.map (fun (l : Nat × LockStep) => (l.1, { l.2 with held := l.2.held.filter (fun h => !decide (h = i)) })) }

/-- The executing strand ends: its slot is free, its queue registers are empty. -/
def State.endMe (s : State) : State :=
  let i := s.me.id
  let s := s.modLaunch i.launch (·.finish i.tid)
  let s := s.unheld i
  { s with queues := AMap.drop s.queues (i.launch, i.seat), me := .nobody,
           rest := s.rest.filter (fun c => !(decide (c.id.launch = i.launch) && decide (c.id.seat = i.seat))) }

/-- `EXIT` (R192). -/
def execExit (s : State) : Out :=
  M.run (do
    M.notHandler
    match s.lowestBank with
    | some b => M.trap (.of Cause.accheld 0 (BitVec.ofNat 64 b))
    | none => pure ()
    M.noTiles
    match lowestPort s.me.ports with
    | some p => M.trap (.of Cause.portbad 0 (BitVec.ofNat 64 p))
    | none => pure ()
    M.blockIf (!s.helpersIdle) .helpers
    M.blockIf s.working .work
    M.leaveAll s.me.groups
    M.synced 4
    modify (·.endMe)) s

/-! ## Graph dependencies (R198) -/

/-- The producers of a graph node: four 12-bit numbers, 0xFFF for none (R274, R278). -/
def producersOf (w : W64) : List Nat := ((List.range 4).map (fun j => wbits w (12 * j + 11) (12 * j))).filter (· != 0xFFF)

/-- The AFTER field of a node: in word 6 of a launch record, in word 0 of another node's record. -/
def State.after (s : State) (n : GNode) : List Nat :=
  match n.launch with
  | some u => producersOf (nth (s.launch u).words.toList 6 0)
  | none => producersOf (nth n.words 0 0)

/-- A launch has triggered: each of its strands has executed TRIGGER or ended, or it is complete (R198). -/
def Launch.hasTriggered (l : Launch) : Bool := decide (l.state = .done) || decide (l.threads ≤ l.triggered.length)

/-- A producer node has triggered; a skipped node counts (R279). -/
def State.nodeTriggered (s : State) (g : Graph) (n : Nat) : Bool :=
  match g.nodes.find? (fun x => x.num == n) with
  | some x => decide (x.st = .skipped) || (match x.launch with | some u => (s.launch u).hasTriggered | none => true)
  | none => true

/-- Every producer launch of the executing strand's node has triggered. -/
def State.depsMet (s : State) : Bool :=
  match s.myLaunch.graph.bind (fun k => AMap.get s.graphs k) with
  | some g =>
    match g.nodes.find? (fun x => x.launch == some s.me.id.launch) with
    | some n => (s.after n).all (s.nodeTriggered g)
    | none => true
  | none => true

/-- `WAITDEP` (R198). -/
def execWaitdep (s : State) : Out :=
  M.run (do
    M.notHandler
    M.blockIf (!s.depsMet) .producers
    M.synced 4) s

/-- `TRIGGER` (R198). -/
def execTrigger (s : State) : Out :=
  M.run (do
    M.notHandler
    M.blockIf (s.me.unack != 0) .unacked
    M.outgoing
    modify (fun s => (s.modMe (fun c => { c with triggered := true })).modLaunch s.me.id.launch (fun l =>
      { l with triggered := if l.triggered.contains s.me.id.tid then l.triggered else l.triggered ++ [s.me.id.tid] }))
    M.synced 4) s

/-! ## MIGRATE (R199, R200) -/

/-- The executing strand may not move: it is a member of a GANG or REACTIVE group, or owns a tile queue. -/
def State.pinned (s : State) : Bool :=
  (s.flaggedOf s.me.id).any (fun x => x.1.gang || x.1.reactive || x.2.queue.isSome)

/-- Accepted matrix work of the executing strand that completes before it moves (R175). -/
def State.matrixBegun (s : State) : Bool :=
  (s.matrixBy s.me.id).any (fun o => o.started && (match o.kind with
    | .mmulMem _ _ _ => false
    | .mmulQueue _ _ _ => false
    | .mmuls _ _ _ => false
    | _ => true))

/-- The offers of the executing strand that are still out. -/
def State.offersOut (s : State) : Bool := s.me.ports.any (fun p => match p.2 with | .offered _ _ => true | .decided _ _ _ => false)

/-- The banks that a context holds, or has given up with work on them still to come (R162). -/
def Core.banksOf (c : Core) (i : Sid) : List Nat :=
  (List.range 128).filter (fun b => decide (c.bankState b = .held i) || decide (c.bankState b = .leaving i))

/-- What a moving strand takes with it; the active half of a shadowed buffer travels as the first. -/
def State.cargoOf (s : State) (i : Sid) (p : Place) : Cargo :=
  let c := s.core p.gcore
  let own := c.banksOf i
  { sid := i, from_ := p,
    slice := (List.range 0x4000).filterMap (fun o =>
      let b := Memory.get s.mem (s.normalKey (spKey p.gcore (0x5_0000 + p.slot * 0x4000 + o)))
      if b = 0 then none else some (o, b)),
    cells := c.cells.filter (fun x => own.contains (x.1 / 512)),
    poison := c.cellPoison.filter (fun x => own.contains (x / 512)),
    work := (c.mq0 ++ c.mq1).filterMap (fun o => if o.owner = i then some { o with started := false, pins := [] } else none) }

/-- A context leaves a core: its banks there are cleared and freed, its matrix work is gone from the queues. -/
def Core.without (c : Core) (i : Sid) : Core :=
  { c with banks := Vector.ofFn (fun b => if c.banks.get b = .held i ∨ c.banks.get b = .leaving i then .clearing else c.banks.get b),
           mq0 := c.mq0.filter (fun o => !decide (o.owner = i)), mq1 := c.mq1.filter (fun o => !decide (o.owner = i)) }

/-- The executing strand leaves for a virtual core: its context is sent, and a forwarding entry stays (R199, R200). -/
def State.depart (s : State) (vc target : Nat) : State :=
  let i := s.me.id
  let g := s.me.place.gcore
  let cargo := s.cargoOf i s.me.place
  let place : Place := { pkg := target / 2048, core := target % 2048, slot := s.me.place.slot, vc }
  let s := s.modCore g (fun c => { c.without i with fwd := c.fwd.filter (fun f => !decide (f.1 = i)) ++ [(i, s.next)] })
  let move (c : Strand) : Strand := { c with place, res := .moving }
  let s := { s with me := move s.me, rest := s.rest.map (fun (c : Strand) =>
    if c.id.launch = i.launch ∧ c.id.seat = i.seat then move c else c) }
  s.send .ctl g target (.migrate cargo)

/-- The waits before a strand moves, and its offers' withdrawal (R199, R209, R175). -/
def M.readyToMove : M Unit := do
  let s ← get
  M.blockIf (!s.helpersIdle) .helpers
  M.blockIf (s.me.unack != 0) .unacked
  if s.offersOut then do
    M.outgoing
    modify (fun s => s.withdrawAll.leftCore)
    throw (.block (.port 0))
  M.blockIf s.matrixBegun .work

/-- `MIGRATE` (R199). (DEDUCED, log entry 42) -/
def execMigrate (a : Reg) (s : State) : Out :=
  let vc := (s.x a).toNat
  M.run (do
    M.notHandler
    match s.myLaunch.coreOf vc with
    | none => M.trap (.operand a (s.x a))
    | some target => do
      M.trapIf s.pinned (.operand a (s.x a))
      if vc = s.me.place.vc then M.synced 4
      else do
        M.readyToMove
        M.outgoing
        modify (fun s => (s.bumpAll.retire 4).depart vc target)
        M.passed s.me.place.gcore) s

/-- `MIGRATE_ARRIVAL` (R199): the context waits at its new core for its banks and a slot. (DEDUCED, log entry 42) -/
def execMigrateArrival (k : Nat) (s : State) : Out :=
  match s.arriving k, s.net[k]? with
  | some (.migrate c), some p =>
    if s.evictedAt c.sid.launch p.dst then .next s
    else .next ((s.deliver k).modCore p.dst (fun x => { x with arrivals := x.arrivals ++ [c] }))
  | _, _ => .next s

/-! ## Killing (R357, R358) -/

/-- A departure from an open window, told to every member's core: the slice is kept until they know (R329); one that comes before
the window has opened makes that opening fail (R216, R331). -/
def State.departs (s : State) (g : Group) (m : Member) : State :=
  if g.winOpen then
    let s := s.modGroup g.launch g.gid (fun g => { g.modMember m.idx (fun m =>
      { m with wasAtt := decide (m.win = .attached), win := .departed }) with departed := true })
    let x : Export :=
      { launch := g.launch, gid := g.gid, idx := m.idx, window := g.windows, key := spKey (s.coreOf m.sid m.core) m.base, len := m.len,
        clear := false }
    let s := { s with exports := s.exports ++ [x] }
    let cores := ((g.current.filter (fun p => p.idx != m.idx)).map (fun p => s.coreOf p.sid p.core)).eraseDups
    cores.foldl (fun s c => s.send .ctl g.home c (.depart g.launch g.gid m.idx g.windows)) s
  else if g.gang && g.members.any (fun p => p.opening.isSome) then
    s.modGroup g.launch g.gid (fun g => { g with departed := true })
  else s

/-- The undone tiles of a thief, in rising steal number. -/
def bySeq (ts : List (W64 × W64)) : List (W64 × W64) :=
  ts.foldr (fun t r => (r.takeWhile (fun x => decide ((recSeq x.1).toNat < (recSeq t.1).toNat))) ++ [t] ++
    r.dropWhile (fun x => decide ((recSeq x.1).toNat < (recSeq t.1).toNat))) []

/-- The undone tiles of a killed thief return to their victims (R336). -/
def State.returnAll (s : State) (g : Group) (ts : List (W64 × W64)) : State :=
  (bySeq ts).foldl (fun s t =>
    (s.returnTile g.launch g.gid (recVictim t.1) t.2).tileOver g.launch g.gid (recVictim t.1) (recSeq t.1)) s

/-- A killed strand leaves a group: LEFT, departed, its tiles returned (R357). A reactive home learns it in the order of
the member's reports. -/
def State.killedIn (s : State) (c : Strand) (gid : Nat) : State :=
  match (s.group? c.id.launch gid).bind (fun g => (g.memberOf c.id).map (fun m => (g, m))) with
  | none => s
  | some (g, m) =>
    let s := s.departs g m
    let s := if g.strag then s.returnAll g c.stolen else s
    let s := if g.reactive then s.sendAfter .ctl c.place.gcore g.home c.id (.leave g.launch g.gid m.idx) else s
    s.outOfGroup c.id g m

/-- The first fault of a launch is kept for its report (R357), with the mark that some strand of it was lost (R363). -/
def Launch.fault (l : Launch) (f : FaultRec) : Launch :=
  { l with firstFault := some (match l.firstFault with
      | some o => { o with mchk := o.mchk || f.mchk }
      | .none => f) }

/-- A context's engine or matrix work still runs (R357). (DEDUCED, log entry 48) -/
def State.inWork (s : State) (i : Sid) : Bool := !(s.matrixBy i).isEmpty || !(s.copiesBy i).isEmpty

/-- A context's work still runs, or a message of it has not departed (R357). -/
def State.busy (s : State) (i : Sid) : Bool := s.inWork i || !(s.sentBy i).isEmpty

/-- A context withdrawn from the machine; one whose work still runs stays, ended, until the work is complete. -/
def State.remove (s : State) (i : Sid) : State :=
  let ended (c : Strand) : Strand :=
    { c with res := .ended, live := false, wait := none, pend := [], helperTraps := [], causeDue := none, ports := [], stolen := [],
             groups := [], allocs := [] }
  if s.busy i then
    let rest := s.rest.map (fun c => if c.id = i then ended c else c)
    if s.me.id = i then { s with me := .nobody, rest := rest ++ [ended s.me] } else { s with rest }
  else { s with me := if s.me.id = i then .nobody else s.me, rest := s.rest.filter (fun c => !decide (c.id = i)) }

/-- The banks of a killed context are given up: they are freed when its accepted work on them is done (R357, R358, R162). -/
def State.giveUpBanks (s : State) (c : Strand) : State :=
  let g := c.place.gcore
  if (s.matrixBy c.id).isEmpty then s.modCore g (·.without c.id)
  else
    let t := (s.core g).mq1.any (fun o => decide (o.owner = c.id))
    s.asStrand c.id (fun s => c.allocs.foldl (fun s l =>
      ({ s with next := s.next + 1 }).modCore g (fun k =>
        (k.setMq t (k.mq t ++ [{ s.matOp l.base l.n .rel with ref := s.next }])).setBanks l.base l.n (.leaving c.id))) s)

/-- A placed strand is killed (R357). -/
def State.killStrand (s : State) (i : Sid) (f : FaultRec) : State :=
  match s.strand? i with
  | none => s
  | some c =>
    let s := s.asStrand i State.withdrawAll
    let s := c.groups.foldl (fun s g => s.killedIn c g.1) s
    let s := { s with groups := s.groups.map (fun (g : Group) => { g with joining := g.joining.filter (fun j => !decide (j = i)) }) }
    let s := (s.giveUpBanks c).modCore c.place.gcore (fun (k : Core) =>
      { k with chHolds := k.chHolds.filter (fun h => !decide (h.1.seat = i.seat)),
               arrivals := k.arrivals.filter (fun a => !decide (a.sid = i)) })
    let s := s.unheld i
    let s := s.modLaunch i.launch (fun l => (l.finish i.tid).fault f)
    let s := { s with queues := AMap.drop s.queues (i.launch, i.seat), asked := s.asked.filter (fun a => !decide (a.sid.comp = i)) }
    ((s.remove { i with unit := .loader }).remove { i with unit := .storer }).remove i

/-- The context of a handler slot at launch start: zero (R27, R293); its fetch has seen the first `seen` stores to code (R102). -/
def Launch.handlerAt (l : Launch) (i : Sid) (p : Place) (seen : Nat) : Strand :=
  { Strand.fresh i p with x := Vector.replicate 32 0, sqcap := BitVec.ofNat 64 l.sqcap, racecfg := l.racecfg, synced := seen }

/-- A handler's activation is ended (R358). Its accepted work runs on under a name of its own, and its messages still follow its
earlier AMOPs (R186). -/
def State.killHandler (s : State) (i : Sid) (f : FaultRec) : State :=
  match s.strand? i with
  | none => s
  | some c =>
    let ghost : Sid := { launch := i.launch, seat := .placed (2 ^ 24 + s.next), unit := .compute }
    let s := { s with next := s.next + 1 }
    let s := (s.freeMessage c).giveUpBanks c
    let mine (q : List MatOp) : List MatOp := q.map (fun o => if o.owner = i then { o with owner := ghost } else o)
    let s := s.modCore c.place.gcore (fun (k : Core) =>
      { k with banks := Vector.ofFn (fun b => if k.banks.get b = .leaving i then .leaving ghost else k.banks.get b),
               htab := Vector.ofFn (fun h => if c.act = some h.val then { k.htab.get h with enable := false } else k.htab.get h),
               mq0 := mine k.mq0, mq1 := mine k.mq1,
               chHolds := k.chHolds.filter (fun h => !decide (h.1 = i)) })
    let s := s.unheld i
    let s := { s with ops := s.ops.map (fun (o : Nat × EngOp) => if o.2.owner = i then (o.1, { o.2 with owner := ghost }) else o),
                      queues := AMap.put s.queues (i.launch, i.seat) .empty,
                      asked := s.asked.filter (fun a => !decide (a.sid = i)) }
    let s := s.modLaunch i.launch (·.fault f)
    let s := if s.busy ghost || !c.amops.isEmpty then { s with rest := s.rest ++ [c.ghost ghost] } else s
    s.modStrand i (fun x => { (s.launch i.launch).handlerAt i c.place x.synced with res := x.res })

/-- The default action (R357, R358). -/
def State.kill (s : State) (i : Sid) (f : FaultRec) : State := if i.isHandler then s.killHandler i f else s.killStrand i.comp f

end Sys2Proof.Machine
end

