-- ==== Sys2Proof/Machine/Faults.lean ====
section
/-! DEFINITION. What fetch and decoding raise (R47, R58, R77, R78), the loss of a strand whose trap entry fails (R95), and
the delivery of helper traps (R97). -/

namespace Sys2Proof.Machine

/-- EINFO of an MCHK that reports lost work (R354). -/
def lossInfo (tid reason unit : Nat) : W64 := BitVec.ofNat 64 (tid * 2 ^ 24 + reason * 16 + unit)

/-- A context is lost: killed, with the c1 event for its launch (R95, R357, R358, R360). (DEDUCED, log entry 47) (DEDUCED, log entry 48) -/
def State.lose (s : State) (i : Sid) (reason unit : Nat) : State :=
  match s.strand? i with
  | none => s
  | some c =>
    let info := lossInfo i.tid reason unit
    let f : FaultRec := { tid := i.tid, ecause := ecauseOf Cause.mchk c.level 0, epc := c.pc, eaddr := 0, einfo := info, mchk := true }
    (s.kill i f).systemEvent i.launch 0 Cause.mchk info

/-- A first fetch at TVEC that fails loses the strand: REASON 4, UNIT 9 (R95). -/
def State.entryFails (s : State) : Bool := s.me.entering && decide (s.me.id.unit = .compute)

/-- `ILLOP` (R77, R78, R58). -/
def execIllop (pos : Nat) (w0 : W32) (unmarked : Bool) (s : State) : Out :=
  if unmarked && s.entryFails then .next (s.lose s.me.id 4 9)
  else .next (s.takeTrap (.decode s.me.pc pos w0))

/-- `FETCH_FAILURE` (R47, R56). -/
def execFetchFailure (code : Nat) (eaddr einfo : W64) (s : State) : Out :=
  if s.entryFails && (code == Cause.page || code == Cause.perm) then .next (s.lose s.me.id 4 9)
  else .next (s.takeTrap (.of code eaddr einfo))

/-! ## Traps that wait for a boundary (R97, R209, R252, R318, R337) -/

/-- The executing context has a helper's trap to take at this boundary (R97, R356). (DEDUCED, log entry 24) -/
def State.helperDue (s : State) : Bool :=
  decide (s.me.id.unit = .compute) && !s.me.helperTraps.isEmpty && !s.me.hheld

/-- The remote access that the executing context waits for: its instruction's, or its fetch's. -/
def Strand.asksFor (c : Strand) : Option Pend := c.pend.find? (fun p => p.waiting && decide (p.on = .reply))

/-- A remote access is cancelled, once (R252): the cancel follows its request to where that goes. -/
def State.cancelPend (s : State) : State :=
  match s.me.asksFor with
  | none => s
  | some p =>
    if p.cancel then s
    else match s.asked.find? (fun a => a.ref == p.ref) with
      | some a =>
        (s.modMe (fun c => { c with pend := c.pend.map (fun q => if q.ref = p.ref ∧ q.waiting then { q with cancel := true } else q) })).sendFromMe
          .req a.node (.cancel p.ref)
      | none => s

/-- A CAUSE waits for the decision of the withdrawn offer of its port (R318). -/
def Strand.causeHeld (c : Strand) : Bool :=
  c.causeDue.any (fun x => (AMap.get c.ports x.1.toNat).any (fun p => match p with | .offered _ _ => true | .decided _ _ _ => false))

/-- The wait of the blocked instruction as it stands when a trap is to be taken: what must be decided first, with the step
that asks for it; or nothing, and the trap may be taken. (DEDUCED, log entry 45) -/
def State.settle (s : State) : Option State :=
  match s.ownOffer with
  | some idx => some (s.withdrawPort idx)
  | none =>
    if s.me.causeHeld then some s
    else if s.me.asksFor.isSome then some s.cancelPend
    else match s.me.pendOf with
      | none => none
      | some p =>
        if !p.waiting then none
        else match p.on with
          | .request => some s
          | .publish => some s
          | _ => none

/-- The instruction at the pc is blocked on a signal or a port. -/
def Strand.blockedThere (c : Strand) : Bool :=
  c.pendOf.any (fun p => match p.on with
    | .signal _ => true
    | .port _ => true
    | _ => false)

/-- A member whose blocked test or port gives way to trap code counts as RUNNING: it reports so, behind the report that it was blocked,
whatever its home has made of that by now (R315, R312). -/
def State.unblocked (s : State) : State :=
  match s.flaggedOf s.me.id with
  | some (g, m) => if s.me.blockedThere && g.reactive then s.report g (.unblock g.launch g.gid m.idx) else s
  | none => s

/-- The executing context takes what is due at this boundary: CAUSE, or a helper's trap (R356). (DEDUCED, log entry 24) -/
def State.takeDue (s : State) : State :=
  match s.me.causeDue with
  | some (a, e) => (s.unblocked.modMe (fun c => { c with causeDue := none })).takeTrap (.of Cause.cause a e)
  | none => ((s.unblocked).unhold s.me.id).modMe Strand.takeHelperTrap

/-- A trap is due, and the blocked instruction has not completed instead (R209, R252); or the entry of an activation is to be
checked (R188). -/
def State.due (s : State) : Bool :=
  s.me.entryDue || ((s.me.causeDue.isSome || s.helperDue) &&
    !(match s.me.pendOf with
      | some p => !p.waiting && !p.sent && !p.got.isEmpty
      | none => false))

/-- The boundary of a context with something due: the check of its entry, the trap, or the step that settles its blocked
instruction. -/
def State.boundary (s : State) : State :=
  if s.me.entryDue then s.checkEntry
  else match s.settle with
    | some t => t
    | none => s.takeDue

/-- The context with an index: 0 is the one whose turn it is. -/
def State.contextAt (s : State) (k : Nat) : Option Sid := (s.contexts[k]?).map (·.id)

/-- `HELPER_TRAP_DELIVERY` (R97): the compute strand with an index takes its helper's trap at its boundary. -/
def execHelperTrapDelivery (k : Nat) (s : State) : Out :=
  match s.contextAt k with
  | some i => .next (s.asStrand i (fun t => if t.helperDue && t.due && decide (t.me.res = .resident) then t.boundary else t))
  | none => .next s

/-- `SLOTW_TABLE_BOUNDARY` (R26): the table written takes effect. -/
def execSlotwTableBoundary (key : Nat) (s : State) : Out :=
  match (s.core key).slotwNew with
  | some w => .next (s.modCore key (fun c => { c with slotw := w, slotwNew := none }))
  | none => .next s

/-- The condition that a blocked context waits for is judged anew: its instruction runs again at its turn (R5). -/
def Strand.unwait (c : Strand) : Strand := { c with wait := none }

/-- `BLOCK_CONDITION_MET` (R5): the context with an index has the turn, and its blocked instruction runs again. -/
def execBlockConditionMet (k : Nat) (s : State) : Out :=
  match s.contextAt k with
  | some i => .next ((s.focus i).modMe Strand.unwait)
  | none => .next s

end Sys2Proof.Machine
end

