-- ==== Sys2Proof/Machine/Pillow.lean ====
section
/-! DEFINITION. Connectors at their home pillow: rows, predicates, eligibility, firing, and the events of offers,
withdrawals, evaluations and results (R294-R311). -/

namespace Sys2Proof.Machine

/-! ## The pricking (R299, R300) -/

namespace Connector

/-- The fields of header word 0. -/
def npred (c : Connector) : Nat := wbits (nth c.words 0 0) 21 17
def nrow (c : Connector) : Nat := wbits (nth c.words 0 0) 16 4
def nport (c : Connector) : Nat := wbits (nth c.words 0 0) 33 27

/-- The capacity of a buffer. -/
def cap (c : Connector) (i : Nat) : Nat := wbits (nth c.words 1 0) (4 * i + 3) (4 * i) + 1

/-- Word `k` of row `j`. -/
def rowWord (c : Connector) (j k : Nat) : W64 := nth c.words (2 + 3 * c.npred + 5 * j + k) 0

/-- The ports that complete in a row. -/
def fire (c : Connector) (j : Nat) : W64 := c.rowWord j 0

/-- The choice class of a row. -/
def classOf (c : Connector) (j : Nat) : Nat := wbits (c.rowWord j 3) 31 24

/-- The operation of a row on a buffer: 0 none, 1 put, 2 take, 3 take then put. -/
def bop (c : Connector) (j i : Nat) : Nat := wbits (c.rowWord j 3) (33 + 2 * i) (32 + 2 * i)

/-- A slot that holds an offer (R304). -/
def offerAt (c : Connector) (l : Nat) : Option Offer := c.offers.find? (fun o => o.lidx == l)

/-- A buffer's entries, oldest first. -/
def buffer (c : Connector) (i : Nat) : List V128 := nth c.buffers i []

end Connector

/-- The port numbers of a mask. -/
def maskPorts (m : W64) : List Nat := (List.range 64).filter (fun i => m.getLsbD i)

/-- A predicate on data (R296). -/
def predHolds (ty code : Nat) (p1 p2 : W64) (d : V128) : Bool :=
  let n := 8 * 2 ^ ty
  let u := d.toNat % 2 ^ n
  let x := asInt true n u
  match code with
  | 0 => u % 2 == 0
  | 1 => u % 2 == 1
  | 2 => u == 0
  | 3 => u != 0
  | 4 => decide (0 < x)
  | 5 => decide (x < 0)
  | 6 => decide (p1.toInt ≤ x) && decide (x ≤ p2.toInt)
  | _ => u &&& (p1.toNat % 2 ^ n) == p2.toNat % 2 ^ n

/-- The predicate of a row's field holds on the data of its source, inverted by the negate bit (R296, R305). -/
def Connector.predOk (c : Connector) (f : Nat) : Bool :=
  if bits f 7 7 = 0 then true
  else
    let e := bits f 3 0
    let w (k : Nat) : W64 := nth c.words (2 + 3 * e + k) 0
    let src := if wbits (w 0) 16 16 = 1 then (c.buffer (wbits (w 0) 13 10)).head? else (c.offerAt (wbits (w 0) 15 10)).map (·.data)
    match src with
    | some d => decide (e < c.npred) && (predHolds (wbits (w 0) 9 8) (wbits (w 0) 2 0) (w 1) (w 2) d != (bits f 6 6 == 1))
    | none => false

/-- A row is enabled (R305); `absent` says which ports are absent (R309). -/
def Connector.enabled (c : Connector) (absent : Nat → Bool) (j : Nat) : Bool :=
  (maskPorts (c.fire j)).all (fun l => (c.offerAt l).isSome) && (maskPorts (c.rowWord j 2)).all absent &&
    (List.range c.buffers.length).all (fun i =>
      let n := (c.buffer i).length
      match c.bop j i with
      | 1 => decide (n < c.cap i)
      | 2 => decide (1 ≤ n)
      | 3 => decide (1 ≤ n)
      | _ => true) &&
    c.predOk (wbits (c.rowWord j 3) 23 16) && c.predOk (wbits (c.rowWord j 3) 15 8)

/-- The rows of a class, in order. -/
def Connector.rowsOf (c : Connector) (cl : Nat) : List Nat := (List.range c.nrow).filter (fun j => c.classOf j == cl)

/-- The eligible rows of a class (R305). -/
def Connector.eligible (c : Connector) (absent : Nat → Bool) (cl : Nat) : List Nat :=
  let en := (c.rowsOf cl).filter (c.enabled absent)
  en.filter (fun j => !en.any (fun k => decide (c.fire k ≠ c.fire j) && decide (c.fire k &&& c.fire j = c.fire j)))

/-- The row that a class fires: the first eligible one at or after the class's pointer, cyclically; with the pointer after
it (R306). -/
def Connector.pick (c : Connector) (absent : Nat → Bool) (cl : Nat) : Option (Nat × Nat) :=
  let rows := c.rowsOf cl
  let el := c.eligible absent cl
  let p := (AMap.get c.ptrs cl).getD 0
  let order := (List.range rows.length).map (fun i => (p + i) % rows.length)
  (order.find? (fun i => el.contains (nth rows i 0))).map (fun i => (nth rows i 0, (i + 1) % rows.length))

/-! ## Firing (R306) -/

/-- A route of a row: whether its source is a buffer, the source, whether its destination is a buffer, the destination. -/
def Connector.routes (c : Connector) (j : Nat) : List (Bool × Nat × Bool × Nat) :=
  (List.range (wbits (c.rowWord j 3) 2 0)).map (fun r =>
    let f := wbits (c.rowWord j 4) (16 * r + 15) (16 * r)
    (bits f 13 13 == 1, bits f 12 7, bits f 6 6 == 1, bits f 5 0))

/-- The data at the source of a route. -/
def Connector.routeData (c : Connector) (r : Bool × Nat × Bool × Nat) : V128 :=
  if r.1 then (c.buffer r.2.1).head?.getD 0 else ((c.offerAt r.2.1).map (·.data)).getD 0

/-- The buffers after a row: takes, then puts. -/
def Connector.buffersAfter (c : Connector) (j : Nat) : List (List V128) :=
  c.buffers.zipIdx.map (fun (b, i) =>
    let op := c.bop j i
    let b := if op = 2 ∨ op = 3 then b.drop 1 else b
    b ++ ((c.routes j).filter (fun r => r.2.2.1 && r.2.2.2 == i)).map c.routeData)

/-- The port word of a port of a connector (R298). -/
def State.portWord (s : State) (c : Connector) (l : Nat) : PortRec :=
  let ws := ((s.launch c.launch).pool.zip (s.launch c.launch).kinds).filterMap (fun (x : W64 × BitVec 4) =>
    let r := PortRec.ofWord x.1
    if x.2 = 3 && r.hvc == c.hvc && r.conn == c.num && r.lidx == l then some r else none)
  ws.headD { owner := 0, hvc := c.hvc, w := 0, sink := false, conn := c.num, lidx := l }

/-- The status that a fired port reports (R306, R206). -/
def Connector.statusOf (c : Connector) (j l : Nat) (inst : W32) : W64 :=
  BitVec.ofNat 64 (inst.toNat * 2 ^ 32 + (if (c.rowWord j 1).getLsbD l then 1 else if c.rowWord j 2 ≠ 0 then 3 else 0))

/-- A reply to an offer's owner (R303, R304). -/
def State.replyOffer (s : State) (pillow : Nat) (o : Offer) (status : W64) (data : V128) : State :=
  s.send .ctl (2 ^ 38 + pillow) (s.ownerCore o.sid) (.portResult o.sid o.idx status data)

/-- A connector replaced. -/
def State.setConn (s : State) (pillow : Nat) (c : Connector) : State :=
  { s with connectors := s.connectors.map (fun x =>
      if x.2.launch == c.launch && x.2.hvc == c.hvc && x.2.num == c.num then (pillow, c) else x) }

/-- A row fires, as one event (R306). -/
def State.fireRow (s : State) (pillow : Nat) (c : Connector) (cl j next : Nat) (inst : W32) : State :=
  let fired := c.offers.filter (fun o => (c.fire j).getLsbD o.lidx)
  let c' := { c with buffers := c.buffersAfter j, offers := c.offers.filter (fun o => !(c.fire j).getLsbD o.lidx),
                     ptrs := AMap.put c.ptrs cl next }
  fired.foldl (fun s o =>
    let p := s.portWord c o.lidx
    let d := (((c.routes j).find? (fun r => !r.2.2.1 && r.2.2.2 == o.lidx)).map c.routeData).getD 0
    s.replyOffer pillow o (c.statusOf j o.lidx inst) (if p.sink then lowBytes p.w d else 0)) (s.setConn pillow c')

/-- One evaluation: each class in rising number fires at most one row (R306). `cls` are the classes left. -/
def State.evaluate (s : State) (pillow launch hvc num : Nat) (absent : Nat → Bool) (inst : W32) : List Nat → State
  | [] => s
  | cl :: r =>
    match s.conn? launch hvc num with
    | some c =>
      match c.pick absent cl with
      | some (j, next) => (s.fireRow pillow c cl j next inst).evaluate pillow launch hvc num absent inst r
      | none => s.evaluate pillow launch hvc num absent inst r
    | none => s

/-- The classes of a connector, in rising number. -/
def Connector.classes (c : Connector) : List Nat := (List.range 256).filter (fun cl => (List.range c.nrow).any (fun j => c.classOf j == cl))

/-! ## The events -/

/-- A connector's home is evicted: what reaches it waits (R311). -/
def State.homeEvicted (s : State) (launch hvc : Nat) : Bool := (s.launch launch).evicted.contains hvc

/-- `OFFER_ARRIVAL` (R304). -/
def execOfferArrival (k : Nat) (s : State) : Out :=
  match s.arriving k with
  | some (.offer hvc num o) =>
    if s.homeEvicted o.sid.launch hvc then .next s
    else match s.conn? o.sid.launch hvc num with
      | some c =>
        let p := (s.connectors.find? (fun x => x.2 == c)).elim 0 (·.1)
        .next ((s.deliver k).setConn p { c with offers := c.offers ++ [o], active := true })
      | none => .next (s.deliver k)
  | _ => .next s

/-- `WITHDRAWAL_ARRIVAL` (R304): 2 is WITHDRAWN. -/
def execWithdrawalArrival (k : Nat) (s : State) : Out :=
  match s.arriving k with
  | some (.withdraw hvc num l i _) =>
    if s.homeEvicted i.launch hvc then .next s
    else match s.conn? i.launch hvc num with
      | some c =>
        let p := (s.connectors.find? (fun x => x.2 == c)).elim 0 (·.1)
        let s := (s.deliver k).setConn p { c with offers := c.offers.filter (fun o => o.lidx != l), active := true }
        match c.offerAt l with
        | some o => .next (s.replyOffer p o 2 0)
        | none => .next s
      | none => .next (s.deliver k)
  | _ => .next s

/-- The connector with a number that a pillow serves now: its virtual cluster is resident. -/
def State.served (s : State) (pillow num : Nat) : Option Connector :=
  (s.connectors.find? (fun x => x.1 == pillow && x.2.num == num && !s.homeEvicted x.2.launch x.2.hvc)).map (·.2)

/-- An offer for a port is on its way to its home. -/
def State.offering (s : State) (c : Connector) (l : Nat) : Bool :=
  s.flying.any (fun p => match p.body with
    | .offer h n o => h == c.hvc && n == c.num && o.sid.launch == c.launch && o.lidx == l
    | _ => false)

/-- The member that owns a port, at its domain's home. -/
def State.portOwner (s : State) (g : Group) (c : Connector) (l : Nat) : Option Member :=
  g.members.find? (fun m => m.sid.tid == (s.portWord c l).owner)

/-- A port is absent: its owner has paused without offering there, or has left (R309). -/
def State.absentPort (s : State) (g : Group) (c : Connector) (l : Nat) : Bool :=
  (c.offerAt l).isNone && !s.offering c l &&
    (match s.portOwner g c l with
     | some m => decide (m.react = .paused) || decide (m.react = .leaving) || decide (m.react = .left)
     | none => true)

/-- A member blocked on a port of a connector (R315). -/
def State.blockedOn (s : State) (c : Connector) (m : Member) : Bool :=
  match m.react with
  | .blockedPort idx =>
    match (s.launch c.launch).word 3 idx with
    | .ok w => (PortRec.ofWord w).hvc == c.hvc && (PortRec.ofWord w).conn == c.num
    | .error _ => false
  | _ => false

/-- The domain of a clocked connector, once it has formed. -/
def State.clockOf (s : State) (c : Connector) : Option Group :=
  if c.clocked then (s.group? c.launch c.cgrp).filter (·.formed) else none

/-- Every port's owner has offered there or has paused (R309). -/
def State.clockReady (s : State) (g : Group) (c : Connector) : Bool :=
  (List.range c.nport).all (fun l => (c.offerAt l).isSome || s.absentPort g c l)

/-- A connector waits for an evaluation: an active one (R306), or a clocked one whose moment has come (R309). -/
def State.wantsTurn (s : State) (c : Connector) : Bool :=
  if c.clocked then !c.evaluated && (s.clockOf c).any (fun g => s.clockReady g c) else c.active

/-- The connector that a pillow evaluates now, if it is the one with a number: of those that wait, the pillow takes them in turn,
from the number after the last one on (R307). -/
def State.turnAt (s : State) (pillow num : Nat) : Option Connector :=
  let last := (AMap.get s.pillowTurn pillow).getD 63
  let rank (n : Nat) : Nat := (n + 127 - last) % 64
  (s.served pillow num).filter (fun c => s.wantsTurn c && s.connectors.all (fun x =>
    x.1 != pillow || s.homeEvicted x.2.launch x.2.hvc || !s.wantsTurn x.2 || decide (rank num ≤ rank x.2.num)))

/-- A pillow has evaluated a connector. -/
def State.tookTurn (s : State) (pillow num : Nat) : State := { s with pillowTurn := AMap.put s.pillowTurn pillow num }

/-- `CONNECTOR_EVALUATION` (R306): it stays active while an evaluation fires some row. -/
def execConnectorEvaluation (pillow conn : Nat) (s : State) : Out :=
  match s.turnAt pillow conn with
  | some c =>
    if c.clocked then .next s
    else
      let fires := c.classes.any (fun cl => (c.pick (fun _ => false) cl).isSome)
      let s := (s.tookTurn pillow conn).setConn pillow { c with active := fires }
      .next (s.evaluate pillow c.launch c.hvc c.num (fun _ => false) 0 c.classes)
  | none => .next s

/-- `CLOCKED_EVALUATION` (R309): at most one row of class 0, then every offer still held is withdrawn, and the members
blocked on the connector run again (R315). -/
def execClockedEvaluation (pillow conn : Nat) (s : State) : Out :=
  match s.turnAt pillow conn with
  | some c =>
    match s.clockOf c with
    | some g =>
      let absent (l : Nat) : Bool := s.absentPort g c l
        let s := (s.tookTurn pillow conn).setConn pillow { c with evaluated := true, active := false }
        let t := s.evaluate pillow c.launch c.hvc c.num absent g.inst [0]
        let left := ((t.conn? c.launch c.hvc c.num).map (·.offers)).getD []
        let t := left.foldl (fun t o => t.replyOffer pillow o 2 0) t
        let t := match t.conn? c.launch c.hvc c.num with
          | some d => t.setConn pillow { d with offers := [] }
          | none => t
        .next (t.modGroup g.launch g.gid (fun g =>
          { g with members := g.members.map (fun m => if s.blockedOn c m then { m with react := .running } else m) }))
    | none => .next s
  | none => .next s

/-- `PORT_RESULT_ARRIVAL` (R205). -/
def execPortResultArrival (k : Nat) (s : State) : Out :=
  match s.arriving k with
  | some (.portResult i idx st d) => .next ((s.deliver k).modStrand i (·.decided idx st d))
  | _ => .next s

end Sys2Proof.Machine
end

