-- ==== Sys2Proof/Machine/Instants.lean ====
section
/-! DEFINITION. The home of a reactive domain: reports, resolutions, the causality cycle and the end of an instant
(R312-R322). -/

namespace Sys2Proof.Machine

/-- A signal's value with an emitted value combined (R17, R316). -/
def combine (comb : BitVec 2) (old new : W32) : W32 :=
  match comb.toNat with
  | 0 => 0
  | 1 => old + new
  | 2 => old ||| new
  | _ => if old.ult new then new else old

/-- A member's state at the home changed. -/
def State.setReact (s : State) (launch gid idx : Nat) (r : ReactState) : State :=
  s.modGroup launch gid (fun g => g.modMember idx (fun m => { m with react := r }))

/-- The home of a group is evicted: its reports wait (R322). -/
def State.groupEvicted (s : State) (launch gid : Nat) : Bool :=
  (s.group? launch gid).any (fun g => s.evictedAt launch g.home)

/-- `EMIT_REPORT` (R316). -/
def execEmitReport (k : Nat) (s : State) : Out :=
  match s.arriving k with
  | some (.emit launch gid _ n v) =>
    if s.groupEvicted launch gid then .next s
    else
      let s := (s.deliver k).modGroup launch gid (fun g => g.modSignal n (fun x => { x with value := combine x.comb x.value v }))
      if ((s.group? launch gid).bind (·.signal? n)).any (fun x => decide (x.status = .unknown)) then .next (s.resolve launch gid n true)
      else .next s
  | _ => .next s

/-- `RETRACT_REPORT` (R316). -/
def execRetractReport (k : Nat) (s : State) : Out :=
  match s.arriving k with
  | some (.retract launch gid idx n) =>
    if s.groupEvicted launch gid then .next s else .next ((s.deliver k).dropMay launch gid idx (without n))
  | _ => .next s

/-- `PAUSE_REPORT` (R315). -/
def execPauseReport (k : Nat) (s : State) : Out :=
  match s.arriving k with
  | some (.pause launch gid idx) =>
    if s.groupEvicted launch gid then .next s
    else .next (((s.deliver k).setReact launch gid idx .paused).dropMay launch gid idx 0)
  | _ => .next s

/-- `LEAVE_REPORT` (R195, R315, R357): a member that leaves takes no part after this instant; a killed one is LEFT. -/
def execLeaveReport (k : Nat) (s : State) : Out :=
  match s.arriving k with
  | some (.leave launch gid idx) =>
    if s.groupEvicted launch gid then .next s
    else
      let still := ((s.group? launch gid).bind (·.member? idx)).any (·.inside)
      .next (((s.deliver k).setReact launch gid idx (if still then .leaving else .left)).dropMay launch gid idx 0)
  | _ => .next s

/-- The connector of a port operand has evaluated in this instant (R315). -/
def State.portEvaluated (s : State) (launch idx : Nat) : Bool :=
  match (s.launch launch).word 3 idx with
  | .ok w => (s.conn? launch (PortRec.ofWord w).hvc (PortRec.ofWord w).conn).any (·.evaluated)
  | .error _ => false

/-- `BLOCK_REPORT` (R315): of a resolved signal, the resolution is already on its way. -/
def execBlockReport (k : Nat) (s : State) : Out :=
  match s.arriving k with
  | some (.blockSig launch gid idx n) =>
    if s.groupEvicted launch gid then .next s
    else
      let s := s.deliver k
      if ((s.group? launch gid).bind (·.signal? n)).any (fun x => decide (x.status = .unknown)) then
        .next (s.setReact launch gid idx (.blockedSig n))
      else .next s
  | some (.blockPort launch gid idx port) =>
    if s.groupEvicted launch gid then .next s
    else
      let s := s.deliver k
      if s.portEvaluated launch port then .next s else .next (s.setReact launch gid idx (.blockedPort port))
  | _ => .next s

/-- A member's state is one of those that a wait gives it. -/
def ReactState.blocked : ReactState → Bool
  | .blockedSig _ => true
  | .blockedPort _ => true
  | _ => false

/-- `UNBLOCK_REPORT` (R315, R322): trap code counts as RUNNING, and so does a restored member until it blocks anew. -/
def execUnblockReport (k : Nat) (s : State) : Out :=
  match s.arriving k with
  | some (.unblock launch gid idx) =>
    if s.groupEvicted launch gid then .next s
    else .next ((s.deliver k).modGroup launch gid (fun g => g.modMember idx (fun m =>
      { m with react := if m.react.blocked then .running else m.react, renew := false })))
  | _ => .next s

/-- `RESOLUTION_ARRIVAL` (R316). -/
def execResolutionArrival (k : Nat) (s : State) : Out :=
  match s.arriving k with
  | some (.resolution launch gid idx n p) =>
    if s.groupEvicted launch gid then .next s
    else .next ((s.deliver k).modGroup launch gid (fun g => g.modMember idx (fun m => { m with sees := m.sees ++ [(n, p)] })))
  | _ => .next s

/-! ## The causality cycle (R318, R319) -/

/-- The clocked connectors bound to a domain. -/
def State.clocks (s : State) (g : Group) : List Connector :=
  (s.connectors.map (·.2)).filter (fun c => c.launch == g.launch && c.clocked && c.cgrp == g.gid)

/-- A connector of the domain can still evaluate: every port has an offer there or on its way, or is absent. -/
def State.canEvaluate (s : State) (g : Group) (c : Connector) : Bool :=
  !c.evaluated && (List.range c.nport).all (fun l => (c.offerAt l).isSome || s.offering c l || s.absentPort g c l)

/-- The domain's set is evicted or is being evicted, or a member's core is being moved, or the home has not yet heard from a restored
member that was blocked: its stalls and the ends of its instants are not judged (R322, R364). -/
def State.suspended (s : State) (g : Group) : Bool :=
  let l := s.launch g.launch
  s.evictedAt g.launch g.home || (l.vcOf g.home).any (fun v => l.stopping.contains (v / 16)) ||
    g.current.any (fun m => m.renew || (s.strand? m.sid).any (fun c => decide (c.res = .evicted)))

/-- The stall of R318. -/
def State.stalled (s : State) (g : Group) : Bool :=
  g.formed && g.reactive && !s.suspended g && !g.members.any (fun m => decide (m.react = .running)) &&
    g.members.any (fun m => m.react.blocked) && !(s.clocks g).any (s.canEvaluate g)

/-- EINFO of CAUSE (R319). -/
def causeInfo (inst : W32) (count : Nat) (port : Bool) (sig : Nat) : W64 :=
  BitVec.ofNat 64 (inst.toNat * 2 ^ 32 + count * 2 ^ 16 + (if port then 256 else 0) + sig)

/-- The distinct signals that members wait on. -/
def Group.waitedOn (g : Group) : List Nat :=
  (g.members.filterMap (fun m => match m.react with | .blockedSig n => some n | _ => none)).eraseDups

/-- `CAUSALITY_CYCLE` (R318): CAUSE to every blocked member, which becomes RUNNING. -/
def execCausalityCycle (key : Nat) (s : State) : Out :=
  match s.groups[key]? with
  | some g =>
    if !s.stalled g then .next s
    else
      let n := g.waitedOn.length
      let s := g.members.foldl (fun s m =>
        match m.react with
        | .blockedSig x => s.toMember g m (.cause g.launch g.gid m.idx (causeInfo g.inst n false x))
        | .blockedPort _ => s.toMember g m (.cause g.launch g.gid m.idx (causeInfo g.inst n true 0))
        | _ => s) s
      .next (s.modGroup g.launch g.gid (fun g =>
        { g with members := g.members.map (fun m => if m.react.blocked then { m with react := .running } else m) }))
  | none => .next s

/-- What the executing member is blocked on: a signal, or the clocked port of an offer that is still out, or was withdrawn for an
eviction and is to be made anew (R315, R209). -/
def State.testing (s : State) : Option (Bool × Nat) :=
  match s.ownOffer with
  | some idx => some (true, idx)
  | none => s.me.pendOf.bind (fun p => match p.on with
    | .signal idx => some (false, idx)
    | .port idx => match AMap.get s.me.ports idx with
      | some (.offered _ false) => some (true, idx)
      | none => if p.again then some (true, idx) else none
      | _ => none
    | _ => none)

/-- CAUSE at its member: the trap at the blocked test; at a blocked PUT, GET or PWAIT the offer is withdrawn first (R318, R310;
of a PWAIT, where R209 leaves the port as it is, DEDUCED, log entry 54). -/
def State.takeCause (s : State) (einfo : W64) : State :=
  match s.testing with
  | some (false, idx) => if einfo.getLsbD 8 then s else s.unblocked.takeTrap (.of Cause.cause (BitVec.ofNat 64 idx) einfo)
  | some (true, idx) =>
    if einfo.getLsbD 8 then (s.withdrawPort idx).modMe (fun c => { c with causeDue := some (BitVec.ofNat 64 idx, einfo) }) else s
  | none => s

/-- `CAUSE_ARRIVAL` (R319): one whose member no longer waits is not delivered (R356). -/
def execCauseArrival (k : Nat) (s : State) : Out :=
  match s.arriving k with
  | some (.cause launch gid idx e) =>
    if s.groupEvicted launch gid then .next s
    else match (s.group? launch gid).bind (·.member? idx) with
      | some m => .next ((s.deliver k).asStrand m.sid (·.takeCause e))
      | none => .next (s.deliver k)
  | _ => .next s

/-! ## The end of an instant (R313, R320, R321) -/

/-- Every member is PAUSED or LEFT, and every clocked connector of the domain has evaluated. -/
def State.instantOver (s : State) (g : Group) : Bool :=
  g.formed && g.reactive && !s.suspended g &&
    g.members.all (fun m => decide (m.react = .paused) || decide (m.react = .leaving) || decide (m.react = .left)) &&
    g.members.any (fun m => decide (m.react ≠ .left)) && (s.clocks g).all (·.evaluated)

/-- INST after an instant (R313). -/
def nextInst (i : W32) : W32 := if i + 1 = 0 then 1 else i + 1

/-- A member at the start of an instant (R320). -/
def Member.restart (l : Launch) (r : GroupRec) (m : Member) : Member :=
  match m.react with
  | .paused => { m with react := .running, may := l.mayEmit r m.idx }
  | .leaving => { m with react := .left, may := 0 }
  | _ => { m with may := 0 }

/-- A signal at the start of an instant, before absence is decided (R320). -/
def Signal.restart (x : Signal) : Signal :=
  { x with prevVal := x.value, prevPresent := decide (x.status = .present), value := 0, status := .unknown }

/-- `INSTANT_END` (R320): one event. -/
def execInstantEnd (key : Nat) (s : State) : Out :=
  match s.groups[key]? with
  | some g =>
    if !s.instantOver g then .next s
    else
      let l := s.launch g.launch
      let s := (g.current.filter (fun m => decide (m.react ≠ .left))).foldl (fun (s : State) m => s.modStrand m.sid Strand.commitZ) s
      let s := s.modGroup g.launch g.gid (fun g =>
        { g with inst := nextInst g.inst, members := g.members.map (Member.restart l (l.recOf g)), signals := g.signals.map Signal.restart })
      let s := s.unevaluated g.launch g.gid
      let s := g.members.foldl (fun (s : State) m =>
        if m.react = .left then s else s.toMember g m (.resume g.launch g.gid m.idx (nextInst g.inst))) s
      .next (s.absences g.launch g.gid)
  | none => .next s

/-- `RESUMPTION_ARRIVAL` (R320): the member's PAUSE, or LEAVE, completes in the next instant. -/
def execResumptionArrival (k : Nat) (s : State) : Out :=
  match s.arriving k with
  | some (.resume launch gid idx _) =>
    if s.groupEvicted launch gid then .next s
    else match (s.group? launch gid).bind (fun g => (g.member? idx).map (fun m => (g, m))) with
      | some (g, m) =>
        let l := s.launch launch
        let mine := if m.react = .left then 0 else l.mayEmit (l.recOf g) idx
        let s := (s.deliver k).modGroup launch gid (fun g => g.modMember idx (fun m => { m with sees := [], mine }))
        .next (s.modStrand m.sid (·.wake .instant (.ok [])))
      | none => .next (s.deliver k)
  | _ => .next s

end Sys2Proof.Machine
end

