-- ==== Sys2Proof/Machine/Digest.lean ====
section
/-! DEFINITION. The public algorithms the spec names: SHA-256 (R389, R390), CRC-32 and Adler-32 of the INFLATE wrappers,
CRC32C (R385), and RFC 1951 inflation. -/

namespace Sys2Proof.Machine

/-! ## SHA-256

The constants are computed as the standard defines them, from the first primes, and the state is a record of eight words. -/

/-- The primes below 312: the first 64. -/
def shaPrimes : List Nat :=
  (List.range 312).filter (fun p => decide (2 ≤ p) && (List.range 16).all (fun d => decide (p < (d + 2) * (d + 2)) || p % (d + 2) != 0))

/-- The whole part of a `k`-th root, from its highest bit down. -/
def rootFrom (k x : Nat) : Nat → Nat → Nat
  | 0, r => r
  | b + 1, r => rootFrom k x b (if (r + 2 ^ b) ^ k ≤ x then r + 2 ^ b else r)

/-- The first 32 bits of the fraction of a prime's `k`-th root. -/
def rootBits (k p : Nat) : W32 := BitVec.ofNat 32 (rootFrom k (p * 2 ^ (32 * k)) 37 0)

/-- The eight working words. -/
structure Sha where
  a : W32
  b : W32
  c : W32
  d : W32
  e : W32
  f : W32
  g : W32
  h : W32
  deriving DecidableEq, Repr

/-- The words in order. -/
def Sha.words (z : Sha) : List W32 := [z.a, z.b, z.c, z.d, z.e, z.f, z.g, z.h]

/-- Words as a record; a missing one is zero. -/
def Sha.of (l : List W32) : Sha :=
  ⟨nth l 0 0, nth l 1 0, nth l 2 0, nth l 3 0, nth l 4 0, nth l 5 0, nth l 6 0, nth l 7 0⟩

/-- The XOR of three rotations, the third of which is a shift where `sh` holds. -/
def sigma (p q r : Nat) (sh : Bool) (x : W32) : W32 :=
  x.rotateRight p ^^^ (x.rotateRight q ^^^ (if sh then x >>> r else x.rotateRight r))

/-- One round with the sum of its constant and its message word. The choice takes f where e is set and g elsewhere; the
majority is a or b where c is set, a and b elsewhere. -/
def Sha.round (z : Sha) (kw : W32) : Sha :=
  let pick := z.g ^^^ (z.e &&& (z.f ^^^ z.g))
  let most := (z.a &&& z.b) ||| (z.c &&& (z.a ||| z.b))
  let t := z.h + sigma 6 11 25 false z.e + pick + kw
  { a := t + sigma 2 13 22 false z.a + most, b := z.a, c := z.b, d := z.c, e := z.d + t, f := z.e, g := z.f, h := z.g }

/-- The rounds of a block: the window holds the next sixteen message words, and each round appends the word that enters it. -/
def Sha.rounds : List W32 → List W32 → Sha → Sha
  | [], _, z => z
  | k :: ks, w, z =>
    let next := nth w 0 0 + sigma 7 18 3 true (nth w 1 0) + nth w 9 0 + sigma 17 19 10 true (nth w 14 0)
    Sha.rounds ks (w.drop 1 ++ [next]) (z.round (k + nth w 0 0))

/-- A big-endian number. -/
def beNat (bs : List Byte) : Nat := leNat bs.reverse

/-- One block of 64 bytes. -/
def Sha.block (z : Sha) (blk : List Byte) : Sha :=
  let w := (List.range 16).map (fun i => BitVec.ofNat 32 (beNat ((blk.drop (4 * i)).take 4)))
  Sha.of (List.zipWith (· + ·) z.words (Sha.rounds (shaPrimes.map (rootBits 3)) w z).words)

/-- The SHA-256 digest of bytes: 32 bytes. -/
def sha256 (m : List Byte) : List Byte :=
  let padded := m ++ 0x80 :: (List.replicate ((119 - m.length % 64) % 64) 0 ++ (leBytes 8 (8 * m.length)).reverse)
  let first := Sha.of ((shaPrimes.take 8).map (rootBits 2))
  let last := (List.range (padded.length / 64)).foldl (fun z i => z.block ((padded.drop (64 * i)).take 64)) first
  last.words.flatMap (fun w => (leBytes 4 w.toNat).reverse)

/-! ## Checksums -/

/-- One byte of a reflected CRC. -/
def crcByte (poly : W32) (c : W32) (b : Byte) : W32 :=
  (List.range 8).foldl (fun c _ => if c.getLsbD 0 then (c >>> 1) ^^^ poly else c >>> 1) (c ^^^ b.setWidth 32)

/-- A reflected CRC with all ones before and after. -/
def crc (poly : W32) (bs : List Byte) : W32 := ~~~(bs.foldl (crcByte poly) 0xFFFF_FFFF)

/-- The CRC-32 of RFC 1952. -/
def crc32 : List Byte → W32 := crc 0xEDB8_8320

/-- CRC32C (R385). -/
def crc32c : List Byte → W32 := crc 0x82F6_3B78

/-- The Adler-32 of RFC 1950. -/
def adler32 (bs : List Byte) : Nat :=
  let (a, b) := bs.foldl (fun (a, b) x => ((a + x.toNat) % 65521, (b + (a + x.toNat) % 65521) % 65521)) (1, 0)
  b * 65536 + a

/-! ## RFC 1951 -/

/-- Bits still to read, with the number read. -/
structure BitIn where
  bytes : List Byte
  pos : Nat
  deriving DecidableEq, Repr

/-- The next bit. -/
def BitIn.bit (b : BitIn) : Option (Nat × BitIn) :=
  (b.bytes[b.pos / 8]?).map (fun x => (x.toNat / 2 ^ (b.pos % 8) % 2, { b with pos := b.pos + 1 }))

/-- The next `n` bits, the first lowest. -/
def BitIn.bits (b : BitIn) : Nat → Option (Nat × BitIn)
  | 0 => some (0, b)
  | n + 1 => match b.bit with
    | none => none
    | some (x, b) => (b.bits n).map (fun r => (x + 2 * r.1, r.2))

/-- A canonical code from lengths: symbol, length, code. -/
def huffman (lens : List Nat) : List (Nat × Nat × Nat) :=
  let count (n : Nat) : Nat := (lens.filter (· == n)).length
  let first := (List.range 15).foldl (fun (fs : List Nat) i => fs ++ [(nth fs i 0 + (if i = 0 then 0 else count i)) * 2]) [0]
  (List.range lens.length).filterMap (fun sym =>
    let n := nth lens sym 0
    if n = 0 then none
    else some (sym, n, nth first n 0 + ((lens.take sym).filter (· == n)).length))

/-- A code is not over-subscribed. -/
def huffmanOk (lens : List Nat) : Bool :=
  decide (((lens.filter (· != 0)).map (fun n => 2 ^ (15 - n))).sum ≤ 2 ^ 15)

/-- The next symbol of a code: at most 15 bits. -/
def BitIn.symbol (b : BitIn) (h : List (Nat × Nat × Nat)) : Nat → Nat → Nat → Option (Nat × BitIn)
  | 0, _, _ => none
  | fuel + 1, len, code => match b.bit with
    | none => none
    | some (x, b) =>
      let code := 2 * code + x
      match h.find? (fun e => e.2.1 == len + 1 && e.2.2 == code) with
      | some e => some (e.1, b)
      | none => b.symbol h fuel (len + 1) code

/-- Base and extra bits of a length symbol. -/
def lengthOf (sym : Nat) : Nat × Nat :=
  if sym < 265 then (sym - 254, 0)
  else if sym = 285 then (258, 0)
  else let e := (sym - 261) / 4
       (2 ^ (e + 2) + 3 + (sym - 261) % 4 * 2 ^ e, e)

/-- Base and extra bits of a distance symbol. -/
def distanceOf (sym : Nat) : Nat × Nat :=
  if sym < 4 then (sym + 1, 0)
  else let e := sym / 2 - 1
       (2 ^ (e + 1) + 1 + sym % 2 * 2 ^ e, e)

/-- Why inflation stops: malformed input or output over the limit, with the byte of the input. -/
abbrev InflateErr := Bool × Nat

/-- A copy from earlier output, byte by byte; the newest output byte is first. -/
def copyBack (dist : Nat) : Nat → List Byte → List Byte
  | 0, out => out
  | n + 1, out => copyBack dist n (nth out (dist - 1) 0 :: out)

/-- The symbols of a block, until its end symbol. -/
def inflateCodes (limit : Nat) (hl hd : List (Nat × Nat × Nat)) : Nat → BitIn → List Byte → Except InflateErr (BitIn × List Byte)
  | 0, b, _ => .error (false, b.pos / 8)
  | fuel + 1, b, out =>
    let bad : Except InflateErr (BitIn × List Byte) := .error (false, b.pos / 8)
    match b.symbol hl 15 0 0 with
    | none => bad
    | some (sym, b) =>
      if sym < 256 then
        if limit ≤ out.length then .error (true, b.pos / 8)
        else inflateCodes limit hl hd fuel b (BitVec.ofNat 8 sym :: out)
      else if sym = 256 then .ok (b, out)
      else if 285 < sym then bad
      else
        let (base, e) := lengthOf sym
        match b.bits e with
        | none => bad
        | some (x, b) =>
          match b.symbol hd 15 0 0 with
          | none => bad
          | some (ds, b) =>
            if 29 < ds then bad
            else
              let (dbase, de) := distanceOf ds
              match b.bits de with
              | none => bad
              | some (y, b) =>
                if out.length < dbase + y then bad
                else if limit < out.length + base + x then .error (true, b.pos / 8)
                else inflateCodes limit hl hd fuel b (copyBack (dbase + y) (base + x) out)

/-- The order of the code-length code lengths. -/
def clOrder : List Nat := [16, 17, 18, 0, 8, 7, 9, 6, 10, 5, 11, 4, 12, 3, 13, 2, 14, 1, 15]

/-- The code lengths of a dynamic block. -/
def readLengths (h : List (Nat × Nat × Nat)) (total : Nat) : Nat → BitIn → List Nat → Option (List Nat × BitIn)
  | 0, b, ls => if ls.length = total then some (ls, b) else none
  | fuel + 1, b, ls =>
    if ls.length = total then some (ls, b)
    else if total < ls.length then none
    else match b.symbol h 15 0 0 with
      | none => none
      | some (sym, b) =>
        if sym < 16 then readLengths h total fuel b (ls ++ [sym])
        else
          let (base, e, v) := if sym = 16 then (3, 2, ls.getLast?) else if sym = 17 then (3, 3, some 0) else (11, 7, some 0)
          match v, b.bits e with
          | some v, some (x, b) => readLengths h total fuel b (ls ++ List.replicate (base + x) v)
          | _, _ => none

/-- The two codes of a dynamic block. -/
def dynamicCodes (b : BitIn) : Option (List Nat × List Nat × BitIn) := do
  let (hlit, b) ← b.bits 5
  let (hdist, b) ← b.bits 5
  let (hclen, b) ← b.bits 4
  let (cls, b) ← (List.range (hclen + 4)).foldl (fun (r : Option (List Nat × BitIn)) _ =>
    r.bind (fun (ls, b) => (b.bits 3).map (fun (x, b) => (ls ++ [x], b)))) (some ([], b))
  let lens := (List.range 19).map (fun i => match (clOrder.zip cls).find? (fun p => p.1 == i) with | some p => p.2 | none => 0)
  if !huffmanOk lens then none
  else
    let (ls, b) ← readLengths (huffman lens) (hlit + 257 + hdist + 1) 400 b []
    if !huffmanOk (ls.take (hlit + 257)) || !huffmanOk (ls.drop (hlit + 257)) || nth ls 256 0 = 0 then none
    else some (ls.take (hlit + 257), ls.drop (hlit + 257), b)

/-- The literal and length code of a fixed block. -/
def fixedLengths : List Nat := List.replicate 144 8 ++ List.replicate 112 9 ++ List.replicate 24 7 ++ List.replicate 8 8

/-- The blocks of a stream, until the last. -/
def inflateBlocks (limit : Nat) : Nat → BitIn → List Byte → Except InflateErr (BitIn × List Byte)
  | 0, b, _ => .error (false, b.pos / 8)
  | fuel + 1, b, out =>
    let bad : Except InflateErr (BitIn × List Byte) := .error (false, b.pos / 8)
    match b.bits 3 with
    | none => bad
    | some (hdr, b) =>
      let go (r : Except InflateErr (BitIn × List Byte)) : Except InflateErr (BitIn × List Byte) :=
        match r with
        | .error e => .error e
        | .ok (b, out) => if hdr % 2 = 1 then .ok (b, out) else inflateBlocks limit fuel b out
      match hdr / 2 with
      | 0 =>
        let at_ := (b.pos + 7) / 8
        let n := leNat ((b.bytes.drop at_).take 2)
        if b.bytes.length < at_ + 4 + n ∨ leNat ((b.bytes.drop (at_ + 2)).take 2) ≠ 65535 - n then .error (false, at_)
        else if limit < out.length + n then .error (true, at_)
        else go (.ok ({ b with pos := 8 * (at_ + 4 + n) }, ((b.bytes.drop (at_ + 4)).take n).reverse ++ out))
      | 1 => go (inflateCodes limit (huffman fixedLengths) (huffman (List.replicate 30 5)) (8 * b.bytes.length + 1) b out)
      | 2 => match dynamicCodes b with
        | none => bad
        | some (ll, dl, b) => go (inflateCodes limit (huffman ll) (huffman dl) (8 * b.bytes.length + 1) b out)
      | _ => bad

/-- RFC 1951: the output, and the bytes of the input it took. -/
def inflate (limit : Nat) (m : List Byte) : Except InflateErr (List Byte × Nat) :=
  match inflateBlocks limit (8 * m.length + 1) { bytes := m, pos := 0 } [] with
  | .error e => .error e
  | .ok (b, out) => .ok (out.reverse, (b.pos + 7) / 8)

end Sys2Proof.Machine
end

