-- ==== Sys2Proof/Machine/Remote.lean ====
section
/-! DEFINITION. Translation and remote access away from the requesting core: walks, peers and hosts, parked requests, replies,
timeouts and cancels, probes of apertures, and the rebase of timestamps (R122, R247-R252, R257). -/

namespace Sys2Proof.Machine

/-! ## Walks (R250) -/

/-- `PAGE_WALK` (R250): the walk fills the TLBs; its leaf's A bit is set (R242). One that faults fills nothing: the access
that asked for it raises the trap. -/
def execPageWalk (core vf : Nat) (va : W64) (s : State) : Out :=
  let a := va.toNat % 2 ^ 55
  match s.walk (core / 2048) vf a with
  | .ok f => .next (s.useLeaf core vf a f false)
  | .error _ => .next s

/-- The line that holds the entry at which a walk fails (R252). -/
def State.failLine (s : State) (pkg va : Nat) : Nat → Nat → Nat
  | 0, table => dramKey pkg table / 64
  | fuel + 1, table =>
    let level := 3 - fuel
    let pa := table + 8 * levelIndex level va
    let e := s.entry pkg pa
    if bits e 0 0 = 1 && bits e 3 1 == 0 && !badTable level e then s.failLine pkg va fuel (bits e 51 12 * 4096) else dramKey pkg pa / 64

/-! ## Remote accesses at their target (R248) -/

/-- The rights that a remote access needs (R242). -/
def RemoteOp.need : RemoteOp → Need
  | .load _ => .load
  | .fetch _ => .fetch
  | .store _ => .store
  | .atomic _ _ _ _ _ _ => .both
  | .cas _ _ _ => .both
  | .probe w => if w then .store else .load

/-- The bytes that a remote access reaches. -/
def RemoteOp.size : RemoteOp → Nat
  | .load n => n
  | .fetch n => n
  | .store bs => bs.length
  | .atomic _ t _ _ _ _ => t.bytes
  | .cas t _ _ => t.bytes
  | .probe _ => 1

/-- A remote access reads what it reaches. -/
def RemoteOp.reads : RemoteOp → Bool
  | .store _ => false
  | .probe _ => false
  | _ => true

/-- A host has ADD and CAS on 8 bytes (R122). -/
def RemoteOp.onHost : RemoteOp → Bool
  | .atomic op t _ _ _ _ => op == 0 && t.isInt && t.bits == 64
  | .cas t _ _ => t.bits == 64
  | _ => true

/-- Bytes written for a strand of another package, or by a host: what fetch may have seen is kept, race records, translations and
poison follow (R102, R251, R362). -/
def State.agentWrite (s : State) (k : Nat) (bs : List Byte) : State :=
  let s := if inDram k then { s with codeLog := s.codeLog ++ [{ key := k, old := s.peek k bs.length }] } else s
  ((({ s with races := if s.races.isEmpty then [] else (sectors k bs.length).foldl AMap.drop s.races }).poke k bs).dropTlb
    k bs.length).cleanse k bs.length

/-- A request is still wanted: its context still waits for it, or nobody waits for a posted one (R105, R252). -/
def State.wanted (s : State) (r : Remote) : Bool := r.posted || s.asked.any (fun a => a.ref == r.ref)

/-- An access that a request makes for its strand, in memory that the strand addresses in its own package or in its gang window
(R327). -/
def State.ownAccess (s : State) (r : Remote) (a : Acc) : Bool := !decide (a.home = Home.away) && (s.strand? r.sid).isSome

/-- A write that a request of a strand asked for: the strand's own (R327), or that of a peer, which is noted among the strand's
stores (R262). -/
def State.writeFor (s : State) (r : Remote) (a : Acc) (bs : List Byte) : State :=
  if s.ownAccess r a then s.asStrand r.sid (fun s => s.storeAcc a bs)
  else ((s.agentWrite a.key bs).stampWrite a.key).modStrand r.sid (fun c => { c with wlog := c.wlog ++ [{ key := a.key, n := bs.length, old := s.sectorsAt a.key bs.length }] })

/-- A read that a request of a strand asked for. -/
def State.readFor (s : State) (r : Remote) (a : Acc) : State :=
  if s.ownAccess r a then s.asStrand r.sid (fun s => s.loadAcc a) else s

/-- The accesses of a request performed one after another (R259): the bytes of each read. -/
def State.readAll (s : State) (r : Remote) : List Acc → State × List Byte
  | [] => (s, [])
  | a :: as =>
    let (t, bs) := (s.readFor r a).readAll r as
    (t, s.peek a.key a.n ++ bs)

/-- The accesses of a request performed one after another, with the bytes of each. -/
def State.writeAll (s : State) (r : Remote) : List Acc → List (Option Byte) → State
  | [], _ => s
  | a :: as, bs => (s.writeFor r a (fillIn (bs.take a.n) (s.peek a.key a.n))).writeAll r as (bs.drop a.n)

/-- A remote access performed as its accesses say: the state and the words of its answer. -/
def State.perform (s : State) (r : Remote) (as : List Acc) : State × List W64 :=
  let a := as.headD { va := 0, key := 0, n := 0, home := .away, chk := false, lease := 0, lines := [] }
  let atom (t : Ty) (f : Nat → Option Nat) : State × List W64 :=
    let m := leNat (s.peek a.key t.bytes)
    (match f m with
      | some v => s.writeFor r { a with chk := false } (leBytes t.bytes v)
      | none => s, [BitVec.ofNat 64 m])
  match r.op with
  | .load _ | .fetch _ =>
    let (t, bs) := s.readAll r as
    (t, asWords bs)
  | .store bs => (s.writeAll r as bs, [])
  | .atomic o t b rm fz dn => atom t (fun m => some (amoFn { rm := rm.toNat, fz, dn } o t m b.toNat))
  | .cas t cmp new => atom t (fun m => if m = cmp.toNat % 2 ^ t.bits then some new.toNat else none)
  | .probe _ => (s, [])

/-- The reply to a remote access leaves its target. -/
def State.replyTo (s : State) (r : Remote) (a : Answer) : State :=
  s.send .rpy r.node (s.coreOf r.sid (r.fromPkg * 2048)) (.reply r.ref r.sid a r.posted)

/-- The revision that a target reports. -/
def Remote.revision (r : Remote) : Nat := (if r.host then Config.hostRevision r.pkg else Config.revision r.pkg) % 256

/-- A remote access that its target does not support (R122). -/
def State.notSupported (s : State) (r : Remote) : State :=
  if r.posted then s.send .rpy r.node (s.coreOf r.sid (r.fromPkg * 2048)) (.notsup r.ref r.sid r.va)
  else
    let parts : Nat := match r.op with
      | .atomic op t _ _ _ _ => op * 256 + t.code.toNat * 65536
      | .cas t _ _ => 10 * 256 + t.code.toNat * 65536
      | _ => 0
    s.replyTo r (.trap Cause.amofmt 0 (BitVec.ofNat 64 (r.revision + parts)))

/-- The entries of a die's fault queue in use (R252). -/
def State.faultQueue (s : State) (die : Nat) : Nat := (s.parked.filter (fun p => p.queued && p.die == die)).length

/-- The c1 event for the pager of a virtual function (R252, R360). -/
def State.callPager (s : State) (r : Remote) : State :=
  match (s.vfun r.pkg r.vf).pager with
  | some (launch, vc) => s.systemEvent launch vc Cause.page r.va
  | none => s

/-- A request whose walk faults is parked, or waits for room in the fault queue (R252). -/
def State.park (s : State) (r : Remote) : State :=
  let die := r.pkg * 8 + s.choose 6 8
  let line := s.failLine r.pkg (r.va.toNat % 2 ^ 55) 3 (s.vfun r.pkg r.vf).l1
  if s.faultQueue die < 64 then ({ s with parked := s.parked ++ [{ req := r, die, line, queued := true, due := false }] } : State).callPager r
  else { s with parked := s.parked ++ [{ req := r, die, line, queued := false, due := false }] }

/-- The race that the accesses of a request meet in mode 0, when they are to be performed (R270, R271). -/
def State.raceMet (s : State) (r : Remote) (as : List Acc) : Option Trap :=
  match r.op with
  | .load _ | .store _ => if (s.strand? r.sid).isSome then (s.focus r.sid).raceTrap as else none
  | _ => none

/-- Accesses performed for a request, and their answer on its way: a race in mode 0 answers with RACE (R271), poison of what is read
with MCHK (R362), a probe with its place. -/
def State.performAt (s : State) (r : Remote) (as : List Acc) : State :=
  match s.raceMet r as with
  | some t => ({ s with races := (t.clear.map (AMap.drop s.races)).getD s.races } : State).replyTo r (.trap t.code t.eaddr t.einfo)
  | none =>
    match as.find? (fun a => r.op.reads && s.poisoned (s.activeKey a.key) a.n) with
    | some a => s.replyTo r (.trap Cause.mchk a.va (BitVec.ofNat 64 (2 ^ 63 + 16 + s.poisonUnit (s.activeKey a.key) a.n)))
    | none =>
      match r.op, as with
      | .probe _, a :: _ => s.replyTo r (.place a.key a.lines)
      | _, _ =>
        let (t, ws) := s.perform r as
        t.replyTo r (.ok ws)

/-- The access of a request that its target places at a key. -/
def Remote.acc (r : Remote) (k : Nat) : Acc := { va := 0, key := k, n := r.op.size, home := .away, chk := false, lease := 0, lines := [] }

/-- A remote access at its target. One that nobody waits for any more is not made (R105). Accesses whose keys are known are performed (R105, R327); else the import check, the walk, and
the access; none where the walk raises PAGE. -/
def State.atTarget (s : State) (r : Remote) : Option State :=
  if !s.wanted r then some s
  else if r.host && !r.op.onHost then some (s.notSupported r)
  else if !r.accs.isEmpty then some (s.performAt r r.accs)
  else if r.host then some (s.performAt r [r.acc (hostKey r.pkg r.va.toNat)])
  else if !(s.vfun r.pkg r.vf).imports.contains r.fromPkg then some (s.replyTo r (.trap Cause.perm 0 6))
  else match s.peerKey r.pkg r.vf r.va.toNat r.op.need with
    | .ok (k, f) => some ((s.markLeaf r.pkg f r.op.need.w).performAt r [{ r.acc k with lines := f.lines }])
    | .error t => if t.code = Cause.page then none else some (s.replyTo r (.trap t.code 0 t.einfo))

/-- A request waits at its target: a store there would change a translation still in use (R251), or a pair's log holds what it
reaches (R368), or the package's timestamps are to be rebased (R257). -/
def State.requestWaits (s : State) (r : Remote) : Bool :=
  let ks := if r.accs.isEmpty && !r.host then
      (match s.peerKey r.pkg r.vf r.va.toNat r.op.need with
        | .ok (k, _) => [(k, r.op.size)]
        | .error _ => [])
    else r.accs.map (fun a => (a.key, a.n))
  s.rebaseDue r.pkg || ks.any (fun k => s.logged none (s.activeKey k.1) k.2 || (r.op.need.w && s.busyBut r.sid r.ref (s.activeKey k.1) k.2))

/-- `PEER_ACCESS_REQUEST` (R248): a remote access reaches its target. One for a package that is not there is lost (R252). (DEDUCED, log entry 50) -/
def execPeerAccessRequest (k : Nat) (s : State) : Out :=
  match s.arriving k with
  | some (.remote r) =>
    if s.requestWaits r then .next s
    else
      let s := s.deliver k
      if !r.host && (AMap.get s.pkgs r.pkg).isNone then .next s else .next ((s.atTarget r).getD (s.park r))
  | _ => .next s

/-! ## Parked requests (R252) -/

/-- `KEEP_WAITING_SEND` (R252). -/
def execKeepWaitingSend (k : Nat) (s : State) : Out :=
  match s.parked[k]? with
  | some p => .next (s.send .rpy (2 ^ 40 + p.req.pkg) (2 ^ 40 + p.req.fromPkg) (.keepWaiting p.req.ref))
  | none => .next s

/-- `KEEP_WAITING_ARRIVAL` (R252): the requester's limit starts anew. -/
def execKeepWaitingArrival (k : Nat) (s : State) : Out :=
  match s.arriving k with
  | some (.keepWaiting ref) =>
    .next { s.deliver k with asked := s.asked.map (fun (a : Asked) => if a.ref == ref then { a with noticed := a.noticed + 1 } else a) }
  | _ => .next s

/-- A parked walk runs again: at a store to the line of its failing entry, or, for a request that found the queue full, from
time to time (R252). -/
def Parked.again (p : Parked) : Bool := p.due || !p.queued

/-- `FAULT_QUEUE_RETRY` (R252): a parked walk runs again; one that fails again stays, and a request that waits for room takes it. -/
def execFaultQueueRetry (k : Nat) (s : State) : Out :=
  match s.parked[k]? with
  | none => .next s
  | some p =>
    if !p.again || s.requestWaits p.req then .next s
    else match ({ s with parked := dropNth s.parked k }).atTarget p.req with
      | some t => .next t
      | none =>
        let line := s.failLine p.req.pkg (p.req.va.toNat % 2 ^ 55) 3 (s.vfun p.req.pkg p.req.vf).l1
        if p.queued || 64 ≤ s.faultQueue p.die then .next { s with parked := modNth s.parked k (fun p => { p with line, due := false }) }
        else .next (({ s with parked := modNth s.parked k (fun p => { p with line, queued := true, due := false }) }).callPager p.req)

/-- PAGE of a remote access at its requester (R243): bit 8, and `why`. -/
def remotePage (aper why : Nat) : W64 := BitVec.ofNat 64 (0x100 + why + aper * 4096)

/-- A remote access is over at its requester: UNACK falls, and the answer is kept (R248). The address of a trap is the
requester's own, that of the element where the answer names one. -/
def State.answered (s : State) (a : Asked) (r : Answer) : State :=
  let r : Answer := match r with
    | .trap c va e => .trap c (if va = 0 then a.va else va) (if c = Cause.page then e ||| BitVec.ofNat 64 (a.aper * 4096) else e)
    | .place k ls => .place k (ls ++ a.lines)
    | r => r
  ({ s with asked := s.asked.filter (fun b => b.ref != a.ref) }).modStrand a.sid (fun c => { c.answer a.ref r with unack := c.unack - 1 })

/-- The reply to a request is on its way: its access has been performed, or refused. -/
def State.replied (s : State) (ref : Nat) : Bool :=
  s.flying.any (fun p => match p.body with
    | .reply n _ _ _ => n == ref
    | _ => false)

/-- `REMOTE_TIMEOUT` (R252): neither a notice nor the reply of a remote access has come in time: PAGE with bits 8 and 9. Its access is
not performed any more, and one that has been performed does not time out, since an instruction that traps performs none of its
accesses (R105). (DEDUCED, log entry 50) -/
def execRemoteTimeout (k : Nat) (s : State) : Out :=
  match s.asked[k]? with
  | some a => if a.gang || s.replied a.ref then .next s else .next (s.answered a (.trap Cause.page 0 (remotePage a.aper 0x200)))
  | none => .next s

/-- `PARK_REFUSAL` (R252): PAGE with bits 8 and 10. -/
def execParkRefusal (k : Nat) (s : State) : Out :=
  match s.parked[k]? with
  | some p => .next (({ s with parked := dropNth s.parked k }).replyTo p.req (.trap Cause.page 0 (remotePage p.req.aper 0x400)))
  | none => .next s

/-- `REMOTE_CANCEL` (R252): a cancel that finds its request still parked wins. -/
def execRemoteCancel (k : Nat) (s : State) : Out :=
  match s.arriving k with
  | some (.cancel ref) =>
    let s := s.deliver k
    match s.parked.find? (fun p => p.req.ref == ref) with
    | some p => .next (({ s with parked := s.parked.filter (fun p => p.req.ref != ref) }).replyTo p.req .cancelled)
    | none => .next s
  | _ => .next s

/-! ## Replies (R248, R119, R122) -/

/-- A retired AMOP is over: UNACK falls (R119). One that a helper issued before its last FORK is not counted any more. -/
def Strand.acked (c : Strand) (ref : Nat) : Strand :=
  if c.amops.any (fun a => a.ref == ref) then { c with amops := c.amops.filter (fun a => a.ref != ref), unack := c.unack - 1 } else c

/-- The acknowledgement of an AMOP: whichever context carries it is past it. -/
def State.amopAcked (s : State) (ref : Nat) : State := s.modAll (·.acked ref)

/-- The address of an AMOP that is not acknowledged yet. -/
def State.amopVa (s : State) (ref : Nat) : W64 :=
  (s.contexts.findSome? (fun c => (c.amops.find? (fun a => a.ref == ref)).map (·.va))).getD 0

/-- The acknowledgement of a posted AMOP. One that its target does not support brings its strand's core an AMOFMT event with the
AMOP's address; one that its target refused for poison is lost work: an MCHK event with PRECISE = 0 for virtual core 0 of the
launch (R360, R362). Any other refusal has no event (DEDUCED, log entry 50). -/
def State.postedAnswer (s : State) (ref : Nat) (i : Sid) (r : Answer) : State :=
  let t := s.amopAcked ref
  match r, s.strand? i with
  | .trap code _ e, some c =>
    if code = Cause.amofmt then t.systemEvent i.launch c.place.vc code (s.amopVa ref)
    else if code = Cause.mchk then t.systemEvent i.launch 0 code (e &&& 0x7FFF_FFFF_FFFF_FFFF)
    else t
  | _, _ => t

/-- `REMOTE_REPLY` (R248): a reply or an acknowledgement reaches its requester. A reply that comes after a timeout is
dropped. (DEDUCED, log entry 50) -/
def execRemoteReply (k : Nat) (s : State) : Out :=
  match s.arriving k with
  | some (.reply ref i r posted) =>
    let s := s.deliver k
    if posted then .next (s.postedAnswer ref i r)
    else match s.asked.find? (fun a => a.ref == ref) with
      | some a => .next (s.answered a r)
      | none => .next s
  | some (.amopAck ref _) => .next ((s.deliver k).amopAcked ref)
  | _ => .next s

/-- `AMOP_NOTSUP` (R122, R360): the AMOP is not performed; its strand receives a c1 event with cause AMOFMT and the AMOP's address. -/
def execAmopNotsup (k : Nat) (s : State) : Out :=
  match s.arriving k with
  | some (.notsup ref i _) => .next ((s.deliver k).postedAnswer ref i (.trap Cause.amofmt 0 0))
  | _ => .next s

/-! ## Apertures and timestamps -/

/-- `APERTURE_PROBE` (R122): what the target of an unprobed aperture supports becomes known. (DEDUCED, log entry 25) -/
def execApertureProbe (pkg vf aper : Nat) (ops : BitVec 11) (fmts : BitVec 3) (rev : Byte) (ok : Bool) (s : State) : Out :=
  let e := nth (s.vfun pkg vf).apers (aper - 1) 0
  if aper = 0 || aperKind e = 0 || aperState e ≠ 0 then .next s
  else .next (s.modVfun pkg vf (fun v =>
    { v with apers := modNth v.apers (aper - 1) (fun e => probed e ops.toNat fmts.toNat rev.toNat ok) }))

/-- An aperture entry as system software writes it: the probe's fields are zero (R247). -/
def unprobed (e : BitVec 128) : BitVec 128 := BitVec.ofNat 128 (aperBase e * 2 ^ 64 + bits e.toNat 39 0)

/-- `APERTURE_INVALIDATE` (R122): a reset or a new revision of a package invalidates the entries that name it. -/
def execApertureInvalidate (target : Nat) (s : State) : Out :=
  .next { s with vfs := s.vfs.map (fun (v : Nat × VFun) => (v.1, { v.2 with apers := v.2.apers.map (fun e =>
    if aperKind e = 1 && aperTarget e = target then unprobed e else e) })) }

/-- `TIMESTAMP_REBASE` (R257): every timestamp of the package moves down by 2^46, those below it to 0, in one step (DEDUCED, log
entry 78). -/
def execTimestampRebase (pkg : Nat) (s : State) : Out :=
  if !s.rebaseDue pkg then .next s
  else
    let move (c : Strand) : Strand := if c.place.pkg = pkg then { c with pts := c.pts - 2 ^ 46 } else c
    let s := { s with me := move s.me, rest := s.rest.map move,
                      stamps := s.stamps.map (fun (x : Nat × Nat × Nat) =>
                        if 64 * x.1 / 2 ^ 56 == pkg then (x.1, x.2.1 - 2 ^ 46, x.2.2 - 2 ^ 46) else x) }
    .next (s.modPkg pkg (fun p => { p with rebased := largest (s.ptsOf pkg) }))

end Sys2Proof.Machine
end

