-- ==== Sys2Proof/Machine/Reports.lean ====
section
/-! DEFINITION. Datagrams to the host: headers, events and completion reports (R391, R394); and the graph engine: the states
of the nodes (R278, R279). -/

namespace Sys2Proof.Machine

/-! ## Events to the host (R391, R394) -/

/-- The header of a datagram (R391). -/
def hostHeader (op tag len vf : Nat) : List Byte :=
  leBytes 4 0x3943_4648 ++ leBytes 2 1 ++ leBytes 2 op ++ leBytes 4 tag ++ leBytes 4 len ++ leBytes 1 vf ++ List.replicate 15 0

/-- An event to the host, kept until it is acknowledged. (DESIGN CHOICE, log entry 56) -/
def State.hostEvent (s : State) (vf kind : Nat) (payload : List Byte) : State :=
  let m : HostMsg := { vf, bytes := hostHeader (0x8000 + kind) s.nextTag.toNat payload.length vf ++ payload, sent := s.tick }
  { s with toHost := s.toHost ++ [m], unacked := s.unacked ++ [m], nextTag := s.nextTag + 1 }

/-- The 64 bytes of a completion report (R394). (DESIGN CHOICE, log entry 56) -/
def completion (serial : W32) (status : Nat) (f : Option FaultRec) : List Byte :=
  leBytes 4 serial.toNat ++ leBytes 1 status ++
    (match f with
      | some f => leBytes 3 f.tid ++ leBytes 8 f.ecause.toNat ++ leBytes 8 f.epc.toNat ++ leBytes 8 f.eaddr.toNat ++ leBytes 8 f.einfo.toNat
      | none => List.replicate 35 0) ++ List.replicate 24 0

/-- A launch is reported, once, with a status (R394). (DEDUCED, log entry 51) -/
def State.reportLaunch (s : State) (u status : Nat) : State :=
  let l := s.launch u
  if l.reported then s
  else (s.hostEvent l.vf 1 (completion l.serial status (if status = 4 ∨ status = 5 then l.firstFault else none))).modLaunch u
    (fun l => { l with reported := true })

/-- The status of a launch that has completed: OK, EMPTY, FAULT or MCHK (R357, R363, R394). -/
def Launch.status (l : Launch) : Nat :=
  match l.firstFault with
  | some f => if f.mchk then 5 else 4
  | .none => if l.ran then 0 else 1

/-! ## The graph engine (R278, R279) -/

/-- The graph of a launch, with its key. -/
def State.graphOf (s : State) (u : Nat) : Option (Nat × Graph) :=
  (s.launch u).graph.bind (fun k => (AMap.get s.graphs k).map (fun g => (k, g)))

/-- A graph changed. -/
def State.modGraph (s : State) (k : Nat) (f : Graph → Graph) : State :=
  { s with graphs := s.graphs.map (fun (e : Nat × Graph) => if e.1 = k then (e.1, f e.2) else e) }

/-- A node changed. -/
def Graph.modNode (g : Graph) (num : Nat) (f : GNode → GNode) : Graph :=
  { g with nodes := g.nodes.map (fun (n : GNode) => if n.num = num then f n else n) }

/-- The kind of a node: 0 for a launch, 1 conditional, 2 switch, 3 loop. -/
def GNode.kind (n : GNode) : Nat := if n.launch.isSome then 0 else wbits (nth n.words 0 0) 63 60

/-- A field of word 2 of a node record. -/
def GNode.field (n : GNode) (hi lo : Nat) : Nat := wbits (nth n.words 2 0) hi lo

/-- A node lies in the body of a loop node: FIRST to LAST. -/
def GNode.body (n : GNode) (m : Nat) : Bool :=
  n.kind == 3 && decide (n.field 11 0 ≤ m) && decide (m ≤ n.field 23 12) && m != n.num

/-- The successors among which a conditional or a switch node chooses. -/
def GNode.successors (n : GNode) : List Nat :=
  if n.kind = 1 then [n.field 11 0, n.field 23 12]
  else if n.kind = 2 then (List.range (n.field 27 24 + 1)).map (n.field 11 0 + ·) ++ [n.field 39 28]
  else []

/-- The state of a producer as a node sees it: a loop that runs counts as complete to its body. -/
def GNode.seenBy (p : GNode) (n : Nat) : NodeState := if p.started && p.body n then .complete else p.st

/-- The states of the producers of a node. -/
def State.producers (s : State) (g : Graph) (n : GNode) : List NodeState :=
  (s.after n).filterMap (fun p => (g.nodes.find? (fun x => x.num == p)).map (·.seenBy n.num))

/-- The record of a launch node allows an early start. -/
def State.early (s : State) (n : GNode) : Bool := n.launch.any (fun u => (s.launch u).field 5 12 12 == 1)

/-- Where a waiting node goes. -/
def State.nodeNext (s : State) (g : Graph) (n : GNode) : NodeState :=
  let ps := s.producers g n
  let gone (p : NodeState) : Bool := decide (p = .complete) || decide (p = .skipped)
  if n.st ≠ .waiting then n.st
  else if !ps.isEmpty && ps.all (fun p => decide (p = .skipped)) then .skipped
  else if ps.all gone then .ready
  else if s.early n && ps.all (fun p => gone p || decide (p = .running)) && ps.any (fun p => !decide (p = .skipped)) then .ready
  else .waiting

/-- A launch leaves its queue. -/
def State.unqueue (s : State) (u : Nat) : State :=
  let l := s.launch u
  s.modPkg l.home (fun p => { p with queues := p.queues.map (fun e => (e.1, e.2.filter (· != u))) })

/-- A loop around a node is not complete: its launches are not reported yet. -/
def Graph.looping (g : Graph) (n : Nat) : Bool :=
  g.nodes.any (fun p => p.body n && !decide (p.st = .complete) && !decide (p.st = .skipped))

/-- One pass of the graph engine: the waiting nodes move; a launch without threads is complete as soon as it is ready
(R276); a skipped launch leaves its queue; launches that are over are reported. -/
def State.graphPass (s : State) (k : Nat) : State :=
  match AMap.get s.graphs k with
  | none => s
  | some g =>
    let empty (n : GNode) : Bool := n.launch.any (fun u => (s.launch u).threads == 0)
    let s := s.modGraph k (fun _ => { g with nodes := g.nodes.map (fun (n : GNode) =>
      let st := s.nodeNext g n
      { n with st := if decide (st = .ready) && empty n then .complete else st }) })
    match AMap.get s.graphs k with
    | none => s
    | some g => g.nodes.foldl (fun s n =>
        match n.launch with
        | some u =>
          if decide (n.st = .complete) || decide (n.st = .skipped) then
            let s := (s.unqueue u).modLaunch u (fun l => { l with state := .done })
            if g.looping n.num then s else s.reportLaunch u (s.launch u).status
          else s
        | none => s) s

/-- The graph engine goes on until nothing moves: at most one pass for each node. -/
def State.advance (s : State) (k : Nat) : State :=
  let n := ((AMap.get s.graphs k).map (·.nodes.length)).getD 0
  (List.range (n + 1)).foldl (fun s _ => s.graphPass k) s

/-- The node of a launch changes its state. -/
def State.setNode (s : State) (u : Nat) (st : NodeState) : State :=
  match s.graphOf u with
  | some (k, _) =>
    (s.modGraph k (fun g => { g with nodes := g.nodes.map (fun (n : GNode) => if n.launch = some u then { n with st } else n) })).advance k
  | none => s

/-- A launch may be bound: it is in no graph, or its node is ready (R277, R279). -/
def State.headReady (s : State) (u : Nat) : Bool :=
  match s.graphOf u with
  | some (_, g) => g.nodes.any (fun n => n.launch == some u && decide (n.st = .ready))
  | none => true

/-- A launch is over: its node is complete, and it is reported with a status, after the last iteration of a loop around
it (R193, R279, R394). -/
def State.launchOver (s : State) (u : Nat) : State :=
  let s := s.modLaunch u (fun l => { l with state := .done, ran := true })
  match s.graphOf u with
  | some _ => s.setNode u .complete
  | none => s.reportLaunch u (s.launch u).status

/-- A launch is refused: STATUS 2, at once; its node counts as complete (R233, R279). (DEDUCED, log entry 52) -/
def State.refuseLaunch (s : State) (u : Nat) : State :=
  (((s.unqueue u).modLaunch u (fun l => { l with state := .done })).reportLaunch u 2).setNode u .complete

/-! ## Test words (R279) -/

/-- The key of a byte at a global address as the graph engine, the loader or the RDMA unit reaches it, through a virtual
function's tables; none where nothing is mapped. -/
def State.globalKey (s : State) (pkg vf va : Nat) : Option Nat :=
  let need : Need := { r := false, w := false, x := false }
  match s.translate pkg vf .k (va % 2 ^ 55) need with
  | .error _ => none
  | .ok f =>
    let a := f.phys (va % 2 ^ 55)
    let e := nth (s.vfun pkg vf).apers (f.aper - 1) 0
    if f.aper = 0 then some (dramKey pkg a)
    else if aperKind e = 0 then none
    else if aperKind e = 2 then some (hostKey (aperTarget e) (aperBase e + a))
    else match s.peerKey (aperTarget e) (aperTvf e) (aperBase e + a) need with
      | .ok (k, _) => some k
      | .error _ => none

/-- Bytes at a global address. -/
def State.readGlobal (s : State) (pkg vf va n : Nat) : Option (List Byte) :=
  (List.range n).mapM (fun i => (s.globalKey pkg vf (va + i)).map (Memory.get s.mem))

/-- The test word of a node, a free value where the spec states none: no mapping gives it (DESIGN CHOICE, log entry 10). -/
def State.nodeWord (s : State) (g : Graph) (n : GNode) : Nat :=
  match s.readGlobal g.pkg g.vf (nth n.words 1 0).toNat 8 with
  | some bs => leNat bs
  | none => Config.freeChoice 7 s.tick

/-- The chosen successor of a conditional or switch node. -/
def GNode.chosen (n : GNode) (w : Nat) : Nat :=
  if n.kind = 1 then (if w ≠ 0 then n.field 11 0 else n.field 23 12)
  else if w < n.field 27 24 + 1 then n.field 11 0 + w else n.field 39 28

/-- A body node of a loop starts anew. -/
def GNode.again (n : GNode) : GNode := { n with st := .waiting, iter := 0, started := false }

/-- The launches of a loop's body stand at the front of their queue again, in their order (R276, R279). -/
def State.requeue (s : State) (us : List Nat) : State :=
  us.foldr (fun u s =>
    let l := s.launch u
    let s := s.modLaunch u (fun l =>
      { l with state := .queued, bind := [], granules := [], started := [], ended := [], triggered := [], evicted := [], stopping := [] })
    s.modPkg l.home (fun p => { p with queues := AMap.put p.queues (l.vf, l.queue) (u :: (AMap.get p.queues (l.vf, l.queue)).getD []) })) s

/-- A node's test (R279). -/
def State.nodeTest (s : State) (k : Nat) (g : Graph) (n : GNode) : State :=
  if n.kind = 1 ∨ n.kind = 2 then
    let c := n.chosen (s.nodeWord g n)
    (s.modGraph k (fun g => { (g.modNode n.num (fun m => { m with st := .complete })) with
      nodes := (g.modNode n.num (fun m => { m with st := .complete })).nodes.map (fun (m : GNode) =>
        if n.successors.contains m.num && m.num != c && decide (m.st = .waiting) then { m with st := .skipped } else m) })).advance k
  else if !n.started then
    (s.modGraph k (fun g => g.modNode n.num (fun m => { m with started := true }))).advance k
  else
    let body := g.nodes.filter (fun m => n.body m.num)
    if !body.all (fun m => decide (m.st = .complete) || decide (m.st = .skipped)) then s
    else if s.nodeWord g n ≠ 0 ∧ n.iter + 1 < wbits (nth n.words 3 0) 31 0 then
      let s := s.modGraph k (fun g => { g with nodes := g.nodes.map (fun (m : GNode) =>
        if n.body m.num then m.again else if m.num = n.num then { m with iter := m.iter + 1 } else m) })
      (s.requeue (body.filterMap (·.launch))).advance k
    else (s.modGraph k (fun g => g.modNode n.num (fun m => { m with st := .complete, iter := m.iter + 1 }))).advance k

/-- `GRAPH_NODE_TEST` (R279): a ready conditional, switch or loop node of a graph. -/
def execGraphNodeTest (graph node : Nat) (s : State) : Out :=
  match AMap.get s.graphs graph with
  | some g =>
    match g.nodes.find? (fun n => n.num == node) with
    | some n => if decide (n.st = .ready) && n.kind != 0 then .next (s.nodeTest graph g n) else .next s
    | none => .next s
  | none => .next s

end Sys2Proof.Machine
end

