-- ==== Sys2Proof/Machine/Binding.lean ====
section
/-! DEFINITION. What the loader does when a launch is bound (R233 steps 4 to 6): the places of the buffers (R234), the
granules of the die scratchpads (R238), the prickings in their pillows (R301), and the cores made ready (R237, R293); and the
placement sets (R285). -/

namespace Sys2Proof.Machine

/-! ## Records of the pool -/

/-- The pool indices of the records of a kind (R22). -/
def Launch.records (l : Launch) (k : BitVec 4) : List Nat := ((l.kinds.zipIdx).filter (fun x => decide (x.1 = k))).map (·.2)

/-- The buffer record at a pool index. -/
def Launch.bufAt (l : Launch) (i : Nat) : BufRec :=
  .ofWords (nth l.pool i 0) (nth l.pool (i + 1) 0) (nth l.pool (i + 2) 0) (nth l.pool (i + 3) 0)

/-- The flagged group records that apply to a launch (R284). -/
def Launch.groupRecs (l : Launch) : List GroupRec :=
  ((l.records 5).map (fun i => GroupRec.ofWords i (nth l.pool i 0) (nth l.pool (i + 1) 0))).filter (fun r => r.flagged && l.applies r)

/-- The threads that a flagged group lists. -/
def GroupRec.threads (r : GroupRec) : List Nat := (List.range r.size).map (r.first + ·)

/-- The virtual clusters that hold a group's listed strands. -/
def Launch.clustersOf (l : Launch) (r : GroupRec) : List Nat := (r.threads.map (fun t => l.vcOfThread t / 16)).eraseDups

/-- Virtual clusters with those of every GANG, REACTIVE or STRAG group that shares one with them: R337 puts the thief, the victim and
the home of a steal into one placement set (DEDUCED, log entry 79). -/
def Launch.joinSets (l : Launch) (vs : List Nat) : List Nat :=
  (l.groupRecs.filter (fun r => r.gang || r.reactive || r.strag)).foldl (fun vs r =>
    let cs := l.clustersOf r
    if cs.any vs.contains then vs ++ cs.filter (fun c => !vs.contains c) else vs) vs

/-- The placement set of a virtual cluster (R285). -/
def Launch.placementSet (l : Launch) (v : Nat) : List Nat := (List.range (l.groupRecs.length + 1)).foldl (fun vs _ => l.joinSets vs) [v]

/-! ## Buffer bases (R233 step 4, R234) -/

/-- A buffer placed: its pool index, its window byte, its owner's place (a core, a die or a member), its offset and length
there, its record. -/
structure Placed where
  idx : Nat
  win : Nat
  at_ : Nat
  off : Nat
  len : Nat
  shadow : Bool
  deriving DecidableEq, Repr

/-- The owner of a record as its image names it (R23). -/
def ownerOf (w : W64) : Nat := wbits w 55 32

/-- Where a record's owner is: its core, the core's die, or the member's index; none where no core is the owner's. -/
def Launch.ownerAt (l : Launch) (w : W64) : Option Nat :=
  match wbits w 63 56 with
  | 0xF0 => Option.some 0
  | 0xF1 => l.coreOf (ownerOf w)
  | 0xF2 => l.coreOf (ownerOf w)
  | 0xF3 => (l.coreOf (ownerOf w)).map (· / 256)
  | _ => Option.some (ownerOf w)

/-- The first multiple of 64 at or past an offset. -/
def align64 (n : Nat) : Nat := (n + 63) / 64 * 64

/-- The end of the earlier buffers of one owner in one window. -/
def endOf (ps : List Placed) (win at_ : Nat) : Nat :=
  ((ps.filter (fun p => p.win == win && p.at_ == at_)).map (fun p => p.off + p.len)).foldl Nat.max 0

/-- The launch with its pool as the image holds it, whose base words name the owners (R23, R233). -/
def Launch.asImage (l : Launch) : Launch := { l with pool := l.image }

/-- The places of the scratchpad and gang buffers, in pool order; none when a record has no owner in the grid (R234). -/
def Launch.layout (l : Launch) : List Nat → List Placed → Option (List Placed)
  | [], ps => Option.some ps
  | i :: is, ps =>
    let r := l.bufAt i
    let win := wbits r.base 63 56
    if win = 0 then l.layout is ps
    else match l.ownerAt r.base with
      | Option.none => Option.none
      | Option.some a =>
        l.layout is (ps ++ [{ idx := i, win, at_ := a, off := align64 (endOf ps win a), len := if r.shadow then 2 * r.len else r.len,
                              shadow := r.shadow }])

/-- A buffer ends within its reach (R234). -/
def Launch.fits (l : Launch) (p : Placed) : Bool :=
  match p.win with
  | 0xF0 => decide (p.off + p.len ≤ 0x4000)
  | 0xF1 => decide (p.off + p.len ≤ l.local_)
  | 0xF2 => decide (p.off + p.len ≤ 0x2_0000)
  | 0xF4 => decide (p.at_ ≤ 0xFFF)
  | _ => true

/-- The dies on which a launch has buffers. -/
def diesOf (ps : List Placed) : List Nat := ((ps.filter (fun p => p.win == 0xF3)).map (·.at_)).eraseDups

/-- The granules that launches hold on a die. -/
def State.granulesOn (s : State) (d : Nat) : List Nat :=
  s.launches.flatMap (fun l => (l.2.granules.filter (fun g => g.1 == d)).map (·.2))

/-- The first run of free granules on a die that holds its buffers (R234). -/
def State.granuleRun (s : State) (ps : List Placed) (d : Nat) : Option (Nat × Nat × Nat) :=
  let n := (endOf ps 0xF3 d + 65535) / 65536
  let held := s.granulesOn d
  ((List.range (513 - n)).find? (fun g => (List.range n).all (fun j => !held.contains (g + j)))).map (fun g => (d, g, n))

/-- The granule runs of every die, or none (R233). -/
def State.granuleRuns (s : State) (ps : List Placed) : Option (List (Nat × Nat × Nat)) := (diesOf ps).mapM (s.granuleRun ps)

/-- The offset of the first granule of a die. -/
def runAt (gs : List (Nat × Nat × Nat)) (d : Nat) : Nat := ((gs.find? (fun g => g.1 == d)).map (fun g => g.2.1 * 65536)).getD 0

/-- The base word of a placed buffer (R233 step 4). A gang offset beyond its field makes an address that names nothing. -/
def baseWord (gs : List (Nat × Nat × Nat)) (p : Placed) : W64 :=
  BitVec.ofNat 64 (match p.win with
    | 0xF0 => 0xF0 * 2 ^ 56 + p.off
    | 0xF1 => 0xF1 * 2 ^ 56 + p.at_ % 2048 * 2 ^ 36 + p.off
    | 0xF2 => 0xF2 * 2 ^ 56 + p.at_ % 256 * 2 ^ 17 + p.off
    | 0xF3 => 0xF3 * 2 ^ 56 + p.at_ % 8 * 2 ^ 25 + (runAt gs p.at_ + p.off)
    | _ => 0xF4 * 2 ^ 56 + p.at_ * 2 ^ 18 + (if p.off < 2 ^ 18 then p.off else 2 ^ 54))

/-- The cores of a launch's virtual grid. -/
def Launch.cores (l : Launch) : List Nat := l.bind.flatMap (fun c => (List.range 16).map (c * 16 + ·))

/-- The shadowed halves of a placed buffer, registered with their memory's home; a private one in every placed slot
(R133). -/
def Launch.shadowsOf (l : Launch) (u : Nat) (gs : List (Nat × Nat × Nat)) (p : Placed) : List Shadow :=
  let mk (k : Nat) : Shadow := { launch := u, base := k, len := p.len / 2, second := false }
  if !p.shadow then []
  else match p.win with
    | 0xF0 => l.cores.flatMap (fun g => (List.range (4 - l.handlers)).map (fun sl => mk (spKey g (0x5_0000 + sl * 0x4000 + p.off))))
    | 0xF1 => [mk (spKey p.at_ p.off)]
    | 0xF2 => [mk (spKey p.at_ (0x6_0000 + p.off))]
    | 0xF3 => [mk (dieKey p.at_ (runAt gs p.at_ + p.off))]
    | _ => []

/-- More than 256 shadowed buffers in one die scratchpad (R133). -/
def State.tooManyShadows (s : State) (new : List Shadow) : Bool :=
  ((new.filterMap (fun h => keyDie h.base)).eraseDups).any (fun d =>
    256 < ((s.shadows ++ new).filter (fun h => keyDie h.base == some d)).length)

/-! ## Prickings (R301) -/

/-- The connectors of a launch, with the pillows of their homes. -/
def Launch.connectorsFor (l : Launch) (u : Nat) : List (Nat × Connector) :=
  (l.records 4).filterMap (fun i =>
    let w := nth l.pool i 0
    (l.bind[wbits w 46 40]?).map (fun p => (p,
      { launch := u, hvc := wbits w 46 40, num := wbits w 39 34,
        words := (l.pool.drop i).take (2 + 3 * wbits w 21 17 + 5 * wbits w 16 4),
        offers := [], buffers := List.replicate (wbits w 26 22) [], ptrs := [], active := false, evaluated := false })))

/-- The connectors of a virtual function's launches on one pillow stay within its share (R395). -/
def State.pillowShareOk (s : State) (l : Launch) (u : Nat) : Bool :=
  let new := l.connectorsFor u
  new.all (fun c => decide (((s.connectors.filter (fun x => x.1 == c.1 && (s.launch x.2.launch).vf == l.vf)).length +
    (new.filter (fun x => x.1 == c.1)).length) ≤ (s.vfun (c.1 / 128) l.vf).pillowShare))

/-! ## The cores made ready -/

/-- Memory without the bytes of a range. -/
def State.clearRange (s : State) (k n : Nat) : State :=
  let out (x : Nat) : Bool := decide (x < k) || decide (k + n ≤ x)
  { s with mem := s.mem.filter (fun c => out c.1), poison := s.poison.filter (fun x => out (32 * x)),
           races := s.races.filter (fun r => out (32 * r.1)) }

/-- A range of a launch's scratchpad cleared, but what its windows still hold: that is cleared when it is free (R329, R364). -/
def State.clearFree (s : State) (u k n : Nat) : State :=
  let xs := s.heldIn u k n
  if xs.isEmpty then s.clearRange k n
  else
    let out (x : Nat) : Bool := decide (x < k) || decide (k + n ≤ x) || xs.any (·.meets x 1)
    { s with mem := s.mem.filter (fun c => out c.1), poison := s.poison.filter (fun x => out (32 * x)),
             races := s.races.filter (fun r => out (32 * r.1)),
             exports := s.exports.map (fun x => if xs.contains x then { x with clear := true } else x) }

/-- The slices that no window holds any more are free; those that wait to be cleared are cleared (R329). -/
def State.releaseExports (s : State) : State :=
  let gone := s.exports.filter (fun x => !s.held x && !s.evictedKey x.launch x.key)
  let s := gone.foldl (fun s x => if x.clear then s.clearRange x.key x.len else s) s
  { s with exports := s.exports.filter (fun x => !gone.contains x) }

/-- A core prepared for a virtual core of launch `u`: 448 KiB cleared (R237), the handler table, SLOTW and the tenancy at their
reset values (R14, R25, R177), the helper section copied (R233 step 5). (DEDUCED, log entry 53) -/
def State.readyCore (s : State) (u g : Nat) : State :=
  let l := s.launch u
  let s := (s.clearFree u (spKey g 0) 0x5_0000).clearFree u (spKey g 0x6_0000) 0x2_0000
  s.modCore g (fun c =>
    { c with htab := Vector.ofFn (fun i => HEntry.reset i.val), rq := [], kick := Vector.replicate 8 none, waitList := [],
             slotw := l.slotw, slotwNew := none, half0 := 0, half1 := 0, pressure := false, chHolds := [], istore := l.helper,
             fwd := [], arrivals := [] })

/-- The handler contexts of a virtual core, in slots 4 − HANDLERS to 3 (R7, R293). -/
def Launch.handlersFor (l : Launch) (u vc g seen : Nat) : List Strand :=
  (List.range l.handlers).map (fun j =>
    let slot := 4 - l.handlers + j
    l.handlerAt { launch := u, seat := .handler vc slot, unit := .compute } { pkg := g / 2048, core := g % 2048, slot, vc } seen)

/-- Every core of a bound launch made ready. -/
def State.readyCores (s : State) (u : Nat) : State :=
  let l := s.launch u
  (List.range l.vcores).foldl (fun s vc =>
    match l.coreOf vc with
    | some g =>
      let s := s.readyCore u g
      let s := { s with rest := s.rest ++ l.handlersFor u vc g s.codeLog.length }
      if l.lockstep then { s with locks := AMap.put s.locks g (s.snapshot g) } else s
    | none => s) s

/-- Bytes written at a global address by the loader or the RDMA unit; a byte with no mapping is lost. -/
def State.writeGlobal (s : State) (pkg vf va : Nat) (bs : List Byte) : State :=
  bs.zipIdx.foldl (fun s (b, i) =>
    match s.globalKey pkg vf (va + i) with
    | some k => s.agentWrite k [b]
    | none => s) s

/-- The launch bound to logical clusters, with its buffers placed: none when its binding fails (R233 step 4). (DEDUCED, log entry 52) -/
def State.bindTo (s : State) (u : Nat) (clusters : List Nat) : Option State :=
  let l := { s.launch u with bind := clusters, chosen := [], state := .bound }
  match l.asImage.layout (l.records 2) [] with
  | none => none
  | some ps =>
    if !ps.all l.fits then none
    else match s.granuleRuns ps with
      | none => none
      | some gs =>
        let sh := ps.flatMap (l.shadowsOf u gs)
        if s.tooManyShadows sh then none
        else
          let pool := ps.foldl (fun pool p => modNth pool p.idx (fun _ => baseWord gs p)) l.pool
          let l := { l with pool, granules := gs.flatMap (fun g => (List.range g.2.2).map (fun j => (g.1, g.2.1 + j))) }
          let s := { s with launches := AMap.put s.launches u l, shadows := s.shadows ++ sh,
                            connectors := s.connectors ++ l.connectorsFor u }
          let s := l.pkgs.eraseDups.foldl (fun s p => ps.foldl (fun s (b : Placed) =>
            s.writeGlobal p l.vf (l.poolBase.toNat + 8 * b.idx) (leBytes 8 (baseWord gs b).toNat)) s) s
          some (s.readyCores u)

end Sys2Proof.Machine
end

