-- ==== Sys2Proof/Machine/Scheduler.lean ====
section
/-! DEFINITION. The scheduler: the choice of a launch head and of its logical clusters (R277, R280-R282), the placing of strands
(R283, R284), the completion of a launch (R193); eviction and restore (R289, R290, R322). -/

namespace Sys2Proof.Machine

/-! ## Logical clusters (R280, R281) -/

/-- The cluster paired with one under LOCKSTEP: c XOR 1 (R282). -/
def pairOf (c : Nat) : Nat := if c % 2 = 0 then c + 1 else c - 1

/-- A logical cluster takes virtual clusters: it has no unavailable core (R280). -/
def State.clusterOk (s : State) (c : Nat) : Bool :=
  s.alive (c / 128) && !((s.pkg (c / 128)).gradeB && decide (14 ≤ c % 16)) &&
    (List.range 16).all (fun i => !(s.core (c * 16 + i)).quarantined)

/-- The virtual cluster of a launch on a logical cluster, as its own or as the pair's second. -/
def Launch.clusterAt (l : Launch) (c : Nat) : Option Nat :=
  l.bind.findIdx? (fun b => b == c || (l.lockstep && pairOf b == c))

/-- The holder of a logical cluster: the launch and virtual cluster resident on it (R281). -/
def State.holder (s : State) (c : Nat) : Option (Nat × Nat) :=
  s.launches.findSome? (fun l =>
    if decide (l.2.state = .bound) then
      match l.2.clusterAt c with
      | some v => if l.2.evicted.contains v then none else some (l.1, v)
      | none => none
    else none)

/-- A choice of clusters in progress: those chosen, and the holders that give way. -/
structure Plan where
  chosen : List Nat
  gone : List (Nat × Nat)
  deriving DecidableEq, Repr

/-- The holders that give way so that a plan may take a logical cluster: none, where it is free; its holder, where that has a lower
priority (R281). -/
def State.giveWay (s : State) (p : Plan) (prio c : Nat) : Option (List (Nat × Nat)) :=
  if !s.clusterOk c || p.chosen.contains c then none
  else match s.holder c with
    | none => some []
    | some h => if p.gone.contains h then some [] else if (s.launch h.1).priority < prio then some [h] else none

/-- The logical clusters of a package in search order (R281). -/
def searchOrder (pkg die : Nat) : List Nat := (List.range 128).map (fun i => pkg * 128 + (die * 16 + i) % 128)

/-- The priority that holders give up, plus 1: the highest of theirs; 0 where nobody gives way. -/
def State.price (s : State) (hs : List (Nat × Nat)) : Nat := (hs.map (fun h => (s.launch h.1).priority + 1)).foldl Nat.max 0

/-- The next virtual cluster of a head chosen (R281); under LOCKSTEP, a pair of clusters (R282). -/
def State.planNext (s : State) (l : Launch) (p : Plan) (pkg : Nat) : Option Plan :=
  let units := (searchOrder pkg l.die).map (fun c => if l.lockstep then [c, pairOf c] else [c])
  let fits := units.filterMap (fun u => (u.mapM (s.giveWay p l.priority)).map (fun hs => (u, hs.flatten.eraseDups)))
  (fits.find? (fun x => fits.all (fun y => decide (s.price x.2 ≤ s.price y.2)))).map (fun x =>
    { chosen := p.chosen ++ x.1,
      gone := p.gone ++ x.2.flatMap (fun h => ((s.launch h.1).placementSet h.2).map (fun v => (h.1, v))) })

/-- The clusters for every virtual cluster of a head, on the packages of its list in turn (R274, R281, R393). (DEDUCED, log entry 54) -/
def State.clusterPlan (s : State) (l : Launch) : Option Plan :=
  (List.range l.grid).foldl (fun p v =>
    p.bind (fun p => (l.pkgs[v % l.pkgs.length]?).bind (fun pkg => s.planNext l p pkg))) (some { chosen := [], gone := [] })

/-- The plan for a head: the clusters chosen for it while their holders are evicted, while each of them is still free or held at a
lower priority; else a new one (R281). -/
def State.headPlan (s : State) (l : Launch) : Option Plan :=
  let kept := l.chosen.mapM (s.giveWay { chosen := [], gone := [] } l.priority)
  match l.chosen, kept with
  | _ :: _, some hs =>
    some { chosen := l.chosen, gone := (hs.flatten.flatMap (fun h => ((s.launch h.1).placementSet h.2).map (fun v => (h.1, v)))).eraseDups }
  | _, _ => s.clusterPlan l

/-- The clusters that appear in pointers: the first of each pair (R282). -/
def Plan.primary (p : Plan) (lockstep : Bool) : List Nat :=
  if lockstep then (p.chosen.zipIdx.filter (fun x => x.2 % 2 == 0)).map (·.1) else p.chosen

/-! ## Eviction (R289) -/

/-- The contexts of virtual clusters of a launch. -/
def State.setContexts (s : State) (u : Nat) (vs : List Nat) : List Strand :=
  s.contexts.filter (fun c => c.id.launch == u && vs.contains (c.place.vc / 16))

/-- Step 1 and the start of step 2 for one context: it stops, its offers are withdrawn, its remote access is cancelled, its
reservations are released. -/
def State.stop (s : State) (i : Sid) : State :=
  ((s.asStrand i (fun s => s.withdrawAll.cancelPend)).unhold i).modStrand i (fun c => { c with res := .evicted })

/-- The contexts of a placement set stop (R289 steps 1 and 2). -/
def State.stopSet (s : State) (u : Nat) (vs : List Nat) : State :=
  ((((s.setContexts u vs).filter (fun c => decide (c.res = .resident))).map (·.id)).foldl State.stop s).modLaunch u (fun l =>
    { l with stopping := l.stopping ++ vs.filter (fun v => !l.stopping.contains v) })

/-- A context has stopped and nothing of its own is undecided (R289 step 2, R209, R252, R337); its gang accesses are performed. -/
def Strand.settled (c : Strand) : Bool :=
  decide (c.res ≠ .resident) && !c.amops.any (·.gang) &&
    !c.ports.any (fun p => match p.2 with | .offered _ _ => true | .decided _ _ _ => false) &&
    !c.pend.any (fun p => p.waiting && (decide (p.on = .reply) || decide (p.on = .request) || decide (p.on = .publish)))

/-- Matrix instructions of a core that run to their end before its context is saved: all but those that take rows
(R175). -/
def Core.mustFinish (c : Core) : Bool :=
  (c.mq0 ++ c.mq1).any (fun o => o.started && (match o.kind with
    | .mmulMem _ _ _ => false
    | .mmulQueue _ _ _ => false
    | .mmuls _ _ _ => false
    | _ => true))

/-- The virtual cores of virtual clusters. -/
def vcoresOf (vs : List Nat) : List Nat := vs.flatMap (fun v => (List.range 16).map (v * 16 + ·))

/-- Everything of a placement set is resolved: its context may be saved. -/
def State.setSettled (s : State) (u : Nat) (vs : List Nat) : Bool :=
  (s.setContexts u vs).all (fun c => c.settled || decide (c.res = .moving)) &&
    (vcoresOf vs).all (fun vc => match (s.launch u).coreOf vc with | some g => !(s.core g).mustFinish | none => true)

/-- A key lies in a core's scratchpad. -/
def inCore (g k : Nat) : Bool := decide (spKey g 0 ≤ k) && decide (k < spKey g 0 + 2 ^ 19)

/-- The instructions of a matrix queue stopped at a row boundary, with nothing pinned (R175, R343). -/
def parkAll (q : List MatOp) : List MatOp := q.map (fun (o : MatOp) => { o with started := false, pins := [] })

/-- The context of one virtual core goes to its save area (R289 step 3). -/
def State.saveCore (s : State) (u vc g : Nat) : State :=
  let c := s.core g
  let mem : SavedMem :=
    { cells := s.mem.filter (fun x => inCore g x.1), poison := s.poison.filter (fun x => inCore g (32 * x)),
      shadows := s.shadows.filter (fun h => inCore g h.base), races := s.races.filter (fun r => inCore g (32 * r.1)) }
  let s := { s with savedCores := AMap.put s.savedCores (u, vc) { c with mq0 := parkAll c.mq0, mq1 := parkAll c.mq1 },
                    savedMem := AMap.put s.savedMem (u, vc) mem,
                    shadows := s.shadows.filter (fun h => !inCore g h.base), locks := AMap.drop s.locks g }
  ((s.modRq g (fun _ => [])).clearRange (spKey g 0) (2 ^ 19)).modCore g (fun (k : Core) =>
    { Core.reset with inj := k.inj, sys := k.sys, told := k.told, remap := k.remap, quarantined := k.quarantined })

/-- A placement set saved: its logical clusters are free (R289 steps 3 and 4). -/
def State.saveSet (s : State) (u : Nat) (vs : List Nat) : State :=
  let s := (vcoresOf vs).foldl (fun s vc => match (s.launch u).coreOf vc with | some g => s.saveCore u vc g | none => s) s
  s.modLaunch u (fun l => { l with evicted := l.evicted ++ vs, stopping := l.stopping.filter (fun v => !vs.contains v) })

/-- The placement set of a virtual cluster without those that were lost with their logical cluster (R285, R365). -/
def State.keptSet (s : State) (u v : Nat) : List Nat :=
  ((s.launch u).placementSet v).filter (fun v => ((s.launch u).bind[v]?).any s.clusterOk)

/-- An eviction begun, or carried on: the set stops; once all is resolved, it is saved. -/
def State.evict (s : State) (u v : Nat) : State :=
  let vs := s.keptSet u v
  if (s.launch u).evicted.contains v || !decide ((s.launch u).state = .bound) then s
  else
    let s := s.stopSet u vs
    if s.setSettled u vs then s.saveSet u vs else s

/-- Evictions that have begun are carried on, whatever their cause has become (R289). -/
def State.evictOn (s : State) : State :=
  s.launches.foldl (fun s l => match l.2.stopping with
    | v :: _ => s.evict l.1 v
    | [] => s) s

/-- `EVICTION` (R289): the placement set of virtual cluster `key mod 128` of launch `key / 128`. -/
def execEviction (key : Nat) (s : State) : Out := .next (s.evict (key / 128) (key % 128))

/-! ## Restore (R289, R322) -/

/-- The virtual core's context comes back to its core, in the place of whatever another launch left there (R237, R289). -/
def State.loadCore (s : State) (u vc g : Nat) : State :=
  match AMap.get s.savedCores (u, vc), AMap.get s.savedMem (u, vc) with
  | some c, some m =>
    let s := s.clearRange (spKey g 0) (2 ^ 19)
    let s := { s with savedCores := AMap.drop s.savedCores (u, vc), savedMem := AMap.drop s.savedMem (u, vc),
                      mem := m.cells.foldl (fun mem (x : Host.Cell) => Memory.put mem x.1 x.2) s.mem, poison := s.poison ++ m.poison,
                      shadows := s.shadows ++ m.shadows, races := m.races.foldl (fun r (x : Nat × RaceRec) => AMap.put r x.1 x.2) s.races }
    let s := s.modCore g (fun (k : Core) =>
      { c with rq := [], pressure := false, inj := k.inj, sys := k.sys, told := k.told, remap := k.remap, quarantined := k.quarantined,
               shifting := false })
    (s.modRq g (fun _ => c.rq)).learn g
  | _, _ => s

/-- A context resumes: a blocked test, PUT or GET has not run again yet, and reports anew when it does (R322). -/
def Strand.resume (c : Strand) : Strand :=
  { c with res := if c.res = .evicted then .resident else c.res,
           pend := c.pend.map (fun p => match p.on with
             | .signal _ => { p with again := true }
             | .port _ => { p with again := true }
             | _ => p) }

/-- The resumed members of a launch's domains that were blocked run again: they report so, and until their home has heard it, nothing of
the domain is judged (R322; DEDUCED, log entry 54). -/
def State.renewMembers (s : State) (u : Nat) (mine : Sid → Bool) : State :=
  (s.groups.filter (fun g => g.launch == u && g.reactive)).foldl (fun s g =>
    (g.members.filter (fun m => m.inside && mine m.sid && (s.strand? m.sid).any Strand.blockedThere)).foldl (fun s m =>
      (s.modGroup g.launch g.gid (fun g => g.modMember m.idx (fun m => { m with renew := true }))).asStrand m.sid
        (fun s => s.report g (.unblock g.launch g.gid m.idx))) s) s

/-- Every logical cluster of an evicted set is free (R285). -/
def State.setFree (s : State) (u : Nat) (vs : List Nat) : Bool :=
  let l := s.launch u
  vs.all (fun v => match l.bind[v]? with
    | some c => s.clusterOk c && (s.holder c).isNone && (!l.lockstep || (s.holder (pairOf c)).isNone)
    | none => false)

/-- The virtual clusters of a placement set that are evicted. -/
def State.savedSet (s : State) (u v : Nat) : List Nat := ((s.launch u).placementSet v).filter (s.launch u).evicted.contains

/-- The evicted sets, in eviction order: launch and first virtual cluster. -/
def State.evictedSets (s : State) : List (Nat × Nat) := (s.savedCores.map (fun e => (e.1.1, e.1.2 / 16))).eraseDups

/-- The ready heads of a package's queues, with their virtual function and queue. -/
def State.heads (s : State) (pkg : Nat) : List (Nat × Nat × Nat) :=
  (s.pkg pkg).queues.filterMap (fun e => match e.2 with
    | u :: _ => if s.headReady u then some (u, e.1.1, e.1.2) else none
    | [] => none)

/-- A launch head of strictly higher priority takes one of the logical clusters of an evicted set (R281, R289). -/
def State.claimed (s : State) (u : Nat) (vs : List Nat) : Bool :=
  let l := s.launch u
  let cs := (vs.filterMap (fun v => l.bind[v]?)).flatMap (fun c => if l.lockstep then [c, pairOf c] else [c])
  s.pkgs.any (fun p => (s.heads p.1).any (fun h => decide (l.priority < (s.launch h.1).priority) &&
    (s.headPlan (s.launch h.1)).any (fun p => p.chosen.any cs.contains)))

/-- A set is the next to be restored: among those whose clusters are free and claimed by no head, in priority order and then in
eviction order. -/
def State.mayRestore (s : State) (u v : Nat) : Bool :=
  let fs := s.evictedSets.filter (fun e =>
    let vs := s.savedSet e.1 e.2
    s.setFree e.1 vs && !s.claimed e.1 vs)
  match fs.find? (fun e => fs.all (fun x => (s.launch x.1).priority ≤ (s.launch e.1).priority)) with
  | some e => e.1 == u && (s.savedSet u e.2).contains v
  | none => false

/-- The segments of contexts' operations that wait in their trackers set out again (R349). -/
def State.recommand (s : State) (mine : Sid → Bool) : State :=
  (s.ops.filter (fun o => mine o.2.owner)).foldl (fun s o => s.commands o.1) s

/-- The strands of a core run in lock step, where the other core of its pair is not quarantined (R282, R370). -/
def State.pairUp (s : State) (g : Nat) : State :=
  if (s.core (pairOf (g / 16) * 16 + g % 16)).quarantined then s else { s with locks := AMap.put s.locks g (s.snapshot g) }

/-- A placement set restored. -/
def State.loadSet (s : State) (u : Nat) (vs : List Nat) : State :=
  let s := (vcoresOf vs).foldl (fun s vc => match (s.launch u).coreOf vc with | some g => s.loadCore u vc g | none => s) s
  let mine (i : Sid) : Bool := i.launch == u && (s.strand? i).any (fun (c : Strand) => vs.contains (c.place.vc / 16))
  let go (c : Strand) : Strand := if c.id.launch = u ∧ vs.contains (c.place.vc / 16) then c.resume else c
  let s := { s with me := go s.me, rest := s.rest.map go }
  let s := if (s.launch u).lockstep then
    (vcoresOf vs).foldl (fun s vc => match (s.launch u).coreOf vc with
      | some g => s.pairUp g
      | none => s) s else s
  (s.modLaunch u (fun l => { l with evicted := l.evicted.filter (fun v => !vs.contains v) })).recommand mine |>.renewMembers u mine

/-- `RESTORE` (R289): the placement set of virtual cluster `key mod 128` of launch `key / 128`. -/
def execRestore (key : Nat) (s : State) : Out :=
  if s.mayRestore (key / 128) (key % 128) then .next (s.loadSet (key / 128) (s.savedSet (key / 128) (key % 128)))
  else .next s

/-! ## The choice of a launch (R277) -/

/-- The rank of a head: priority, then the rotations (R277). -/
def State.rank (s : State) (pkg : Nat) (h : Nat × Nat × Nat) : Nat :=
  let p := s.pkg pkg
  let f := match p.lastVf with | some v => v + 1 | none => 0
  let q := match AMap.get p.lastQ h.2.1 with | some q => q + 1 | none => 0
  (7 - (s.launch h.1).priority) * 2048 + (h.2.1 + 16 - f % 16) % 16 * 128 + (h.2.2 + 128 - q % 128) % 128

/-- A list in rising order of a rank. -/
def rankBy {α : Type} (f : α → Nat) (l : List α) : List α :=
  l.foldr (fun a r => r.takeWhile (fun b => decide (f b < f a)) ++ [a] ++ r.dropWhile (fun b => decide (f b < f a))) []

/-- A chosen head is bound, or refused (R233), and the rotations move on. -/
def State.bindHead (s : State) (pkg : Nat) (h : Nat × Nat × Nat) (clusters : List Nat) : State :=
  let s := s.modPkg pkg (fun p => { p with lastVf := some h.2.1, lastQ := AMap.put p.lastQ h.2.1 h.2.2 })
  match (s.unqueue h.1).bindTo h.1 clusters with
  | some t => t
  | none => s.refuseLaunch h.1

/-- The heads tried in order: the first one that finds its clusters is bound; where lower holders must give way, they are
evicted first, and the head keeps the clusters chosen for it; a head that cannot be bound keeps its place (R277, R281). -/
def State.selectFrom (s : State) (pkg : Nat) : List (Nat × Nat × Nat) → State
  | [] => s
  | h :: hs =>
    let l := s.launch h.1
    match s.headPlan l with
    | none => s.selectFrom pkg hs
    | some p =>
      if !s.pillowShareOk { l with bind := p.primary l.lockstep } h.1 then s.selectFrom pkg hs
      else if p.gone.isEmpty then s.bindHead pkg h (p.primary l.lockstep)
      else p.gone.foldl (fun s w => s.evict w.1 w.2) (s.modLaunch h.1 (fun l => { l with chosen := p.chosen }))

/-- `LAUNCH_SELECT` (R277): the scheduler of a package. (DEDUCED, log entry 54) -/
def execLaunchSelect (pkg : Nat) (s : State) : Out :=
  .next (s.selectFrom pkg (rankBy (s.rank pkg) (s.heads pkg)))

/-! ## Placing strands (R283, R284) -/

/-- The threads of a virtual core, in rising order (R281). -/
def Launch.threadsOn (l : Launch) (vc : Nat) : List Nat :=
  let v := l.vcores
  let b := (l.threads + v - 1) / v
  (if l.cyclic then (List.range ((l.threads + v - 1) / v)).map (fun k => vc + k * v)
   else (List.range b).map (vc * b + ·)).filter (· < l.threads)

/-- The unstarted threads of a virtual core. -/
def Launch.unstarted (l : Launch) (vc : Nat) : List Nat := (l.threadsOn vc).filter (fun t => !l.started.contains t)

/-- The flagged groups that list a thread, with those that share a strand with one of them: they start together (R284). -/
def Launch.startsWith (l : Launch) (t : Nat) : List Nat :=
  let rs := l.groupRecs
  (List.range rs.length).foldl (fun ts _ =>
    rs.foldl (fun ts r => if r.threads.any ts.contains then ts ++ r.threads.filter (fun x => !ts.contains x) else ts) ts) [t]

/-- The lowest unstarted strand of a virtual core waits for its group: its free slots are held. -/
def Launch.heldFor (l : Launch) (vc : Nat) : Option (List Nat) :=
  match l.unstarted vc with
  | t :: _ => if l.groupRecs.any (fun r => r.threads.contains t) then Option.some (l.startsWith t) else Option.none
  | [] => Option.none

/-- The free placed slots of a core of a launch, in rising order: no strand stands there, running or stopped, and no window holds a
byte of its slice (R329). -/
def State.freeSlots (s : State) (u g : Nat) : List Nat :=
  (List.range (4 - (s.launch u).handlers)).filter (fun sl => !s.contexts.any (fun c =>
    c.place.gcore == g && c.place.slot == sl && !c.id.isHandler && decide (c.id.unit = .compute) &&
      (decide (c.res = .resident) || (decide (c.res = .evicted) && c.id.launch == u))) &&
    (s.heldIn u (spKey g (0x5_0000 + sl * 0x4000)) 0x4000).isEmpty)

/-- A private slice made ready for a strand: its bytes zero, the first halves of its shadowed buffers active (R237; DEDUCED, log
entry 6). -/
def State.freshSlice (s : State) (g slot : Nat) : State :=
  let k := spKey g (0x5_0000 + slot * 0x4000)
  let s := s.clearRange k 0x4000
  { s with shadows := s.shadows.map (fun (h : Shadow) => if decide (k ≤ h.base) && decide (h.base < k + 0x4000) then { h with second := false } else h) }

/-- An unstarted strand starts in a slot (R283, R27, R8). (DEDUCED, log entry 53) -/
def State.startStrand (s : State) (u vc g slot t : Nat) : State :=
  let l := s.launch u
  let i : Sid := { launch := u, seat := .placed t, unit := .compute }
  let c : Strand := { (Strand.fresh i { pkg := g / 2048, core := g % 2048, slot, vc }).setX 10 (BitVec.ofNat 64 t) with
    pc := nth l.words.toList 0 0, sqcap := BitVec.ofNat 64 l.sqcap, racecfg := l.racecfg, live := true, synced := s.codeLog.length }
  let s := ((s.freshSlice g slot).learn g).modCore g (fun k => { k with slotw := l.slotw, slotwNew := none })
  let s := { s with rest := s.rest ++ [c], queues := AMap.put s.queues (u, .placed t) .empty }
  let s := s.modLaunch u (fun l => { l with started := l.started ++ [t] })
  let s := match s.graphOf u with
    | some (_, gr) => if gr.nodes.any (fun (n : GNode) => n.launch == some u && decide (n.st = NodeState.ready)) then s.setNode u .running else s
    | none => s
  s.advanceCheckpoint g

/-- The first strands of a virtual core start in its free slots, as many as are listed. -/
def State.startAll (s : State) (u vc : Nat) (ts : List Nat) : State :=
  match (s.launch u).coreOf vc with
  | some g => (ts.zip (s.freeSlots u g)).foldl (fun s x => s.startStrand u vc g x.2 x.1) s
  | none => s

/-- A group may start: each virtual core of its strands is resident and holds a slot for each of them, and they are its
lowest unstarted strands (R284). -/
def State.groupReady (s : State) (u : Nat) (ts : List Nat) : Bool :=
  let l := s.launch u
  let vcs := (ts.map l.vcOfThread).eraseDups
  vcs.all (fun vc =>
    let mine := ts.filter (fun t => l.vcOfThread t == vc)
    !l.evicted.contains (vc / 16) && !l.stopping.contains (vc / 16) && ((l.unstarted vc).take mine.length).all mine.contains &&
      (match l.coreOf vc with | some g => !(s.core g).shifting && decide (mine.length ≤ (s.freeSlots u g).length) | none => false))

/-- A group starts in one step. -/
def State.startGroup (s : State) (u : Nat) (ts : List Nat) : State :=
  let l := s.launch u
  ((ts.map l.vcOfThread).eraseDups).foldl (fun s vc => s.startAll u vc ((l.unstarted vc).filter ts.contains)) s

/-- The banks that a strand which moved has given up, with work on them still to come (R162, R175). -/
def Cargo.leaving (a : Cargo) : List Nat :=
  a.work.flatMap (fun o => if o.kind = .rel then (List.range o.banks).map (o.base + ·) else [])

/-- The banks that a context holds. -/
def Strand.banks (c : Strand) : List Nat := c.allocs.flatMap (fun a => (List.range a.n).map (a.base + ·))

/-- A strand that arrived may take a slot: its banks are free here, and those it holds are within the budget (R199, R275). -/
def State.banksFit (s : State) (u vc g : Nat) (a : Cargo) (c : Strand) : Bool :=
  let here := s.contexts.filter (fun x => x.id.launch == u && x.place.vc == vc && decide (x.res ≠ .moving) && decide (x.res ≠ .ended))
  decide ((here.map (·.banks.length)).sum + c.banks.length ≤ (s.launch u).accum) &&
    (c.banks ++ a.leaving).all (fun b => decide ((s.core g).bankState b = .free))

/-- A matrix instruction whose memory has moved. -/
def MatOp.rekey (o : MatOp) (f : Nat → Nat) : MatOp :=
  { o with kind := match o.kind with
      | .mcbl src => .mcbl (src.map f)
      | .mwld fm k src => .mwld fm k (src.map (·.map f))
      | .mmulMem i t rows => .mmulMem i t (rows.map (·.map f))
      | .mdrain w i t rm dst sc bar => .mdrain w i t rm (dst.map (·.map f)) (sc.map (·.map f)) (bar.map f)
      | k => k,
           dst := o.dst.map (fun r => { r with key := f r.key }), olds := o.olds.map (fun x => { x with key := f x.key }) }

/-- A strand that arrived takes a slot with what it brought (R199). At a core split otherwise its latched tile keeps its K, and its work
enters half 0 where its slot has no tenancy (DEDUCED, log entry 42). -/
def State.settleIn (s : State) (g slot : Nat) (a : Cargo) : State :=
  let k := spKey g (0x5_0000 + slot * 0x4000)
  let old := spKey a.from_.gcore (0x5_0000 + a.from_.slot * 0x4000)
  let f (x : Nat) : Nat := if old ≤ x ∧ x < old + 0x4000 then k + (x - old) else x
  let s := (s.freshSlice g slot).learn g
  let s := { s with mem := a.slice.foldl (fun m (x : Nat × Byte) => Memory.put m (k + x.1) x.2) s.mem }
  let banks := match s.strand? a.sid with
    | some c => c.banks
    | none => []
  let put (c : Strand) : Strand :=
    if c.id.launch = a.sid.launch ∧ c.id.seat = a.sid.seat then { c with place := { c.place with slot }, res := .resident } else c
  let s := s.modCore g (fun (c : Core) =>
    let c := { c with arrivals := c.arrivals.filter (fun x => !decide (x.sid = a.sid)),
                      banks := Vector.ofFn (fun b => if banks.contains b.val then .held a.sid else if a.leaving.contains b.val then .leaving a.sid
                        else c.banks.get b),
                      cells := a.cells.foldl (fun m (x : Nat × W32) => AMap.put m x.1 x.2) c.cells, cellPoison := c.cellPoison ++ a.poison }
    let t := (c.tenant slot).getD false
    c.setMq t (c.mq t ++ a.work.map (fun (o : MatOp) => o.rekey f)))
  { s with me := put s.me, rest := s.rest.map put }.advanceCheckpoint g

/-- A free placed slot is filled: by the earliest arrival whose banks are free, unless the slot is held for a group; by the
group it is held for, once that can start; or by the lowest unstarted strand (R283, R284). -/
def State.fillSlot (s : State) (u vc g slot : Nat) : State :=
  let l := s.launch u
  match l.heldFor vc with
  | some ts => if s.groupReady u ts then s.startGroup u ts else s
  | none =>
    match (s.core g).arrivals.find? (fun a => (s.strand? a.sid).any (s.banksFit u vc g a)) with
    | some a => s.settleIn g slot a
    | none =>
      match l.unstarted vc with
      | t :: _ => s.startStrand u vc g slot t
      | [] => s

/-- `STRAND_PLACE` (R283): the lowest free placed slot of a core, since strands take slots in rising order. -/
def execStrandPlace (core slot : Nat) (s : State) : Out :=
  match s.holder (core / 16) with
  | some (u, v) =>
    let l := s.launch u
    if l.bind[v]? = some (core / 16) ∧ (s.freeSlots u core).head? = some slot ∧ !l.stopping.contains v ∧ !(s.core core).shifting then .next (s.fillSlot u (v * 16 + core % 16) core slot)
    else .next s
  | none => .next s

/-! ## Completion (R193) -/

/-- A launch may complete: every strand has ended and no work of them runs, and no activation runs (R193, R192). A message
that a killed strand left queued is discarded then (R193, R357). -/
def State.mayComplete (s : State) (u : Nat) : Bool :=
  let l := s.launch u
  decide (l.state = .bound) && decide (l.threads ≤ l.ended.length) &&
    s.contexts.all (fun c => c.id.launch != u || (if c.id.isHandler then !c.live else decide (c.res = .ended) && !s.inWork c.id))

/-- Everything of a launch leaves the machine: its contexts, messages, notices and pending activations, its groups,
connectors, shadowed buffers and granules. -/
def State.dissolveLaunch (s : State) (u : Nat) : State :=
  let l := s.launch u
  let s := l.cores.foldl (fun s g =>
    match s.holder (g / 16) with
    | some (w, _) => if w = u then
        (s.modRq g (fun _ => [])).modCore g (fun (c : Core) =>
          { c with kick := Vector.replicate 8 none, waitList := [], istore := none, fwd := [], arrivals := [], chHolds := [],
                   banks := Vector.ofFn (fun b => match c.banks.get b with
                     | .held i => if i.launch = u then .clearing else .held i
                     | .leaving i => if i.launch = u then .clearing else .leaving i
                     | x => x) })
      else s
    | none => s) s
  let drop (q : List InjEntry) : List InjEntry := q.filter (fun e => e.launch != u)
  { s with me := if s.me.id.launch = u then .nobody else s.me, rest := s.rest.filter (fun c => c.id.launch != u),
           queues := s.queues.filter (fun q => q.1.1 != u),
           cores := s.cores.map (fun (c : Nat × Core) => (c.1, { c.2 with inj := drop c.2.inj, sys := drop c.2.sys })),
           groups := s.groups.filter (fun g => g.launch != u), exports := s.exports.filter (fun x => x.launch != u), connectors := s.connectors.filter (fun c => c.2.launch != u),
           shadows := s.shadows.filter (fun h => h.launch != u), savedCores := s.savedCores.filter (fun e => e.1.1 != u),
           savedMem := s.savedMem.filter (fun e => e.1.1 != u), locks := s.locks.filter (fun (e : Nat × LockStep) => !(l.cores.contains e.1 && (s.holder (e.1 / 16)).any (fun (h : Nat × Nat) => h.1 == u))) }.modLaunch u (fun l => { l with granules := [], bind := [], evicted := [], stopping := [] })

end Sys2Proof.Machine
end

