-- ==== Sys2Proof/Machine/Errors.lean ====
section
/-! DEFINITION. Errors: scrubbing and poison (R361, R362), quarantine (R363-R365), and lock-step pairs: the egress hold,
the checkpoint and the rollback (R366-R370). -/

namespace Sys2Proof.Machine

/-! ## Lock-step pairs (R366-R369) -/

/-- The primary core of the pair that a core belongs to (R282). -/
def State.pairAt (s : State) (g : Nat) : Option Nat :=
  let q := pairOf (g / 16) * 16 + g % 16
  if (AMap.get s.locks g).isSome then some g
  else if (AMap.get s.locks q).isSome then some q else none

/-- `EGRESS_RELEASE` (R367): every comparison up to the oldest held effect has matched; its instruction runs again and lets
the effect go. -/
def execEgressRelease (core : Nat) (s : State) : Out :=
  match AMap.get s.locks core with
  | some l =>
    match l.held with
    | i :: r => .next ((s.modLock core (fun l => { l with held := r })).modStrand i (fun c => { c with released := true, wait := none }))
    | [] => .next s
  | none => .next s

/-- `CHECKPOINT_ADVANCE` (R367). -/
def execCheckpointAdvance (core : Nat) (s : State) : Out := .next (s.advanceCheckpoint core)

/-- Poison marks as they were at a checkpoint, in the sectors that its log holds (R368, R369). -/
def LockStep.poisonBack (l : LockStep) (ps : List Nat) : List Nat :=
  let logged (x : Nat) : Bool := l.log.any (fun c => c.1 / 32 == x)
  ps.filter (fun x => !logged x) ++ l.poison.filter logged

/-- Both cores go back to the checkpoint: unreleased effects are discarded, the contexts, queue registers and core record
are those of the checkpoint, and the scratchpad log is undone (R369). Contexts that have stopped stay so. -/
def State.rollTo (s : State) (g : Nat) (l : LockStep) : State :=
  let here (c : Strand) : Bool := s.standsAt c g || l.check.any (fun x => decide (x.id = c.id))
  let stopped := s.contexts.any (fun c => s.standsAt c g && decide (c.res = .evicted))
  let back := l.check.map (fun (c : Strand) => if stopped then { c with res := .evicted } else c)
  let rest := s.rest.filter (fun c => !here c)
  let queues := s.queues.filter (fun e => !s.contexts.any (fun c => here c && c.id.launch == e.1.1 && decide (c.id.seat = e.1.2)))
  let s := { s with me := if here s.me then .nobody else s.me, rest := rest ++ back,
                    queues := queues ++ l.queues.map (fun (q : Nat × Seat × SlotQueues) => ((q.1, q.2.1), q.2.2)),
                    mem := l.log.foldl (fun m (c : Host.Cell) => Memory.put m c.1 c.2) s.mem, poison := l.poisonBack s.poison }
  (s.modCore g (fun k => { l.core with shifting := k.shifting })).modLock g (fun l => { l with log := [], held := [], rolls := l.rolls + 1 })

/-- The package, and the key of the row, of a core: die * 16 + row (R21). -/
def rowOf (g : Nat) : Nat × Nat := (g / 2048, g % 2048 / 256 * 16 + (4 * (g % 256 / 16 / 4) + g % 16 / 4))

/-- The logical column of a core (R21). -/
def columnOf (g : Nat) : Nat := 4 * (g % 256 / 16 % 4) + g % 16 % 4

/-! ## Quarantine (R363-R365) -/

/-- A notice that waits in a lost virtual core is acknowledged by the C9: its sender's operation completes (R364, R348). -/
def State.acknowledge (s : State) (g : Nat) (k : Kick) : State :=
  match s.noticeOf k.launch k.handle with
  | some (_, op) => s.send .rpy g (s.ownerCore op.owner) (.nack k.launch k.handle)
  | none => s

/-- What a virtual core held is discarded: its messages; its notices are acknowledged; it starts anew on its place (R364). -/
def State.discardCore (s : State) (u g : Nat) : State :=
  let c := s.core g
  let s := (c.kick.toList.filterMap id ++ c.waitList).foldl (fun s k => s.acknowledge g k) s
  let s := (s.modRq g (fun _ => [])).readyCore u g
  { s with rest := s.rest.map (fun (x : Strand) =>
      if x.id.launch = u ∧ x.place.gcore = g ∧ x.id.isHandler then (s.launch u).handlerAt x.id x.place x.synced else x) }

/-- Every strand, handler activation and helper of a virtual core is lost (R363 step 3). -/
def State.loseCore (s : State) (u g reason unit : Nat) : State :=
  let cs := s.contexts.filter (fun c => c.id.launch == u && c.place.gcore == g && decide (c.id.unit = .compute) &&
    (if c.id.isHandler then c.live else decide (c.res ≠ .ended)))
  ((cs.map (·.id)).foldl (fun s i => s.lose i reason unit) s).discardCore u g

/-- An unstarted strand of an unavailable virtual cluster is lost (R365). -/
def State.loseUnstarted (s : State) (u vc unit : Nat) : State :=
  ((s.launch u).unstarted vc).foldl (fun s t =>
    let f : FaultRec := { tid := t, ecause := ecauseOf Cause.mchk .s 0, epc := 0, eaddr := 0, einfo := lossInfo t 2 unit, mchk := true }
    (s.modLaunch u (fun l => { ((l.finish t).fault f) with started := l.started ++ [t] })).systemEvent u 0 Cause.mchk (lossInfo t 2 unit)) s

/-- The saved context of an evicted virtual core is given up: its notices are acknowledged, its strands hold nothing of a core. -/
def State.dropSaved (s : State) (u vc g : Nat) : State :=
  match AMap.get s.savedCores (u, vc) with
  | none => s
  | some c =>
    let s := (c.kick.toList.filterMap id ++ c.waitList).foldl (fun s k => s.acknowledge g k) s
    let bare (x : Strand) : Strand :=
      if x.id.launch = u ∧ x.place.vc = vc then { x with current := none, act := none, allocs := [], res := .resident } else x
    { s with savedCores := AMap.drop s.savedCores (u, vc), savedMem := AMap.drop s.savedMem (u, vc), me := bare s.me, rest := s.rest.map bare }

/-- Every strand of a virtual cluster is lost, with its save area where it is evicted (R365). (DEDUCED, log entry 55) -/
def State.loseCluster (s : State) (u v unit : Nat) : State :=
  let s := (List.range 16).foldl (fun s k =>
    match (s.launch u).coreOf (v * 16 + k) with
    | some g => ((({ s with locks := AMap.drop s.locks g } : State).dropSaved u (v * 16 + k) g).loseCore u g 2 unit).loseUnstarted u (v * 16 + k) unit
    | none => s) s
  s.modLaunch u (fun l => { l with evicted := l.evicted.filter (· != v), stopping := l.stopping.filter (· != v) })

/-- The launches and virtual clusters bound on a logical cluster, resident or evicted (R281, R365). -/
def State.boundTo (s : State) (c : Nat) : List (Nat × Nat) :=
  s.launches.filterMap (fun l => if decide (l.2.state = .bound) then (l.2.clusterAt c).map (fun v => (l.1, v)) else none)

/-! ## The shift of a row (R364) -/

/-- A virtual core starts to move one column: its contexts stop as for an eviction (R364, R289). -/
def State.shiftCore (s : State) (g : Nat) : State :=
  (((s.contexts.filter (fun c => c.place.gcore == g && decide (c.res = .resident))).map (fun c => c.id)).foldl State.stop s).modCore g
    (fun k => { k with shifting := true })

/-- Everything of a moving virtual core is resolved (R289 step 2, R175). -/
def State.shiftSettled (s : State) (g : Nat) : Bool :=
  s.contexts.all (fun (c : Strand) => !(c.place.gcore == g) || decide (c.res = .moving) || decide (c.res = .ended) || c.settled) && !(s.core g).mustFinish

/-- A virtual core has moved: its contexts resume as after a restore, under the same core ID, unless its placement set is being
evicted (R364, R322). -/
def State.shiftDone (s : State) (g : Nat) : State :=
  let s := s.modCore g (fun k => { k with shifting := false, mq0 := parkAll k.mq0, mq1 := parkAll k.mq1 })
  match s.holder (g / 16) with
  | some (u, v) =>
    if (s.launch u).stopping.contains v then s
    else
      let go (c : Strand) : Strand := if s.standsAt c g then c.resume else c
      let mine (i : Sid) : Bool := (s.strand? i).any (s.standsAt · g)
      (({ s with me := go s.me, rest := s.rest.map go } : State).recommand mine).renewMembers u mine
  | none => s

/-- The moves that are resolved end (R364). -/
def State.shiftOn (s : State) : State :=
  s.cores.foldl (fun s c => if c.2.shifting && s.shiftSettled c.1 then s.shiftDone c.1 else s) s

/-- The cores of a row to the right of a column (R363 step 4), highest column first. -/
def rightOf (g : Nat) : List Nat :=
  let (pkg, row) := rowOf g
  ((List.range 2048).map (fun i => pkg * 2048 + i)).filter (fun h => decide ((rowOf h).2 = row) && decide (columnOf g < columnOf h)) |>.reverse

/-- The quarantine recorded: the row's column, the part report's entry, and the event to the hypervisor (R280, R363 step 5,
R394). -/
def State.recordQuarantine (s : State) (g unit : Nat) : State :=
  let (pkg, row) := rowOf g
  let p := s.pkg pkg
  let s := s.modPkg pkg (fun p =>
    { p with quarList := p.quarList ++ [(g % 2048, unit, p.bootCount)],
             quar := if (AMap.get p.quar row).isSome then p.quar else AMap.put p.quar row (columnOf g) })
  let s := if (AMap.get p.quar row).isSome then s.modCore g (fun c => { c with quarantined := true }) else s
  s.hostEvent 0xFF 2 (leBytes 4 pkg ++ leBytes 2 (g % 2048) ++ leBytes 1 unit ++ leBytes 1 0 ++ leBytes 8 p.bootCount)

/-- The strands that a quarantine in a row that cannot shift loses: those of every virtual cluster bound on the logical cluster;
where the core was the second of a pair that still stands, the first goes on unpaired (R365, R370). -/
def State.loseRow (s : State) (g unit : Nat) : State :=
  (s.boundTo (g / 16)).foldl (fun s x =>
    if (s.launch x.1).bind[x.2]? = some (g / 16) then s.loseCluster x.1 x.2 unit
    else
      let p := pairOf (g / 16) * 16 + g % 16
      if (AMap.get s.locks p).isNone then s
      else ({ s with locks := AMap.drop s.locks p }).systemEvent x.1 0 Cause.mchk (lossInfo 0 2 unit)) s

/-- A core is quarantined: its pair rolls back first. A first one of its row is replaced by the shift, which a pair goes through as
one; a second one makes its logical cluster unavailable (R363-R365, R370). -/
def State.quarantine (s : State) (g unit : Nat) : State :=
  let (pkg, row) := rowOf g
  let paired := s.pairAt g
  let s := match paired.bind (fun p => (AMap.get s.locks p).map (fun l => (p, l))) with
    | some (p, l) => s.rollTo p l
    | none => s
  if (AMap.get (s.pkg pkg).quar row).isSome then (s.loseRow g unit).recordQuarantine g unit
  else
    let s := match s.holder (g / 16) with
      | some (u, _) => if paired.isSome then s else s.loseCore u g 2 unit
      | none => s
    let moved := (paired.toList ++ (rightOf g).map (fun h => (s.pairAt h).getD h)).eraseDups
    (moved.foldl State.shiftCore s).recordQuarantine g unit

/-- `QUARANTINE` (R363): the core, and the unit that failed. (DEDUCED, log entry 55) -/
def execQuarantine (core unit : Nat) (s : State) : Out := .next (s.quarantine core unit)

/-- A rollback; the third to one checkpoint ends the pair: its strands are lost, and both cores are quarantined (R369). -/
def State.rollback (s : State) (g : Nat) (l : LockStep) : State :=
  if l.rolls < 2 then s.rollTo g l
  else
    let s := s.rollTo g l
    let s := { s with locks := AMap.drop s.locks g }
    let s := match s.holder (g / 16) with
      | some (u, _) => s.loseCore u g 3 8
      | none => s
    (s.quarantine g 8).quarantine (pairOf (g / 16) * 16 + g % 16) 8

/-- `ROLLBACK` (R369). -/
def execRollback (core : Nat) (s : State) : Out :=
  match s.pairAt core with
  | some g => match AMap.get s.locks g with
    | some l => .next (s.rollback g l)
    | none => .next s
  | none => .next s

/-! ## Scrubbing and uncorrectable errors (R361, R362, R363) -/

/-- `SCRUB` (R361): corrections change no value and no order that a program observes. Each die's error counter counts them;
how many there are is left open (DESIGN CHOICE, log entry 10). -/
def execScrubPkg (pkg : Nat) (s : State) : Out :=
  .next (s.modPkg pkg (fun p => { p with corrected := (List.range 8).map (fun d =>
    (d, (AMap.get p.corrected d).getD 0 + Config.freeChoice (16 + d) s.tick)) }))

/-- The strands of one half of a divided array are lost; the other half goes on (R177). -/
def State.halfFails (s : State) (g half : Nat) : State :=
  let c := s.core g
  let m := if half = 0 then c.half0 else c.half1
  ((s.contexts.filter (fun x => x.place.gcore == g && decide (x.id.unit = .compute) && decide (x.res = .resident) &&
    m.getLsbD x.place.slot && (!x.id.isHandler || x.live))).map (·.id)).foldl (fun s i => s.lose i 0 7) s

/-- `UNCORRECTABLE_ERROR` (R362, R363, R369): by the unit of R354. In DRAM, L2 or a die scratchpad it poisons the sector
`where_`; a line of L1 or of the instruction cache is fetched again; a link replays; in a core it ends in its quarantine, before
which a pair rolls back (R370), or, at the third rollback to one checkpoint, in the end of the pair. Of a divided array, `where_` names the half as well: the core, and 2^40 for half 0, 2^41 for half 1. -/
def execUncorrectableError (where_ unit : Nat) (s : State) : Out :=
  if unit = 1 ∨ unit = 2 ∨ unit = 5 then .next (s.mark where_ (unit == 2))
  else if unit = 4 ∨ unit = 6 ∨ unit = 7 ∨ unit = 8 ∨ unit = 9 then
    let g := where_ % 2 ^ 40
    match (s.pairAt g).bind (fun p => (AMap.get s.locks p).map (fun l => (p, l))) with
    | some (p, l) => .next (if l.rolls < 2 then s.quarantine g unit else s.rollback p l)
    | none =>
      if unit = 7 ∧ (s.core g).split ∧ 2 ^ 40 ≤ where_ then .next (s.halfFails g (if 2 ^ 41 ≤ where_ then 1 else 0))
      else .next (s.quarantine g unit)
  else .next s

end Sys2Proof.Machine
end

