-- ==== Sys2Proof/Machine/Loader.lean ====
section
/-! DEFINITION. The loader at IMAGE: the Sahnen file (R232), the checks that refuse an image (R22, R23, R58, R133, R180, R274,
R284, R301, R314, R326, R333, R352), and the placing of its sections (R233). -/

namespace Sys2Proof.Machine

/-! ## The file (R232) -/

/-- A little-endian number in a file. -/
def u (f : List Byte) (off n : Nat) : Nat := leNat ((f.drop off).take n)

/-- A section of an image: its type, flags and address, and its bytes. -/
structure Section where
  ty : Nat
  flags : Nat
  addr : Nat
  bytes : List Byte
  deriving DecidableEq, Repr

/-- A section as its table entry gives it; none when it lies outside the file. -/
def sectionAt (f : List Byte) (e : Nat) : Option Section :=
  let off := u f (e + 8) 8
  let n := u f (e + 16) 8
  if f.length < e + 32 then none
  else if u f e 4 = 8 then some { ty := 8, flags := u f (e + 4) 4, addr := u f (e + 24) 8, bytes := List.replicate n 0 }
  else if f.length < off + n then none
  else some { ty := u f e 4, flags := u f (e + 4) 4, addr := u f (e + 24) 8, bytes := (f.drop off).take n }

/-- The header's checks and the sections of a file (R232, R233 step 1). Its reserved bytes and a section's FLAGS are not looked at
(DEDUCED, log entry 74). -/
def sectionsOf (f : List Byte) : Option (List Section) :=
  if f.length < 64 ∨ u f 0 4 ≠ 0x1A4E_4853 ∨ u f 4 2 ≠ 1 ∨ u f 6 2 ≠ 1 then none
  else (List.range (u f 8 4)).mapM (fun i => sectionAt f (u f 16 8 + 32 * i))

/-- The bytes of the sections of a type, joined. -/
def bytesOf (ss : List Section) (ty : Nat) : List Byte := (ss.filter (fun x => x.ty == ty)).flatMap (·.bytes)

/-- Bytes as words. -/
def wordsOf (bs : List Byte) : List W64 := (List.range (bs.length / 8)).map (fun i => BitVec.ofNat 64 (u bs (8 * i) 8))

/-- The kind map: four bits a word, the lower first. -/
def kindsOf (bs : List Byte) (n : Nat) : List (BitVec 4) :=
  (List.range n).map (fun i => BitVec.ofNat 4 ((nth bs (i / 2) 0).toNat / (if i % 2 = 0 then 1 else 16)))

/-- The launch records. -/
def launchRecords (bs : List Byte) (n : Nat) : List (Vector W64 8) :=
  (List.range n).map (fun i => Vector.ofFn (fun j => BitVec.ofNat 64 (u bs (64 * i + 8 * j.val) 8)))

/-- A launch record with a pool, for the checks. -/
def Launch.ofRecord (w : Vector W64 8) (pool : List W64) (kinds : List (BitVec 4)) : Launch := { Launch.none with words := w, pool, kinds }

/-! ## What refuses an image -/

/-- Every bit of a word outside its fields is zero. -/
def zeroBits (w : W64) (fields : List (Nat × Nat)) : Bool := fields.all (fun f => wbits w f.1 f.2 == 0)

/-- The length of a record (R22, R299, R325), 0 for a reserved kind and for a continuation word. -/
def Launch.recordLen (l : Launch) (i : Nat) : Nat :=
  let w := nth l.pool i 0
  match nth l.kinds i 0 with
  | 1 => 1
  | 2 => 4
  | 3 => 1
  | 4 => 2 + 3 * wbits w 21 17 + 5 * wbits w 16 4
  | 5 => 2 + wbits w 44 32 * ((if w.getLsbD 45 then 2 else 0) + (if w.getLsbD 46 then 4 else 0))
  | 6 => 1
  | _ => 0

/-- The kind map is that of whole records, one after another (R22). -/
def Launch.kindsOk (l : Launch) : Nat → Nat → Bool
  | 0, i => decide (l.pool.length ≤ i)
  | n + 1, i =>
    if l.pool.length ≤ i then true
    else
      let len := l.recordLen i
      len != 0 && decide (i + len ≤ l.pool.length) && (List.range (len - 1)).all (fun j => nth l.kinds (i + 1 + j) 0 == 0) &&
        l.kindsOk n (i + len)

/-- The windows that a record may name; another one is refused (DEDUCED, log entry 74). -/
def windowOk (w : Nat) : Bool := w == 0 || (decide (0xF0 ≤ w) && decide (w ≤ 0xF4))

/-- A buffer record is well formed (R23), and shadowed only in a scratchpad window (R133). -/
def Launch.bufOk (l : Launch) (i : Nat) : Bool :=
  let w1 := nth l.pool (i + 1) 0
  let win := wbits (nth l.pool i 0) 63 56
  windowOk win && zeroBits w1 [(63, 62), (55, 32)] && decide (wbits w1 59 56 ≤ 10) && !(nth l.pool (i + 3) 0).getLsbD 63 &&
    (!w1.getLsbD 61 || (decide (0xF0 ≤ win) && decide (win ≤ 0xF3)))

/-- The private buffers of an image end within the slice (R352). -/
def Launch.privOk (l : Launch) : Bool :=
  let ends := ((l.records 2).filter (fun i => wbits (nth l.pool i 0) 63 56 == 0xF0)).foldl (fun e i =>
    let r := l.bufAt i
    align64 e + (if r.shadow then 2 * r.len else r.len)) 0
  decide (ends ≤ 0x4000)

/-- At most 16 shadowed buffers fall in one core's local scratchpad (R133). -/
def Launch.shadowsOk (l : Launch) : Bool :=
  let sh := (l.records 2).filter (fun i => (l.bufAt i).shadow)
  let win (i : Nat) : Nat := wbits (nth l.pool i 0) 63 56
  let priv := (sh.filter (fun i => win i == 0xF0)).length * (4 - l.handlers)
  let own := (sh.filter (fun i => win i == 0xF1 || win i == 0xF2)).map (fun i => ownerOf (nth l.pool i 0))
  decide (priv ≤ 16) && own.all (fun o => decide ((own.filter (· == o)).length + priv ≤ 16))

/-- The prickings of a pool as connectors. -/
def Launch.prickings (l : Launch) : List Connector :=
  (l.records 4).map (fun i =>
    let w := nth l.pool i 0
    { launch := 0, hvc := wbits w 46 40, num := wbits w 39 34, words := (l.pool.drop i).take (l.recordLen i), offers := [],
      buffers := List.replicate (wbits w 26 22) [], ptrs := [], active := false, evaluated := false })

/-- The ports of a pool. -/
def Launch.portWords (l : Launch) : List PortRec := (l.records 3).map (fun i => .ofWord (nth l.pool i 0))

/-- A row of a pricking (R300, R301). -/
def Launch.rowOk (l : Launch) (c : Connector) (j : Nat) : Bool :=
  let w3 := c.rowWord j 3
  let rs := c.routes j
  let dests := rs.map (fun r => (r.2.2.1, r.2.2.2))
  let dir (i : Nat) : Option Bool := (l.portWords.find? (fun p => p.hvc == c.hvc && p.conn == c.num && p.lidx == i)).map (·.sink)
  decide (wbits w3 2 0 ≤ 4) && (c.clocked || c.rowWord j 2 == 0) && zeroBits w3 [(7, 3), (21, 20), (13, 12)] &&
    (List.range 4).all (fun r => wbits (c.rowWord j 4) (16 * r + 15) (16 * r + 14) == 0) &&
    decide (dests.eraseDups.length = dests.length) &&
    wbits w3 63 32 / 2 ^ (2 * c.buffers.length) == 0 && (c.rowWord j 4).toNat / 2 ^ (16 * wbits w3 2 0) == 0 &&
    rs.all (fun r => (r.1 || dir r.2.1 != some true) && (r.2.2.1 || dir r.2.2.2 != some false))

/-- A predicate entry of a pricking (R299, R301). -/
def predOk (c : Connector) (f : Nat) : Bool :=
  let w := nth c.words (2 + 3 * f) 0
  zeroBits w [(63, 17), (7, 3)] &&
    (decide (6 ≤ wbits w 2 0) || (nth c.words (3 + 3 * f) 0 == 0 && nth c.words (4 + 3 * f) 0 == 0)) &&
    (if w.getLsbD 16 then wbits w 15 14 == 0 && decide (wbits w 13 10 < c.buffers.length) else decide (wbits w 15 10 < c.nport))

/-- A clocked connector belongs to a REACTIVE group that lists the owners of its ports (R301). -/
def Launch.clockOk (l : Launch) (c : Connector) : Bool :=
  !c.clocked ||
    (l.records 5).any (fun i =>
      let r := GroupRec.ofWords i (nth l.pool i 0) (nth l.pool (i + 1) 0)
      r.gid == c.cgrp && r.reactive && (l.portWords.filter (fun p => p.hvc == c.hvc && p.conn == c.num)).all (fun p => r.threads.contains p.owner))

/-- A connector's limits (R299, R302); header word 1 has a field for each of its buffers (R299). -/
def Connector.sizeOk (c : Connector) : Bool :=
  decide (1 ≤ c.nport) && decide (c.nport ≤ 64) && decide (c.buffers.length ≤ 16) && decide (c.npred ≤ 16) && decide (1 ≤ c.nrow) &&
    decide (c.nrow ≤ 4096) && (nth c.words 1 0).toNat / 2 ^ (4 * c.buffers.length) == 0

/-- The connectors of one home fit a pillow (R302). -/
def pillowHolds (cs : List Connector) : Bool :=
  decide (cs.length ≤ 64) && decide ((cs.map Connector.nport).sum ≤ 1024) && decide ((cs.map Connector.nrow).sum ≤ 4096) &&
    decide ((cs.map (fun c => ((List.range c.buffers.length).map c.cap).sum)).sum ≤ 512)

/-- The ports and prickings of an image (R298, R301, R302). -/
def Launch.connsOk (l : Launch) : Bool :=
  (l.records 3).all (fun i => zeroBits (nth l.pool i 0) [(63, 56), (18, 12)]) &&
    l.portWords.all (fun p => l.prickings.any (fun c => c.hvc == p.hvc && c.num == p.conn)) &&
    l.prickings.all (fun c => c.sizeOk && pillowHolds (l.prickings.filter (fun d => d.hvc == c.hvc)) && wbits (nth c.words 0 0) 3 0 == 0 && (List.range c.npred).all (predOk c) &&
      (List.range c.nrow).all (l.rowOk c) && l.clockOk c)

/-- A group record (R324-R326). -/
def Launch.groupOk (l : Launch) (i : Nat) : Bool :=
  let w0 := nth l.pool i 0
  let w1 := nth l.pool (i + 1) 0
  let r := GroupRec.ofWords i w0 w1
  zeroBits w0 [(7, 0)] && zeroBits w1 [(28, 0)] && (!r.reactive || r.gang) && decide (1 ≤ r.size) && decide (r.size ≤ 4096) && r.gid != 0xFFFF &&
    (if r.flagged then decide (r.first + r.size ≤ 2 ^ 24) else r.first == 0) &&
    (if r.strag then r.persist != 0 && decide (r.tqcap ≤ 1024) else r.theta == 0 && r.persist == 0 && r.tqcap == 0) &&
    (!r.strag || (List.range r.size).all (fun m =>
      let a := nth l.pool (r.memberAt m) 0
      let b := nth l.pool (r.memberAt m + 1) 0
      let ns := l.neighbours r m
      decide (wbits a 63 60 ≤ 8) && ns.all (fun n => decide (n < r.size) && n != m) && decide (ns.eraseDups.length = ns.length) &&
        (List.range 5).all (fun j => decide (j < wbits a 63 60) || wbits a (12 * j + 11) (12 * j) == 0) &&
        (List.range 3).all (fun j => decide (j + 5 < wbits a 63 60) || wbits b (12 * j + 11) (12 * j) == 0) && wbits b 63 36 == 0))

/-- No two group records have one ID (R326). -/
def Launch.idsOk (l : Launch) : Bool :=
  let ids := (l.records 5).map (fun i => wbits (nth l.pool i 0) 63 48)
  decide (ids.eraseDups.length = ids.length)

/-- The signal declarations (R314). -/
def Launch.signalsOk (l : Launch) : Bool :=
  let ws := (l.records 6).map (fun i => nth l.pool i 0)
  ws.all (fun w => wbits w 37 0 == 0 &&
    ws.all (fun v => !(wbits v 63 40 == wbits w 63 40) || wbits v 39 38 == wbits w 39 38) &&
    (l.records 5).any (fun i => wbits (nth l.pool i 0) 63 48 == wbits w 63 48 && (nth l.pool i 0).getLsbD 46))

/-- A launch record's own fields (R274). -/
def Launch.recordOk (l : Launch) : Bool :=
  let w (i : Nat) : W64 := nth l.words.toList i 0
  zeroBits (w 1) [(63, 53), (31, 25)] && zeroBits (w 2) [(63, 40), (31, 19)] && zeroBits (w 3) [(63, 32)] && zeroBits (w 4) [(5, 1)] &&
    zeroBits (w 5) [(63, 13)] && zeroBits (w 6) [(63, 48)] && zeroBits (w 7) [(63, 4)] && decide (l.local_ ≤ 327680) &&
    decide (l.accum ≤ 128) && decide (1 ≤ l.grid) && decide (l.grid ≤ 128) && decide (1 ≤ l.sqcap) && decide (l.sqcap ≤ 16)

/-- The groups that apply to a launch fit its placed slots (R284), and its LOCAL stays below their rings (R333). -/
def Launch.groupsFit (l : Launch) : Bool :=
  l.groupRecs.all (fun r =>
    let vcs := r.threads.map l.vcOfThread
    vcs.eraseDups.all (fun v =>
      let n := (vcs.filter (· == v)).length
      decide (n ≤ 4 - l.handlers) && (!(r.strag && r.tqcap != 0) || decide (l.local_ + 8 * r.tqcap * n ≤ 0x5_0000))))

/-- The bit of a boundary bitmap for a word of a section. -/
def startBit (bm : List Byte) (i : Nat) : Bool := (nth bm (i / 8) 0).getLsbD (i % 8)

/-- The bitmap of a code section agrees with the lengths of its instructions, and marks no word after the section (R56, R58). -/
def bitmapOk (code bm : List Byte) : Bool :=
  let n := code.length / 4
  (List.range (8 * bm.length)).all (fun i => decide (i < n) || !startBit bm i) &&
  (List.range n).all (fun i => !startBit bm i ||
    (let m := moreWords (BitVec.ofNat 32 (u code (4 * i) 4))
     decide (i + m < n) && (List.range m).all (fun j => !startBit bm (i + 1 + j))))

/-- The code sections with their bitmaps: the bitmap sections stand in the order of the code sections (DESIGN CHOICE, log entry 16). -/
def codeOf (ss : List Section) : List (Section × List Byte) :=
  let bm := (ss.filter (fun x => x.ty == 3)).map (·.bytes)
  (ss.filter (fun x => x.ty == 1 || x.ty == 2)).zipIdx.map (fun x => (x.1, nth bm x.2 []))

/-- The types of sections that are placed in global memory. -/
def placedTy (t : Nat) : Bool := t == 1 || t == 2 || t == 6 || t == 7 || t == 8

/-- The 64 KiB pages of a range. -/
def pagesOf (a n : Nat) : List Nat := if n = 0 then [] else (List.range ((a + n - 1) / 65536 - a / 65536 + 1)).map (· + a / 65536)

/-- Sections with a fixed address start on a page of the global window and share none (R19, R226, R233). -/
def pagesOk (ss : List Section) : Bool :=
  let fixed := ss.filter (fun x => placedTy x.ty && x.addr != 0)
  let ps := fixed.flatMap (fun x => pagesOf x.addr x.bytes.length)
  fixed.all (fun x => x.addr % 65536 == 0 && decide (x.addr + x.bytes.length ≤ 2 ^ 55)) && decide (ps.eraseDups.length = ps.length)

/-- An image is accepted (R233 step 1). -/
def imageOk (ss : List Section) (l : Launch) (recs : List (Vector W64 8)) : Bool :=
  decide (l.pool.length ≤ 65536) && l.kindsOk (l.pool.length + 1) 0 && (l.records 2).all l.bufOk && l.privOk && l.connsOk &&
    (l.records 5).all l.groupOk && l.idsOk && l.signalsOk && pagesOk ss && decide ((bytesOf ss 2).length ≤ 16384) &&
    (codeOf ss).all (fun c => bitmapOk c.1.bytes c.2) &&
    recs.all (fun w =>
      let r := Launch.ofRecord w l.pool l.kinds
      r.recordOk && r.shadowsOk && r.groupsFit)

/-! ## Page tables that the loader writes (R233, R239-R241) -/

/-- An 8-byte entry of a table written. -/
def State.setEntry (s : State) (pkg pa e : Nat) : State := s.agentWrite (dramKey pkg pa) (leBytes 8 e)

/-- Page frames taken, with their number a multiple of `n` (DESIGN CHOICE, log entry 13): the physical address of the first. -/
def State.takeFrames (s : State) (pkg n : Nat) : Nat × State :=
  let f := ((s.pkg pkg).nextFrame + n - 1) / n * n
  (f * 65536, s.modPkg pkg (fun p => { p with nextFrame := f + n }))

/-- The next table that an entry names, made where there is none; none where the entry is a leaf. -/
def State.nextTable (s : State) (pkg pa frames : Nat) : Option (Nat × State) :=
  let e := s.entry pkg pa
  if bits e 0 0 = 0 then
    let (t, s) := s.takeFrames pkg frames
    some (t, s.setEntry pkg pa (t + 1))
  else if bits e 3 1 = 0 then some (bits e 51 12 * 4096, s)
  else none

/-- A virtual function's level-1 table, made where the hypervisor has set none. -/
def State.rootTable (s : State) (pkg vf : Nat) : Nat × State :=
  let r := (s.vfun pkg vf).l1
  if r ≠ 0 then (r, s)
  else
    let (t, s) := s.takeFrames pkg 4
    (t, s.modVfun pkg vf (fun v => { v with l1 := t }))

/-- A 64 KiB page mapped with rights (bits 4:1 of its leaf); a page that is mapped keeps its frame. -/
def State.mapPage (s : State) (pkg vf page rights : Nat) : State :=
  let va := page * 65536
  let (r, s) := s.rootTable pkg vf
  match s.nextTable pkg (r + 8 * levelIndex 1 va) 4 with
  | none => s
  | some (t2, s) =>
    match s.nextTable pkg (t2 + 8 * levelIndex 2 va) 1 with
    | none => s
    | some (t3, s) =>
      let pa := t3 + 8 * levelIndex 3 va
      let e := s.entry pkg pa
      if bits e 0 0 = 1 then s.setEntry pkg pa (e / 32 * 32 + rights + 1)
      else
        let (f, s) := s.takeFrames pkg 1
        s.setEntry pkg pa (f / 65536 * 2 ^ 28 + rights + 1)

/-- Rights of a leaf: readable, writable, executable, for level S (R241). -/
def rightsOf (w x : Bool) : Nat := 2 + (if w then 4 else 0) + (if x then 8 else 0) + 16

/-- A range mapped and filled on a package. -/
def State.placeAt (s : State) (pkg vf va rights : Nat) (bs : List Byte) : State :=
  ((pagesOf va bs.length).foldl (fun s p => s.mapPage pkg vf p rights) s).writeGlobal pkg vf va bs

/-! ## Placing an image (R233 steps 2 and 3) -/

/-- The addresses that the loader chooses for image `h` (DESIGN CHOICE, log entry 16). -/
def imageBase (h : Nat) : Nat := 0x100_0000_0000 + h * 2 ^ 32

/-- The first run of `n` free pages from a page on; `fuel` pages that are taken may stand in its way. -/
def firstFree (used : List Nat) (n : Nat) : Nat → Nat → Nat
  | 0, p => p
  | fuel + 1, p =>
    match (List.range n).find? (fun i => used.contains (p + i)) with
    | some i => firstFree used n fuel (p + i + 1)
    | none => p

/-- The address of the first free pages for `n` bytes, from an address on. -/
def freeFor (used : List Nat) (a n : Nat) : Nat := 65536 * firstFree used (pagesOf 0 n).length used.length (a / 65536)

/-- Sections without an address take the next free pages (R233 step 2). -/
def addresses (a : Nat) : List Nat → List Section → List Section
  | _, [] => []
  | used, x :: xs =>
    if placedTy x.ty && x.addr == 0 then
      let at_ := freeFor used a x.bytes.length
      { x with addr := at_ } :: addresses a (used ++ pagesOf at_ x.bytes.length) xs
    else x :: addresses a used xs

/-- The pages of sections. -/
def sectionPages (ss : List Section) : List Nat := (ss.filter (fun x => placedTy x.ty)).flatMap (fun x => pagesOf x.addr x.bytes.length)

/-- The pages that sections with a fixed address name. -/
def fixedPages (ss : List Section) : List Nat := sectionPages (ss.filter (fun x => x.addr != 0))

/-- The pages of a launch's copies of its pool and its kind map (R233, R22). -/
def poolBytes (words : Nat) : Nat := 65536 * (pagesOf 0 (8 * words)).length + (words + 1) / 2

/-- The pages that a virtual function's images occupy, and the pool copies of its launches until they are reported: a launch in the
body of a loop may run again (R279). -/
def State.usedPages (s : State) (vf : Nat) : List Nat :=
  (s.images.filter (fun i => i.2.vf == vf)).flatMap (fun i => i.2.pages) ++
    (s.launches.filter (fun l => l.2.vf == vf && !(decide (l.2.state = .done) && l.2.reported))).flatMap (fun l => pagesOf l.2.poolBase.toNat (poolBytes l.2.pool.length))

/-- The addresses of the global buffers, in pool order, from an address on. -/
def Launch.globs (l : Launch) : Nat → List Nat → List (Nat × Nat × Nat)
  | _, [] => []
  | a, i :: is =>
    if wbits (nth l.pool i 0) 63 56 = 0 then (i, align64 a, (l.bufAt i).len) :: l.globs (align64 a + (l.bufAt i).len) is
    else l.globs a is

/-- The sites of kind 2 relocations with their addresses: the section (0 for the pool), the offset, the address (R232; DESIGN CHOICE, log
entry 16). -/
def relocations (ss : List Section) : List (Nat × Nat × Nat) :=
  let syms := bytesOf ss 11
  (ss.filter (fun x => x.ty == 10)).flatMap (fun x =>
    (List.range (x.bytes.length / 16)).filterMap (fun i =>
      if u x.bytes (16 * i + 8) 4 = 2 then
        let y := u x.bytes (16 * i + 12) 4
        some (x.addr, u x.bytes (16 * i) 8, (nth ss (u syms (16 * y) 4) { ty := 0, flags := 0, addr := 0, bytes := [] }).addr + u syms (16 * y + 8) 8)
      else none))

/-- Bytes replaced in a list. -/
def patch (bs : List Byte) (off : Nat) (new : List Byte) : List Byte := bs.take off ++ new ++ bs.drop (off + new.length)

/-- The rights with which a section is mapped: those of its TYPE (R226, R233; DEDUCED, log entry 74). -/
def sectionRights (ty : Nat) : Nat := rightsOf (ty == 7 || ty == 8) (ty == 1 || ty == 2)

/-- The bitmap of a code section written (R56). -/
def State.writeBitmap (s : State) (pkg vf addr : Nat) (bm : List Byte) (n : Nat) : State :=
  s.placeAt pkg vf (2 ^ 54 + addr / 32) (rightsOf false false) ((bm ++ List.replicate ((n + 31) / 32) 0).take ((n + 31) / 32))

/-- An image loaded under a handle on every package of the system. -/
def State.loadImage (s : State) (vf h : Nat) (ss : List Section) (l : Launch) (recs : List (Vector W64 8)) : State :=
  let used := s.usedPages vf ++ fixedPages ss
  let ss := addresses (imageBase h) used ss
  let size := ((l.globs 0 (l.records 2)).map (fun g => g.2.1 + g.2.2)).foldl Nat.max 0
  let gbase := freeFor (used ++ sectionPages ss) (imageBase h + 2 ^ 31) size
  let gs := l.globs gbase (l.records 2)
  let rs := relocations ss
  let pool := gs.foldl (fun pool g => modNth pool g.1 (fun _ => BitVec.ofNat 64 g.2.1)) l.pool
  let pool := (rs.filter (fun r => r.1 == 0)).foldl (fun pool r => modNth pool (r.2.1 / 8) (fun _ => BitVec.ofNat 64 r.2.2)) pool
  let ss := ss.zipIdx.map (fun (x, i) =>
    { x with bytes := (rs.filter (fun r => r.1 == i && i != 0)).foldl (fun bs r => patch bs r.2.1 (leBytes 8 r.2.2)) x.bytes })
  let text := (ss.filter (fun x => x.ty == 1)).map (fun x => (BitVec.ofNat 64 x.addr, x.bytes.length))
  let helper := (ss.find? (fun x => x.ty == 2)).map (fun x => (BitVec.ofNat 64 x.addr, x.bytes))
  let place (s : State) (pkg : Nat) : State :=
    let s := (ss.filter (fun x => placedTy x.ty)).foldl (fun s x => s.placeAt pkg vf x.addr (sectionRights x.ty) x.bytes) s
    let s := (codeOf ss).foldl (fun s c => s.writeBitmap pkg vf c.1.addr c.2 c.1.bytes.length) s
    gs.foldl (fun s g => s.placeAt pkg vf g.2.1 (rightsOf true false) (List.replicate g.2.2 0)) s
  let s := (s.pkgs.map (·.1)).foldl place s
  { s with images := AMap.put s.images h { vf, records := recs, pool, kinds := l.kinds, text, helper, pages := sectionPages ss ++ pagesOf gbase size } }

/-- The `.shn` file of a virtual function: loaded, with its handle, or refused (R233). (DEDUCED, log entry 57) -/
def State.image (s : State) (vf : Nat) (f : List Byte) : Option (Nat × State) :=
  match sectionsOf f with
  | none => none
  | some ss =>
    let pool := wordsOf (bytesOf ss 4)
    let recs := launchRecords (bytesOf ss 9) (u f 12 4)
    let l : Launch := { Launch.none with pool, kinds := kindsOf (bytesOf ss 5) pool.length }
    if !imageOk ss l recs || (fixedPages ss).any (s.usedPages vf).contains then none
    else
      let h := s.images.length + 1
      some (h, s.loadImage vf h ss l recs)

end Sys2Proof.Machine
end

