-- ==== Sys2Proof/Machine/Host.lean ====
section
/-! DEFINITION. Boot (R389), attestation (R390), the command protocol (R391-R394), virtual functions' shares and reset (R395,
R396), the part report, power (R398, R399), and RDMA (R394). -/

namespace Sys2Proof.Machine

/-! ## Datagrams (R391) -/

/-- A command datagram: the package that received it, its source, its header's fields and its payload (DESIGN CHOICE, log entry 17). -/
structure Dgram where
  pkg : Nat
  src : Nat
  op : Nat
  tag : W32
  vf : Nat
  data : List Byte
  deriving DecidableEq, Repr

/-- A datagram read, none when its header is malformed. The model's events carry the 4-byte ID of the receiving package and
a 4-byte number for the source before the datagram (DESIGN CHOICE, log entry 17). -/
def Dgram.ofBytes (d : List Byte) : Option Dgram :=
  let h := d.drop 8
  let n := u h 12 4
  let vf := u h 16 1
  if h.length < 32 ∨ u h 0 4 ≠ 0x3943_4648 ∨ u h 4 2 ≠ 1 ∨ 1400 < n ∨ h.length ≠ 32 + n ∨ u h 17 15 ≠ 0 ∨ (15 < vf ∧ vf ≠ 0xFF) then none
  else some { pkg := u d 0 4, src := u d 4 4, op := u h 6 2, tag := BitVec.ofNat 32 (u h 8 4), vf, data := h.drop 32 }

/-- The VF of a datagram matches its source binding; the hypervisor, and one that is bound to no source, take any (R391, DESIGN CHOICE,
log entry 17). -/
def State.sourceOk (s : State) (d : Dgram) : Bool := d.vf == 0xFF || (s.vfun d.pkg d.vf).bound.all (· == d.src)

/-- A reply with the command's TAG, kept among the last 4,096 of its virtual function (R391): a status and its data. -/
def State.reply (s : State) (d : Dgram) (status : Nat) (data : List Byte) : State :=
  let bytes := hostHeader d.op d.tag.toNat (4 + data.length) d.vf ++ leBytes 4 status ++ data
  let s := { s with toHost := s.toHost ++ [({ vf := d.vf, bytes, sent := s.tick } : HostMsg)] }
  s.modVfun d.pkg d.vf (fun v =>
    let ts := v.tags ++ [(d.tag, bytes)]
    { v with tags := ts.drop (ts.length - 4096) })

/-- A command executed: dropped where its header or source is wrong; answered from the stored reply where its TAG is known;
refused with status 2 where its sender may not give it or its virtual function is being reset (R391, R392, R396). -/
def State.hostCommand (s : State) (dg : List Byte) (op : Nat) (allowed : Nat → Bool) (f : Dgram → State → State) : State :=
  match Dgram.ofBytes dg with
  | none => s
  | some d =>
    if d.op ≠ op ∨ !(s.pkg d.pkg).running ∨ (AMap.get s.pkgs d.pkg).isNone ∨ !s.sourceOk d then s
    else if (s.pkg d.pkg).recovery ∧ op ≠ 1 ∧ op ≠ 4 then s
    else match (s.vfun d.pkg d.vf).tags.find? (fun t => t.1 == d.tag) with
      | some t => { s with toHost := s.toHost ++ [({ vf := d.vf, bytes := t.2, sent := s.tick } : HostMsg)] }
      | none =>
        if !allowed d.vf ∨ ((s.vfun d.pkg d.vf).resetting ∧ op ≠ 4 ∧ op ≠ 5) then s.reply d 2 []
        else f d s

/-- A command of the hypervisor; of a virtual function; of either (R392). -/
def byHypervisor (vf : Nat) : Bool := vf == 0xFF
def byVf (vf : Nat) : Bool := decide (vf < 16)
def byAny (_ : Nat) : Bool := true

/-- `MALFORMED_DATAGRAM` (R391): dropped without a reply. -/
def execMalformedDatagram (_dg : List Byte) (s : State) : Out := .next s

/-- `INVALID_OP` (R392): status 2. -/
def execInvalidOp (dg : List Byte) (s : State) : Out :=
  match Dgram.ofBytes dg with
  | some d => if 1 ≤ d.op ∧ d.op ≤ 10 then .next s else .next (s.hostCommand dg d.op byAny (fun d s => s.reply d 2 []))
  | none => .next s

/-- `EVENT_ACK` (R394). -/
def execEventAck (tag : W64) (s : State) : Out :=
  .next { s with unacked := s.unacked.filter (fun m => u m.bytes 8 4 != tag.toNat) }

/-- `EVENT_RETRANSMIT` (R394): an event that waits for its acknowledgement. -/
def execEventRetransmit (k : Nat) (s : State) : Out :=
  match s.unacked[k]? with
  | some m => .next { s with toHost := s.toHost ++ [m] }
  | none => .next s

/-! ## Boot, firmware, attestation, part report (R389, R390, R398) -/

/-- Bytes of host memory. -/
def State.readHost (s : State) (conn addr n : Nat) : List Byte := Memory.getN s.mem (hostKey conn addr) n

/-- `FWLOAD` (R392): the image at a host address is staged; the payload is its address and its length. -/
def execFwload (dg : List Byte) (s : State) : Out :=
  .next (s.hostCommand dg 1 byHypervisor (fun d s =>
    (s.modPkg d.pkg (fun p => { p with staged := some (s.readHost d.src (u d.data 0 8) (u d.data 8 8)) })).reply d 0 []))

/-- The remap words of a package's cores (R340, R398). -/
def State.remapWords (s : State) (pkg : Nat) : List Byte := (List.range 2048).flatMap (fun i => leBytes 2 (s.core (pkg * 2048 + i)).remap.toNat)

/-- The part report of a package (R398): IDENT, grade, remap words, quarantine list, corrected errors, down links, boot
count. -/
def State.partReport (s : State) (pkg : Nat) : List Byte :=
  let p := s.pkg pkg
  leBytes 8 (s.ident pkg).toNat ++ leBytes 1 (if p.gradeB then 0xB else 0xA) ++ s.remapWords pkg ++
    leBytes 4 p.quarList.length ++ p.quarList.flatMap (fun q => leBytes 2 q.1 ++ leBytes 1 q.2.1 ++ leBytes 8 q.2.2) ++
    (List.range 8).flatMap (fun d => leBytes 8 ((AMap.get p.corrected d).getD 0)) ++
    leBytes 4 p.linksDown.length ++ p.linksDown.flatMap (leBytes 8) ++ leBytes 4 p.linkMchk.length ++ p.linkMchk.flatMap (fun k => leBytes 8 k ++ leBytes 8 (lossInfo 0 0 10).toNat) ++
    leBytes 8 p.bootCount

/-- `PARTRPT` (R398). -/
def execPartrpt (dg : List Byte) (s : State) : Out := .next (s.hostCommand dg 5 byAny (fun d s => s.reply d 0 (s.partReport d.pkg)))

/-- What an attestation report holds, before its signature (R390). -/
def State.attestation (s : State) (pkg : Nat) (nonce : List Byte) : List Byte :=
  sha256 (s.pkg pkg).firmware ++ sha256 (s.partReport pkg) ++ leBytes 8 (s.ident pkg).toNat ++ leBytes 8 (s.pkg pkg).bootCount ++ nonce

/-- `ATTEST` (R390): a freshly signed report; the signature's bytes are free values (DESIGN CHOICE, log entry 11). -/
def execAttest (dg : List Byte) (s : State) : Out :=
  .next (s.hostCommand dg 4 byAny (fun d s =>
    let n := (s.pkg d.pkg).attests
    let r := s.attestation d.pkg (d.data.take 32)
    let sig := (List.range 384).map (fun i => Config.sign (r ++ leBytes 8 n) i)
    (s.modPkg d.pkg (fun p => { p with attests := n + 1 })).reply d 0 (r ++ sig)))

/-- A key belongs to a package's memories. -/
def inPkg (pkg k : Nat) : Bool := decide (k / 2 ^ 56 = pkg) && decide (k < 2 ^ 79)

/-- A package loses its power: its contexts, queues and units are as after boot; the part record stays (R389). -/
def State.powerLoss (s : State) (pkg : Nat) : State :=
  let here (c : Strand) : Bool := c.place.pkg == pkg
  let mine (l : Launch) : Bool := l.home == pkg || l.pkgs.contains pkg
  { s with me := if here s.me then .nobody else s.me, rest := s.rest.filter (fun c => !here c),
           queues := s.queues.filter (fun q => !mine (s.launch q.1.1)),
           cores := s.cores.map (fun (c : Nat × Core) =>
             (c.1, if c.1 / 2048 = pkg then
               { Core.reset with remap := c.2.remap, quarantined := c.2.quarantined, cells := c.2.cells, cellPoison := c.2.cellPoison } else c.2)),
           locks := s.locks.filter (fun l => l.1 / 2048 != pkg), exports := s.exports.filter (fun x => !mine (s.launch x.launch)),
           pillowTurn := s.pillowTurn.filter (fun p => p.1 / 128 != pkg), streamers := s.streamers.filter (fun n => s.nodePkg n.1 != pkg),
           tlb := s.tlb.filter (fun e => e.clus / 128 != pkg), shadows := s.shadows.filter (fun h => !inPkg pkg h.base),
           net := s.net.filter (fun p => s.nodePkg p.src != pkg && s.nodePkg p.dst != pkg),
           ops := s.ops.filter (fun o => !mine (s.launch o.2.owner.launch)),
           launches := s.launches.map (fun (l : Nat × Launch) =>
             (l.1, if mine l.2 then { l.2 with state := .done, bind := [], granules := [], evicted := [], stopping := [] } else l.2)),
           graphs := s.graphs.filter (fun g => g.2.pkg != pkg), groups := s.groups.filter (fun g => !mine (s.launch g.launch)),
           connectors := s.connectors.filter (fun c => c.1 / 128 != pkg),
           savedCores := s.savedCores.filter (fun e => !mine (s.launch e.1.1)), savedMem := s.savedMem.filter (fun e => !mine (s.launch e.1.1)),
           vfs := s.vfs.filter (fun v => v.1 / 256 != pkg), torus := AMap.drop s.torus pkg, conns := s.conns.filter (fun c => c.die / 8 != pkg),
           streams := s.streams.filter (fun g => g.2.pkg != pkg) }

/-- The scratchpads, accumulators and DRAM of a package are zero (R389 step 4). -/
def State.clearAll (s : State) (pkg : Nat) : State :=
  { s with cores := s.cores.map (fun (c : Nat × Core) => (c.1, if c.1 / 2048 = pkg then { c.2 with cells := [], cellPoison := [] } else c.2)),
           mem := s.mem.filter (fun c => !inPkg pkg c.1), poison := s.poison.filter (fun x => !inPkg pkg (32 * x)),
           l2Poison := s.l2Poison.filter (fun x => !inPkg pkg (32 * x)), races := s.races.filter (fun r => !inPkg pkg (32 * r.1)),
           stamps := s.stamps.filter (fun r => !inPkg pkg (64 * r.1)), codeLog := s.codeLog.filter (fun o => !inPkg pkg o.key) }

/-- The links of a package are trained: they are up, and carry nothing (R389 step 3; DEDUCED, log entry 58). -/
def State.train (s : State) (pkg : Nat) : State :=
  let own (k : Nat) : Bool := linkPkg k == pkg || linkPkg (reverseLink k) == pkg
  { s with links := s.links.filter (fun l => !own l.1),
           pkgs := s.pkgs.map (fun (p : Nat × Package) => (p.1, { p.2 with linksDown := p.2.linksDown.filter (fun k => !own k) })) }

/-- A launch of a refused graph reports a status and is over (R394). -/
def State.dropLaunch (s : State) (uid status : Nat) : State :=
  (((s.unqueue uid).modLaunch uid (fun l => { l with state := .done, graph := .none })).reportLaunch uid status)

/-- Launches end with a status, and the graphs that hold them with them (R396, R399). -/
def State.endLaunches (s : State) (us : List Nat) (status : Nat) : State :=
  let s := { s with graphs := s.graphs.filter (fun g => !g.2.nodes.any (fun n => n.launch.any us.contains)) }
  us.foldl (fun s u => ((s.unqueue u).dissolveLaunch u).dropLaunch u status) s

/-- The launches on a package that are not reported yet: those that wait or run, and those of a loop's body that are between two
iterations (R394, R279). -/
def State.openOn (s : State) (pkg : Nat) : List Nat :=
  (s.launches.filter (fun l => l.2.pkgs.contains pkg && (!decide (l.2.state = .done) || !l.2.reported))).map (·.1)

/-- `POWER_ON` (R389): the boot of a package. Launches with another home that have a part of themselves there end with STATUS 5.
Firmware that does not verify stops the boot in recovery mode: nothing is trained, cleared or quarantined, and CYCLE does not start
again. A remap word with TWO = 1 quarantines its core (R340, R363). (DEDUCED, log entry 58) -/
def execPowerOn (pkg : Nat) (s : State) : Out :=
  let old := s.pkg pkg
  let fw := old.staged.getD old.firmware
  let s := (s.endLaunches ((s.openOn pkg).filter (fun u => (s.launch u).home != pkg)) 5).powerLoss pkg
  let new : Package :=
    { Package.reset with gradeB := old.gradeB, quar := old.quar, quarList := old.quarList, corrected := old.corrected,
                         linksDown := old.linksDown, linkMchk := old.linkMchk, bootCount := old.bootCount + 1, firmware := fw,
                         recovery := !Config.verify fw, bootTick := if Config.verify fw then s.tick else old.bootTick }
  let s := { s with pkgs := AMap.put s.pkgs pkg new }
  let bad := (s.cores.filter (fun c => c.1 / 2048 == pkg && c.2.remap.getLsbD 7 && !(old.quarList.any (fun q => q.1 == c.1 % 2048)))).map (·.1)
  .next (if Config.verify fw then bad.foldl (fun s g => s.quarantine g 7) ((s.train pkg).clearAll pkg) else s)

/-! ## IMAGE and SUBMIT (R233, R392, R393) -/

/-- `IMAGE` (R233): the payload is the host address and the length of a Sahnen file. (DEDUCED, log entry 57) -/
def execImageLoad (dg : List Byte) (s : State) : Out :=
  .next (s.hostCommand dg 2 byVf (fun d s =>
    match s.image d.vf (s.readHost d.src (u d.data 0 8) (u d.data 8 8)) with
    | some (h, s) => s.reply d 0 (leBytes 4 h)
    | none => s.reply d 2 []))

/-- The payload of a SUBMIT (DESIGN CHOICE, log entry 17). -/
structure Submission where
  handle : Nat
  first : Nat
  count : Nat
  queue : Nat
  die : Nat
  pkgs : List Nat
  nodes : List (List W64)
  deriving DecidableEq, Repr

def Submission.ofBytes (b : List Byte) : Submission :=
  let n := u b 14 2
  let rest := b.drop (16 + 4 * n)
  { handle := u b 0 4, first := u b 4 4, count := u b 8 4, queue := u b 12 1, die := u b 13 1,
    pkgs := (List.range n).map (fun i => u b (16 + 4 * i) 4),
    nodes := (List.range (rest.length / 32)).map (fun i => wordsOf ((rest.drop (32 * i)).take 32)) }

/-- Where the loader looks for the pages of a launch's copies of the pool and the kind map (R233, R22; DESIGN CHOICE, log entry 16). -/
def poolRegion : Nat := 0x8_0000_0000_0000

/-- The queued copy of a launch record: its serial and its virtual function stand in word 7 (R274, R276). -/
def stamped (w : Vector W64 8) (serial : W32) (vf : Nat) : Vector W64 8 := w.set 7 (BitVec.ofNat 64 (serial.toNat * 16 + vf))

/-- The serial after another: it skips 0 (R276). -/
def nextSerial (n : W32) : W32 := if n + 1 = 0 then 1 else n + 1

/-- One launch enqueued (R276). -/
def State.enqueue (s : State) (vf : Nat) (im : Image) (w : Vector W64 8) (sub : Submission) (graph : Option Nat) : State :=
  let home := sub.pkgs.headD 0
  let uid := s.next
  let serial := (s.pkg home).nextSerial
  let base := freeFor (s.usedPages vf) poolRegion (poolBytes im.pool.length)
  let l : Launch :=
    { Launch.none with words := stamped w serial vf, serial, vf, pkgs := sub.pkgs, home, die := sub.die, queue := sub.die * 16 + sub.queue,
                       state := .queued, pool := im.pool, image := im.pool, kinds := im.kinds, poolBase := BitVec.ofNat 64 base, text := im.text, helper := im.helper,
                       reported := false, graph }
  let s := { s with next := uid + 1, launches := AMap.put s.launches uid l }
  let s := s.modPkg home (fun p =>
    { p with nextSerial := nextSerial serial,
             queues := AMap.put p.queues (vf, l.queue) ((AMap.get p.queues (vf, l.queue)).getD [] ++ [uid]) })
  let kinds := (List.range ((im.kinds.length + 1) / 2)).map (fun i =>
    BitVec.ofNat 8 ((nth im.kinds (2 * i) 0).toNat + 16 * (nth im.kinds (2 * i + 1) 0).toNat))
  sub.pkgs.eraseDups.foldl (fun s p =>
    (s.placeAt p vf base (rightsOf false false) (im.pool.flatMap (fun w => leBytes 8 w.toNat))).placeAt p vf
      (base + 65536 * (pagesOf 0 (8 * im.pool.length)).length)
      (rightsOf false false) kinds) s

/-- The node number of a launch record, none outside a graph (R274). -/
def nodeOf (w : Vector W64 8) : Option Nat :=
  let n := wbits (nth w.toList 5 0) 11 0
  if n = 0xFFF then none else some n

/-- The nodes of a submission: launch nodes with their references, and node records (R278). -/
def graphNodes (launches : List (Nat × Vector W64 8)) (recs : List (List W64)) : List GNode :=
  launches.filterMap (fun x => (nodeOf x.2).map (fun n =>
    { num := n, launch := some x.1, words := [], st := .waiting, iter := 0, started := false })) ++
  recs.map (fun ws => { num := wbits (nth ws 0 0) 59 48, launch := none, words := ws, st := .waiting, iter := 0, started := false })

/-- The producers of a node, with launch records at hand. -/
def State.afterOf (s : State) (n : GNode) : List Nat := s.after n

/-- A node record's unused bits are zero (R278). -/
def nodeBitsOk (n : GNode) : Bool :=
  if n.launch.isSome then true
  else
    let w2 := nth n.words 2 0
    let w3 := nth n.words 3 0
    (n.kind == 1 || n.kind == 2 || n.kind == 3) &&
      (match n.kind with
        | 2 => zeroBits w2 [(63, 40), (23, 12)]
        | _ => zeroBits w2 [(63, 24)]) && zeroBits w3 [(63, 32)] && (n.kind == 3 || wbits w3 31 0 == 0)

/-- Nodes from which no producer chain leads back: they are removed, those without producers first, until none is left. -/
def acyclic (edges : List (Nat × List Nat)) : Nat → List Nat → Bool
  | 0, left => left.isEmpty
  | fuel + 1, left =>
    left.isEmpty ||
      (let rest := left.filter (fun n => edges.any (fun e => e.1 == n && e.2.any left.contains))
       decide (rest.length < left.length) && acyclic edges fuel rest)

/-- A graph is accepted (R278). -/
def State.graphOk (s : State) (ns : List GNode) : Bool :=
  let nums := ns.map (·.num)
  decide (nums.eraseDups.length = nums.length) && ns.all nodeBitsOk &&
    ns.all (fun n => (s.after n).all nums.contains) &&
    acyclic (ns.map (fun n => (n.num, s.after n))) (ns.length + 1) nums &&
    ns.all (fun n => n.successors.all (fun m => ns.any (fun x => x.num == m && (s.after x).contains n.num))) &&
    ns.all (fun n => ns.all (fun m => !n.body m.num || (s.after m).all (fun p => n.body p || p == n.num)))

/-- The launches of a submission enqueued, with their references. -/
def State.enqueueAll (s : State) (vf : Nat) (im : Image) (sub : Submission) (gk : Nat) : List (Vector W64 8) → State × List (Nat × Vector W64 8)
  | [] => (s, [])
  | w :: ws =>
    let t := s.enqueue vf im w sub ((nodeOf w).map (fun _ => gk))
    let (t, r) := t.enqueueAll vf im sub gk ws
    (t, (s.next, w) :: r)

/-- A launch of 2^24 threads or more (R276). -/
def tooBig (w : Vector W64 8) : Bool := decide (2 ^ 24 ≤ wbits (nth w.toList 1 0) 24 0)

/-- What enqueueing does with the launches (R276, R278): a graph that is refused, or holds a launch that is too large, is
refused whole, with a kind-3 event; a launch without threads outside a graph completes. (DEDUCED, log entry 51) -/
def State.admitLaunches (s : State) (vf pkg gk : Nat) (ls : List (Nat × Vector W64 8)) (recs : List (List W64)) : State :=
  let ns := graphNodes ls recs
  let ingraph (x : Nat × Vector W64 8) : Bool := (nodeOf x.2).isSome
  let bad := !s.graphOk ns
  let big := ls.any (fun x => ingraph x && tooBig x.2)
  let alone := ls.filter (fun x => !ingraph x)
  let s := alone.foldl (fun s x =>
    if tooBig x.2 then s.dropLaunch x.1 3
    else if wbits (nth x.2.toList 1 0) 24 0 = 0 then s.dropLaunch x.1 1 else s) s
  if ns.isEmpty then s
  else if bad || big then
    let s := (ls.filter ingraph).foldl (fun s x => s.dropLaunch x.1 (if tooBig x.2 && !bad then 3 else 2)) s
    s.hostEvent vf 3 ((ls.filter ingraph).flatMap (fun x => leBytes 4 (s.launch x.1).serial.toNat))
  else ({ s with graphs := AMap.put s.graphs gk { vf, pkg, nodes := ns } }).advance gk

/-- Packages and those one torus link on that run. -/
def State.torusNear (s : State) (ps : List Nat) : List Nat :=
  (ps ++ ps.flatMap (fun p => ((List.range 8).filter (s.torusUp p)).map (torusNext p))).eraseDups

/-- The torus of the system reaches a package from another: over links that are up, through packages that run (R393). -/
def State.torusReaches (s : State) (a b : Nat) : Bool :=
  s.alive b && ((List.range s.pkgs.length).foldl (fun ps _ => s.torusNear ps) [a]).contains b

/-- A SUBMIT is refused whole (R393, R276). -/
def State.submitOk (s : State) (vf : Nat) (sub : Submission) (im : Image) : Bool :=
  let q := (AMap.get (s.pkg (sub.pkgs.headD 0)).queues (vf, sub.die * 16 + sub.queue)).getD []
  im.vf == vf && decide (sub.queue ≤ 15) && decide (sub.die ≤ 7) && decide (1 ≤ sub.pkgs.length) && decide (sub.pkgs.length ≤ 128) &&
    sub.pkgs.all (s.torusReaches (sub.pkgs.headD 0)) && decide (sub.first + sub.count ≤ im.records.length) &&
    decide (q.length + sub.count ≤ 64)

/-- `SUBMIT` (R393): the reply carries the serials. -/
def execSubmit (dg : List Byte) (s : State) : Out :=
  .next (s.hostCommand dg 3 byVf (fun d s =>
    let sub := Submission.ofBytes d.data
    match AMap.get s.images sub.handle with
    | none => s.reply d 2 []
    | some im =>
      if !s.submitOk d.vf sub im then s.reply d 2 []
      else
        let gk := s.next
        let (s, ls) := ({ s with next := gk + 1 } : State).enqueueAll d.vf im sub gk ((im.records.drop sub.first).take sub.count)
        let serials := ls.flatMap (fun x => leBytes 4 (s.launch x.1).serial.toNat)
        (s.admitLaunches d.vf (sub.pkgs.headD 0) gk ls sub.nodes).reply d 0 serials))

/-! ## Virtual functions (R239, R247, R395, R396) -/

/-- `QOS` (R395): VF, the pillow and slot shares, the DRAM weight and L2MASK; a share out of its range is refused. -/
def execQos (dg : List Byte) (s : State) : Out :=
  .next (s.hostCommand dg 7 byHypervisor (fun d s =>
    let vf := u d.data 0 1
    let slot := u d.data 1 1
    let pil := u d.data 2 1
    let w := u d.data 3 1
    if 15 < vf ∨ 32 < slot ∨ 64 < pil ∨ w = 0 then s.reply d 2 []
    else (s.modVfun d.pkg vf (fun v =>
      { v with l2mask := BitVec.ofNat 16 (u d.data 4 2), dramWeight := w, slotShare := slot, pillowShare := pil })).reply d 0 []))

/-- `APER` (R247): VF, entry number, and the entry; STATE becomes 0. KIND 3 or a nonzero reserved bit is refused. -/
def execAperWrite (dg : List Byte) (s : State) : Out :=
  .next (s.hostCommand dg 9 byHypervisor (fun d s =>
    let vf := u d.data 0 1
    let n := u d.data 1 1
    let e := u d.data 8 16
    if 15 < vf ∨ n = 0 ∨ 15 < n ∨ bits e 39 38 = 3 ∨ bits e 37 26 ≠ 0 then s.reply d 2 []
    else (s.modVfun d.pkg vf (fun v => { v with apers := modNth v.apers (n - 1) (fun _ => unprobed (BitVec.ofNat 128 e)) })).reply d 0 []))

/-- `PTBASE` (R239, R392): the level-1 table of a virtual function, once its TLB entries are invalid. -/
def execPtbase (dg : List Byte) (s : State) : Out :=
  .next (s.hostCommand dg 10 byHypervisor (fun d s =>
    let vf := u d.data 0 1
    if 15 < vf then s.reply d 2 []
    else (({ s with tlb := s.tlb.filter (fun e => !(e.clus / 128 == d.pkg && e.vf == vf)) }).modVfun d.pkg vf
      (fun v => { v with l1 := u d.data 8 8 })).reply d 0 []))

/-- The launches of a virtual function with strands or queues on a package. -/
def State.launchesOf (s : State) (pkg vf : Nat) : List Nat :=
  (s.launches.filter (fun l => l.2.vf == vf && l.2.pkgs.contains pkg && !decide (l.2.state = .done))).map (·.1)

/-- The granules of a launch cleared (R396 step 5). -/
def State.clearGranules (s : State) (uid : Nat) : State :=
  (s.launch uid).granules.foldl (fun s g => s.clearRange (dieKey g.1 (g.2 * 65536)) 65536) s

/-- A virtual function's reset goes on until no launch of it is left: those whose work is complete are reported with STATUS 6
and leave (R396 steps 5 and 6). (DEDUCED, log entry 58) -/
def State.resetOn (s : State) (pkg vf : Nat) : State :=
  let s := (s.launchesOf pkg vf).foldl (fun s uid =>
    if s.mayComplete uid then
      let s := (s.clearGranules uid).dissolveLaunch uid
      (s.modLaunch uid (fun l => { l with state := .done })).reportLaunch uid 6
    else s) s
  if (s.launchesOf pkg vf).isEmpty then s.modVfun pkg vf (fun v => { v with resetting := false }) else s

/-- Every strand of a launch is killed, and what has not started never starts (R396 steps 2 and 3). -/
def State.killLaunch (s : State) (uid : Nat) : State :=
  let f : FaultRec := { tid := 0, ecause := 0, epc := 0, eaddr := 0, einfo := 0, mchk := false }
  let ids := (s.contexts.filter (fun c => c.id.launch == uid && decide (c.id.unit = .compute) && !decide (c.res = .ended) &&
    (!c.id.isHandler || c.live))).map (·.id)
  let s := ids.foldl (fun s i => s.kill i f) s
  s.modLaunch uid (fun l => { l with started := List.range l.threads, ended := List.range l.threads, triggered := List.range l.threads })

/-- A launch lies in the body of a loop that still runs, so that another iteration may follow (R279). -/
def State.inLoop (s : State) (uid : Nat) : Bool :=
  match s.graphOf uid with
  | some (_, g) => g.nodes.any (fun n => n.launch == some uid && g.looping n.num)
  | none => false

/-- The launches of a virtual function that are over and not reported: those in the body of a loop that still runs (R279). -/
def State.unreported (s : State) (pkg vf : Nat) : List Nat :=
  (s.launches.filter (fun l => l.2.vf == vf && l.2.pkgs.contains pkg && decide (l.2.state = .done) && !l.2.reported)).map (·.1)

/-- The reset of a virtual function on a package (R396). A launch that it finds complete is reported with its own status;
every other one that is not reported yet, with STATUS 6; the graphs of all of them are gone, wherever their home is. (DEDUCED, log entry 58) -/
def State.resetVf (s : State) (pkg vf : Nat) : State :=
  let s := s.modVfun pkg vf (fun v => { v with resetting := true })
  let looping := (s.launchesOf pkg vf).filter s.inLoop
  let ends := s.launchesOf pkg vf ++ s.unreported pkg vf
  let s := { s with graphs := s.graphs.filter (fun g =>
                      !(g.2.vf == vf && (g.2.pkg == pkg || g.2.nodes.any (fun n => n.launch.any ends.contains)))),
                    streams := s.streams.filter (fun g => !(g.2.vf == vf && g.2.pkg == pkg)),
                    conns := s.conns.filter (fun c => !(c.vf == vf && c.die / 8 == pkg)) }
  let s := (s.launchesOf pkg vf).foldl (fun s uid =>
    if s.mayComplete uid && !looping.contains uid then ((s.clearGranules uid).dissolveLaunch uid).launchOver uid
    else if (s.launch uid).state = .bound then s.killLaunch uid
    else (s.unqueue uid).dropLaunch uid 6) s
  ((s.unreported pkg vf).foldl (fun s uid => s.reportLaunch uid 6) s).resetOn pkg vf

/-- `RESETVF` (R396). (DEDUCED, log entry 58) -/
def execResetvf (dg : List Byte) (s : State) : Out :=
  .next (s.hostCommand dg 6 byHypervisor (fun d s =>
    let vf := u d.data 0 1
    if 15 < vf then s.reply d 2 [] else (s.resetVf d.pkg vf).reply d 0 []))

/-- `LAUNCH_COMPLETE` (R193); a launch of a virtual function that is being reset is reported so (R396). -/
def execLaunchComplete (uid : Nat) (s : State) : Out :=
  let l := s.launch uid
  match l.pkgs.find? (fun p => (s.vfun p l.vf).resetting) with
  | some p => .next (s.resetOn p l.vf)
  | none => if s.mayComplete uid then .next ((s.dissolveLaunch uid).launchOver uid) else .next s

/-! ## RDMA (R394) -/

/-- `RDMA_WRITE` (R394): performed before its completion is sent. The connection names a package and a virtual function:
package * 16 + VF (DESIGN CHOICE, log entry 17). A package that does not run serves none. -/
def execRdmaWrite (conn : Nat) (va : W64) (data : List Byte) (s : State) : Out :=
  .next (if s.alive (conn / 16) then s.writeGlobal (conn / 16) (conn % 16) va.toNat data else s)

/-- `RDMA_READ` (R394): the bytes go to the host. -/
def execRdmaRead (conn : Nat) (va : W64) (len : Nat) (s : State) : Out :=
  if !s.alive (conn / 16) then .next s
  else match s.readGlobal (conn / 16) (conn % 16) va.toNat len with
  | some bs => .next { s with toHost := s.toHost ++ [({ vf := conn % 16, bytes := bs, sent := s.tick } : HostMsg)] }
  | none => .next s

/-! ## Power (R399) -/

/-- `THERMAL_THROTTLE` (R399): a lower clock, in steps of 100 MHz and no lower than 1,200 MHz. -/
def execThermalThrottle (pkg rate : Nat) (s : State) : Out :=
  .next (s.modPkg pkg (fun p => { p with clock := if rate % 100 = 0 ∧ 1200 ≤ rate ∧ rate < p.clock then rate else p.clock }))

/-- `THERMAL_SHUTDOWN` (R399): every launch stops with STATUS 5, and the package shuts down. -/
def execThermalShutdown (pkg : Nat) (s : State) : Out :=
  .next ((s.endLaunches (s.openOn pkg) 5).modPkg pkg (fun p => { p with running := false, queues := [] }))

end Sys2Proof.Machine
end

