-- ==== Sys2Proof/Machine/Fabric.lean ====
section
/-! DEFINITION. The fabric: link-layer retry, credits and retraining (R376-R379), the torus (R380-R382), and the slot allocator
(R374, R375). -/

namespace Sys2Proof.Machine

/-! ## Links (R376-R379) -/

/-- `LINK_REPLAY` (R377): the first flit in transit fails its CRC. The receiver discards it and all that comes after it; the sender
replays from it. -/
def execLinkReplay (link : Nat) (s : State) : Out :=
  let l := s.link link
  let bad (w : List Flit) : List Flit := match w with
    | f :: r => { f with bad := true } :: r
    | [] => []
  let (u, fs) := ({ l with wire := bad l.wire } : Link).receiveAll
  .next (fs.foldl (fun s f => s.accept link f) (s.modLink link (fun _ => u.replay)))

/-- `CREDIT_ONLY_FLIT` (R376): the receiver of a link returns credits that wait, in a flit of the other direction. -/
def execCreditOnlyFlit (link : Nat) (s : State) : Out :=
  if s.linkDown (reverseLink link) then .next s
  else match (s.link link).return_ with
  | (u, some c) => .next ((s.modLink link (fun _ => u)).modLink (reverseLink link) (fun l => l.put c.1 (some c) .credit))
  | (_, none) => .next s

/-- `SYNC_FLIT` (R378): after 4,096 flits the receiver of a link sends, in the other direction, its absolute free counts, which take in
the credits that it owes, and the number of the last flit it accepted. -/
def execSyncFlit (link : Nat) (s : State) : Out :=
  let l := s.link link
  if l.sinceSync < 4096 ∨ torusLink link ∨ s.linkDown (reverseLink link) then .next s
  else
    let free := [VNet.req, .rpy, .ctl, .blk].map (fun n => (n, linkRoom link - s.heldAt link n))
    .next ((s.modLink link (fun l => { l with owed := [], sinceSync := 0 })).modLink (reverseLink link)
      (fun b => b.put .ctl none (.sync free (l.expect - 1))))

/-- A message that an operator holds is faulted: link down (R385). -/
def StreamMsg.linkDown (site kind : Nat) (m : StreamMsg) : StreamMsg :=
  if m.gap || m.fault.isSome then m else { m with fault := some (5, kind, site, 0) }

/-- Every message held at a site whose torus link goes down (R385). -/
def State.siteDown (s : State) (pkg site : Nat) : State :=
  { s with streams := s.streams.map (fun (g : Nat × StreamGraph) =>
      if g.2.pkg = pkg then
        (g.1, { g.2 with nodes := g.2.nodes.map (fun (n : StreamNode) =>
          if n.site = site then { n with inputs := n.inputs.map (fun q => q.map (StreamMsg.linkDown site n.kind)) } else n) })
      else g) }

/-- A part whose way leads over a link that is down takes another, from where it is or from the end of the link that it is on; what it had
sent on the lost link is replayed over the remaining paths (R379). -/
def State.detour (s : State) (k : Nat) (p : Packet) (pkg : Nat) (x : Part) : Part :=
  let from_ (r : Router) : List Nat := ((s.way p pkg r).parts.head?.map (·.hops)).getD []
  match x.hops with
  | [] => x
  | h :: _ =>
    if !x.hops.contains k then x
    else if x.wired && h != k then { x with hops := h :: from_ (linkStart (reverseLink h)) }
    else { x with hops := from_ (linkStart h), wired := false }

/-- Every packet in a package keeps off a link that is down. -/
def State.reroute (s : State) (k : Nat) : State :=
  { s with net := s.net.map (fun (p : Packet) =>
      { p with trip := p.trip.map (fun t => { t with parts := t.parts.map (s.detour k p t.pkg) }) }) }

/-- The part report of the package from which a link leaves records that it is down, with an MCHK of UNIT 10 (R379, R398). -/
def State.recordDown (s : State) (link : Nat) : State :=
  if (AMap.get s.pkgs (linkPkg link)).isSome then
    s.modPkg (linkPkg link) (fun p => { p with linksDown := p.linksDown ++ [link], linkMchk := p.linkMchk ++ [link] })
  else s

/-- The torus flits on a link that its receiver has not accepted claim other outputs of the router that sent them (R379, R382). -/
def State.backToRouter (s : State) (link : Nat) : State :=
  let fs := (s.link link).replay.wire.filterMap (fun f => match f.load with
    | .torus x => some x
    | _ => none)
  if fs.isEmpty then s else s.modTorus (linkPkg link) (fun t => { t with arrived := t.arrived ++ fs })

/-- A link is taken down, both ways; the part report records it, that of either package where the link joins two (R379, R385,
R398). -/
def State.takeDown (s : State) (link : Nat) : State :=
  let back := reverseLink link
  let off (l : Link) : Link := { l with down := true, retry := [], wire := [] }
  let s := (s.backToRouter link).backToRouter back
  let s := ((s.modLink link off).modLink back off).recordDown link
  let s := if linkPkg back = linkPkg link then s else s.recordDown back
  if torusLink link then (s.siteDown (linkPkg link) (link % 8)).siteDown (linkPkg back) (back % 8)
  else (s.reroute link).reroute back

/-- A link that may retrain: from a die to a neighbour of the 2 × 4 arrangement, or of the torus. -/
def retrains (link : Nat) : Bool :=
  (decide (link < 2 ^ 60) && (dieNeighbours (link / 2 ^ 25)).contains (link % 2 ^ 25)) || torusLink link

/-- `LINK_RETRAIN` (R379): every flit in transit is lost, and the sender replays from the first flit of the packet, none of which is
accepted yet; the third retrain in a row takes the link down. -/
def execLinkRetrain (link : Nat) (s : State) : Out :=
  let l := s.link link
  if l.down || !retrains link then .next s
  else if 2 ≤ l.retrains then .next (s.takeDown link)
  else .next (s.modLink link (fun l => { l.replay with retrains := l.retrains + 1 }))

/-! ## The torus (R380-R382) -/

/-- The age of a flit in whole periods of 64 cycles, saturating (R380). -/
def State.flitAge (s : State) (p : Nat) (f : TorusFlit) : Nat :=
  Nat.min 4095 ((cycleAt p s.tick - cycleAt p f.born) / 64)

/-- Higher age first; of equal ages, the lower source package first (R380). -/
def State.older (s : State) (p : Nat) (a b : TorusFlit) : Bool :=
  decide (s.flitAge p b < s.flitAge p a) || (s.flitAge p a == s.flitAge p b && decide (a.src ≤ b.src))

/-- Flits in the order in which they claim outputs. -/
def State.claims (s : State) (p : Nat) (fs : List TorusFlit) : List TorusFlit :=
  fs.foldr (fun a r => r.takeWhile (fun b => !s.older p a b) ++ [a] ++ r.dropWhile (fun b => !s.older p a b)) []

/-- A cycle of a router: the flits given to each output, those ejected, those that found no output. -/
structure TorusCycle where
  out : List (Nat × TorusFlit)
  eject : List TorusFlit
  left : List TorusFlit
  deriving DecidableEq, Repr

/-- An output has room: four flits a cycle, on a link that is up and can keep them for a replay (R380, R379, R377). -/
def State.outputFree (s : State) (p : Nat) (c : TorusCycle) (o : Nat) : Bool :=
  decide ((c.out.filter (fun x => x.1 == o)).length < 4) && decide ((s.link (2 ^ 60 + p * 8 + o)).wire.length ≤ 252) && s.torusUp p o

/-- The flits that stalled torus sources leave in a port's ejection buffer (R386): they are on BLK (DESIGN CHOICE, log entry 18). -/
def State.stalledFlits (s : State) (p port : Nat) : Nat :=
  ((s.streams.filter (fun g => g.2.pkg == p && g.2.site == port)).map (fun g => (g.2.waiting.map (fun b => flitsOn 0 b.length)).sum)).sum

/-- The entries in use by a network of the ejection buffer of a package's port (R382, R400). -/
def State.ejected (s : State) (p port : Nat) (n : VNet) (fs : List TorusFlit) : Nat :=
  (fs.filter (fun e => decide (e.net = n) && e.via == port)).length + (if n = .blk then s.stalledFlits p port else 0)

/-- A flit leaves by an output, or into the ejection buffer of the port that it came to, of 2,048 flits a network (R380, R382). -/
def State.claim (s : State) (p : Nat) (c : TorusCycle) (f : TorusFlit) : TorusCycle :=
  if f.dst = p ∧ s.ejected p f.via f.net c.eject < 2048 then { c with eject := c.eject ++ [f] }
  else match (torusCloser p f.dst).find? (s.outputFree p c) with
    | some o => { c with out := c.out ++ [(o, f)] }
    | none => match (List.range 8).find? (s.outputFree p c) with
      | some o => { c with out := c.out ++ [(o, f)] }
      | none => { c with left := c.left ++ [f] }

/-- The flits of the packet that is next of its source and network, when the ejection buffer holds them all (R382). -/
def TorusNode.whole (t : TorusNode) : Option (TorusFlit × List TorusFlit) :=
  (t.eject.find? (fun f => (AMap.get t.taken (f.src, f.net)).getD 0 == f.seq && f.index + 1 == f.count &&
    (List.range f.count).all (fun i => t.eject.any (fun e => e.src == f.src && decide (e.net = f.net) && e.seq == f.seq && e.index == i)))).map
    (fun f => (f, t.eject.filter (fun e => e.src == f.src && decide (e.net = f.net) && e.seq == f.seq)))

/-- Whole packets leave the ejection buffer, in the order of their source and network, into the mesh at the port of their last
flit's link (R382, R372, R400). -/
def State.ejectInOrder (s : State) (p : Nat) : Nat → State
  | 0 => s
  | n + 1 =>
    match (s.torusNode p).whole with
    | none => s
    | some (f, fs) =>
      let s := s.modTorus p (fun t =>
        { t with eject := t.eject.filter (fun e => !fs.contains e), taken := AMap.put t.taken (f.src, f.net) (f.seq + 1) })
      let enter (q : Packet) : Packet := { q with trip := some (s.way q p (torusRouter (p * 8 + f.via))) }
      ({ s with net := s.net ++ (f.packet.map enter).toList }).ejectInOrder p n

/-- A flit sent over torus link `o`, with a number and kept for a replay (R361, R377). -/
def State.overTorus (s : State) (pkg o : Nat) (f : TorusFlit) : State :=
  s.modLink (2 ^ 60 + pkg * 8 + o) (fun l => l.put f.net none (.torus f))

/-- `TORUS_FLIT_ARRIVAL` (R380): one cycle of a package's router. An injected flit's age counts from the cycle in which it leaves.
(DEDUCED, log entry 59) -/
def execTorusFlitArrival (pkg : Nat) (s : State) : Out :=
  let t := s.torusNode pkg
  let c := (s.claims pkg t.arrived).foldl (s.claim pkg) { out := [], eject := t.eject, left := [] }
  let d := t.inject.foldl (fun c f => s.claim pkg c { f with born := s.tick }) { c with left := [] }
  let s := s.modTorus pkg (fun t => { t with arrived := c.left, inject := d.left, eject := d.eject })
  let s := d.out.foldl (fun s x => s.overTorus pkg x.1 x.2) s
  .next (s.ejectInOrder pkg d.eject.length)

/-! ## The slot allocator (R374, R375) -/

/-- The routers and outputs of a connection's route (R373, R374). -/
def State.route (s : State) (src dst : Nat) : List (Nat × Nat × Nat) :=
  let a := s.router src
  let b := s.router dst
  routeOf a.row a.col b.row b.col

/-- A connection once its edit is in force: gone where it was released (R375). -/
def Conn.settled (c : Conn) : Option Conn :=
  match c.shadow with
  | none => some c
  | some [] => none
  | some l => some { c with slots := l, shadow := none }

/-- The edits of a die in force: its allocator makes one edit at a time (R288, R375). -/
def State.settleEdits (s : State) (die : Nat) : State :=
  { s with conns := s.conns.filterMap (fun c => if c.die = die then c.settled else some c) }

/-- The slots that a connection owns at each router of its route: 2k later at the k-th (R374). -/
def State.ownedAt (s : State) (c : Conn) (o : Nat × Nat × Nat) : List Nat :=
  (s.route c.src c.dst).zipIdx.flatMap (fun (x, k) => if x = o then c.slots.map (fun n => (n + 2 * k) % 64) else [])

/-- The lowest-numbered slots that are free on every router of a route, beside some connections. -/
def State.freeRun (s : State) (others : List Conn) (src dst n : Nat) : List Nat :=
  ((List.range 64).filter (fun i => (s.route src dst).zipIdx.all (fun (o, k) =>
    others.all (fun c => !(s.ownedAt c o).contains ((i + 2 * k) % 64))))).take n

/-- A virtual function's slots at a router output. -/
def State.shareAt (s : State) (cs : List Conn) (vf : Nat) (o : Nat × Nat × Nat) : Nat :=
  ((cs.filter (fun c => c.vf == vf)).map (fun c => (s.ownedAt c o).length)).sum

/-- A connection is that of a triple, and of one stream graph or of none (R374, R383). -/
def Conn.of (c : Conn) (src dst : Nat) (net : VNet) (graph : Option Nat) : Bool :=
  c.src == src && c.dst == dst && decide (c.net = net) && decide (c.graph = graph)

/-- A request to the slot allocator: the shadow tables are written, or it is refused (R375). The slots that the connection itself
holds are given up by the edit, and one of another function's becomes the asking function's (DESIGN CHOICE, log entry 14). -/
def State.allocate (s : State) (vf src dst : Nat) (net : VNet) (n : Nat) (graph : Option Nat) : Option State :=
  let die := (s.router src).die
  let s := s.settleEdits die
  let others := s.conns.filter (fun c => c.die == die && !c.of src dst net graph)
  let slots := s.freeRun others src dst n
  if n = 0 ∨ 32 < n ∨ (s.router dst).die ≠ die ∨ src = dst ∨ slots.length < n ∨
      (s.route src dst).any (fun o => (s.vfun (die / 8) vf).slotShare < s.shareAt others vf o + n) then none
  else if s.conns.any (·.of src dst net graph) then
    some { s with conns := s.conns.map (fun (c : Conn) => if c.of src dst net graph then { c with vf, shadow := some slots } else c) }
  else some { s with conns := s.conns ++ [({ vf, die, src, dst, net, slots := [], shadow := some slots, graph } : Conn)] }

/-- The network of a number. -/
def vnetOf (n : Nat) : VNet :=
  match n % 4 with
  | 0 => .req | 1 => .rpy | 2 => .ctl | _ => .blk

/-- `SLOT` (R375): the payload is 0 and a request (VF, network, s, source and destination core), or 1 and the triple of a
connection to release. -/
def execSlotCmd (dg : List Byte) (s : State) : Out :=
  .next (s.hostCommand dg 8 byHypervisor (fun d s =>
    let vf := u d.data 1 1
    let net := vnetOf (u d.data 2 1)
    let src := d.pkg * 2048 + u d.data 4 2 % 2048
    let dst := d.pkg * 2048 + u d.data 6 2 % 2048
    let same (c : Conn) : Bool := c.of src dst net none
    if u d.data 0 1 = 1 then
      let v := s.settleEdits (s.router src).die
      if v.conns.any same then
        ({ v with conns := v.conns.map (fun (c : Conn) => if same c then { c with shadow := some [] } else c) } : State).reply d 0 []
      else s.reply d 2 []
    else if 15 < vf then s.reply d 2 []
    else match s.allocate vf src dst net (u d.data 3 1) none with
      | some t => t.reply d 0 []
      | none => s.reply d 2 []))

/-- `SLOT_TABLE_SWITCH` (R375): the shadow tables of a connection come into force; a released one is gone. -/
def execSlotTableSwitch (conn : Nat) (s : State) : Out :=
  match s.conns[conn]? with
  | some c => match c.settled with
    | some d => .next { s with conns := modNth s.conns conn (fun _ => d) }
    | none => .next { s with conns := dropNth s.conns conn }
  | none => .next s

end Sys2Proof.Machine
end

