-- ==== Sys2Proof/Machine/Streams.lean ====
section
/-! DEFINITION. Stream operators: loading a graph, its source, the twelve operator kinds, and the sink with its quarantine
ring (R383-R388). -/

namespace Sys2Proof.Machine

/-! ## Messages and contexts (R383, R384) -/

/-- Does a sequence number come before another? They rise by 1 modulo 2^32 (R384). -/
def seqBefore (a b : W32) : Bool := decide ((a - b).toInt < 0)

/-- The position of a message comes before that of another (R384). -/
def StreamMsg.before (a b : StreamMsg) : Bool := seqBefore a.seq b.seq || (a.seq == b.seq && decide (a.sub < b.sub))

/-- A gap marker in the place of a message (R384). -/
def StreamMsg.asGap (m : StreamMsg) : StreamMsg := { m with gap := true, data := [], fault := none }

/-- A message that faults an operator: diverted whole, with its code, the operator, and the offset (R387). -/
def StreamMsg.faulted (m : StreamMsg) (n : StreamNode) (code off : Nat) : StreamMsg := { m with fault := some (code, n.kind, n.site, off) }

/-- An operator works on a message: it is no gap, and no earlier operator diverted it (R384, R387). -/
def StreamMsg.real (m : StreamMsg) : Bool := !m.gap && m.fault.isNone

/-- A parameter word of a context. -/
def StreamNode.param (n : StreamNode) (i : Nat) : Nat := nth n.params i 0

/-- The bytes that a context's buffer holds. -/
def bufferedBytes (qs : List (List StreamMsg)) : Nat := (qs.map (fun q => (q.map (fun m => m.data.length)).sum)).sum

/-- The outputs for the head at a position, numbered: sub-indices go on from those the context gave for the same sequence
number; nothing left of a message is a gap (R384). -/
def StreamNode.number (n : StreamNode) (seq : W32) (last : Bool) (outs : List StreamMsg) : StreamNode × List StreamMsg :=
  let outs := if outs.isEmpty then [({ seq, sub := 0, last, gap := true, data := [], fault := none } : StreamMsg)] else outs
  let base := if n.lastSeq = some seq then n.subs else 0
  ({ n with lastSeq := some seq, subs := base + outs.length },
   outs.zipIdx.map (fun (m, i) => { m with seq, sub := (base + i) % 65536, last := last && i + 1 == outs.length }))

/-- What an operator makes of one message: a fault's code and offset, or its outputs. -/
abbrev Made := Except (Nat × Nat) (List (List Byte))

/-- One head message through a one-input operator: gaps and diverted messages pass untouched (R384, R387). -/
def StreamNode.single (f : StreamNode → List Byte → Made) (n : StreamNode) : Option (StreamNode × List StreamMsg) :=
  match n.inputs with
  | [m :: r] =>
    let n := { n with inputs := [r] }
    let outs := if !m.real then [m]
      else match f n m.data with
        | .error e => [m.faulted n e.1 e.2]
        | .ok ds => ds.map (fun d => { m with data := d })
    some (n.number m.seq m.last outs)
  | _ => none

/-- A place to which a context's outputs go is full: 64 KiB (R386). A context that concatenates takes what its messages
need (DESIGN CHOICE, log entry 18). -/
def StreamGraph.full (g : StreamGraph) (to_ : Nat) : Bool :=
  match g.nodes[to_ / 16]? with
  | none => decide (65536 ≤ bufferedBytes [g.sinkIn])
  | some n =>
    let joins := n.kind == 8 && n.param 0 == 1
    decide (65536 ≤ bufferedBytes n.inputs) && !(joins && decide ((n.inputs.flatten.filter (·.real)).length < n.param 1))

/-- Messages pass to a place: an input of a context, or the sink. -/
def StreamGraph.push (g : StreamGraph) (to_ : Nat) (ms : List StreamMsg) : StreamGraph :=
  if g.nodes.length ≤ to_ / 16 then { g with sinkIn := g.sinkIn ++ ms }
  else { g with nodes := modNth g.nodes (to_ / 16) (fun n => { n with inputs := modNth n.inputs (to_ % 16) (fun q => q ++ ms) }) }

/-- A turn of a context of a kind: it does nothing without input, or while a place it feeds is full (R386). -/
def State.operator (s : State) (graph node kind : Nat) (f : StreamNode → Option (StreamNode × List StreamMsg)) : Out :=
  match AMap.get s.streams graph with
  | none => .next s
  | some g =>
    match g.nodes[node]? with
    | none => .next s
    | some n =>
      if n.kind ≠ kind ∨ n.outs.any g.full then .next s
      else match f n with
        | none => .next s
        | some (n, outs) =>
          let g := { g with nodes := modNth g.nodes node (fun _ => n) }
          .next { s with streams := AMap.put s.streams graph (n.outs.foldl (fun g t => g.push t outs) g) }

/-- Elements of a message, little-endian (R29). -/
def elements (size : Nat) (d : List Byte) : List Nat := (List.range (d.length / size)).map (fun i => u d (size * i) size)

/-! ## Operators of one input (R385) -/

/-- The type of a number (R66). -/
def streamTy (n : Nat) : Ty := nth [Ty.i8, .i16, .i32, .i64, .n8, .n16, .n32, .n64, .bf16, .f32] n .i8

/-- CONVERT: source type, target type, rounding mode; integer targets saturate. -/
def convertMsg (n : StreamNode) (d : List Byte) : Made :=
  let src := streamTy (n.param 0)
  let dst := streamTy (n.param 1)
  let c : FCtx := { rm := n.param 2, fz := false, dn := true }
  let one (w : Nat) : Nat := if src.isInt && dst.isInt then clampTo dst (asInt src.signed src.bits w) else (fCvt c dst src w).1
  if d.length % src.bytes ≠ 0 then .error (4, d.length / src.bytes * src.bytes)
  else .ok [(elements src.bytes d).flatMap (fun w => leBytes dst.bytes (one w))]

/-- `CONVERT` (R385). -/
def execConvert (graph node : Nat) (s : State) : Out := s.operator graph node 1 (StreamNode.single convertMsg)

/-- Bits packed into bytes, the first lowest. -/
def packBits (bs : List Bool) : List Byte :=
  (List.range ((bs.length + 7) / 8)).map (fun i =>
    BitVec.ofNat 8 (((List.range 8).map (fun j => if nth bs (8 * i + j) false then 2 ^ j else 0)).sum))

/-- A number as bits, the lowest first; a code, the highest first. -/
def lowFirst (n w : Nat) : List Bool := (List.range n).map (fun i => w.testBit i)
def highFirst (n w : Nat) : List Bool := (lowFirst n w).reverse

/-- A symbol of the fixed literal and length code. -/
def fixedCode (sym : Nat) : List Bool :=
  if sym < 144 then highFirst 8 (0x30 + sym)
  else if sym < 256 then highFirst 9 (0x190 + sym - 144)
  else if sym < 280 then highFirst 7 (sym - 256)
  else highFirst 8 (0xC0 + sym - 280)

/-- The code of a match: its length and its distance. -/
def matchCode (len dist : Nat) : List Bool :=
  let ls := (List.range 29).reverse.find? (fun i => decide ((lengthOf (257 + i)).1 ≤ len) && (i != 27 || decide (len < 258)))
  let l := 257 + ls.getD 0
  let d := ((List.range 30).reverse.find? (fun i => decide ((distanceOf i).1 ≤ dist))).getD 0
  fixedCode l ++ lowFirst (lengthOf l).2 (len - (lengthOf l).1) ++ highFirst 5 d ++ lowFirst (distanceOf d).2 (dist - (distanceOf d).1)

/-- A match at a position: what it copies is what stands there, within the window of 32 KiB. -/
def matchOk (m : List Byte) (p len dist : Nat) : Bool :=
  decide (3 ≤ len) && decide (len ≤ 258) && decide (1 ≤ dist) && decide (dist ≤ Nat.min p 32768) && decide (p + len ≤ m.length) &&
    (List.range len).all (fun i => nth m (p + i) 0 == nth m (p + i - dist) 0)

/-- The rest of a fixed-Huffman block. Which matches it takes is free: any choice inflates to the message (DESIGN CHOICE, log entry 12). -/
def fixedBlock (m : List Byte) : Nat → Nat → List Bool
  | 0, _ => fixedCode 256
  | fuel + 1, p =>
    if m.length ≤ p then fixedCode 256
    else
      let c := Config.deflateOf m p
      if matchOk m p (c % 512) (c / 512) then matchCode (c % 512) (c / 512) ++ fixedBlock m fuel (p + c % 512)
      else fixedCode (nth m p 0).toNat ++ fixedBlock m fuel (p + 1)

/-- Stored blocks: all but the last hold 65,535 bytes (DESIGN CHOICE, log entry 12). -/
def storedBlocks : Nat → List Byte → List Byte
  | 0, _ => []
  | fuel + 1, d =>
    let b := d.take 65535
    let r := d.drop 65535
    BitVec.ofNat 8 (if r.isEmpty then 1 else 0) :: leBytes 2 b.length ++ leBytes 2 (65535 - b.length) ++ b ++
      (if r.isEmpty then [] else storedBlocks fuel r)

/-- COMPRESS: block kind, 0 fixed-Huffman, 1 stored. -/
def compressMsg (n : StreamNode) (d : List Byte) : Made :=
  if 65536 < d.length then .error (2, 65536)
  else if n.param 0 = 1 then .ok [storedBlocks 3 d]
  else .ok [packBits ([true, true, false] ++ fixedBlock d (d.length + 1) 0)]

/-- `COMPRESS` (R385). -/
def execCompress (graph node : Nat) (s : State) : Out := s.operator graph node 2 (StreamNode.single compressMsg)

/-- The code and offset of a failed inflation (R385): malformed input, or output over the limit. -/
def inflateFault (e : InflateErr) (at_ : Nat) : Nat × Nat := (if e.1 then 2 else 1, at_ + e.2)

/-- The end of a zero-terminated field. -/
def afterZero (d : List Byte) (p : Nat) : Nat := p + ((d.drop p).takeWhile (· != 0)).length + 1

/-- The end of an RFC 1952 header at an offset, or the fault in it. -/
def gzipHeader (d : List Byte) (p : Nat) : Except (Nat × Nat) Nat :=
  let flg := u d (p + 3) 1
  if d.length < p + 10 ∨ u d p 3 ≠ 0x088B1F ∨ 32 ≤ flg then .error (1, p)
  else
    let q := if flg.testBit 2 then p + 12 + u d (p + 10) 2 else p + 10
    let q := if flg.testBit 3 then afterZero d q else q
    let q := if flg.testBit 4 then afterZero d q else q
    let e := if flg.testBit 1 then q + 2 else q
    if d.length < e then .error (1, d.length)
    else if flg.testBit 1 && (crc32 ((d.drop p).take (q - p))).toNat % 65536 != u d q 2 then .error (3, q)
    else .ok e

/-- The members of an RFC 1952 message. -/
def gunzip (d : List Byte) (limit : Nat) : Nat → Nat → List Byte → Except (Nat × Nat) (List Byte)
  | 0, p, _ => .error (1, p)
  | fuel + 1, p, out =>
    match gzipHeader d p with
    | .error e => .error e
    | .ok q =>
      match inflate (limit - out.length) (d.drop q) with
      | .error e => .error (inflateFault e q)
      | .ok (o, k) =>
        let e := q + k
        if d.length < e + 8 then .error (1, d.length)
        else if u d e 4 ≠ (crc32 o).toNat ∨ u d (e + 4) 4 ≠ o.length % 2 ^ 32 then .error (3, e)
        else if d.length = e + 8 then .ok (out ++ o)
        else gunzip d limit fuel (e + 8) (out ++ o)

/-- INFLATE: wrapper 0 none, 1 RFC 1950, 2 RFC 1952; output limit. -/
def inflateMsg (n : StreamNode) (d : List Byte) : Made :=
  let limit := n.param 1
  match n.param 0 with
  | 0 => match inflate limit d with
    | .error e => .error (inflateFault e 0)
    | .ok (o, k) => if k < d.length then .error (1, k) else .ok [o]
  | 1 =>
    if d.length < 2 ∨ u d 0 1 % 16 ≠ 8 ∨ 7 < u d 0 1 / 16 ∨ (u d 0 1 * 256 + u d 1 1) % 31 ≠ 0 ∨ (u d 1 1).testBit 5 then .error (1, 0)
    else match inflate limit (d.drop 2) with
      | .error e => .error (inflateFault e 2)
      | .ok (o, k) =>
        if d.length ≠ k + 6 then .error (1, Nat.min d.length (k + 6))
        else if beNat (d.drop (k + 2)) ≠ adler32 o then .error (3, k + 2)
        else .ok [o]
  | _ => (gunzip d limit (d.length + 1) 0 []).map (fun o => [o])

/-- `INFLATE` (R385). -/
def execInflate (graph node : Nat) (s : State) : Out := s.operator graph node 3 (StreamNode.single inflateMsg)

/-! ### TRANSCODE -/

/-- The places where ISO-8859-15 differs from ISO-8859-1. -/
def latin9 : List (Nat × Nat) :=
  [(0xA4, 0x20AC), (0xA6, 0x160), (0xA8, 0x161), (0xB4, 0x17D), (0xB8, 0x17E), (0xBC, 0x152), (0xBD, 0x153), (0xBE, 0x178)]

/-- A Unicode scalar value. -/
def scalarOk (c : Nat) : Bool := decide (c < 0xD800) || (decide (0xE000 ≤ c) && decide (c < 0x110000))

/-- One character of UTF-8 at the head: the character and its length, or the length of the malformed part. -/
def utf8Head (d : List Byte) : Except Nat (Nat × Nat) :=
  let b (i : Nat) : Nat := (nth d i 0).toNat
  let cont (i lo hi : Nat) : Bool := decide (i < d.length) && decide (lo ≤ b i) && decide (b i ≤ hi)
  let c := b 0
  if c < 0x80 then .ok (c, 1)
  else if c < 0xC2 ∨ 0xF4 < c then .error 1
  else
    let lo := if c = 0xE0 then 0xA0 else if c = 0xF0 then 0x90 else 0x80
    let hi := if c = 0xED then 0x9F else if c = 0xF4 then 0x8F else 0xBF
    if !cont 1 lo hi then .error 1
    else if c < 0xE0 then .ok (c % 32 * 64 + b 1 % 64, 2)
    else if !cont 2 0x80 0xBF then .error 2
    else if c < 0xF0 then .ok (c % 16 * 4096 + b 1 % 64 * 64 + b 2 % 64, 3)
    else if !cont 3 0x80 0xBF then .error 3
    else .ok (c % 8 * 2 ^ 18 + b 1 % 64 * 4096 + b 2 % 64 * 64 + b 3 % 64, 4)

/-- One character of UTF-16 at the head, from its code units. -/
def utf16Head (unit : Nat → Nat) (n : Nat) : Except Nat (Nat × Nat) :=
  let c := unit 0
  if n < 2 then .error n
  else if c < 0xD800 ∨ 0xE000 ≤ c then .ok (c, 2)
  else if c < 0xDC00 ∧ 4 ≤ n ∧ 0xDC00 ≤ unit 1 ∧ unit 1 < 0xE000 then .ok (0x10000 + (c - 0xD800) * 1024 + (unit 1 - 0xDC00), 4)
  else .error 2

/-- One character at the head of a message, by its encoding: 0 US-ASCII, 1 ISO-8859-1, 2 ISO-8859-15, 3 UTF-8, 4 UTF-16LE,
5 UTF-16BE, 6 UTF-32LE. -/
def charHead (enc : Nat) (d : List Byte) : Except Nat (Nat × Nat) :=
  let c := u d 0 1
  match enc with
  | 0 => if c < 128 then .ok (c, 1) else .error 1
  | 1 => .ok (c, 1)
  | 2 => .ok (((latin9.find? (fun x => x.1 == c)).map (·.2)).getD c, 1)
  | 3 => utf8Head d
  | 4 => utf16Head (fun i => u d (2 * i) 2) d.length
  | 5 => utf16Head (fun i => beNat ((d.drop (2 * i)).take 2)) d.length
  | _ => if d.length < 4 then .error d.length else if scalarOk (u d 0 4) then .ok (u d 0 4, 4) else .error 4

/-- A UTF-16 code unit's bytes. -/
def unitBytes (big : Bool) (w : Nat) : List Byte := if big then (leBytes 2 w).reverse else leBytes 2 w

/-- A character in UTF-16. -/
def utf16Of (big : Bool) (c : Nat) : List Byte :=
  if c < 0x10000 then unitBytes big c
  else unitBytes big (0xD800 + (c - 0x10000) / 1024) ++ unitBytes big (0xDC00 + (c - 0x10000) % 1024)

/-- A character in UTF-8. -/
def utf8Of (c : Nat) : List Byte :=
  (if c < 0x80 then [c]
   else if c < 0x800 then [0xC0 + c / 64, 0x80 + c % 64]
   else if c < 0x10000 then [0xE0 + c / 4096, 0x80 + c / 64 % 64, 0x80 + c % 64]
   else [0xF0 + c / 2 ^ 18, 0x80 + c / 4096 % 64, 0x80 + c / 64 % 64, 0x80 + c % 64]).map (BitVec.ofNat 8)

/-- A character in an encoding, when it has one there. -/
def charBytes (enc c : Nat) : Option (List Byte) :=
  match enc with
  | 0 => if c < 128 then some [BitVec.ofNat 8 c] else none
  | 1 => if c < 256 then some [BitVec.ofNat 8 c] else none
  | 2 =>
    match latin9.find? (fun x => x.2 == c) with
    | some x => some [BitVec.ofNat 8 x.1]
    | none => if c < 256 ∧ !latin9.any (fun x => x.1 == c) then some [BitVec.ofNat 8 c] else none
  | 3 => some (utf8Of c)
  | 4 => some (utf16Of false c)
  | 5 => some (utf16Of true c)
  | _ => some (leBytes 4 c)

/-- The bytes of U+FFFD in an encoding; where the encoding has none, a free byte (DESIGN CHOICE, log entry 18). -/
def replacement (enc : Nat) : List Byte := (charBytes enc 0xFFFD).getD [BitVec.ofNat 8 (Config.freeChoice 8 enc)]

/-- How far a replacement skips: the malformed part, or its first byte (DESIGN CHOICE, log entry 18). -/
def malformedSkip (n : Nat) : Nat := if Config.freeChoice 9 0 % 2 = 0 then Nat.max 1 n else 1

/-- The characters of a message, from an offset on, in the target encoding. -/
def transcodeFrom (src dst : Nat) (policy : Nat) : Nat → Nat → List Byte → Except (Nat × Nat) (List Byte)
  | 0, p, _ => .error (1, p)
  | fuel + 1, p, d =>
    if d.isEmpty then .ok []
    else match charHead src d with
      | .ok (c, n) => match charBytes dst c with
        | some bs => (transcodeFrom src dst policy fuel (p + n) (d.drop n)).map (bs ++ ·)
        | none => if policy = 1 then .error (1, p) else (transcodeFrom src dst policy fuel (p + n) (d.drop n)).map (replacement dst ++ ·)
      | .error n =>
        if policy = 1 then .error (1, p)
        else (transcodeFrom src dst policy fuel (p + malformedSkip n) (d.drop (malformedSkip n))).map (replacement dst ++ ·)

/-- TRANSCODE: from, to, policy: 0 replace, 1 fault. -/
def transcodeMsg (n : StreamNode) (d : List Byte) : Made :=
  (transcodeFrom (n.param 0) (n.param 1) (n.param 2) (d.length + 1) 0 d).map (fun o => [o])

/-- `TRANSCODE` (R385). -/
def execTranscode (graph node : Nat) (s : State) : Out := s.operator graph node 4 (StreamNode.single transcodeMsg)

/-! ### TOKENISE, FILTER, SPLIT -/

/-- The longest entry of a vocabulary at the head of a message: its ID and its length. -/
def longestToken (vocab : List (List Byte)) (d : List Byte) : Option (Nat × Nat) :=
  vocab.zipIdx.foldl (fun best (e, i) =>
    if e.isEmpty || !(d.take e.length == e) then best
    else match best with
      | some b => if b.2 < e.length then some (i, e.length) else some b
      | none => some (i, e.length)) none

/-- The tokens of a message: greedy longest match; an unmatched byte `b` gives BASE + b. -/
def tokensFrom (vocab : List (List Byte)) (base limit : Nat) : Nat → Nat → Nat → List Byte → Except (Nat × Nat) (List Nat)
  | 0, _, _, _ => .ok []
  | fuel + 1, p, k, d =>
    match d with
    | [] => .ok []
    | b :: _ =>
      if limit ≤ k then .error (2, p)
      else
        let (id, n) := (longestToken vocab d).getD (base + b.toNat, 1)
        (tokensFrom vocab base limit fuel (p + n) (k + 1) (d.drop n)).map (id :: ·)

/-- TOKENISE: BASE and the token limit. -/
def tokeniseMsg (n : StreamNode) (d : List Byte) : Made :=
  (tokensFrom n.vocab (n.param 0) (n.param 1) (d.length + 1) 0 0 d).map (fun ids => [ids.flatMap (leBytes 4)])

/-- `TOKENISE` (R385). -/
def execTokenise (graph node : Nat) (s : State) : Out := s.operator graph node 5 (StreamNode.single tokeniseMsg)

/-- FILTER: offset, type, predicate code, p1, p2 (R296): a message that fails it is dropped as a gap. -/
def filterOf (n : StreamNode) (d : List Byte) : Made :=
  let k := 2 ^ n.param 1
  if d.length < n.param 0 + k then .error (1, n.param 0)
  else if predHolds (n.param 1) (n.param 2) (BitVec.ofNat 64 (n.param 3)) (BitVec.ofNat 64 (n.param 4)) (BitVec.ofNat 128 (u d (n.param 0) k))
  then .ok [d] else .ok []

/-- `FILTER` (R385). -/
def execFilterMsg (graph node : Nat) (s : State) : Out := s.operator graph node 6 (StreamNode.single filterOf)

/-- The parts between delimiters. Whether a piece keeps its delimiter is free (DESIGN CHOICE, log entry 18). -/
def splitAt (delim : Byte) (keep : Bool) : List Byte → List (List Byte)
  | [] => [[]]
  | b :: r =>
    let ps := splitAt delim keep r
    if b = delim then (if keep then [b] else []) :: ps
    else match ps with
      | [] => [[b]]
      | p :: q => (b :: p) :: q

/-- The pieces of a delimiter split: an empty part after the last delimiter is no piece, or is one (DESIGN CHOICE, log entry 18). -/
def delimited (delim : Byte) (d : List Byte) : List (List Byte) :=
  let ps := splitAt delim (Config.freeChoice 10 0 % 2 == 1) d
  if Config.freeChoice 10 1 % 2 = 0 ∧ ps.getLast? = some [] then ps.dropLast else ps

/-- SPLIT: 0 and a piece size, or 1 and a delimiter byte. -/
def splitMsgOf (n : StreamNode) (d : List Byte) : Made :=
  let size := n.param 1
  let ps := if n.param 0 = 0 then (List.range ((d.length + size - 1) / size)).map (fun i => (d.drop (size * i)).take size)
    else delimited (BitVec.ofNat 8 size) d
  if 4096 < ps.length then .error (2, ((ps.take 4096).map List.length).sum) else .ok ps

/-- `SPLIT` (R385). -/
def execSplitMsg (graph node : Nat) (s : State) : Out := s.operator graph node 7 (StreamNode.single splitMsgOf)

/-! ### REPLICATE, CHECKSUM, REPACK -/

/-- `REPLICATE` (R385): each copy keeps its sequence number. -/
def execReplicate (graph node : Nat) (s : State) : Out := s.operator graph node 9 (StreamNode.single (fun _ d => .ok [d]))

/-- CHECKSUM: 0 append, 1 verify and strip. -/
def checksumMsg (n : StreamNode) (d : List Byte) : Made :=
  if n.param 0 = 0 then .ok [d ++ leBytes 4 (crc32c d).toNat]
  else if d.length < 4 ∨ u d (d.length - 4) 4 ≠ (crc32c (d.take (d.length - 4))).toNat then .error (3, d.length - 4)
  else .ok [d.take (d.length - 4)]

/-- `CHECKSUM` (R385). -/
def execChecksum (graph node : Nat) (s : State) : Out := s.operator graph node 10 (StreamNode.single checksumMsg)

/-- An element's bytes in the other order. -/
def swapBytes (n w : Nat) : Nat := beNat (leBytes n w)

/-- REPACK: element sizes in and out, byte-order swap: before the change of size or after it (DESIGN CHOICE, log entry 18). -/
def repackMsg (n : StreamNode) (d : List Byte) : Made :=
  let a := n.param 0
  let b := n.param 1
  let one (w : Nat) : Nat :=
    if n.param 2 = 0 then w
    else if Config.freeChoice 11 0 % 2 = 0 then swapBytes a w else swapBytes b w
  if d.length % a ≠ 0 then .error (4, d.length / a * a) else .ok [(elements a d).flatMap (fun w => leBytes b (one w))]

/-- `REPACK` (R385). -/
def execRepack (graph node : Nat) (s : State) : Out := s.operator graph node 11 (StreamNode.single repackMsg)

/-! ### REDUCE and SEQJOIN: several inputs -/

/-- The heads of all inputs, when each has one. -/
def StreamNode.heads (n : StreamNode) : Option (List StreamMsg) := n.inputs.mapM List.head?

/-- The heads at the first position, and the context without them. -/
def StreamNode.firstHeads (n : StreamNode) (hs : List StreamMsg) : List StreamMsg × StreamNode :=
  let first (m : StreamMsg) : Bool := !hs.any (fun x => x.before m)
  (hs.filter first, { n with inputs := n.inputs.map (fun q => if q.head?.any first then q.tail else q) })

/-- REDUCE on one element. -/
def reduceElt (op : Nat) (t : Ty) (a b : Nat) : Nat :=
  if t = .i32 then
    match op with
    | 0 => (a + b) % 2 ^ 32
    | 1 => if asInt true 32 a < asInt true 32 b then b else a
    | _ => if asInt true 32 b < asInt true 32 a then b else a
  else
    match op with
    | 0 => (fAdd .array t a b).1
    | 1 => (fMinMax .array t true a b).1
    | _ => (fMinMax .array t false a b).1

/-- The type of a REDUCE: 0 .i32, 1 .f32, 2 .bf16. -/
def reduceTy (n : Nat) : Ty := nth [Ty.i32, .f32, .bf16] n .i32

/-- Messages joined by their position. One without its counterparts, and messages of unequal length, are malformed. -/
def StreamNode.reduce (n : StreamNode) (ms : List StreamMsg) : List StreamMsg :=
  let t := reduceTy (n.param 1)
  let lens := ms.map (fun m => m.data.length)
  let bad := ms.filter (fun m => m.fault.isSome)
  let fault (code off : Nat) : List StreamMsg := ms.map (fun m => m.faulted n code off)
  match ms with
  | [] => []
  | m :: r =>
    if !bad.isEmpty then bad
    else if ms.any (·.gap) then [m.asGap]
    else if ms.length ≠ n.inputs.length ∨ lens.any (· != m.data.length) then fault 1 (leastOf lens)
    else if m.data.length % t.bytes ≠ 0 then fault 4 (m.data.length / t.bytes * t.bytes)
    else
      let sum := r.foldl (fun acc x => List.zipWith (reduceElt (n.param 0) t) acc (elements t.bytes x.data)) (elements t.bytes m.data)
      [{ m with data := sum.flatMap (leBytes t.bytes) }]

/-- `REDUCE` (R385): op 0 add, 1 max, 2 min. -/
def execReduceMsg (graph node : Nat) (s : State) : Out :=
  s.operator graph node 0 (fun n => n.heads.bind (fun hs =>
    let (ms, n) := n.firstHeads hs
    ms.head?.map (fun m => n.number m.seq (ms.all (·.last)) (n.reduce ms))))

/-- Merging by sequence number: what stands at the first position passes on; only gaps make a gap. -/
def StreamNode.merge (n : StreamNode) : Option (StreamNode × List StreamMsg) :=
  n.heads.bind (fun hs =>
    let (ms, n) := n.firstHeads hs
    ms.head?.map (fun m => n.number m.seq (ms.all (·.last)) (ms.filter (fun x => !x.gap))))

/-- The first messages of an input that hold `k` real ones. -/
def takeReal : Nat → List StreamMsg → Option (List StreamMsg × List StreamMsg)
  | 0, q => some ([], q)
  | _ + 1, [] => none
  | k + 1, m :: q => (takeReal (if m.real then k else k + 1) q).map (fun r => (m :: r.1, r.2))

/-- The messages that a joining context takes, in the places of the joined ones: the first holds them all, gaps stand for the
others; above 64 KiB each is diverted. -/
def StreamNode.joined (n : StreamNode) (ms : List StreamMsg) : List StreamMsg :=
  let reals := ms.filter (·.real)
  let all := reals.flatMap (·.data)
  (ms.foldl (fun (acc : List StreamMsg × Nat × Bool) m =>
    if !m.real then (acc.1 ++ [m], acc.2)
    else if 65536 < all.length then (acc.1 ++ [m.faulted n 2 (Nat.min m.data.length (65536 - acc.2.1))], acc.2.1 + m.data.length, true)
    else (acc.1 ++ [if acc.2.2 then m.asGap else { m with data := all }], acc.2.1, true)) ([], 0, false)).1

/-- Concatenating k consecutive messages. -/
def StreamNode.concat (n : StreamNode) : Option (StreamNode × List StreamMsg) :=
  match n.inputs with
  | [q] => (takeReal (n.param 1) q).map (fun (ms, r) =>
      (n.joined ms).foldl (fun (acc : StreamNode × List StreamMsg) m =>
        let (n, outs) := acc.1.number m.seq m.last [m]
        (n, acc.2 ++ outs)) ({ n with inputs := [r] }, []))
  | _ => none

/-- `SEQJOIN` (R385): 0 merge, or 1 and k. -/
def execSeqjoin (graph node : Nat) (s : State) : Out :=
  s.operator graph node 8 (fun n => if n.param 0 = 0 then n.merge else n.concat)

/-! ## Loading a graph (R383) -/

/-- A node of a graph description: kind, site, counts of outputs, parameters and vocabulary entries; then these. The node,
its number of inputs, and the rest (DESIGN CHOICE, log entry 18). -/
def readNode (d : List Byte) : StreamNode × List Byte :=
  let no := u d 2 1
  let np := u d 3 1
  let nv := u d 4 4
  let outs := (List.range no).map (fun i => u d (12 + 2 * i) 2)
  let d1 := d.drop (12 + 2 * no)
  let params := (List.range np).map (fun i => u d1 (8 * i) 8)
  let (vocab, rest) := (List.range nv).foldl (fun (acc : List (List Byte) × List Byte) _ =>
    let n := u acc.2 0 4
    (acc.1 ++ [(acc.2.drop 4).take n], acc.2.drop (4 + n))) ([], d1.drop (8 * np))
  ({ kind := u d 0 1, site := u d 1 1, params, vocab, outs, inputs := List.replicate (u d 8 1) [], lastSeq := none, subs := 0 }, rest)

/-- The parameters of a kind are within their limits (R385). -/
def StreamNode.paramsOk (n : StreamNode) : Bool :=
  let p := n.param
  let one := n.inputs.length == 1
  let size (x : Nat) : Bool := x == 1 || x == 2 || x == 4 || x == 8
  decide (n.site < 10) && decide (n.outs.length = 1 ∨ (n.kind = 9 ∧ 2 ≤ n.outs.length ∧ n.outs.length ≤ 4)) &&
  (match n.kind with
   | 0 => decide (2 ≤ n.inputs.length) && decide (n.inputs.length ≤ 8) && decide (p 0 < 3) && decide (p 1 < 3)
   | 1 => one && decide (p 0 < 10) && decide (p 1 < 10) && decide (p 2 < 4)
   | 2 => one && decide (p 0 < 2)
   | 3 => one && decide (p 0 < 3) && decide (1024 ≤ p 1) && decide (p 1 ≤ 2 ^ 20)
   | 4 => one && decide (p 0 < 7) && decide (p 1 < 7) && decide (p 2 < 2)
   | 5 => one && decide (n.vocab.length ≤ 2 ^ 20) && decide (1 ≤ p 1) && decide (p 1 ≤ 65536)
   | 6 => one && decide (p 1 < 4) && decide (p 2 < 8)
   | 7 => one && (if p 0 = 0 then decide (16 ≤ p 1) && decide (p 1 ≤ 4096) else p 0 == 1 && decide (p 1 < 256))
   | 8 => if p 0 = 0 then decide (2 ≤ n.inputs.length) && decide (n.inputs.length ≤ 8)
          else p 0 == 1 && one && decide (2 ≤ p 1) && decide (p 1 ≤ 256)
   | 9 => one && decide (2 ≤ n.outs.length)
   | 10 => one && decide (p 0 < 2)
   | 11 => one && size (p 0) && size (p 1) && decide (p 2 < 2)
   | _ => false)

/-- The places that feed each other: the source feeds the first input of context 0, or the sink of a graph without contexts;
every other input, and the sink, has one feeder, and contexts feed later ones only. -/
def StreamGraph.joinedUp (g : StreamGraph) : Bool :=
  let n := g.nodes.length
  let fed := 0 :: g.nodes.flatMap (·.outs)
  let places := g.nodes.zipIdx.flatMap (fun (x, i) => (List.range x.inputs.length).map (fun j => 16 * i + j)) ++ [16 * n]
  places.all (fun p => fed.count p == 1) && fed.all places.contains &&
    g.nodes.zipIdx.all (fun (x, i) => x.outs.all (fun t => decide (i < t / 16)))

/-- The router of a site: sites 0 to 7 are the torus ports; Ethernet port `e`, site 8 + `e`, is taken to be at the port of die `e`
(R383, R400; DESIGN CHOICE, log entry 18). -/
def siteRouter (pkg site : Nat) : Router := torusRouter (pkg * 8 + site % 8)

/-- The pieces of a connection between two routers, one on each die that it passes (R374, R400). -/
def segmentsThrough (a b : Router) : List Nat → List (Router × Router)
  | [] => [(a, b)]
  | d :: r => (a, portRouter a.die d) :: segmentsThrough (portRouter d a.die) b r

/-- The sites that a graph joins: the source's with its first context's, and each context's with those of the contexts it feeds. -/
def StreamGraph.joins (g : StreamGraph) : List (Nat × Nat) :=
  (g.nodes.head?.map (fun n => (g.site, n.site))).toList ++
    g.nodes.flatMap (fun n => n.outs.filterMap (fun t => (g.nodes[t / 16]?).map (fun m => (n.site, m.site))))

/-- The connections of a graph: those of its joins between routers that differ, each once. -/
def State.graphConns (s : State) (g : StreamGraph) : List (Router × Router) :=
  ((g.joins.flatMap (fun (a, b) =>
    let ra := siteRouter g.pkg a
    let rb := siteRouter g.pkg b
    segmentsThrough ra rb (s.dieRoute ra.die rb.die))).filter (fun x => !decide (x.1 = x.2))).eraseDups

/-- The connections of a graph allocated, one slot each, or none of them (R375, R383; DESIGN CHOICE, log entry 18). -/
def State.connect (s : State) (g : StreamGraph) (num : Nat) : Option State :=
  (s.graphConns g).foldl (fun s x => s.bind (fun s => s.allocate g.vf x.1.node x.2.node .blk 1 (some num))) (some s)

/-- Contexts of a package's operator units that graphs take. -/
def State.contextsAt (s : State) (pkg site kind : Nat) : Nat :=
  ((s.streams.filter (fun g => g.2.pkg == pkg)).flatMap (fun g => g.2.nodes.filter (fun n => n.site == site && n.kind == kind))).length

/-- A graph fits its units' 16 contexts each (R383). -/
def State.graphFits (s : State) (g : StreamGraph) : Bool :=
  g.nodes.all (fun n => decide (s.contextsAt g.pkg n.site n.kind + (g.nodes.filter (fun m => m.site == n.site && m.kind == n.kind)).length ≤ 16))

/-- A graph description (DESIGN CHOICE, log entry 18): package, stream number, channel, number of contexts, virtual core, serial of the
launch, ring slots, the source's site and ingress traffic, ring base; then the contexts. -/
def State.streamGraph (s : State) (vf : Nat) (d : List Byte) : StreamGraph :=
  let pkg := u d 0 4
  let launch := ((s.launches.find? (fun l => l.2.vf == vf && l.2.serial.toNat == u d 12 4 && l.2.pkgs.contains pkg)).map (·.1)).getD 0
  let (nodes, _) := (List.range (u d 7 1)).foldl (fun (acc : List StreamNode × List Byte) _ =>
    let (n, r) := readNode acc.2
    (acc.1 ++ [n], r)) ([], d.drop 32)
  { vf, pkg, num := u d 4 2, nextSeq := 0, nodes, chan := u d 6 1, launch, vc := u d 8 4, ring := BitVec.ofNat 64 (u d 24 8),
    ringSlots := u d 16 4, site := u d 20 2, select := u d 22 2, sinkIn := [], waiting := [], commitSeq := 0, commitSub := 0 }

/-- A ring's slots: a power of two from 64 to 2^20 (R388). -/
def ringOk (n : Nat) : Bool := (List.range 15).any (fun k => n == 2 ^ (k + 6))

/-- `STREAM_GRAPH_LOAD` (R383): the graph is loaded and its ring header gets its reset values (R388), or it is refused whole. -/
def execStreamGraphLoad (vf : Nat) (data : List Byte) (s : State) : Out :=
  let g := s.streamGraph vf data
  let ok := decide (vf < 16) && (AMap.get s.pkgs g.pkg).isSome && (AMap.get s.launches g.launch).isSome && decide (2 ≤ g.chan) && decide (g.chan < 64) &&
    decide (g.vc < (s.launch g.launch).vcores) && ringOk g.ringSlots && decide (g.site < 10) && g.nodes.all StreamNode.paramsOk && g.joinedUp && s.graphFits g
  if !ok then .next s
  else match s.connect g s.next with
    | none => .next s
    | some s =>
      let s := { s with streams := AMap.put s.streams s.next g, next := s.next + 1 }
      .next (s.writeGlobal g.pkg vf g.ring.toNat (leBytes 8 1 ++ List.replicate 56 0))

/-- The source gives a message the next number (R384). -/
def StreamGraph.enter (g : StreamGraph) (data : List Byte) : StreamGraph :=
  { g.push 0 [{ seq := g.nextSeq, sub := 0, last := true, gap := false, data, fault := none }] with nextSeq := g.nextSeq + 1 }

/-- A torus source goes on with the first message that its ejection buffer holds (R386). -/
def State.takeWaiting (s : State) (graph : Nat) : State :=
  match AMap.get s.streams graph with
  | none => s
  | some g => match g.waiting with
    | [] => s
    | d :: r => if g.full 0 then s else { s with streams := AMap.put s.streams graph ({ g with waiting := r }.enter d) }

/-- `STREAM_INGRESS` (R383, R384): a message with the next number. Where a full context stops the source, an Ethernet port sends a pause
frame for the graph's priority, that of its launch, and the sender keeps the message; at a torus port its flits stay in the ejection
buffer while that has room (R386; DESIGN CHOICE, log entry 18). -/
def execStreamIngress (graph : Nat) (data : List Byte) (s : State) : Out :=
  match AMap.get s.streams graph with
  | none => .next s
  | some g =>
    if g.full 0 || !g.waiting.isEmpty then
      if 8 ≤ g.site then
        .next { s with pauses := s.pauses ++ [{ pkg := g.pkg, site := g.site, prio := (s.launch g.launch).priority }] }
      else if s.ejected g.pkg g.site .blk (s.torusNode g.pkg).eject + flitsOn 0 data.length ≤ 2048 then
        .next { s with streams := AMap.put s.streams graph { g with waiting := g.waiting ++ [data] } }
      else .next s
    else .next { s with streams := AMap.put s.streams graph (g.enter data) }

/-! ## The sink and its ring (R386-R388) -/

/-- The pieces of a message: at most 240 bytes after each header (R386). -/
def StreamMsg.pieces (m : StreamMsg) : List (List Byte) :=
  let n := Nat.max 1 ((m.data.length + 239) / 240)
  (List.range n).map (fun i =>
    leBytes 4 m.seq.toNat ++ leBytes 2 m.sub ++ leBytes 2 i ++ leBytes 4 m.data.length ++ leBytes 4 (if i + 1 = n then 1 else 0) ++
      (m.data.drop (240 * i)).take 240)

/-- A record of the ring: one slot, then the message in slots of 64 bytes (R388). -/
def StreamGraph.ringRecord (g : StreamGraph) (m : StreamMsg) (f : Nat × Nat × Nat × Nat) : List (List Byte) :=
  let head := leBytes 2 g.num ++ leBytes 2 m.sub ++ leBytes 4 m.seq.toNat ++ leBytes 4 m.data.length ++ [0, 0] ++
    [BitVec.ofNat 8 (f.2.1 * 16 + f.2.2.1), BitVec.ofNat 8 f.1] ++ leBytes 8 f.2.2.2 ++ List.replicate 40 0
  head :: (List.range ((m.data.length + 63) / 64)).map (fun i =>
    let b := (m.data.drop (64 * i)).take 64
    b ++ List.replicate (64 - b.length) 0)

/-- Every byte of a slot can be translated. -/
def State.slotMapped (s : State) (g : StreamGraph) (i : Nat) : Bool := (s.readGlobal g.pkg g.vf (g.ring.toNat + 64 * i) 64).isSome

/-- The sink writes a record: its slots, then PROD and WRITTEN; or it counts it in LOST (R388). -/
def State.quarantineRecord (s : State) (g : StreamGraph) (m : StreamMsg) (f : Nat × Nat × Nat × Nat) : State :=
  let base := g.ring.toNat
  let word (i : Nat) : Nat := leNat ((s.readGlobal g.pkg g.vf (base + 8 * i) 8).getD [])
  let put (s : State) (i v : Nat) : State := s.writeGlobal g.pkg g.vf (base + 8 * i) (leBytes 8 v)
  let n := g.ringSlots - 1
  let slot (i : Nat) : Nat := 1 + (word 0 - 1 + i) % n
  let rec_ := g.ringRecord m f
  let used := (word 0 - 1 + (n - (word 1 - 1) % n)) % n
  if !s.slotMapped g 0 ∨ n ≤ used + rec_.length ∨ (List.range rec_.length).any (fun i => !s.slotMapped g (slot i)) then put s 3 (word 3 + 1)
  else
    let s := rec_.zipIdx.foldl (fun s (b, i) => s.writeGlobal g.pkg g.vf (base + 64 * slot i) b) s
    put (put s 0 (slot rec_.length)) 2 (word 2 + 1)

/-- The next place to commit after a message (R384). -/
def StreamGraph.committed (g : StreamGraph) (m : StreamMsg) : StreamGraph :=
  let g := { g with sinkIn := g.sinkIn.erase m }
  if m.last then { g with commitSeq := g.commitSeq + 1, commitSub := 0 } else { g with commitSub := g.commitSub + 1 }

/-- The core of a sink's virtual core, when it can take the next message: the pieces of the one before are admitted (R386). -/
def State.sinkCore (s : State) (g : StreamGraph) : Option Nat :=
  if (s.launch g.launch).state = .done then none
  else ((s.launch g.launch).coreOf g.vc).filter (fun c =>
    !(s.core c).sys.any (fun e => e.launch == g.launch && e.vc == g.vc && e.msg.ch == g.chan && e.sender.isNone))

/-- A committed message on its way to the sink's channel (R386). -/
def State.sinkDeliver (s : State) (g : StreamGraph) (core : Nat) (m : StreamMsg) : State :=
  let msg (b : List Byte) : Msg :=
    { ch := g.chan, rpy := true, vc := 0xFF_FFFF, tid := 0xFF_FFFF, bytes := b.length, data := padded b }
  let es := m.pieces.map (fun b => ({ sender := none, launch := g.launch, vc := g.vc, after := 0, msg := msg b, born := s.tick } : InjEntry))
  s.modCore core (fun c => { c with sys := c.sys ++ es })

/-- `SINK_COMMIT` (R384, R386, R387): the message at the commit position is delivered, recorded, or is a gap; the sink stands
after the last context. -/
def execSinkCommit (graph node : Nat) (s : State) : Out :=
  match AMap.get s.streams graph with
  | none => .next s
  | some g =>
    if node ≠ g.nodes.length then .next s
    else match g.sinkIn.find? (fun m => m.seq == g.commitSeq && m.sub == g.commitSub) with
      | none => .next s
      | some m =>
        let done (s : State) : State := { s with streams := AMap.put s.streams graph (g.committed m) }
        match m.gap, m.fault with
        | true, _ => .next (done s)
        | false, some f => .next (done (s.quarantineRecord g m f))
        | false, none => match s.sinkCore g with
          | some c => .next ((done s).sinkDeliver g c m)
          | none => .next s

end Sys2Proof.Machine
end

