-- ==== Sys2Proof/Machine/Policy.lean ====
section
/-! DEFINITION. What moves when nothing is asked for: the agents' events that may happen now, and the next context (log entries
1 and 2). -/

namespace Sys2Proof.Machine

/-- An event as it stands in a list of those that may happen. -/
abbrev Event := State → Out

/-- The arrival of the packet with an index, by what it carries. -/
def Body.arrival (k : Nat) : Body → Event
  | .pressure _ _ _ => execPressureNotice k
  | .notice _ _ _ => execNoticeArrival k
  | .noticeRefused _ _ _ => execNoticeRetry k
  | .nack _ _ => execNackArrival k
  | .segCmd _ _ => fun s => execStreamerSegment (((s.net[k]?).map (·.dst)).getD 0) s
  | .sector _ _ _ _ => execSectorWrite k
  | .segAck _ _ => execSegmentComplete k
  | .decrement _ _ => execCompletionDecrement k
  | .swap _ _ _ => execPublishSwap k
  | .remote _ => execPeerAccessRequest k
  | .reply _ _ _ _ => execRemoteReply k
  | .notsup _ _ _ => execAmopNotsup k
  | .keepWaiting _ => execKeepWaitingArrival k
  | .cancel _ => execRemoteCancel k
  | .amopAck _ _ => execRemoteReply k
  | .gbarArrive _ _ _ _ => execGbarArrival k
  | .gbarRelease _ _ _ => execGbarRelease k
  | .winArrive _ _ _ _ _ => execWindowOpen k
  | .depart _ _ _ _ => execMemberDepart k
  | .steal _ _ _ _ _ => execStealDecision k
  | .stealResult _ _ _ _ _ _ _ _ => execStealReply k
  | .tqdone _ _ _ _ _ => execTqdoneArrival k
  | .straggler _ _ _ _ _ _ => execStragrdReply k
  | .migrate _ => execMigrateArrival k
  | .offer _ _ _ => execOfferArrival k
  | .withdraw _ _ _ _ _ => execWithdrawalArrival k
  | .portResult _ _ _ _ => execPortResultArrival k
  | .emit _ _ _ _ _ => execEmitReport k
  | .retract _ _ _ _ => execRetractReport k
  | .pause _ _ _ => execPauseReport k
  | .leave _ _ _ => execLeaveReport k
  | .blockSig _ _ _ _ => execBlockReport k
  | .blockPort _ _ _ _ => execBlockReport k
  | .unblock _ _ _ => execUnblockReport k
  | .resolution _ _ _ _ _ => execResolutionArrival k
  | .cause _ _ _ _ => execCauseArrival k
  | .resume _ _ _ _ => execResumptionArrival k

/-- The events of one core: its scheduling table, messages and handlers, matrix unit, banks, and slots. -/
def Core.events (g : Nat) (c : Core) : List Event :=
  [execSlotwTableBoundary g] ++ (List.range (c.inj.length + c.sys.length)).map (execMessageAdmit g) ++ [execHandlerSelect g] ++
    [0, 1].flatMap (fun t => [execMatrixOpComplete g t, execMatrixRowEntry g t, execTileFetchRead g t, execMatrixOpStart g t, execMatrixStallYield g t]) ++
    ((List.range 128).filter (fun b => decide (c.bankState b = .clearing))).map (execBankClearDone g) ++ (List.range 4).map (execStrandPlace g)

/-- The turn of one context of a stream graph. -/
def StreamNode.event (graph node : Nat) (n : StreamNode) : Event :=
  match n.kind with
  | 0 => execReduceMsg graph node
  | 1 => execConvert graph node
  | 2 => execCompress graph node
  | 3 => execInflate graph node
  | 4 => execTranscode graph node
  | 5 => execTokenise graph node
  | 6 => execFilterMsg graph node
  | 7 => execSplitMsg graph node
  | 8 => execSeqjoin graph node
  | 9 => execReplicate graph node
  | 10 => execChecksum graph node
  | _ => execRepack graph node

/-- The domain that a report of a member is about (R312). -/
def Body.domain : Body → Option (Nat × Nat)
  | .emit l g _ _ _ | .retract l g _ _ | .pause l g _ | .leave l g _ | .blockSig l g _ _ | .blockPort l g _ _ | .unblock l g _ => some (l, g)
  | _ => none

/-- A report of a member of a group is still on its way to the home. -/
def State.reporting (s : State) (g : Group) : Bool := s.flying.any (fun p => decide (p.body.domain = some (g.launch, g.gid)))

/-- What the machine does of itself between the steps that the spec names: packets move on (R373, R376, R380) and flits arrive, links return credits (R376,
R378), stalled sources go on (R386), the slices of closed windows are freed (R329), evictions and the moves of a row are carried on (R289, R364; DESIGN CHOICE, log entry 1). -/
def State.inward (s : State) : List Event :=
  (List.range s.net.length).map (fun k s => .next (s.carry k)) ++
    (s.links.filter (fun l => !l.2.wire.isEmpty)).map (fun l s => .next (s.land l.1)) ++
    (s.links.filter (fun l => l.2.owed.any (fun e => e.2 != 0))).map (fun l => execCreditOnlyFlit l.1) ++
    (s.links.filter (fun l => 4096 ≤ l.2.sinceSync)).map (fun l => execSyncFlit l.1) ++
    s.streams.map (fun g s => .next (s.takeWaiting g.1)) ++
    [fun s => .next s.releaseExports, fun s => .next s.evictOn, fun s => .next s.shiftOn]

/-- The events that may happen in a state without an input from outside and without a limit of time running out. A
home judges the end and the stall of an instant when no report is on its way to it. -/
def State.events (s : State) : List Event :=
  s.inward ++ s.net.zipIdx.map (fun (p, k) => p.body.arrival k) ++
  (s.torus.filter (fun t => !(t.2.arrived ++ t.2.inject ++ t.2.eject).isEmpty)).map (fun t => execTorusFlitArrival t.1) ++
  s.cores.flatMap (fun c => c.2.events c.1) ++
  ((s.streamers.filter (fun n => !n.2.cmds.isEmpty)).map (fun n => execStreamerSegment n.1)) ++
  s.connectors.flatMap (fun c => [execConnectorEvaluation c.1 c.2.num, execClockedEvaluation c.1 c.2.num]) ++
  s.groups.zipIdx.flatMap (fun g => if s.reporting g.1 then [] else [execInstantEnd g.2, execCausalityCycle g.2]) ++
  s.graphs.flatMap (fun g => g.2.nodes.map (fun n => execGraphNodeTest g.1 n.num)) ++
  s.launches.map (fun l => execLaunchComplete l.1) ++
  s.evictedSets.map (fun e => execRestore (e.1 * 128 + e.2)) ++
  s.pkgs.map (fun p => execLaunchSelect p.1) ++ s.pkgs.map (fun p => execTimestampRebase p.1) ++
  s.locks.map (fun l => execEgressRelease l.1) ++
  (List.range s.parked.length).map execFaultQueueRetry ++
  (List.range s.conns.length).map execSlotTableSwitch ++
  s.streams.flatMap (fun g => g.2.nodes.zipIdx.map (fun (n, i) => n.event g.1 i) ++ [execSinkCommit g.1 g.2.nodes.length])

/-- The first event of a list that changes the state. -/
def State.firstEvent (s : State) : List Event → Option State
  | [] => none
  | e :: es => match e s with
    | .next t => if t = s then s.firstEvent es else some t
    | _ => s.firstEvent es

/-- An event that happens now, if one may: the search starts at a different one at each tick, so that each comes about. -/
def State.anyEvent (s : State) : Option State :=
  let es := s.events
  s.firstEvent (es.rotateLeft (s.tick / 2 % (es.length + 1)))

/-- A context may have the turn: it runs, and it stands in a slot (R7, R26). -/
def Strand.runnable (c : Strand) : Bool := c.live && decide (c.res = .resident)

/-- The turn passes to the next context that may run: the one before it goes to the end. -/
def State.nextTurn (s : State) : Option State :=
  match s.rest.find? Strand.runnable with
  | some c => some { s with me := c, rest := s.rest.erase c ++ [s.me] }
  | none => if s.me.runnable then some s else none

end Sys2Proof.Machine
end

