-- ==== Sys2Proof/Machine/Access.lean ====
section
/-! DEFINITION. Scalar and vector loads and stores, bank claims, and queue memory (R104-R114). -/

namespace Sys2Proof.Machine

/-! ## Scalar accesses (R109, R110) -/

/-- The address of LD and ST (R109). -/
def scaled (s : State) (t : Ty) (a : Reg) (off : BitVec 11) : W64 := s.x a + sx off * BitVec.ofNat 64 t.bytes

/-- A loaded element as a register value: extended for integer types, zero-extended for float types (R109). -/
def loadX (t : Ty) (bs : List Byte) : W64 := if t.isInt then ext t (leNat bs) else BitVec.ofNat 64 (leNat bs)

/-- `LD` (R109). -/
def execLd (t : Ty) (d a : Reg) (off : BitVec 11) (s : State) : Out :=
  M.run (do
    let bs ← M.load (scaled s t a off) t.bytes
    modify (·.setX d (loadX t bs))
    M.done 4) s

/-- `ST` (R109). -/
def execSt (t : Ty) (d a : Reg) (off : BitVec 11) (s : State) : Out :=
  M.run (do
    M.store (scaled s t a off) (leBytes t.bytes (s.x d).toNat)
    M.done 4) s

/-- `LDQ` (R110): a free entry is reserved before the access is checked. -/
def execLdq (q : Reg3) (a : Reg) (s : State) : Out :=
  M.run (do
    M.blockIf (s.myQueues.full s.me.id.unit q) (.queueRoom q)
    modify (·.modMyQueues (·.hold s.me.id.unit q 16))
    let bs ← M.load (s.x a) 16
    modify (fun u => (u.unhold u.me.id).modMyQueues (·.push q (ofBytes bs)))
    M.done 4) s

/-- `STQ` (R110): the entry is removed once its bytes are stored. -/
def execStq (a : Reg) (q : Reg3) (s : State) : Out :=
  M.run (do
    let e ← M.reserve q 0
    M.store (s.x a) (vbytes e)
    modify (fun u => (u.unhold u.me.id).modMyQueues (·.pop q 1))
    M.done 4) s

/-! ## Bank claims (R113, R114) -/

/-- The bank of an access in a core's local scratchpad: core, bank and row (R113); a claim on a gang access is ignored
(R327). -/
def State.bank (s : State) : Target → Option (Nat × Nat × Nat)
  | .mem a =>
    let k := s.activeKey a.key
    if gangVa a.va then none else (keyCore k).map (fun g => (g, bits k 8 4, k % 2 ^ 19 / 512))
  | _ => none

/-- The lowest lane before a lane that touches the lane's bank in another row, and the bank (R114). -/
def State.clash (s : State) (seen : List (Nat × Target)) (t : Target) : Option (Nat × Nat) :=
  match s.bank t with
  | none => none
  | some (g, b, r) => (seen.find? (fun x => match s.bank x.2 with
      | some (g', b', r') => g = g' && b = b' && r != r'
      | none => false)).map (fun x => (x.1, b))

/-- Step 4 of R104 for lane `i` of a claimed access, against the lanes before it. -/
def M.claim (c : Bool) (seen : List (Nat × Target)) (i : Nat) (t : Target) : M Unit := do
  if c then
    match (← get).clash seen t with
    | some (j, b) => throw (.trap (.of Cause.bankc t.va (BitVec.ofNat 64 (b + j * 256 + i * 65536))))
    | none => pure ()

/-! ## Vector accesses (R111, R112) -/

/-- The check at its target of an element access behind an aperture (R105, R248): the `k`-th probe of the instruction. The
access has its key from then on. -/
def M.probe (k : Nat) (w : Bool) : Target → M Target
  | .far f => do
    M.blockIf (← get).me.farAmop .unacked
    let f ← M.place k w f
    pure (.far f)
  | t => pure t

/-- Each active element of an access checked, in lane order, steps 1 to 4 of R104 lane by lane; `k` counts the probes. -/
def M.lanesFrom (claim : Bool) (n : Nat) (need : Need) : Nat → List (Nat × Target) → List (Nat × W64) → M (List (Nat × Target))
  | _, seen, [] => pure seen
  | k, seen, (i, a) :: r => do
    let t ← M.resolve a n need
    let t ← M.probe k need.w t
    M.claim claim seen i t
    M.lanesFrom claim n need (match t with
      | .far _ => k + 1
      | _ => k) (seen ++ [(i, t)]) r

/-- The accesses of a vector access, checked once: they stay as they are while the instruction waits for its requests. -/
def M.lanes (claim : Bool) (n : Nat) (need : Need) (at_ : List (Nat × W64)) : M (List (Nat × Target)) := do
  let s ← get
  if !s.plan.isEmpty then pure s.plan
  else do
    let ts ← M.lanesFrom claim n need 0 [] at_
    M.keep true ts
    pure ts

/-- A load of the elements at these lanes: the destination keeps or zeroes the others (R111). The alignment of the elements of
VLDB and VSTB, which R106 does not list, is that of VLDS: the element size (DEDUCED, log entry 70). -/
def vload (claim : Bool) (n : Nat) (z : Bool) (d : Reg) (at_ : List (Nat × W64)) (len : Nat) : M Unit := do
  let ts ← M.lanes claim (n / 8) .load at_
  let bs ← M.loads (ts.map (·.2))
  let new : AMap Nat Nat := (ts.map (·.1)).zip (bs.map leNat)
  modify (fun u => u.setV d (packLanes n ((lanes n (u.v d)).zipIdx.map (fun (o, i) =>
    match AMap.get new i with
    | some v => v
    | none => if z then 0 else o))))
  M.done len

/-- A store of the elements at these lanes, in lane order (R111). -/
def vstore (claim : Bool) (n : Nat) (v : V128) (at_ : List (Nat × W64)) (len : Nat) : M Unit := do
  let ts ← M.lanes claim (n / 8) .store at_
  M.stores (ts.map (fun (i, t) => (t, (leBytes (n / 8) (nth (lanes n v) i 0)).map some)))
  M.done len

/-- The active lanes with their addresses. -/
def activeAt (m : BitVec 16) (n : Nat) (f : Nat → W64) : List (Nat × W64) :=
  ((List.range (128 / n)).filter (active m n)).map (fun i => (i, f i))

/-- The 16 bytes of VLD at an address, one access (R105): no access when no element is active. -/
def vld16 (va : W64) (n : Nat) (m : BitVec 16) (z : Bool) (d : Reg) (len : Nat) : M Unit := do
  if (activeAt m n (fun _ => 0)).isEmpty then
    modify (fun u => u.setV d (merge m z n (u.v d) []))
  else do
    let bs ← M.load va 16
    modify (fun u => u.setV d (merge m z n (u.v d) (lanes n (ofBytes bs))))
  M.done len

/-- The 16 bytes of VST at an address, one access that leaves the bytes of inactive elements alone. -/
def vst16 (va : W64) (n : Nat) (m : BitVec 16) (v : V128) (len : Nat) : M Unit := do
  if (activeAt m n (fun _ => 0)).isEmpty then M.done len
  else do
    let t ← M.kept (M.resolve va 16 .store)
    M.stores [(t, (vbytes v).zipIdx.map (fun (b, j) => if active m n (8 * j / n) then some b else none))]
    M.done len

/-- `VLD`, base form (R111). The claim of a 16-byte access is never broken (R114). -/
def execVld (_cf : Bool) (d a : Reg) (off : BitVec 11) (s : State) : Out :=
  M.run (vld16 (s.x a + sx off * 16) 8 0xFFFF false d 4) s

/-- `VST`, base form (R111). -/
def execVst (_cf : Bool) (d a : Reg) (off : BitVec 11) (s : State) : Out :=
  M.run (vst16 (s.x a + sx off * 16) 8 0xFFFF (s.v d) 4) s

/-- `VLD`, XMEM form (R111). -/
def execVldX (t : Ty) (_cf : Bool) (q : Qual) (d a : Reg) (imm : BitVec 32) (s : State) : Out :=
  M.run (vld16 (s.x a + sx imm) t.bits (s.me.getM q.mask) q.z d 12) s

/-- `VST`, XMEM form (R111). -/
def execVstX (t : Ty) (_cf : Bool) (q : Qual) (d a : Reg) (imm : BitVec 32) (s : State) : Out :=
  M.run (vst16 (s.x a + sx imm) t.bits (s.me.getM q.mask) (s.v d) 12) s

/-- The address of element `i` of VLDS and VSTS (R111). -/
def strided (s : State) (a b : Reg) (i : Nat) : W64 := s.x a + BitVec.ofNat 64 i * s.x b

/-- The address of element `i` of VGATH and VSCAT (R111). -/
def indexed (s : State) (t : Ty) (a b : Reg) (i : Nat) : W64 := s.x a + ext t (nth (lanes t.bits (s.v b)) i 0)

/-- `VLDS` (R111). -/
def execVlds (t : Ty) (cf : Bool) (q : Qual) (d a b : Reg) (s : State) : Out :=
  let m := s.me.getM q.mask
  M.run (vload cf t.bits q.z d (activeAt m t.bits (strided s a b)) 12) s

/-- `VSTS` (R111). -/
def execVsts (t : Ty) (cf : Bool) (q : Qual) (d a b : Reg) (s : State) : Out :=
  M.run (vstore cf t.bits (s.v d) (activeAt (s.me.getM q.mask) t.bits (strided s a b)) 12) s

/-- `VGATH` (R111). -/
def execVgath (t : Ty) (cf : Bool) (q : Qual) (d a b : Reg) (s : State) : Out :=
  let m := s.me.getM q.mask
  M.run (vload cf t.bits q.z d (activeAt m t.bits (indexed s t a b)) 12) s

/-- `VSCAT` (R111). -/
def execVscat (t : Ty) (cf : Bool) (q : Qual) (d a b : Reg) (s : State) : Out :=
  M.run (vstore cf t.bits (s.v d) (activeAt (s.me.getM q.mask) t.bits (indexed s t a b)) 12) s

/-- The view of VLDB and VSTB, its checks made in the order of R112 and R355: pool kind, type, the view, x[a]. -/
def recordView (s : State) (t : Ty) (view : View) (a : Reg) : Except Trap Window :=
  match s.myLaunch.buf view.idx.toNat with
  | .error e => .error e
  | .ok b =>
    let w := windowOf b view
    let want := if b.ty = .c4 then Ty.n8 else b.ty
    if t ≠ want then .error (.shape 2 view.idx.toNat)
    else if w.bad || decide (w.count ≤ (s.x a).toNat) then .error w.space
    else if b.ty = .c4 && (s.x a).toNat % 2 = 1 then .error (.of Cause.align (w.addr (s.x a).toNat) 1)
    else .ok w

/-- The active lanes of a record access: those whose element lies in the view (R112). A lane of a .c4 record reads the byte
that holds its first code; where the row length is odd, that byte may hold a code of the lane before it (DEDUCED, log
entry 71). -/
def recordLanes (w : Window) (m : BitVec 16) (n i0 : Nat) : List (Nat × W64) :=
  let step := if w.rec_.ty = .c4 then 2 else 1
  (activeAt m n (fun i => w.addr (i0 + step * i))).filter (fun (i, _) => decide (i0 + step * i < w.count))

/-- `VLDB` (R112). -/
def execVldb (t : Ty) (cf : Bool) (q : Qual) (d a : Reg) (view : View) (s : State) : Out :=
  let m := s.me.getM q.mask
  M.run (do
    let w ← M.check (recordView s t view a)
    vload (cf || w.rec_.claim) t.bits q.z d (recordLanes w m t.bits (s.x a).toNat) 12) s

/-- `VSTB` (R112). -/
def execVstb (t : Ty) (cf : Bool) (q : Qual) (d a : Reg) (view : View) (s : State) : Out :=
  M.run (do
    let w ← M.check (recordView s t view a)
    vstore (cf || w.rec_.claim) t.bits (s.v d) (recordLanes w (s.me.getM q.mask) t.bits (s.x a).toNat) 12) s

end Sys2Proof.Machine
end

