-- ==== Sys2Proof/Machine/Float.lean ====
section
/-! DEFINITION. The scalar float instructions (R86-R89). -/

namespace Sys2Proof.Machine

/-- A float result and its flags: FPE when a raised flag is enabled (R38); else the flags are set and the register is
written (R35, R86). -/
def putF (s : State) (d : Reg) (v : W64) (fl : Fl) (n : Nat) : Out :=
  if fpeOf s.me.fcr fl then .next (s.takeTrap (Trap.fpe fl))
  else .next (((s.modMe (·.raise fl)).setX d v).retire n)

/-- A two-source float instruction with a float result (R86). -/
def flt2 (f : FCtx → Ty → Nat → Nat → Nat × Fl) (t : Ty) (d a : Reg) (b : SrcB) (s : State) : Out :=
  let (r, fl) := f (fctxOf s.me.fcr) t (low t (s.x a)) (low t (bval s b))
  putF s d (BitVec.ofNat 64 r) fl (blen 4 b)

/-- A float comparison (R87). -/
def fltCmp (cc : CC) (t : Ty) (d a : Reg) (b : SrcB) (s : State) : Out :=
  let (r, fl) := fCmp (fctxOf s.me.fcr) t cc (low t (s.x a)) (low t (bval s b))
  putF s d (boolW r) fl (blen 4 b)

/-- `FADD` (R87). -/
def execFadd := flt2 fAdd
/-- `FSUB` (R87). -/
def execFsub := flt2 fSub
/-- `FMUL` (R87). -/
def execFmul := flt2 fMul
/-- `FDIV` (R87). -/
def execFdiv := flt2 fDiv
/-- `FMIN` (R87). -/
def execFmin := flt2 (fun c t => fMinMax c t false)
/-- `FMAX` (R87). -/
def execFmax := flt2 (fun c t => fMinMax c t true)

/-- `FSQRT` (R87). -/
def execFsqrt (t : Ty) (d a : Reg) (s : State) : Out :=
  let (r, fl) := fSqrt (fctxOf s.me.fcr) t (low t (s.x a))
  putF s d (BitVec.ofNat 64 r) fl 4

/-- `FEQ` (R87). -/
def execFeq := fltCmp .eq
/-- `FLT` (R87). -/
def execFlt := fltCmp .lt
/-- `FLE` (R87). -/
def execFle := fltCmp .le

/-- `FCLASS` (R87). -/
def execFclass (t : Ty) (d a : Reg) (s : State) : Out := putX s d (BitVec.ofNat 64 (fClass t (low t (s.x a)))) 4

/-- `FCVT` (R88): an integer result is extended as R81 states, a float one by zeros. -/
def execFcvt (dst src : Ty) (d a : Reg) (s : State) : Out :=
  let (r, fl) := fCvt (fctxOf s.me.fcr) dst src (low src (s.x a))
  putF s d (if dst.isInt then ext dst r else BitVec.ofNat 64 r) fl 4

/-- `FMA` (R89): x[a] × x[c] + b. -/
def execFma (t : Ty) (d a c : Reg) (b : SrcB) (s : State) : Out :=
  let (r, fl) := fMa (fctxOf s.me.fcr) t (low t (s.x a)) (low t (s.x c)) (low t (bval s b))
  putF s d (BitVec.ofNat 64 r) fl (blen 12 b)

end Sys2Proof.Machine
end

