-- ==== Sys2Proof/Machine/Dispatch.lean ====
section
/-! DEFINITION. The meaning of every instruction and event: one call per constructor. -/

namespace Sys2Proof.Machine

def exec (i : Instr) (s : State) : Host.Outcome State Fault Refusal :=
  match i with
  | .add t d a b => Sys2Proof.Machine.execAdd t d a b s
  | .sub t d a b => Sys2Proof.Machine.execSub t d a b s
  | .mul t d a b => Sys2Proof.Machine.execMul t d a b s
  | .mulh t d a b => Sys2Proof.Machine.execMulh t d a b s
  | .mulhn t d a b => Sys2Proof.Machine.execMulhn t d a b s
  | .div t d a b => Sys2Proof.Machine.execDiv t d a b s
  | .divn t d a b => Sys2Proof.Machine.execDivn t d a b s
  | .rem t d a b => Sys2Proof.Machine.execRem t d a b s
  | .remn t d a b => Sys2Proof.Machine.execRemn t d a b s
  | .and t d a b => Sys2Proof.Machine.execAnd t d a b s
  | .or t d a b => Sys2Proof.Machine.execOr t d a b s
  | .xor t d a b => Sys2Proof.Machine.execXor t d a b s
  | .andn t d a b => Sys2Proof.Machine.execAndn t d a b s
  | .shl t d a b => Sys2Proof.Machine.execShl t d a b s
  | .shr t d a b => Sys2Proof.Machine.execShr t d a b s
  | .shra t d a b => Sys2Proof.Machine.execShra t d a b s
  | .rotl t d a b => Sys2Proof.Machine.execRotl t d a b s
  | .min t d a b => Sys2Proof.Machine.execMin t d a b s
  | .max t d a b => Sys2Proof.Machine.execMax t d a b s
  | .minn t d a b => Sys2Proof.Machine.execMinn t d a b s
  | .maxn t d a b => Sys2Proof.Machine.execMaxn t d a b s
  | .slt t d a b => Sys2Proof.Machine.execSlt t d a b s
  | .sltn t d a b => Sys2Proof.Machine.execSltn t d a b s
  | .seq t d a b => Sys2Proof.Machine.execSeq t d a b s
  | .clz t d a => Sys2Proof.Machine.execClz t d a s
  | .ctz t d a => Sys2Proof.Machine.execCtz t d a s
  | .popc t d a => Sys2Proof.Machine.execPopc t d a s
  | .sext t d a => Sys2Proof.Machine.execSext t d a s
  | .zext t d a => Sys2Proof.Machine.execZext t d a s
  | .bfx t d a b => Sys2Proof.Machine.execBfx t d a b s
  | .bfi t d a b => Sys2Proof.Machine.execBfi t d a b s
  | .sel t d c a b => Sys2Proof.Machine.execSel t d c a b s
  | .li d imm => Sys2Proof.Machine.execLi d imm s
  | .liLit d v => Sys2Proof.Machine.execLiLit d v s
  | .lih d imm => Sys2Proof.Machine.execLih d imm s
  | .lk d idx => Sys2Proof.Machine.execLk d idx s
  | .addpc d imm => Sys2Proof.Machine.execAddpc d imm s
  | .fli d imm => Sys2Proof.Machine.execFli d imm s
  | .fadd t d a b => Sys2Proof.Machine.execFadd t d a b s
  | .fsub t d a b => Sys2Proof.Machine.execFsub t d a b s
  | .fmul t d a b => Sys2Proof.Machine.execFmul t d a b s
  | .fdiv t d a b => Sys2Proof.Machine.execFdiv t d a b s
  | .fmin t d a b => Sys2Proof.Machine.execFmin t d a b s
  | .fmax t d a b => Sys2Proof.Machine.execFmax t d a b s
  | .fsqrt t d a => Sys2Proof.Machine.execFsqrt t d a s
  | .feq t d a b => Sys2Proof.Machine.execFeq t d a b s
  | .flt t d a b => Sys2Proof.Machine.execFlt t d a b s
  | .fle t d a b => Sys2Proof.Machine.execFle t d a b s
  | .fclass t d a => Sys2Proof.Machine.execFclass t d a s
  | .fcvt dst src d a => Sys2Proof.Machine.execFcvt dst src d a s
  | .fma t d a c b => Sys2Proof.Machine.execFma t d a c b s
  | .beq a b disp => Sys2Proof.Machine.execBeq a b disp s
  | .bne a b disp => Sys2Proof.Machine.execBne a b disp s
  | .blt a b disp => Sys2Proof.Machine.execBlt a b disp s
  | .bge a b disp => Sys2Proof.Machine.execBge a b disp s
  | .bltn a b disp => Sys2Proof.Machine.execBltn a b disp s
  | .bgen a b disp => Sys2Proof.Machine.execBgen a b disp s
  | .bz a disp => Sys2Proof.Machine.execBz a disp s
  | .bnz a disp => Sys2Proof.Machine.execBnz a disp s
  | .bltz a disp => Sys2Proof.Machine.execBltz a disp s
  | .bgez a disp => Sys2Proof.Machine.execBgez a disp s
  | .bgtz a disp => Sys2Proof.Machine.execBgtz a disp s
  | .blez a disp => Sys2Proof.Machine.execBlez a disp s
  | .j imm => Sys2Proof.Machine.execJ imm s
  | .jal imm => Sys2Proof.Machine.execJal imm s
  | .jalr d a imm => Sys2Proof.Machine.execJalr d a imm s
  | .loop a imm => Sys2Proof.Machine.execLoop a imm s
  | .trap n => Sys2Proof.Machine.execTrap n s
  | .mfs d reg => Sys2Proof.Machine.execMfs d reg s
  | .mfsFstat d => Sys2Proof.Machine.execMfsFstat d s
  | .mts reg a => Sys2Proof.Machine.execMts reg a s
  | .mtsFcr a => Sys2Proof.Machine.execMtsFcr a s
  | .mtsFstat a => Sys2Proof.Machine.execMtsFstat a s
  | .mtsSqcap a => Sys2Proof.Machine.execMtsSqcap a s
  | .mtsTvec a => Sys2Proof.Machine.execMtsTvec a s
  | .mtsHmask a => Sys2Proof.Machine.execMtsHmask a s
  | .mtsHacc a => Sys2Proof.Machine.execMtsHacc a s
  | .mtsSlotw a => Sys2Proof.Machine.execMtsSlotw a s
  | .mtsL2mask a => Sys2Proof.Machine.execMtsL2mask a s
  | .bkpt n => Sys2Proof.Machine.execBkpt n s
  | .ld t d a off => Sys2Proof.Machine.execLd t d a off s
  | .st t d a off => Sys2Proof.Machine.execSt t d a off s
  | .ldq q a => Sys2Proof.Machine.execLdq q a s
  | .stq a q => Sys2Proof.Machine.execStq a q s
  | .sptest d a => Sys2Proof.Machine.execSptest d a s
  | .spcast w d a => Sys2Proof.Machine.execSpcast w d a s
  | .spmake w d a => Sys2Proof.Machine.execSpmake w d a s
  | .fence kind scope => Sys2Proof.Machine.execFence kind scope s
  | .pref l2 a => Sys2Proof.Machine.execPref l2 a s
  | .amoAdd t d a b => Sys2Proof.Machine.execAmoAdd t d a b s
  | .amoAnd t d a b => Sys2Proof.Machine.execAmoAnd t d a b s
  | .amoOr t d a b => Sys2Proof.Machine.execAmoOr t d a b s
  | .amoXor t d a b => Sys2Proof.Machine.execAmoXor t d a b s
  | .amoMin t d a b => Sys2Proof.Machine.execAmoMin t d a b s
  | .amoMax t d a b => Sys2Proof.Machine.execAmoMax t d a b s
  | .amoMinn t d a b => Sys2Proof.Machine.execAmoMinn t d a b s
  | .amoMaxn t d a b => Sys2Proof.Machine.execAmoMaxn t d a b s
  | .amoSwap t d a b => Sys2Proof.Machine.execAmoSwap t d a b s
  | .amoFadd t d a b => Sys2Proof.Machine.execAmoFadd t d a b s
  | .amopAdd t a b => Sys2Proof.Machine.execAmopAdd t a b s
  | .amopAnd t a b => Sys2Proof.Machine.execAmopAnd t a b s
  | .amopOr t a b => Sys2Proof.Machine.execAmopOr t a b s
  | .amopXor t a b => Sys2Proof.Machine.execAmopXor t a b s
  | .amopMin t a b => Sys2Proof.Machine.execAmopMin t a b s
  | .amopMax t a b => Sys2Proof.Machine.execAmopMax t a b s
  | .amopMinn t a b => Sys2Proof.Machine.execAmopMinn t a b s
  | .amopMaxn t a b => Sys2Proof.Machine.execAmopMaxn t a b s
  | .amopSwap t a b => Sys2Proof.Machine.execAmopSwap t a b s
  | .amopFadd t a b => Sys2Proof.Machine.execAmopFadd t a b s
  | .cas t d a b c => Sys2Proof.Machine.execCas t d a b c s
  | .vld cf d a off => Sys2Proof.Machine.execVld cf d a off s
  | .vst cf d a off => Sys2Proof.Machine.execVst cf d a off s
  | .vldX t cf q d a imm => Sys2Proof.Machine.execVldX t cf q d a imm s
  | .vstX t cf q d a imm => Sys2Proof.Machine.execVstX t cf q d a imm s
  | .vlds t cf q d a b => Sys2Proof.Machine.execVlds t cf q d a b s
  | .vsts t cf q d a b => Sys2Proof.Machine.execVsts t cf q d a b s
  | .vgath t cf q d a b => Sys2Proof.Machine.execVgath t cf q d a b s
  | .vscat t cf q d a b => Sys2Proof.Machine.execVscat t cf q d a b s
  | .vldb t cf q d a view => Sys2Proof.Machine.execVldb t cf q d a view s
  | .vstb t cf q d a view => Sys2Proof.Machine.execVstb t cf q d a view s
  | .nack a => Sys2Proof.Machine.execNack a s
  | .barinit a b => Sys2Proof.Machine.execBarinit a b s
  | .bararv d a => Sys2Proof.Machine.execBararv d a s
  | .barexp a b => Sys2Proof.Machine.execBarexp a b s
  | .barwait a b => Sys2Proof.Machine.execBarwait a b s
  | .bartry d a b => Sys2Proof.Machine.execBartry d a b s
  | .copy rlx ch a b c d => Sys2Proof.Machine.execCopy rlx ch a b c d s
  | .copyb rlx ch a view d => Sys2Proof.Machine.execCopyb rlx ch a view d s
  | .notice rlx ch a b c d => Sys2Proof.Machine.execNotice rlx ch a b c d s
  | .tidwait ch a => Sys2Proof.Machine.execTidwait ch a s
  | .tidget d ch => Sys2Proof.Machine.execTidget d ch s
  | .publish idx => Sys2Proof.Machine.execPublish idx s
  | .vadd t d a b => Sys2Proof.Machine.execVadd t d a b s
  | .vsub t d a b => Sys2Proof.Machine.execVsub t d a b s
  | .vmul t d a b => Sys2Proof.Machine.execVmul t d a b s
  | .vmulh t d a b => Sys2Proof.Machine.execVmulh t d a b s
  | .vmin t d a b => Sys2Proof.Machine.execVmin t d a b s
  | .vmax t d a b => Sys2Proof.Machine.execVmax t d a b s
  | .vabs t d a => Sys2Proof.Machine.execVabs t d a s
  | .vneg t d a => Sys2Proof.Machine.execVneg t d a s
  | .vand t d a b => Sys2Proof.Machine.execVand t d a b s
  | .vor t d a b => Sys2Proof.Machine.execVor t d a b s
  | .vxor t d a b => Sys2Proof.Machine.execVxor t d a b s
  | .vshl t d a b => Sys2Proof.Machine.execVshl t d a b s
  | .vshr t d a b => Sys2Proof.Machine.execVshr t d a b s
  | .vshra t d a b => Sys2Proof.Machine.execVshra t d a b s
  | .vsplat t d a => Sys2Proof.Machine.execVsplat t d a s
  | .vins t d a b => Sys2Proof.Machine.execVins t d a b s
  | .vext t d a b => Sys2Proof.Machine.execVext t d a b s
  | .vperm t d a b => Sys2Proof.Machine.execVperm t d a b s
  | .vzip t d a b => Sys2Proof.Machine.execVzip t d a b s
  | .vredadd t d a => Sys2Proof.Machine.execVredadd t d a s
  | .vredmax t d a => Sys2Proof.Machine.execVredmax t d a s
  | .vredmin t d a => Sys2Proof.Machine.execVredmin t d a s
  | .vdot t d a b => Sys2Proof.Machine.execVdot t d a b s
  | .vcvt dst src d a => Sys2Proof.Machine.execVcvt dst src d a s
  | .vnarrow t d a => Sys2Proof.Machine.execVnarrow t d a s
  | .vwiden t d a => Sys2Proof.Machine.execVwiden t d a s
  | .vlut t d a b => Sys2Proof.Machine.execVlut t d a b s
  | .vcomp t d a b => Sys2Proof.Machine.execVcomp t d a b s
  | .vexpnd t d a b => Sys2Proof.Machine.execVexpnd t d a b s
  | .vtopk t d a b => Sys2Proof.Machine.execVtopk t d a b s
  | .mand d a b => Sys2Proof.Machine.execMand d a b s
  | .mor d a b => Sys2Proof.Machine.execMor d a b s
  | .mnot d a => Sys2Proof.Machine.execMnot d a s
  | .mpopc d a => Sys2Proof.Machine.execMpopc d a s
  | .vaddX t sat q d a b => Sys2Proof.Machine.execVaddX t sat q d a b s
  | .vsubX t sat q d a b => Sys2Proof.Machine.execVsubX t sat q d a b s
  | .vmulX t sat q d a b => Sys2Proof.Machine.execVmulX t sat q d a b s
  | .vmulhX t q d a b => Sys2Proof.Machine.execVmulhX t q d a b s
  | .vminX t q d a b => Sys2Proof.Machine.execVminX t q d a b s
  | .vmaxX t q d a b => Sys2Proof.Machine.execVmaxX t q d a b s
  | .vabsX t q d a => Sys2Proof.Machine.execVabsX t q d a s
  | .vnegX t q d a => Sys2Proof.Machine.execVnegX t q d a s
  | .vandX t q d a b => Sys2Proof.Machine.execVandX t q d a b s
  | .vorX t q d a b => Sys2Proof.Machine.execVorX t q d a b s
  | .vxorX t q d a b => Sys2Proof.Machine.execVxorX t q d a b s
  | .vshlX t sat q d a b => Sys2Proof.Machine.execVshlX t sat q d a b s
  | .vshrX t q d a b => Sys2Proof.Machine.execVshrX t q d a b s
  | .vshraX t q d a b => Sys2Proof.Machine.execVshraX t q d a b s
  | .vfma t q d a c b => Sys2Proof.Machine.execVfma t q d a c b s
  | .vcmp cc t q d a b => Sys2Proof.Machine.execVcmp cc t q d a b s
  | .vsel t mask d a b => Sys2Proof.Machine.execVsel t mask d a b s
  | .vsplatX t q d a => Sys2Proof.Machine.execVsplatX t q d a s
  | .vinsX t q d a b => Sys2Proof.Machine.execVinsX t q d a b s
  | .vextX t mask d a b => Sys2Proof.Machine.execVextX t mask d a b s
  | .vpermX t q d a b => Sys2Proof.Machine.execVpermX t q d a b s
  | .vzipX h t q d a b => Sys2Proof.Machine.execVzipX h t q d a b s
  | .vredaddX t mask d a => Sys2Proof.Machine.execVredaddX t mask d a s
  | .vredmaxX t mask d a => Sys2Proof.Machine.execVredmaxX t mask d a s
  | .vredminX t mask d a => Sys2Proof.Machine.execVredminX t mask d a s
  | .vdotX t q d a b => Sys2Proof.Machine.execVdotX t q d a b s
  | .vcvtX dst src q d a => Sys2Proof.Machine.execVcvtX dst src q d a s
  | .vnarrowX t sat hi q d a => Sys2Proof.Machine.execVnarrowX t sat hi q d a s
  | .vwidenX t hi q d a => Sys2Proof.Machine.execVwidenX t hi q d a s
  | .vlutX t g q d a b => Sys2Proof.Machine.execVlutX t g q d a b s
  | .vcompX t mask d a b e => Sys2Proof.Machine.execVcompX t mask d a b e s
  | .vexpndX t mask d a b e => Sys2Proof.Machine.execVexpndX t mask d a b e s
  | .vtopkX t list mask d a b e => Sys2Proof.Machine.execVtopkX t list mask d a b e s
  | .mandX q d a b => Sys2Proof.Machine.execMandX q d a b s
  | .morX q d a b => Sys2Proof.Machine.execMorX q d a b s
  | .mnotX q d a => Sys2Proof.Machine.execMnotX q d a s
  | .mpopcX mask d a => Sys2Proof.Machine.execMpopcX mask d a s
  | .vaccs t q d ch => Sys2Proof.Machine.execVaccs t q d ch s
  | .acq d n => Sys2Proof.Machine.execAcq d n s
  | .rel a n => Sys2Proof.Machine.execRel a n s
  | .mshape a slot_ => Sys2Proof.Machine.execMshape a slot_ s
  | .mzero a n => Sys2Proof.Machine.execMzero a n s
  | .mcbl view => Sys2Proof.Machine.execMcbl view s
  | .mwld fmt rlx view => Sys2Proof.Machine.execMwld fmt rlx view s
  | .mcfg f => Sys2Proof.Machine.execMcfg f s
  | .mmul rlx a src => Sys2Proof.Machine.execMmul rlx a src s
  | .mmuls a ch m => Sys2Proof.Machine.execMmuls a ch m s
  | .mdrain t rlx a view d c => Sys2Proof.Machine.execMdrain t rlx a view d c s
  | .mrd d a g => Sys2Proof.Machine.execMrd d a g s
  | .mwr a b g => Sys2Proof.Machine.execMwr a b g s
  | .msplit t => Sys2Proof.Machine.execMsplit t s
  | .fork a b => Sys2Proof.Machine.execFork a b s
  | .qput x q b => Sys2Proof.Machine.execQput x q b s
  | .qget x d q => Sys2Proof.Machine.execQget x d q s
  | .qtry x d q b => Sys2Proof.Machine.execQtry x d q b s
  | .msgrd x d a => Sys2Proof.Machine.execMsgrd x d a s
  | .migrate a => Sys2Proof.Machine.execMigrate a s
  | .send rlx ch a b => Sys2Proof.Machine.execSend rlx ch a b s
  | .sendb rlx ch a b c => Sys2Proof.Machine.execSendb rlx ch a b c s
  | .hset ch a f => Sys2Proof.Machine.execHset ch a f s
  | .join d idx => Sys2Proof.Machine.execJoin d idx s
  | .leave idx => Sys2Proof.Machine.execLeave idx s
  | .gbar idx => Sys2Proof.Machine.execGbar idx s
  | .put d idx a => Sys2Proof.Machine.execPut d idx a s
  | .get d e idx => Sys2Proof.Machine.execGet d e idx s
  | .putnb idx a => Sys2Proof.Machine.execPutnb idx a s
  | .getnb idx => Sys2Proof.Machine.execGetnb idx s
  | .pwait d e idx => Sys2Proof.Machine.execPwait d e idx s
  | .pwdraw d idx => Sys2Proof.Machine.execPwdraw d idx s
  | .emit idx a => Sys2Proof.Machine.execEmit idx a s
  | .sigtst d idx => Sys2Proof.Machine.execSigtst d idx s
  | .bsig abs idx disp => Sys2Proof.Machine.execBsig abs idx disp s
  | .retract idx => Sys2Proof.Machine.execRetract idx s
  | .zrd d a => Sys2Proof.Machine.execZrd d a s
  | .zwr d a => Sys2Proof.Machine.execZwr d a s
  | .sigpre d idx => Sys2Proof.Machine.execSigpre d idx s
  | .gwopen d a b => Sys2Proof.Machine.execGwopen d a b s
  | .gwstat d => Sys2Proof.Machine.execGwstat d s
  | .tqpush a => Sys2Proof.Machine.execTqpush a s
  | .tqtake d e => Sys2Proof.Machine.execTqtake d e s
  | .tqsteal d e a => Sys2Proof.Machine.execTqsteal d e a s
  | .tqdone a => Sys2Proof.Machine.execTqdone a s
  | .stragrd d a f => Sys2Proof.Machine.execStragrd d a f s
  | .eret => Sys2Proof.Machine.execEret s
  | .synci => Sys2Proof.Machine.execSynci s
  | .rdv => Sys2Proof.Machine.execRdv s
  | .endHelper => Sys2Proof.Machine.execEndHelper s
  | .msgdone => Sys2Proof.Machine.execMsgdone s
  | .yieldSlot => Sys2Proof.Machine.execYieldSlot s
  | .exit => Sys2Proof.Machine.execExit s
  | .waitdep => Sys2Proof.Machine.execWaitdep s
  | .trigger => Sys2Proof.Machine.execTrigger s
  | .pause => Sys2Proof.Machine.execPause s
  | .gwdetach => Sys2Proof.Machine.execGwdetach s
  | .blockConditionMet k => Sys2Proof.Machine.execBlockConditionMet k s
  | .helperTrapDelivery k => Sys2Proof.Machine.execHelperTrapDelivery k s
  | .slotwTableBoundary key => Sys2Proof.Machine.execSlotwTableBoundary key s
  | .messageAdmit core k => Sys2Proof.Machine.execMessageAdmit core k s
  | .pressureNotice k => Sys2Proof.Machine.execPressureNotice k s
  | .handlerSelect key => Sys2Proof.Machine.execHandlerSelect key s
  | .noticeArrival k => Sys2Proof.Machine.execNoticeArrival k s
  | .noticeRetry k => Sys2Proof.Machine.execNoticeRetry k s
  | .nackArrival k => Sys2Proof.Machine.execNackArrival k s
  | .streamerSegment k => Sys2Proof.Machine.execStreamerSegment k s
  | .sectorWrite k => Sys2Proof.Machine.execSectorWrite k s
  | .segmentComplete k => Sys2Proof.Machine.execSegmentComplete k s
  | .completionDecrement k => Sys2Proof.Machine.execCompletionDecrement k s
  | .publishSwap k => Sys2Proof.Machine.execPublishSwap k s
  | .matrixOpStart core tenant => Sys2Proof.Machine.execMatrixOpStart core tenant s
  | .matrixRowEntry core tenant => Sys2Proof.Machine.execMatrixRowEntry core tenant s
  | .matrixStallYield core tenant => Sys2Proof.Machine.execMatrixStallYield core tenant s
  | .matrixOpComplete core tenant => Sys2Proof.Machine.execMatrixOpComplete core tenant s
  | .bankClearDone core bank => Sys2Proof.Machine.execBankClearDone core bank s
  | .tileFetchRead core tenant => Sys2Proof.Machine.execTileFetchRead core tenant s
  | .pageWalk core vf va => Sys2Proof.Machine.execPageWalk core vf va s
  | .peerAccessRequest k => Sys2Proof.Machine.execPeerAccessRequest k s
  | .keepWaitingSend k => Sys2Proof.Machine.execKeepWaitingSend k s
  | .keepWaitingArrival k => Sys2Proof.Machine.execKeepWaitingArrival k s
  | .faultQueueRetry k => Sys2Proof.Machine.execFaultQueueRetry k s
  | .remoteTimeout k => Sys2Proof.Machine.execRemoteTimeout k s
  | .parkRefusal k => Sys2Proof.Machine.execParkRefusal k s
  | .remoteCancel k => Sys2Proof.Machine.execRemoteCancel k s
  | .remoteReply k => Sys2Proof.Machine.execRemoteReply k s
  | .apertureProbe pkg vf aper ops fmts rev ok => Sys2Proof.Machine.execApertureProbe pkg vf aper ops fmts rev ok s
  | .amopNotsup k => Sys2Proof.Machine.execAmopNotsup k s
  | .timestampRebase pkg => Sys2Proof.Machine.execTimestampRebase pkg s
  | .scrubPkg pkg => Sys2Proof.Machine.execScrubPkg pkg s
  | .uncorrectableError where_ unit => Sys2Proof.Machine.execUncorrectableError where_ unit s
  | .gbarArrival k => Sys2Proof.Machine.execGbarArrival k s
  | .gbarRelease k => Sys2Proof.Machine.execGbarRelease k s
  | .windowOpen k => Sys2Proof.Machine.execWindowOpen k s
  | .memberDepart k => Sys2Proof.Machine.execMemberDepart k s
  | .stealDecision k => Sys2Proof.Machine.execStealDecision k s
  | .stealReply k => Sys2Proof.Machine.execStealReply k s
  | .tqdoneArrival k => Sys2Proof.Machine.execTqdoneArrival k s
  | .stragrdReply k => Sys2Proof.Machine.execStragrdReply k s
  | .migrateArrival k => Sys2Proof.Machine.execMigrateArrival k s
  | .offerArrival k => Sys2Proof.Machine.execOfferArrival k s
  | .withdrawalArrival k => Sys2Proof.Machine.execWithdrawalArrival k s
  | .connectorEvaluation pillow conn => Sys2Proof.Machine.execConnectorEvaluation pillow conn s
  | .clockedEvaluation pillow conn => Sys2Proof.Machine.execClockedEvaluation pillow conn s
  | .portResultArrival k => Sys2Proof.Machine.execPortResultArrival k s
  | .emitReport k => Sys2Proof.Machine.execEmitReport k s
  | .retractReport k => Sys2Proof.Machine.execRetractReport k s
  | .pauseReport k => Sys2Proof.Machine.execPauseReport k s
  | .leaveReport k => Sys2Proof.Machine.execLeaveReport k s
  | .blockReport k => Sys2Proof.Machine.execBlockReport k s
  | .unblockReport k => Sys2Proof.Machine.execUnblockReport k s
  | .resolutionArrival k => Sys2Proof.Machine.execResolutionArrival k s
  | .causalityCycle key => Sys2Proof.Machine.execCausalityCycle key s
  | .causeArrival k => Sys2Proof.Machine.execCauseArrival k s
  | .instantEnd key => Sys2Proof.Machine.execInstantEnd key s
  | .resumptionArrival k => Sys2Proof.Machine.execResumptionArrival k s
  | .launchSelect pkg => Sys2Proof.Machine.execLaunchSelect pkg s
  | .strandPlace core slot => Sys2Proof.Machine.execStrandPlace core slot s
  | .graphNodeTest graph node => Sys2Proof.Machine.execGraphNodeTest graph node s
  | .launchComplete uid => Sys2Proof.Machine.execLaunchComplete uid s
  | .eventRetransmit k => Sys2Proof.Machine.execEventRetransmit k s
  | .eventAck tag => Sys2Proof.Machine.execEventAck tag s
  | .eviction key => Sys2Proof.Machine.execEviction key s
  | .restore key => Sys2Proof.Machine.execRestore key s
  | .quarantine core unit => Sys2Proof.Machine.execQuarantine core unit s
  | .rollback core => Sys2Proof.Machine.execRollback core s
  | .egressRelease core => Sys2Proof.Machine.execEgressRelease core s
  | .checkpointAdvance core => Sys2Proof.Machine.execCheckpointAdvance core s
  | .linkReplay link => Sys2Proof.Machine.execLinkReplay link s
  | .creditOnlyFlit link => Sys2Proof.Machine.execCreditOnlyFlit link s
  | .syncFlit link => Sys2Proof.Machine.execSyncFlit link s
  | .linkRetrain link => Sys2Proof.Machine.execLinkRetrain link s
  | .torusFlitArrival pkg => Sys2Proof.Machine.execTorusFlitArrival pkg s
  | .slotTableSwitch conn => Sys2Proof.Machine.execSlotTableSwitch conn s
  | .streamIngress graph data => Sys2Proof.Machine.execStreamIngress graph data s
  | .reduceMsg graph node => Sys2Proof.Machine.execReduceMsg graph node s
  | .convert graph node => Sys2Proof.Machine.execConvert graph node s
  | .compress graph node => Sys2Proof.Machine.execCompress graph node s
  | .inflate graph node => Sys2Proof.Machine.execInflate graph node s
  | .transcode graph node => Sys2Proof.Machine.execTranscode graph node s
  | .tokenise graph node => Sys2Proof.Machine.execTokenise graph node s
  | .filterMsg graph node => Sys2Proof.Machine.execFilterMsg graph node s
  | .splitMsg graph node => Sys2Proof.Machine.execSplitMsg graph node s
  | .seqjoin graph node => Sys2Proof.Machine.execSeqjoin graph node s
  | .replicate graph node => Sys2Proof.Machine.execReplicate graph node s
  | .checksum graph node => Sys2Proof.Machine.execChecksum graph node s
  | .repack graph node => Sys2Proof.Machine.execRepack graph node s
  | .sinkCommit graph node => Sys2Proof.Machine.execSinkCommit graph node s
  | .powerOn pkg => Sys2Proof.Machine.execPowerOn pkg s
  | .fwload dg => Sys2Proof.Machine.execFwload dg s
  | .imageLoad dg => Sys2Proof.Machine.execImageLoad dg s
  | .submit dg => Sys2Proof.Machine.execSubmit dg s
  | .attest dg => Sys2Proof.Machine.execAttest dg s
  | .partrpt dg => Sys2Proof.Machine.execPartrpt dg s
  | .resetvf dg => Sys2Proof.Machine.execResetvf dg s
  | .qos dg => Sys2Proof.Machine.execQos dg s
  | .slotCmd dg => Sys2Proof.Machine.execSlotCmd dg s
  | .aperWrite dg => Sys2Proof.Machine.execAperWrite dg s
  | .ptbase dg => Sys2Proof.Machine.execPtbase dg s
  | .invalidOp dg => Sys2Proof.Machine.execInvalidOp dg s
  | .thermalThrottle pkg rate => Sys2Proof.Machine.execThermalThrottle pkg rate s
  | .thermalShutdown pkg => Sys2Proof.Machine.execThermalShutdown pkg s
  | .illop pos w0 unmarked => Sys2Proof.Machine.execIllop pos w0 unmarked s
  | .fetchFailure code eaddr einfo => Sys2Proof.Machine.execFetchFailure code eaddr einfo s
  | .malformedDatagram dg => Sys2Proof.Machine.execMalformedDatagram dg s
  | .rdmaWrite conn va data => Sys2Proof.Machine.execRdmaWrite conn va data s
  | .rdmaRead conn va len => Sys2Proof.Machine.execRdmaRead conn va len s
  | .streamGraphLoad vf data => Sys2Proof.Machine.execStreamGraphLoad vf data s
  | .apertureInvalidate target => Sys2Proof.Machine.execApertureInvalidate target s

end Sys2Proof.Machine
end

