-- ==== Sys2Proof/WellFormed.lean ====
section
/-! DEFINITION. Which terms of `Instr` are instructions: the ranges of 03_encoding.md that the types of `Syntax` leave
open (types, literal kinds, channels, Z, sources). Everything the decoder answers is well formed, and the encoder is the
decoder's inverse on well-formed instructions. Events are inputs, not words; every event is well formed. -/

namespace Sys2Proof

/-- Types of AMO, AMOP and CAS: 2, 3, 6, 7 (R67, R72). -/
def Ty.amoOk : Ty → Bool
  | .i32 | .i64 | .n32 | .n64 => true
  | _ => false

/-- Types of VDOT (R150). -/
def Ty.dotOk : Ty → Bool
  | .i8 | .i16 | .n8 | .n16 | .bf16 => true
  | _ => false

/-- Source types of VNARROW: 1 to 3 and 5 to 7 (R152). -/
def Ty.narrowOk : Ty → Bool
  | .i16 | .i32 | .i64 | .n16 | .n32 | .n64 => true
  | _ => false

/-- Source types of VWIDEN: 0 to 2 and 4 to 6 (R152). -/
def Ty.widenOk : Ty → Bool
  | .i8 | .i16 | .i32 | .n8 | .n16 | .n32 => true
  | _ => false

/-- Types of VLUT (R153). -/
def Ty.lutOk : Ty → Bool
  | .c4 | .n8 => true
  | _ => false

/-- A conversion takes two types of 0 to 9 that are not both integer (R62, R151). -/
def Ty.cvtOk (dst src : Ty) : Bool := dst.notC4 && src.notC4 && !(dst.isInt && src.isInt)

/-- The numbers of R25, without the registers that have an MFS row of their own. -/
def sysRegNumbers : List Nat :=
  [0x000, 0x001, 0x002, 0x003, 0x004, 0x005, 0x006, 0x008, 0x00A, 0x010, 0x011, 0x012, 0x013, 0x014, 0x018, 0x019,
   0x01A, 0x01C, 0x01D, 0x020, 0x021, 0x022, 0x023, 0x030, 0x0F0]

/-- A number R25 lists: one of `sysRegNumbers`, FSTAT (0x009), or CHWM.c0 to c63. -/
def sysRegOk (n : BitVec 12) : Bool :=
  n.toNat == 0x009 || sysRegNumbers.contains n.toNat || (0x040 ≤ n.toNat && n.toNat ≤ 0x07F)

/-- The MTS numbers that have rows of their own in the opcode table. -/
def mtsOwnRow (n : BitVec 12) : Bool :=
  [0x008, 0x009, 0x00A, 0x014, 0x018, 0x019, 0x030, 0x0F0].contains n.toNat

/-- A vector instruction's literal: the kind R55 and R140 accept for the type, kind 1 with bits 63:32 zero. -/
def litOk (t : Ty) (k : BitVec 2) (v : W64) : Bool :=
  match k.toNat with
  | 0 => t.isInt
  | 1 => t == .f32 && v.extractLsb' 32 32 == 0
  | 2 => t == .f32
  | _ => true

namespace VSrc

/-- A source that may stand in place a: anything but a literal, a channel source of 2 to 63 (R139). -/
def okA : VSrc → Bool
  | .lit _ _ => false
  | .chan c => 2 ≤ c.toNat
  | _ => true

/-- A source that may stand in place b of an instruction that takes all literal kinds (R140). -/
def okB (t : Ty) : VSrc → Bool
  | .lit k v => litOk t k v
  | .chan c => 2 ≤ c.toNat
  | _ => true

/-- A source b whose only literal is the byte pattern of kind 3 (R55, R140: VPERM). -/
def okB3 : VSrc → Bool
  | .lit k _ => k.toNat == 3
  | .chan c => 2 ≤ c.toNat
  | _ => true

/-- Not two channels and not two pool operands (R53), and no literal with P and a pool operand left unused. -/
def pairOk : VSrc → VSrc → Bool
  | .chan _, .chan _ => false
  | .pool _, .pool _ => false
  | _, _ => true

end VSrc

/-- A literal in the place of an x register is of a kind that the type takes (R140). -/
def XSrc.okB (t : Ty) : XSrc → Bool
  | .reg _ => true
  | .lit k v => litOk t k v

/-- A literal in the place of an m register is of a kind that the type takes (R140). -/
def KSrc.okB (t : Ty) : KSrc → Bool
  | .reg _ => true
  | .lit k v => litOk t k v

/-- Z = 1 needs a mask other than m0 (R52). -/
def Qual.ok (q : Qual) : Bool := !(q.z && q.mask == 0)

/-- A kind-1 literal of a scalar float instruction: only with .f32, bits 63:32 zero (R55, R86). -/
def SrcB.fltOk (t : Ty) : SrcB → Bool
  | .reg _ => true
  | .lit v => t == .f32 && v.extractLsb' 32 32 == 0

open VSrc (pairOk) in
/-- The well-formed terms. -/
def WellFormed : Instr → Bool
  | .add t _ _ _ | .sub t _ _ _ | .mul t _ _ _ | .mulh t _ _ _ | .mulhn t _ _ _ | .div t _ _ _ | .divn t _ _ _
  | .rem t _ _ _ | .remn t _ _ _ | .and t _ _ _ | .or t _ _ _ | .xor t _ _ _ | .andn t _ _ _ | .shl t _ _ _
  | .shr t _ _ _ | .shra t _ _ _ | .rotl t _ _ _ | .min t _ _ _ | .max t _ _ _ | .minn t _ _ _ | .maxn t _ _ _
  | .slt t _ _ _ | .sltn t _ _ _ | .seq t _ _ _ | .clz t _ _ | .ctz t _ _ | .popc t _ _ | .sext t _ _ | .zext t _ _
  | .bfx t _ _ _ | .bfi t _ _ _ | .sel t _ _ _ _ => t.isInt
  | .fadd t _ _ b | .fsub t _ _ b | .fmul t _ _ b | .fdiv t _ _ b | .fmin t _ _ b | .fmax t _ _ b
  | .feq t _ _ b | .flt t _ _ b | .fle t _ _ b | .fma t _ _ _ b => t.isFlt && b.fltOk t
  | .fsqrt t _ _ | .fclass t _ _ => t.isFlt
  | .fcvt dst src _ _ => Ty.cvtOk dst src
  | .loop a _ => a != 0
  | .mfs _ reg => sysRegOk reg && reg.toNat != 0x009
  | .mts reg _ => sysRegOk reg && !mtsOwnRow reg
  | .ld t _ _ _ | .st t _ _ _ => t.notC4
  | .fence kind _ => kind != 0
  | .amoAdd t _ _ _ | .amoAnd t _ _ _ | .amoOr t _ _ _ | .amoXor t _ _ _ | .amoMin t _ _ _ | .amoMax t _ _ _
  | .amoMinn t _ _ _ | .amoMaxn t _ _ _ | .amoSwap t _ _ _
  | .amopAdd t _ _ | .amopAnd t _ _ | .amopOr t _ _ | .amopXor t _ _ | .amopMin t _ _ | .amopMax t _ _
  | .amopMinn t _ _ | .amopMaxn t _ _ | .amopSwap t _ _ | .cas t _ _ _ _ => t.amoOk
  | .amoFadd t _ _ _ | .amopFadd t _ _ => t == .f32
  | .vldX t _ q _ _ _ | .vstX t _ q _ _ _ | .vlds t _ q _ _ _ | .vsts t _ q _ _ _
  | .vldb t _ q _ _ _ | .vstb t _ q _ _ _ => t.notC4 && q.ok
  | .vgath t _ q _ _ _ | .vscat t _ q _ _ _ => t.isInt && q.ok
  | .copy _ ch _ _ _ _ | .copyb _ ch _ _ _ | .notice _ ch _ _ _ _ => 2 ≤ ch.toNat
  | .vadd t _ _ _ | .vsub t _ _ _ | .vmul t _ _ _ | .vmin t _ _ _ | .vmax t _ _ _ | .vabs t _ _ | .vneg t _ _
  | .vand t _ _ _ | .vor t _ _ _ | .vxor t _ _ _ | .vsplat t _ _ | .vins t _ _ _ | .vext t _ _ _ | .vperm t _ _ _
  | .vzip t _ _ _ | .vredadd t _ _ | .vredmax t _ _ | .vredmin t _ _ | .vcomp t _ _ _ | .vexpnd t _ _ _
  | .vtopk t _ _ _ => t.notC4
  | .vmulh t _ _ _ | .vshl t _ _ _ | .vshr t _ _ _ | .vshra t _ _ _ => t.isInt
  | .vdot t _ _ _ => t.dotOk
  | .vcvt dst src _ _ => Ty.cvtOk dst src
  | .vnarrow t _ _ => t.narrowOk
  | .vwiden t _ _ => t.widenOk
  | .vlut t _ _ b => t.lutOk && !b.getLsbD 0
  | .vaddX t sat q _ a b | .vsubX t sat q _ a b | .vmulX t sat q _ a b =>
    t.notC4 && q.ok && (!sat || t.isInt) && a.okA && b.okB t && pairOk a b
  | .vshlX t _ q _ a b | .vmulhX t q _ a b | .vshrX t q _ a b | .vshraX t q _ a b =>
    t.isInt && q.ok && a.okA && b.okB t && pairOk a b
  | .vminX t q _ a b | .vmaxX t q _ a b | .vandX t q _ a b | .vorX t q _ a b | .vxorX t q _ a b
  | .vzipX _ t q _ a b => t.notC4 && q.ok && a.okA && b.okB t && pairOk a b
  | .vabsX t q _ a | .vnegX t q _ a => t.notC4 && q.ok && a.okA
  | .vfma t q _ a _ b => t.isFlt && q.ok && a.okA && b.okB t && pairOk a b
  | .vcmp cc t q _ a b => t.notC4 && q.ok && a.okA && b.okB t && pairOk a b && !(cc == .unord && t.isInt)
  | .vsel t _ _ a b => t.notC4 && a.okA && b.okB t && pairOk a b
  | .vsplatX t q _ _ => t.notC4 && q.ok
  | .vinsX t q _ _ b => t.notC4 && q.ok && b.okB t
  | .vextX t _ _ a b => t.notC4 && a.okA && b.okB t
  | .vredaddX t _ _ a | .vredmaxX t _ _ a | .vredminX t _ _ a => t.notC4 && a.okA
  | .vpermX t q _ a b => t.notC4 && q.ok && a.okA && b.okB3 && pairOk a b
  | .vdotX t q _ a b => t.dotOk && q.ok && a.okA && b.okB t && pairOk a b
  | .vcvtX dst src q _ a => Ty.cvtOk dst src && q.ok && a.okA
  | .vnarrowX t _ _ q _ a => t.narrowOk && q.ok && a.okA
  | .vwidenX t _ q _ a => t.widenOk && q.ok && a.okA
  | .vlutX t g q _ a b => t.lutOk && q.ok && a.okA && (t == .c4 || g == 0) &&
      (match b with
       | .reg r => !r.getLsbD 0
       | .lit k _ => k.toNat == 3
       | _ => false)
  | .vcompX t _ _ a b _ | .vexpndX t _ _ a b _ => t.notC4 && a.okA && b.okB t
  | .vtopkX t list _ _ a b e => t.notC4 && a.okA && b.okB t && (list || e == 0)
  | .mandX q _ _ b | .morX q _ _ b => q.ok && b.okB .i8
  | .mnotX q _ _ => q.ok
  | .vaccs t q _ ch => t.notC4 && q.ok && 2 ≤ ch.toNat
  | .mmuls _ ch _ => 2 ≤ ch.toNat
  | .send _ ch _ b => 2 ≤ ch.toNat &&
      (match b with
       | .chan c => c == ch
       | .lit _ _ => false
       | _ => true)
  | .sendb _ ch _ _ _ => 2 ≤ ch.toNat
  | _ => true

end Sys2Proof
end

