-- ==== Sys2Proof/Decode.lean ====
section
/-! DEFINITION. The words of an instruction, their fields, the decoder and the encoder (03_encoding.md R46-R78). The
decoder is total: every list of words is an instruction or is refused with the offence and the position of the word
that holds it. Where several fields offend, the word at the lowest position is named (DEDUCED, log entry 8). The opcode table's
372 rows are 372 constructors, and Lean's run time gives an inductive type at most 244 constructors with fields that
compiled code may build: the decoder is therefore marked noncomputable. It reduces in the kernel like any other
definition; no other part of the model depends on the mark but the fetch that calls it. -/

namespace Sys2Proof

/-- Why a word pattern is no instruction: the list of R77. -/
inductive Offence
  | major | op | mod | type | cond | sub | number | kind | reg | reserved | literal | channel | zeroing | pool | framing
  deriving DecidableEq, Repr

/-- A decoding failure: what offends, and the position 0 to 4 of the word that holds it (R78). -/
structure DecErr where
  pos : Nat
  why : Offence
  deriving DecidableEq, Repr

/-- The fields of word 0 in the R form (R48, R51, R60); the other forms regroup them. -/
structure F0 where
  op : BitVec 6
  mod : BitVec 4
  b : BitVec 5
  a : BitVec 5
  d : BitVec 5
  maj : BitVec 5
  L : BitVec 2
  deriving DecidableEq, Repr

/-- The fields of word 1 of the extended form (R51). -/
structure F1 where
  c : BitVec 5
  e : BitVec 5
  mask : BitVec 3
  z : BitVec 1
  chan : BitVec 6
  ak : BitVec 2
  bk : BitVec 2
  ty : BitVec 4
  p : BitVec 1
  rsv : BitVec 3
  deriving DecidableEq, Repr

/-- Word 0 from its fields. -/
def F0.pack (f : F0) : W32 := f.op ++ f.mod ++ f.b ++ f.a ++ f.d ++ f.maj ++ f.L

/-- The fields of a word 0. -/
def F0.unpack (w : W32) : F0 :=
  { op := w.extractLsb' 26 6, mod := w.extractLsb' 22 4, b := w.extractLsb' 17 5, a := w.extractLsb' 12 5,
    d := w.extractLsb' 7 5, maj := w.extractLsb' 2 5, L := w.extractLsb' 0 2 }

/-- Word 1 from its fields. -/
def F1.pack (f : F1) : W32 := f.c ++ f.e ++ f.mask ++ f.z ++ f.chan ++ f.ak ++ f.bk ++ f.ty ++ f.p ++ f.rsv

/-- The fields of a word 1. -/
def F1.unpack (w : W32) : F1 :=
  { c := w.extractLsb' 27 5, e := w.extractLsb' 22 5, mask := w.extractLsb' 19 3, z := w.extractLsb' 18 1,
    chan := w.extractLsb' 12 6, ak := w.extractLsb' 10 2, bk := w.extractLsb' 8 2, ty := w.extractLsb' 4 4,
    p := w.extractLsb' 3 1, rsv := w.extractLsb' 0 3 }

/-- imm20 of the W form (R48). -/
def F0.imm20 (f : F0) : BitVec 20 := f.op ++ f.mod ++ f.b ++ f.a
/-- imm25 of the J form. -/
def F0.imm25 (f : F0) : BitVec 25 := f.op ++ f.mod ++ f.b ++ f.a ++ f.d
/-- imm15 of the I form and disp15 of the BZ form. -/
def F0.imm15 (f : F0) : BitVec 15 := f.op ++ f.mod ++ f.b
/-- off11 of the IM and VM forms. -/
def F0.off11 (f : F0) : BitVec 11 := f.op ++ f.mod ++ f.b.extractLsb' 4 1
/-- disp10 of the B form. -/
def F0.disp10 (f : F0) : BitVec 10 := f.op ++ f.mod
/-- The number of a SYS instruction (R64). -/
def F0.num12 (f : F0) : BitVec 12 := f.op.extractLsb' 0 3 ++ f.mod ++ f.b

/-- The words of one instruction, taken apart. Which pieces exist follows from L (R46); an absent piece is zero. -/
structure Raw where
  f0 : F0
  f1 : F1 := { c := 0, e := 0, mask := 0, z := 0, chan := 0, ak := 0, bk := 0, ty := 0, p := 0, rsv := 0 }
  w2 : W32 := 0
  lit : W64 := 0
  deriving DecidableEq, Repr

namespace Raw

/-- The pool index of word 2 (R54). -/
def idx (r : Raw) : BitVec 16 := r.w2.extractLsb' 16 16
/-- The view of word 2 (R54). -/
def view (r : Raw) : View := { idx := r.idx, count := r.w2.extractLsb' 8 8, start := r.w2.extractLsb' 0 8 }
/-- The mask and Z fields of word 1. -/
def qual (r : Raw) : Qual := { mask := r.f1.mask, z := r.f1.z == 1 }
/-- mod bit 0 (R71). -/
def mod0 (r : Raw) : Bool := r.f0.mod.getLsbD 0
/-- mod bits 3:1. -/
def modHi (r : Raw) : BitVec 3 := r.f0.mod.extractLsb' 1 3
/-- An integer-literal or register source b of a scalar instruction (R55). -/
def srcB (r : Raw) : SrcB := if r.f0.L.getLsbD 0 then .lit r.lit else .reg r.f0.b

/-- A vector source by its kind (R53). -/
def srcOf (r : Raw) (kind : BitVec 2) (field : BitVec 5) : VSrc :=
  match kind.toNat with
  | 0 => .reg field
  | 1 => .queue (field.setWidth 3)
  | 2 => .chan r.f1.chan
  | _ => .pool r.idx

/-- Vector source a. -/
def srcA (r : Raw) : VSrc := r.srcOf r.f1.ak r.f0.a
/-- Vector source b, or the literal in its place. -/
def vsrcB (r : Raw) : VSrc :=
  if r.f0.L == 3 then .lit (r.f0.b.setWidth 2) r.lit else r.srcOf r.f1.bk r.f0.b
/-- Source b that names an x register, or the literal in its place (R55). -/
def xsrcB (r : Raw) : XSrc := if r.f0.L == 3 then .lit (r.f0.b.setWidth 2) r.lit else .reg r.f0.b
/-- Source b that names an m register, or the literal in its place (R55). -/
def ksrcB (r : Raw) : KSrc := if r.f0.L == 3 then .lit (r.f0.b.setWidth 2) r.lit else .reg (r.f0.b.setWidth 3)

end Raw

/-- One check: the position of the word, the offence, and whether it is committed. -/
abbrev Check := Nat × Offence × Bool

/-- The first check that is offended, else the instruction. The lists below run in word order. -/
def verdict (cs : List Check) (i : Instr) : Except DecErr Instr :=
  match cs.find? (fun c => c.2.2) with
  | some c => .error ⟨c.1, c.2.1⟩
  | none => .ok i

/-- The type a code names; a reserved code offends elsewhere, so its value here does not matter. -/
def tyOf (c : BitVec 4) : Ty := (Ty.ofCode? c).getD .i64

/-- The code names no type that the instruction takes. -/
def badTy (ok : Ty → Bool) (c : BitVec 4) : Bool := !((Ty.ofCode? c).any ok)

/-! ## Base majors (R59-R70) -/

/-- The two-source INT operations by op (R61). -/
def intBin (op : Nat) : Option (Ty → Reg → Reg → SrcB → Instr) :=
  match op with
  | 0 => some .add | 1 => some .sub | 2 => some .mul | 3 => some .mulh | 4 => some .mulhn | 5 => some .div
  | 6 => some .divn | 7 => some .rem | 8 => some .remn | 9 => some .and | 10 => some .or | 11 => some .xor
  | 12 => some .andn | 13 => some .shl | 14 => some .shr | 15 => some .shra | 16 => some .rotl | 17 => some .min
  | 18 => some .max | 19 => some .minn | 20 => some .maxn | 21 => some .slt | 22 => some .sltn | 23 => some .seq
  | 29 => some .bfx | 30 => some .bfi | _ => none

/-- The one-source INT operations by op (R61). -/
def intUn (op : Nat) : Option (Ty → Reg → Reg → Instr) :=
  match op with
  | 24 => some .clz | 25 => some .ctz | 26 => some .popc | 27 => some .sext | 28 => some .zext | _ => none

/-- INT, major 1 (R61): a literal only of kind 0. -/
def decInt (r : Raw) : Except DecErr Instr :=
  let f := r.f0
  match intBin f.op.toNat with
  | some mk => verdict [(0, .type, badTy Ty.isInt f.mod), (0, .literal, f.L == 1 && f.b != 0)]
      (mk (tyOf f.mod) f.d f.a r.srcB)
  | none =>
    match intUn f.op.toNat with
    | some mk => verdict [(0, .type, badTy Ty.isInt f.mod), (0, .reserved, f.b != 0), (0, .literal, f.L == 1)]
        (mk (tyOf f.mod) f.d f.a)
    | none => .error ⟨0, .op⟩

/-- The two-source FLT operations by op (R62). -/
def fltBin (op : Nat) : Option (Ty → Reg → Reg → SrcB → Instr) :=
  match op with
  | 0 => some .fadd | 1 => some .fsub | 2 => some .fmul | 3 => some .fdiv | 4 => some .fmin | 5 => some .fmax
  | 7 => some .feq | 8 => some .flt | 9 => some .fle | _ => none

/-- FLT, major 6 (R62): a literal only of kind 1, and only with .f32 (R55). -/
def decFlt (r : Raw) : Except DecErr Instr :=
  let f := r.f0
  let t := tyOf f.mod
  match fltBin f.op.toNat with
  | some mk => verdict [(0, .type, badTy Ty.isFlt f.mod), (0, .literal, f.L == 1 && (f.b != 1 || t != .f32)),
      (2, .literal, f.L == 1 && r.lit.extractLsb' 32 32 != 0)] (mk t f.d f.a r.srcB)
  | none =>
    match f.op.toNat with
    | 6 => verdict [(0, .type, badTy Ty.isFlt f.mod), (0, .reserved, f.b != 0), (0, .literal, f.L == 1)]
        (.fsqrt t f.d f.a)
    | 10 => verdict [(0, .type, badTy Ty.isFlt f.mod), (0, .reserved, f.b != 0), (0, .literal, f.L == 1)]
        (.fclass t f.d f.a)
    | 11 =>
      let src := f.b.setWidth 4
      verdict [(0, .type, badTy Ty.notC4 f.mod), (0, .type, badTy Ty.notC4 src), (0, .reserved, f.b.getLsbD 4),
        (0, .type, t.isInt && (tyOf src).isInt), (0, .literal, f.L == 1)] (.fcvt t (tyOf src) f.d f.a)
    | _ => .error ⟨0, .op⟩

/-- The literal that no form of a major takes. -/
def noLit (r : Raw) : Check := (0, .literal, r.f0.L == 1)

/-- B and BZ, majors 8 and 9 (R63). -/
def decBranch (r : Raw) : Except DecErr Instr :=
  let f := r.f0
  if f.maj == 8 then
    let mk : Option (Reg → Reg → BitVec 10 → Instr) :=
      match f.d.toNat with
      | 0 => some .beq | 1 => some .bne | 2 => some .blt | 3 => some .bge | 4 => some .bltn | 5 => some .bgen
      | _ => none
    match mk with
    | some mk => verdict [noLit r] (mk f.a f.b f.disp10)
    | none => .error ⟨0, .cond⟩
  else
    let mk : Option (Reg → BitVec 15 → Instr) :=
      match f.d.toNat with
      | 0 => some .bz | 1 => some .bnz | 2 => some .bltz | 3 => some .bgez | 4 => some .bgtz | 5 => some .blez
      | _ => none
    match mk with
    | some mk => verdict [noLit r] (mk f.a f.imm15)
    | none => .error ⟨0, .cond⟩

/-- The MTS of a register, by the opcode table's rows. -/
def mkMts (n : BitVec 12) (a : Reg) : Instr :=
  match n.toNat with
  | 0x008 => .mtsFcr a | 0x009 => .mtsFstat a | 0x00A => .mtsSqcap a | 0x014 => .mtsTvec a | 0x018 => .mtsHmask a
  | 0x019 => .mtsHacc a | 0x030 => .mtsSlotw a | 0x0F0 => .mtsL2mask a | _ => .mts n a

/-- SYS, major 14 (R64, R24). -/
def decSys (r : Raw) : Except DecErr Instr :=
  let f := r.f0
  let n := f.num12
  let noD : Check := (0, .reserved, f.d != 0)
  let noA : Check := (0, .reserved, f.a != 0)
  let noN : Check := (0, .reserved, n != 0)
  match (f.op.extractLsb' 3 3).toNat with
  | 0 => verdict [noD, noA, noLit r] (.trap n)
  | 1 => verdict [noD, noA, noN, noLit r] .eret
  | 2 => verdict [(0, .number, !sysRegOk n), noA, noLit r] (if n.toNat == 0x009 then .mfsFstat f.d else .mfs f.d n)
  | 3 => verdict [(0, .number, !sysRegOk n), noD, noLit r] (mkMts n f.a)
  | 4 => verdict [noD, noA, noLit r] (.bkpt n)
  | 5 => verdict [noD, noA, noN, noLit r] .synci
  | _ => .error ⟨0, .sub⟩

/-- A register field that names one of eight registers holds more than 7 (R50). -/
def bad3 (f : BitVec 5) : Bool := 8 ≤ f.toNat

/-- MEM, major 17 (R66). -/
def decMem (r : Raw) : Except DecErr Instr :=
  let f := r.f0
  let noB : Check := (0, .reserved, f.b != 0)
  let noD : Check := (0, .reserved, f.d != 0)
  let noM : Check := (0, .mod, f.mod != 0)
  match f.op.toNat with
  | 0 => verdict [noM, noB, (0, .reg, bad3 f.d), noLit r] (.ldq (f.d.setWidth 3) f.a)
  | 1 => verdict [noM, noD, (0, .reg, bad3 f.b), noLit r] (.stq f.a (f.b.setWidth 3))
  | 2 => verdict [noM, noB, noLit r] (.sptest f.d f.a)
  | 3 => verdict [(0, .mod, (Win.ofCode? f.mod).isNone), noB, noLit r] (.spcast ((Win.ofCode? f.mod).getD .glob) f.d f.a)
  | 4 => verdict [(0, .mod, (Win.ofCode? f.mod).isNone), noB, noLit r] (.spmake ((Win.ofCode? f.mod).getD .glob) f.d f.a)
  | 5 => verdict [(0, .mod, (Scope.ofCode? f.mod).isNone), (0, .kind, f.d == 0 || 4 ≤ f.d.toNat), noB,
      (0, .reserved, f.a != 0), noLit r] (.fence (f.d.setWidth 2) ((Scope.ofCode? f.mod).getD .core))
  | 6 => verdict [(0, .mod, 2 ≤ f.mod.toNat), noB, noD, noLit r] (.pref (f.mod == 1) f.a)
  | _ => .error ⟨0, .op⟩

/-- The AMO operations by offset (R67). -/
def amoMk (off : Nat) : Option (Ty → Reg → Reg → SrcB → Instr) :=
  match off with
  | 0 => some .amoAdd | 1 => some .amoAnd | 2 => some .amoOr | 3 => some .amoXor | 4 => some .amoMin | 5 => some .amoMax
  | 6 => some .amoMinn | 7 => some .amoMaxn | 8 => some .amoSwap | 9 => some .amoFadd | _ => none

/-- The AMOP operations by offset (R67). -/
def amopMk (off : Nat) : Option (Ty → Reg → SrcB → Instr) :=
  match off with
  | 0 => some .amopAdd | 1 => some .amopAnd | 2 => some .amopOr | 3 => some .amopXor | 4 => some .amopMin
  | 5 => some .amopMax | 6 => some .amopMinn | 7 => some .amopMaxn | 8 => some .amopSwap | 9 => some .amopFadd
  | _ => none

/-- The types of an atomic by its offset (R67). -/
def amoTyOk (off : Nat) (t : Ty) : Bool := if off == 9 then t == .f32 else t.amoOk

/-- AMO, major 18 (R67): op 0-9 AMO, op 16-25 AMOP with d = 0; a literal only of kind 0. -/
def decAmo (r : Raw) : Except DecErr Instr :=
  let f := r.f0
  let litBad : Check := (0, .literal, f.L == 1 && f.b != 0)
  match amoMk f.op.toNat with
  | some mk => verdict [(0, .type, badTy (amoTyOk f.op.toNat) f.mod), litBad] (mk (tyOf f.mod) f.d f.a r.srcB)
  | none =>
    match amopMk (f.op.toNat - 16) with
    | some mk => verdict [(0, .op, f.op.toNat < 16), (0, .type, badTy (amoTyOk (f.op.toNat - 16)) f.mod),
        (0, .reserved, f.d != 0), litBad] (mk (tyOf f.mod) f.a r.srcB)
    | none => .error ⟨0, .op⟩

/-- ENG, major 21 (R68). -/
def decEng (r : Raw) : Except DecErr Instr :=
  let f := r.f0
  let noB : Check := (0, .reserved, f.b != 0)
  let noD : Check := (0, .reserved, f.d != 0)
  let noM : Check := (0, .mod, f.mod != 0)
  match f.op.toNat with
  | 0 => verdict [noM, noB, noD, noLit r] (.nack f.a)
  | 1 => verdict [noM, noD, noLit r] (.barinit f.a f.b)
  | 2 => verdict [noM, noB, noLit r] (.bararv f.d f.a)
  | 3 => verdict [noM, noD, noLit r] (.barexp f.a f.b)
  | 4 => verdict [noM, noD, noLit r] (.barwait f.a f.b)
  | 5 => verdict [noM, noLit r] (.bartry f.d f.a f.b)
  | _ => .error ⟨0, .op⟩

/-- VEC, major 22 (R69). -/
def decVec (r : Raw) : Except DecErr Instr :=
  let f := r.f0
  let t := tyOf f.mod
  let noB : Check := (0, .reserved, f.b != 0)
  let ty (ok : Ty → Bool) : Check := (0, .type, badTy ok f.mod)
  let bin (ok : Ty → Bool) (mk : Ty → Reg → Reg → Reg → Instr) := verdict [ty ok, noLit r] (mk t f.d f.a f.b)
  let un (ok : Ty → Bool) (mk : Ty → Reg → Reg → Instr) := verdict [ty ok, noB, noLit r] (mk t f.d f.a)
  let noM : Check := (0, .mod, f.mod != 0)
  let m3 (g : BitVec 5) : Check := (0, .reg, bad3 g)
  match f.op.toNat with
  | 0 => bin Ty.notC4 .vadd
  | 1 => bin Ty.notC4 .vsub
  | 2 => bin Ty.notC4 .vmul
  | 3 => bin Ty.isInt .vmulh
  | 4 => bin Ty.notC4 .vmin
  | 5 => bin Ty.notC4 .vmax
  | 6 => un Ty.notC4 .vabs
  | 7 => un Ty.notC4 .vneg
  | 8 => bin Ty.notC4 .vand
  | 9 => bin Ty.notC4 .vor
  | 10 => bin Ty.notC4 .vxor
  | 11 => bin Ty.isInt .vshl
  | 12 => bin Ty.isInt .vshr
  | 13 => bin Ty.isInt .vshra
  | 17 => un Ty.notC4 .vsplat
  | 18 => bin Ty.notC4 .vins
  | 19 => bin Ty.notC4 .vext
  | 20 => bin Ty.notC4 .vperm
  | 21 => bin Ty.notC4 .vzip
  | 22 => un Ty.notC4 .vredadd
  | 23 => un Ty.notC4 .vredmax
  | 24 => un Ty.notC4 .vredmin
  | 25 => bin Ty.dotOk .vdot
  | 26 =>
    let src := f.b.setWidth 4
    verdict [ty Ty.notC4, (0, .type, badTy Ty.notC4 src), (0, .reserved, f.b.getLsbD 4),
      (0, .type, t.isInt && (tyOf src).isInt), noLit r] (.vcvt t (tyOf src) f.d f.a)
  | 27 => un Ty.narrowOk .vnarrow
  | 28 => un Ty.widenOk .vwiden
  | 29 => verdict [ty Ty.lutOk, (0, .reg, f.b.getLsbD 0), noLit r] (.vlut t f.d f.a f.b)
  | 30 => verdict [ty Ty.notC4, m3 f.b, noLit r] (.vcomp t f.d f.a (f.b.setWidth 3))
  | 31 => verdict [ty Ty.notC4, m3 f.b, noLit r] (.vexpnd t f.d f.a (f.b.setWidth 3))
  | 32 => bin Ty.notC4 .vtopk
  | 33 => verdict [noM, m3 f.d, m3 f.a, m3 f.b, noLit r] (.mand (f.d.setWidth 3) (f.a.setWidth 3) (f.b.setWidth 3))
  | 34 => verdict [noM, m3 f.d, m3 f.a, m3 f.b, noLit r] (.mor (f.d.setWidth 3) (f.a.setWidth 3) (f.b.setWidth 3))
  | 35 => verdict [noM, m3 f.d, m3 f.a, noB, noLit r] (.mnot (f.d.setWidth 3) (f.a.setWidth 3))
  | 36 => verdict [noM, m3 f.a, noB, noLit r] (.mpopc f.d (f.a.setWidth 3))
  | _ => .error ⟨0, .op⟩

/-- STRD, major 23 (R70). -/
def decStrd (r : Raw) : Except DecErr Instr :=
  let f := r.f0
  let noA : Check := (0, .reserved, f.a != 0)
  let noB : Check := (0, .reserved, f.b != 0)
  let noD : Check := (0, .reserved, f.d != 0)
  let noM : Check := (0, .mod, f.mod != 0)
  let cls : Check := (0, .mod, 2 ≤ f.mod.toNat)
  let q : Check := (0, .reg, bad3 f.a)
  let x := f.mod.getLsbD 0
  let plain (i : Instr) := verdict [noM, noB, noA, noD, noLit r] i
  match f.op.toNat with
  | 0 => verdict [noM, noD, noLit r] (.fork f.a f.b)
  | 1 => plain .rdv
  | 2 => plain .endHelper
  | 3 => verdict [cls, q, noD, noLit r] (.qput x (f.a.setWidth 3) f.b)
  | 4 => verdict [cls, q, noB, noLit r] (.qget x f.d (f.a.setWidth 3))
  | 5 => verdict [cls, q, noLit r] (.qtry x f.d (f.a.setWidth 3) f.b)
  | 6 => verdict [cls, noB, noLit r] (.msgrd x f.d f.a)
  | 7 => plain .msgdone
  | 8 => plain .yieldSlot
  | 9 => plain .exit
  | 10 => plain .waitdep
  | 11 => plain .trigger
  | 12 => verdict [noM, noB, noD, noLit r] (.migrate f.a)
  | _ => .error ⟨0, .op⟩

/-- The base words, L = 00 or 01 (R46, R59). -/
def decodeBase (r : Raw) : Except DecErr Instr :=
  let f := r.f0
  match f.maj.toNat with
  | 1 => decInt r
  | 2 => if f.L == 1 then verdict [(0, .reserved, f.imm20 != 0)] (.liLit f.d r.lit) else .ok (.li f.d f.imm20)
  | 3 => verdict [noLit r] (.lih f.d f.imm20)
  | 4 => verdict [(0, .reserved, f.imm20.extractLsb' 16 4 != 0), noLit r] (.lk f.d (f.imm20.setWidth 16))
  | 5 => verdict [noLit r] (.addpc f.d f.imm20)
  | 6 => decFlt r
  | 7 => verdict [noLit r] (.fli f.d f.imm20)
  | 8 => decBranch r
  | 9 => decBranch r
  | 10 => verdict [noLit r] (.j f.imm25)
  | 11 => verdict [noLit r] (.jal f.imm25)
  | 12 => verdict [noLit r] (.jalr f.d f.a f.imm15)
  | 13 => verdict [(0, .reserved, f.d != 0), (0, .reg, f.a == 0), noLit r] (.loop f.a f.imm15)
  | 14 => decSys r
  | 15 => verdict [(0, .type, badTy Ty.notC4 (f.b.setWidth 4)), noLit r] (.ld (tyOf (f.b.setWidth 4)) f.d f.a f.off11)
  | 16 => verdict [(0, .type, badTy Ty.notC4 (f.b.setWidth 4)), noLit r] (.st (tyOf (f.b.setWidth 4)) f.d f.a f.off11)
  | 17 => decMem r
  | 18 => decAmo r
  | 19 => verdict [(0, .reserved, f.b.extractLsb' 1 3 != 0), noLit r] (.vld (f.b.getLsbD 0) f.d f.a f.off11)
  | 20 => verdict [(0, .reserved, f.b.extractLsb' 1 3 != 0), noLit r] (.vst (f.b.getLsbD 0) f.d f.a f.off11)
  | 21 => decEng r
  | 22 => decVec r
  | 23 => decStrd r
  | _ => .error ⟨0, .major⟩

/-! ## Extended majors (R71-R75) -/

/-- What a register field of an extended instruction may hold. -/
inductive Fld
  | none | reg | reg3 | src | flag | cvt
  deriving DecidableEq, Repr

/-- The fields an extended instruction uses (R72-R75). A field it does not use must be zero (R52, R77). -/
structure Uses where
  d : Fld := .none
  a : Fld := .none
  b : Fld := .none
  c : Bool := false
  e : Bool := false
  qual : Bool := false
  zOk : Bool := true
  ty : Option (Ty → Bool) := Option.none
  chan : Bool := false
  pool : Bool := false
  view : Bool := false
  imm : Bool := false
  mod0 : Bool := false
  modHi : Nat := 0
  lit : Bool := false

/-- The field is out of range for its use. A source field is zero for a channel or pool kind and names q0 to q7 for a
queue (R50, R53). -/
def Fld.bad (u : Fld) (v : BitVec 5) (kind : BitVec 2) : Bool :=
  match u with
  | .none => v != 0
  | .reg => false
  | .reg3 => bad3 v
  | .flag => 2 ≤ v.toNat
  | .cvt => v.getLsbD 4
  | .src =>
    match kind.toNat with
    | 0 => false
    | 1 => bad3 v
    | _ => v != 0

/-- The field takes source kinds. -/
def Fld.isSrc : Fld → Bool
  | .src => true
  | _ => false

/-- Some source has kind k. -/
def Raw.hasKind (r : Raw) (k : BitVec 2) : Bool := r.f1.ak == k || r.f1.bk == k

/-- The checks common to the extended instructions, in word order (R52-R55). -/
def Uses.checks (u : Uses) (r : Raw) (w0 w1 : List Check) : List Check :=
  let f := r.f0
  let g := r.f1
  let isLit := f.L == 3
  w0 ++
  [(0, .mod, r.mod0 && !u.mod0),
   (0, .mod, u.modHi < r.modHi.toNat),
   (0, .literal, isLit && !u.lit),
   (0, .literal, isLit && 4 ≤ f.b.toNat),
   (0, .reg, !isLit && u.b.bad f.b g.bk),
   (0, .reg, u.a.bad f.a g.ak),
   (0, .reg, u.d.bad f.d 0),
   (1, .reserved, g.c != 0 && !u.c),
   (1, .reserved, g.e != 0 && !u.e),
   (1, .reserved, g.mask != 0 && !u.qual),
   (1, .zeroing, g.z != 0 && (g.mask == 0 || !u.qual || !u.zOk)),
   (1, .reserved, g.chan != 0 && !u.chan && !r.hasKind 2),
   (1, .channel, r.hasKind 2 && g.chan.toNat < 2),
   (1, .kind, g.ak != 0 && !u.a.isSrc),
   (1, .kind, g.bk != 0 && !u.b.isSrc),
   (1, .kind, isLit && g.bk != 0),
   (1, .kind, g.ak == 2 && g.bk == 2),
   (1, .kind, g.ak == 3 && g.bk == 3),
   (1, .type, match u.ty with
     | some ok => badTy ok g.ty
     | Option.none => g.ty != 0),
   (1, .pool, (g.p == 1) != (u.pool || r.hasKind 3)),
   (1, .reserved, g.rsv != 0)] ++ w1 ++
  [(2, .reserved, g.p == 0 && !u.imm && r.w2 != 0),
   (2, .pool, g.p == 1 && !u.view && r.w2.extractLsb' 0 16 != 0)]

/-- The verdict on an extended instruction: its fields, then its literal (`litW` are the checks of the literal). -/
def Uses.verdict (u : Uses) (r : Raw) (i : Instr) (w0 w1 litW : List Check := []) : Except DecErr Instr :=
  Sys2Proof.verdict (u.checks r w0 w1 ++ litW) i

/-- A kind-1 literal with a nonzero bit in 63:32; the high half is the word at position 4. -/
def litHigh (r : Raw) (isOne : Bool) : Check := (4, .literal, r.f0.L == 3 && isOne && r.lit.extractLsb' 32 32 != 0)

/-- XSC, xmajor 1 (R72, R84, R89). -/
def decXsc (r : Raw) : Except DecErr Instr :=
  let f := r.f0
  let g := r.f1
  let t := tyOf g.ty
  let isLit := f.L == 3
  let u (ok : Ty → Bool) : Uses := { d := .reg, a := .reg, b := .reg, c := true, ty := some ok, lit := true }
  match f.op.toNat with
  | 0 => (u Ty.isInt).verdict r (.sel t f.d g.c f.a r.srcB) [(0, .literal, isLit && f.b != 0)]
  | 1 => (u Ty.isFlt).verdict r (.fma t f.d f.a g.c r.srcB) [(0, .literal, isLit && (f.b != 1 || t != .f32))] []
      [litHigh r true]
  | 2 => (u Ty.amoOk).verdict r (.cas t f.d f.a r.srcB g.c) [(0, .literal, isLit && f.b != 0)]
  | _ => .error ⟨0, .op⟩

/-- XMEM, xmajor 2 (R72, R111, R112). -/
def decXmem (r : Raw) : Except DecErr Instr :=
  let f := r.f0
  let t := tyOf r.f1.ty
  let q := r.qual
  let cf := r.mod0
  let base (ok : Ty → Bool) : Uses := { d := .reg, a := .reg, qual := true, ty := some ok, mod0 := true }
  let imm : Uses := { base Ty.notC4 with imm := true }
  let strided : Uses := { base Ty.notC4 with b := .reg }
  let indexed : Uses := { base Ty.isInt with b := .reg }
  let viewed : Uses := { base Ty.notC4 with pool := true, view := true }
  match f.op.toNat with
  | 0 => imm.verdict r (.vldX t cf q f.d f.a r.w2)
  | 1 => imm.verdict r (.vstX t cf q f.d f.a r.w2)
  | 2 => strided.verdict r (.vlds t cf q f.d f.a f.b)
  | 3 => strided.verdict r (.vsts t cf q f.d f.a f.b)
  | 4 => indexed.verdict r (.vgath t cf q f.d f.a f.b)
  | 5 => indexed.verdict r (.vscat t cf q f.d f.a f.b)
  | 6 => viewed.verdict r (.vldb t cf q f.d f.a r.view)
  | 7 => viewed.verdict r (.vstb t cf q f.d f.a r.view)
  | _ => .error ⟨0, .op⟩

/-- A channel that the instruction names must be 2 to 63 (R125, R130, R183). -/
def lowChan (r : Raw) : Check := (1, .channel, r.f1.chan.toNat < 2)

/-- XENG, xmajor 3 (R72). -/
def decXeng (r : Raw) : Except DecErr Instr :=
  let f := r.f0
  let g := r.f1
  let rlx := r.mod0
  match f.op.toNat with
  | 0 => ({ d := .reg, a := .reg, b := .reg, c := true, chan := true, mod0 := true } : Uses).verdict r
      (.copy rlx g.chan f.a f.b g.c f.d) [] [lowChan r]
  | 1 => ({ d := .reg, a := .reg, chan := true, pool := true, view := true, mod0 := true } : Uses).verdict r
      (.copyb rlx g.chan f.a r.view f.d) [] [lowChan r]
  | 2 => ({ d := .reg, a := .reg, b := .reg, c := true, chan := true, mod0 := true } : Uses).verdict r
      (.notice rlx g.chan f.a f.b g.c f.d) [] [lowChan r]
  | 3 => ({ a := .reg, chan := true } : Uses).verdict r (.tidwait g.chan f.a)
  | 4 => ({ d := .reg, chan := true } : Uses).verdict r (.tidget f.d g.chan)
  | 5 => ({ pool := true } : Uses).verdict r (.publish r.idx)
  | _ => .error ⟨0, .op⟩

/-- XVEC, xmajor 4 (R69, R73, R137-R157). -/
def decXvec (r : Raw) : Except DecErr Instr :=
  let f := r.f0
  let g := r.f1
  let t := tyOf g.ty
  let q := r.qual
  let m := g.mask
  let a := r.srcA
  let b := r.vsrcB
  let hi := r.modHi
  let isLit := f.L == 3
  let satBad : Check := (0, .mod, r.mod0 && !t.isInt)
  let litKind : Check := (0, .literal, isLit && f.b.toNat < 4 &&
    (match f.b.toNat with
     | 0 => !t.isInt
     | 1 => t != .f32
     | 2 => t != .f32
     | _ => false))
  let lit3 : Check := (0, .literal, isLit && f.b.toNat < 3)
  let litW : List Check := [litHigh r (f.b == 1)]
  let bin (ok : Ty → Bool) : Uses := { d := .reg, a := .src, b := .src, qual := true, ty := some ok, lit := true }
  let un (ok : Ty → Bool) : Uses := { d := .reg, a := .src, qual := true, ty := some ok }
  let sat (u : Uses) : Uses := { u with mod0 := true }
  let two (ok : Ty → Bool) (mk : Ty → Qual → Reg → VSrc → VSrc → Instr) :=
    (bin ok).verdict r (mk t q f.d a b) [litKind] [] litW
  let twoSat (ok : Ty → Bool) (mk : Ty → Bool → Qual → Reg → VSrc → VSrc → Instr) :=
    (sat (bin ok)).verdict r (mk t r.mod0 q f.d a b) [satBad, litKind] [] litW
  let red (mk : Ty → Reg3 → Reg → VSrc → Instr) :=
    ({ un Ty.notC4 with zOk := false } : Uses).verdict r (mk t m f.d a)
  let pack (mk : Ty → Reg3 → Reg → VSrc → KSrc → Reg → Instr) :=
    ({ un Ty.notC4 with b := .reg3, e := true, zOk := false, lit := true } : Uses).verdict r (mk t m f.d a r.ksrcB g.e)
      [litKind] [] litW
  let mask2 (mk : Qual → Reg3 → Reg3 → KSrc → Instr) :=
    ({ d := .reg3, a := .reg3, b := .reg3, qual := true, ty := some (fun t => t == .i8), lit := true } : Uses).verdict r
      (mk q (f.d.setWidth 3) (f.a.setWidth 3) r.ksrcB) [litKind] [] litW
  let anyMask : Ty → Bool := fun t => t == .i8
  match f.op.toNat with
  | 0 => twoSat Ty.notC4 .vaddX
  | 1 => twoSat Ty.notC4 .vsubX
  | 2 => twoSat Ty.notC4 .vmulX
  | 3 => two Ty.isInt .vmulhX
  | 4 => two Ty.notC4 .vminX
  | 5 => two Ty.notC4 .vmaxX
  | 6 => (un Ty.notC4).verdict r (.vabsX t q f.d a)
  | 7 => (un Ty.notC4).verdict r (.vnegX t q f.d a)
  | 8 => two Ty.notC4 .vandX
  | 9 => two Ty.notC4 .vorX
  | 10 => two Ty.notC4 .vxorX
  | 11 => twoSat Ty.isInt .vshlX
  | 12 => two Ty.isInt .vshrX
  | 13 => two Ty.isInt .vshraX
  | 14 => ({ bin Ty.isFlt with c := true } : Uses).verdict r (.vfma t q f.d a g.c b) [litKind] [] litW
  | 15 => ({ bin Ty.notC4 with d := .reg3, modHi := 6 } : Uses).verdict r
      (.vcmp ((CC.ofCode? hi).getD .eq) t q (f.d.setWidth 3) a b) [(0, .mod, hi == 6 && t.isInt), litKind] [] litW
  | 16 => ({ bin Ty.notC4 with zOk := false } : Uses).verdict r (.vsel t m f.d a b) [litKind] [] litW
  | 17 => ({ d := .reg, a := .reg, qual := true, ty := some Ty.notC4 } : Uses).verdict r (.vsplatX t q f.d f.a)
  | 18 => ({ d := .reg, a := .reg, b := .reg, qual := true, ty := some Ty.notC4, lit := true } : Uses).verdict r
      (.vinsX t q f.d f.a r.xsrcB) [litKind] [] litW
  | 19 => ({ un Ty.notC4 with b := .reg, zOk := false, lit := true } : Uses).verdict r (.vextX t m f.d a r.xsrcB)
      [litKind] [] litW
  | 20 => (bin Ty.notC4).verdict r (.vpermX t q f.d a b) [lit3]
  | 21 => ({ bin Ty.notC4 with modHi := 3 } : Uses).verdict r (.vzipX (hi.setWidth 2) t q f.d a b) [litKind] [] litW
  | 22 => red .vredaddX
  | 23 => red .vredmaxX
  | 24 => red .vredminX
  | 25 => two Ty.dotOk .vdotX
  | 26 =>
    let src := f.b.setWidth 4
    ({ un Ty.notC4 with b := .cvt } : Uses).verdict r (.vcvtX t (tyOf src) q f.d a)
      [(0, .type, badTy Ty.notC4 src), (0, .type, t.isInt && (tyOf src).isInt)]
  | 27 => ({ un Ty.narrowOk with mod0 := true, modHi := 1 } : Uses).verdict r (.vnarrowX t r.mod0 (hi == 1) q f.d a)
  | 28 => ({ un Ty.widenOk with modHi := 1 } : Uses).verdict r (.vwidenX t (hi == 1) q f.d a)
  | 29 => ({ un Ty.lutOk with b := .reg, lit := true, modHi := 3 } : Uses).verdict r
      (.vlutX t (hi.setWidth 2) q f.d a b) [(0, .mod, t == .n8 && hi != 0), (0, .reg, !isLit && f.b.getLsbD 0), lit3]
  | 30 => pack .vcompX
  | 31 => pack .vexpndX
  | 32 => ({ un Ty.notC4 with b := .reg, e := true, zOk := false, modHi := 1, lit := true } : Uses).verdict r
      (.vtopkX t (hi == 1) m f.d a r.xsrcB g.e) [litKind] [(1, .reserved, hi == 0 && g.e != 0)] litW
  | 33 => mask2 .mandX
  | 34 => mask2 .morX
  | 35 => ({ d := .reg3, a := .reg3, qual := true, ty := some anyMask } : Uses).verdict r
      (.mnotX q (f.d.setWidth 3) (f.a.setWidth 3))
  | 36 => ({ d := .reg, a := .reg3, qual := true, zOk := false, ty := some anyMask } : Uses).verdict r
      (.mpopcX m f.d (f.a.setWidth 3))
  | 37 => (un Ty.notC4).verdict r (.vaccs t q f.d g.chan) [] [(1, .kind, g.ak != 2)]
  | _ => .error ⟨0, .op⟩

/-- XMAT, xmajor 5 (R74, R159). -/
def decXmat (r : Raw) : Except DecErr Instr :=
  let f := r.f0
  let g := r.f1
  let immA : Uses := { a := .reg, imm := true }
  match f.op.toNat with
  | 0 => ({ d := .reg, imm := true } : Uses).verdict r (.acq f.d r.w2)
  | 1 => immA.verdict r (.rel f.a r.w2)
  | 2 => immA.verdict r (.mshape f.a r.w2)
  | 3 => immA.verdict r (.mzero f.a r.w2)
  | 4 => ({ pool := true, view := true } : Uses).verdict r (.mcbl r.view)
  | 5 =>
    let fmt := WFmt.ofCode? g.ty
    ({ pool := true, view := true, mod0 := true, ty := some (fun t => (WFmt.ofCode? t.code).isSome) } : Uses).verdict r
      (.mwld (fmt.getD .i8) r.mod0 r.view)
  | 6 => ({ imm := true } : Uses).verdict r (.mcfg r.w2)
  | 7 =>
    let src : MSrc :=
      match g.bk.toNat with
      | 0 => .mem f.b g.c r.w2
      | 1 => .queue (f.b.setWidth 3) r.w2
      | _ => .buf r.view
    ({ a := .reg, b := .src, c := true, imm := true, view := true, mod0 := true } : Uses).verdict r
      (.mmul r.mod0 f.a src) [] [(1, .kind, g.bk == 2), (1, .reserved, g.bk != 0 && g.c != 0)]
  | 8 => ({ a := .reg, b := .src, imm := true } : Uses).verdict r (.mmuls f.a g.chan r.w2) [] [(1, .kind, g.bk != 2)]
  | 9 => ({ d := .reg, a := .reg, c := true, pool := true, view := true, mod0 := true, ty := some (fun _ => true) }
      : Uses).verdict r (.mdrain (tyOf g.ty) r.mod0 f.a r.view f.d g.c)
  | 10 => ({ d := .reg, a := .reg, imm := true } : Uses).verdict r (.mrd f.d f.a r.w2)
  | 11 => ({ a := .reg, b := .reg, imm := true } : Uses).verdict r (.mwr f.a f.b r.w2)
  | 12 => ({ imm := true } : Uses).verdict r (.msplit r.w2)
  | _ => .error ⟨0, .op⟩

/-- XMSG, xmajor 6 (R75, R183). -/
def decXmsg (r : Raw) : Except DecErr Instr :=
  let f := r.f0
  let g := r.f1
  match f.op.toNat with
  | 0 => ({ a := .reg, b := .src, chan := true, mod0 := true } : Uses).verdict r
      (.send r.mod0 g.chan f.a (r.srcOf g.bk f.b)) [] [lowChan r]
  | 1 => ({ a := .reg, b := .reg, c := true, chan := true, mod0 := true } : Uses).verdict r
      (.sendb r.mod0 g.chan f.a f.b g.c) [] [lowChan r]
  | 2 => ({ a := .reg, chan := true, imm := true } : Uses).verdict r (.hset g.chan f.a r.w2)
  | 3 => ({ d := .reg, pool := true } : Uses).verdict r (.join f.d r.idx)
  | 4 => ({ pool := true } : Uses).verdict r (.leave r.idx)
  | 5 => ({ pool := true } : Uses).verdict r (.gbar r.idx)
  | _ => .error ⟨0, .op⟩

/-- XPORT, xmajor 7 (R75, R203). -/
def decXport (r : Raw) : Except DecErr Instr :=
  let f := r.f0
  let g := r.f1
  match f.op.toNat with
  | 0 => ({ d := .reg, a := .reg, pool := true } : Uses).verdict r (.put f.d r.idx f.a)
  | 1 => ({ d := .reg, e := true, pool := true } : Uses).verdict r (.get f.d g.e r.idx)
  | 2 => ({ a := .reg, pool := true } : Uses).verdict r (.putnb r.idx f.a)
  | 3 => ({ pool := true } : Uses).verdict r (.getnb r.idx)
  | 4 => ({ d := .reg, e := true, pool := true } : Uses).verdict r (.pwait f.d g.e r.idx)
  | 5 => ({ d := .reg, pool := true } : Uses).verdict r (.pwdraw f.d r.idx)
  | _ => .error ⟨0, .op⟩

/-- XREAC, xmajor 8 (R75, R210). -/
def decXreac (r : Raw) : Except DecErr Instr :=
  let f := r.f0
  match f.op.toNat with
  | 0 => ({ a := .reg, pool := true } : Uses).verdict r (.emit r.idx f.a)
  | 1 => ({ d := .reg, pool := true } : Uses).verdict r (.sigtst f.d r.idx)
  | 2 => ({ d := .flag, pool := true, view := true } : Uses).verdict r (.bsig (f.d == 1) r.idx (r.w2.extractLsb' 0 16))
  | 3 => ({ pool := true } : Uses).verdict r (.retract r.idx)
  | 4 => ({ } : Uses).verdict r .pause
  | 5 => ({ d := .reg, a := .reg3 } : Uses).verdict r (.zrd f.d (f.a.setWidth 3))
  | 6 => ({ d := .reg3, a := .reg } : Uses).verdict r (.zwr (f.d.setWidth 3) f.a)
  | 7 => ({ d := .reg, pool := true } : Uses).verdict r (.sigpre f.d r.idx)
  | _ => .error ⟨0, .op⟩

/-- XGANG, xmajor 9 (R75, R216). -/
noncomputable def decXgang (r : Raw) : Except DecErr Instr :=
  let f := r.f0
  let g := r.f1
  match f.op.toNat with
  | 0 => ({ d := .reg, a := .reg, b := .reg } : Uses).verdict r (.gwopen f.d f.a f.b)
  | 1 => ({ } : Uses).verdict r .gwdetach
  | 2 => ({ d := .reg } : Uses).verdict r (.gwstat f.d)
  | 3 => ({ a := .reg } : Uses).verdict r (.tqpush f.a)
  | 4 => ({ d := .reg, e := true } : Uses).verdict r (.tqtake f.d g.e)
  | 5 => ({ d := .reg, a := .reg, e := true } : Uses).verdict r (.tqsteal f.d g.e f.a)
  | 6 => ({ a := .reg } : Uses).verdict r (.tqdone f.a)
  | 7 => ({ d := .reg, a := .reg, imm := true } : Uses).verdict r (.stragrd f.d f.a r.w2)
  | _ => .error ⟨0, .op⟩

/-- The extended words, L = 10 or 11 (R46, R71). -/
noncomputable def decodeExt (r : Raw) : Except DecErr Instr :=
  match r.f0.maj.toNat with
  | 1 => decXsc r
  | 2 => decXmem r
  | 3 => decXeng r
  | 4 => decXvec r
  | 5 => decXmat r
  | 6 => decXmsg r
  | 7 => decXport r
  | 8 => decXreac r
  | 9 => decXgang r
  | _ => .error ⟨0, .major⟩

/-- The instruction of a taken-apart word list (R77). -/
noncomputable def decodeRaw (r : Raw) : Except DecErr Instr :=
  if r.f0.L.getLsbD 1 then decodeExt r else decodeBase r

/-! ## Words and bytes -/

/-- The number of words L gives (R46). -/
def wordsOf (L : BitVec 2) : Nat :=
  match L.toNat with
  | 0 => 1
  | 1 => 3
  | 2 => 3
  | _ => 5

/-- The number of words of an instruction, from its first word. -/
def lengthOf (w0 : W32) : Nat := wordsOf (w0.extractLsb' 0 2)

/-- The words of one instruction taken apart; none when there are fewer words than L asks for. -/
def Raw.ofWords : List W32 → Option Raw
  | [] => none
  | w0 :: ws =>
    let f0 := F0.unpack w0
    match f0.L.toNat, ws with
    | 0, _ => some { f0 }
    | 1, lo :: hi :: _ => some { f0, lit := hi ++ lo }
    | 2, w1 :: w2 :: _ => some { f0, f1 := F1.unpack w1, w2 }
    | 3, w1 :: w2 :: lo :: hi :: _ => some { f0, f1 := F1.unpack w1, w2, lit := hi ++ lo }
    | _, _ => none

/-- The words of a taken-apart instruction (R46, R47: the low half of a literal first). -/
def Raw.words (r : Raw) : List W32 :=
  let lo := r.lit.extractLsb' 0 32
  let hi := r.lit.extractLsb' 32 32
  match r.f0.L.toNat with
  | 0 => [r.f0.pack]
  | 1 => [r.f0.pack, lo, hi]
  | 2 => [r.f0.pack, r.f1.pack, r.w2]
  | _ => [r.f0.pack, r.f1.pack, r.w2, lo, hi]

/-- The decoder: words at rising addresses to an instruction or a named offence. Too few words is `framing`. -/
noncomputable def decode (ws : List W32) : Except DecErr Instr :=
  match Raw.ofWords ws with
  | some r => decodeRaw r
  | none => .error ⟨0, .framing⟩

/-- The little-endian word of four bytes (R29). -/
def wordOfBytes (b0 b1 b2 b3 : Byte) : W32 := b3 ++ b2 ++ b1 ++ b0

/-- The words of a byte list; trailing bytes that fill no word are dropped. -/
def wordsOfBytes : List Byte → List W32
  | b0 :: b1 :: b2 :: b3 :: rest => wordOfBytes b0 b1 b2 b3 :: wordsOfBytes rest
  | _ => []

/-- The four bytes of a word, lowest address first (R29). -/
def bytesOfWord (w : W32) : List Byte :=
  [w.extractLsb' 0 8, w.extractLsb' 8 8, w.extractLsb' 16 8, w.extractLsb' 24 8]

/-- The decoder on any bytes: the instruction and how many bytes it takes, or a named offence. -/
noncomputable def decodeBytes (bs : List Byte) : Except DecErr (Instr × Nat) :=
  match wordsOfBytes bs with
  | [] => .error ⟨0, .framing⟩
  | w0 :: ws => (decode (w0 :: ws)).map (fun i => (i, 4 * lengthOf w0))

/-- The words of an instruction whose bits are w, as spec/opcode_table.json numbers them: bit 0 of w is the least
significant bit of the first word, and words above the given bits are zero. -/
def tableWords (w : Nat) : List W32 := [0, 1, 2, 3, 4].map (fun k => BitVec.ofNat 32 (w >>> (32 * k)))

/-- The instruction the decoder reads from an instruction whose bits are w (the fixed name of the host). -/
noncomputable def decodeTableWord (nbits w : Nat) : Option Instr :=
  match decodeBytes ((tableWords (w % 2 ^ nbits)).flatMap bytesOfWord) with
  | .ok r => some r.1
  | .error _ => none

/-! ## The encoder -/

/-- Word 0 of an R-form instruction of a base major with L = 00. -/
def rform (maj : BitVec 5) (op : BitVec 6) (mod : BitVec 4) (b a d : BitVec 5) : Raw :=
  { f0 := { op, mod, b, a, d, maj, L := 0 } }

/-- An R-form instruction whose source b is a register or a literal of the given kind (R55). -/
def rformB (kind : BitVec 5) (maj : BitVec 5) (op : BitVec 6) (mod : BitVec 4) (b : SrcB) (a d : BitVec 5) : Raw :=
  match b with
  | .reg r => rform maj op mod r a d
  | .lit v => { f0 := { op, mod, b := kind, a, d, maj, L := 1 }, lit := v }

/-- An I-form instruction. -/
def iform (maj : BitVec 5) (imm : BitVec 15) (a d : BitVec 5) : Raw :=
  rform maj (imm.extractLsb' 9 6) (imm.extractLsb' 5 4) (imm.extractLsb' 0 5) a d

/-- A W-form instruction. -/
def wform (maj : BitVec 5) (imm : BitVec 20) (d : BitVec 5) : Raw :=
  rform maj (imm.extractLsb' 14 6) (imm.extractLsb' 10 4) (imm.extractLsb' 5 5) (imm.extractLsb' 0 5) d

/-- A J-form instruction. -/
def jform (maj : BitVec 5) (imm : BitVec 25) : Raw := wform maj (imm.extractLsb' 5 20) (imm.extractLsb' 0 5)

/-- An IM- or VM-form instruction; low4 is the type, or cf in bit 0. -/
def imform (maj : BitVec 5) (off : BitVec 11) (low4 : BitVec 4) (a d : BitVec 5) : Raw :=
  rform maj (off.extractLsb' 5 6) (off.extractLsb' 1 4) (off.extractLsb' 0 1 ++ low4) a d

/-- A SYS instruction (R64). -/
def sysform (sub : BitVec 3) (n : BitVec 12) (a d : BitVec 5) : Raw :=
  rform 14 (sub ++ n.extractLsb' 9 3) (n.extractLsb' 5 4) (n.extractLsb' 0 5) a d

/-- A bit of mod from a flag. -/
def flagBit (b : Bool) : BitVec 1 := if b then 1 else 0

/-- mod of the extended form: bits 3:1 and bit 0. -/
def modOf (hi : BitVec 3) (lo : Bool) : BitVec 4 := hi ++ flagBit lo

/-- Word 1 with nothing set. -/
def f1Zero : F1 := { c := 0, e := 0, mask := 0, z := 0, chan := 0, ak := 0, bk := 0, ty := 0, p := 0, rsv := 0 }

/-- An extended instruction with L = 10. -/
def xform (maj : BitVec 5) (op : BitVec 6) (mod : BitVec 4) (b a d : BitVec 5) (f1 : F1 := f1Zero) (w2 : W32 := 0)
    : Raw :=
  { f0 := { op, mod, b, a, d, maj, L := 2 }, f1, w2 }

/-- Word 2 of a pool operand (R54). -/
def viewWord (v : View) : W32 := v.idx ++ v.count ++ v.start

/-- Word 2 of a pool operand that is no buffer record. -/
def idxWord (i : BitVec 16) : W32 := i ++ (0 : BitVec 16)

/-- The field and the kind of a vector source. -/
def VSrc.field : VSrc → BitVec 5 × BitVec 2
  | .reg r => (r, 0)
  | .queue q => (q.setWidth 5, 1)
  | .chan _ => (0, 2)
  | .pool _ => (0, 3)
  | .lit k _ => (k.setWidth 5, 0)

/-- The channel field of two sources. -/
def VSrc.chanOf : VSrc → VSrc → Chan
  | .chan c, _ => c
  | _, .chan c => c
  | _, _ => 0

/-- P and word 2 of two sources. -/
def VSrc.poolOf : VSrc → VSrc → BitVec 1 × W32
  | .pool i, _ => (1, idxWord i)
  | _, .pool i => (1, idxWord i)
  | _, _ => (0, 0)

/-- An XVEC instruction of two sources. -/
def xvec (op : BitVec 6) (mod : BitVec 4) (ty : BitVec 4) (q : Qual) (c e d : BitVec 5) (a b : VSrc) : Raw :=
  { f0 := { op, mod, b := b.field.1, a := a.field.1, d, maj := 4,
            L := (match b with
                  | .lit _ _ => 3
                  | _ => 2) },
    f1 := { c, e, mask := q.mask, z := flagBit q.z, chan := VSrc.chanOf a b, ak := a.field.2, bk := b.field.2, ty,
            p := (VSrc.poolOf a b).1, rsv := 0 },
    w2 := (VSrc.poolOf a b).2,
    lit := (match b with
            | .lit _ v => v
            | _ => 0) }

/-- An XVEC instruction whose b field is a plain register or number. -/
def xvecF (op : BitVec 6) (mod : BitVec 4) (ty : BitVec 4) (q : Qual) (c e d : BitVec 5) (a : VSrc) (b : BitVec 5)
    : Raw := xvec op mod ty q c e d a (.reg b)

/-- An XVEC source b that names an x register, as a source of the encoder. -/
def XSrc.enc : XSrc → VSrc
  | .reg r => .reg r
  | .lit k v => .lit k v

/-- An XVEC source b that names an m register, as a source of the encoder. -/
def KSrc.enc : KSrc → VSrc
  | .reg r => .reg (r.setWidth 5)
  | .lit k v => .lit k v

/-- A governing mask with Z = 0. -/
def maskOnly (m : Reg3) : Qual := { mask := m, z := false }

/-- An XSC instruction, whose source b may be a literal of the given kind. -/
def xsc (kind : BitVec 5) (op : BitVec 6) (t : Ty) (b : SrcB) (a c d : BitVec 5) : Raw :=
  match b with
  | .reg r => xform 1 op 0 r a d { f1Zero with c, ty := t.code }
  | .lit v => { f0 := { op, mod := 0, b := kind, a, d, maj := 1, L := 3 }, f1 := { f1Zero with c, ty := t.code }, lit := v }

/-- An XMEM instruction. -/
def xmem (op : BitVec 6) (t : Ty) (cf : Bool) (q : Qual) (b a d : BitVec 5) (p : BitVec 1) (w2 : W32) : Raw :=
  xform 2 op (modOf 0 cf) b a d { f1Zero with mask := q.mask, z := flagBit q.z, ty := t.code, p } w2

/-- An instruction that names a pool word in word 2 and nothing else of words 1 and 2 but e. -/
def xpool (maj : BitVec 5) (op : BitVec 6) (a d e : BitVec 5) (i : BitVec 16) : Raw :=
  xform maj op 0 0 a d { f1Zero with e, p := 1 } (idxWord i)

/-- The pieces of a well-formed instruction. An event has no words; it is given the all-zero word. -/
def encodeRaw : Instr → Raw
  | .add t d a b => rformB 0 1 0 t.code b a d
  | .sub t d a b => rformB 0 1 1 t.code b a d
  | .mul t d a b => rformB 0 1 2 t.code b a d
  | .mulh t d a b => rformB 0 1 3 t.code b a d
  | .mulhn t d a b => rformB 0 1 4 t.code b a d
  | .div t d a b => rformB 0 1 5 t.code b a d
  | .divn t d a b => rformB 0 1 6 t.code b a d
  | .rem t d a b => rformB 0 1 7 t.code b a d
  | .remn t d a b => rformB 0 1 8 t.code b a d
  | .and t d a b => rformB 0 1 9 t.code b a d
  | .or t d a b => rformB 0 1 10 t.code b a d
  | .xor t d a b => rformB 0 1 11 t.code b a d
  | .andn t d a b => rformB 0 1 12 t.code b a d
  | .shl t d a b => rformB 0 1 13 t.code b a d
  | .shr t d a b => rformB 0 1 14 t.code b a d
  | .shra t d a b => rformB 0 1 15 t.code b a d
  | .rotl t d a b => rformB 0 1 16 t.code b a d
  | .min t d a b => rformB 0 1 17 t.code b a d
  | .max t d a b => rformB 0 1 18 t.code b a d
  | .minn t d a b => rformB 0 1 19 t.code b a d
  | .maxn t d a b => rformB 0 1 20 t.code b a d
  | .slt t d a b => rformB 0 1 21 t.code b a d
  | .sltn t d a b => rformB 0 1 22 t.code b a d
  | .seq t d a b => rformB 0 1 23 t.code b a d
  | .clz t d a => rform 1 24 t.code 0 a d
  | .ctz t d a => rform 1 25 t.code 0 a d
  | .popc t d a => rform 1 26 t.code 0 a d
  | .sext t d a => rform 1 27 t.code 0 a d
  | .zext t d a => rform 1 28 t.code 0 a d
  | .bfx t d a b => rformB 0 1 29 t.code b a d
  | .bfi t d a b => rformB 0 1 30 t.code b a d
  | .sel t d c a b => xsc 0 0 t b a c d
  | .li d imm => wform 2 imm d
  | .liLit d v => { f0 := { op := 0, mod := 0, b := 0, a := 0, d, maj := 2, L := 1 }, lit := v }
  | .lih d imm => wform 3 imm d
  | .lk d idx => wform 4 (idx.setWidth 20) d
  | .addpc d imm => wform 5 imm d
  | .fli d imm => wform 7 imm d
  | .fadd t d a b => rformB 1 6 0 t.code b a d
  | .fsub t d a b => rformB 1 6 1 t.code b a d
  | .fmul t d a b => rformB 1 6 2 t.code b a d
  | .fdiv t d a b => rformB 1 6 3 t.code b a d
  | .fmin t d a b => rformB 1 6 4 t.code b a d
  | .fmax t d a b => rformB 1 6 5 t.code b a d
  | .feq t d a b => rformB 1 6 7 t.code b a d
  | .flt t d a b => rformB 1 6 8 t.code b a d
  | .fle t d a b => rformB 1 6 9 t.code b a d
  | .fsqrt t d a => rform 6 6 t.code 0 a d
  | .fclass t d a => rform 6 10 t.code 0 a d
  | .fcvt dst src d a => rform 6 11 dst.code (src.code.setWidth 5) a d
  | .fma t d a c b => xsc 1 1 t b a c d
  | .beq a b disp => rform 8 (disp.extractLsb' 4 6) (disp.extractLsb' 0 4) b a 0
  | .bne a b disp => rform 8 (disp.extractLsb' 4 6) (disp.extractLsb' 0 4) b a 1
  | .blt a b disp => rform 8 (disp.extractLsb' 4 6) (disp.extractLsb' 0 4) b a 2
  | .bge a b disp => rform 8 (disp.extractLsb' 4 6) (disp.extractLsb' 0 4) b a 3
  | .bltn a b disp => rform 8 (disp.extractLsb' 4 6) (disp.extractLsb' 0 4) b a 4
  | .bgen a b disp => rform 8 (disp.extractLsb' 4 6) (disp.extractLsb' 0 4) b a 5
  | .bz a disp => iform 9 disp a 0
  | .bnz a disp => iform 9 disp a 1
  | .bltz a disp => iform 9 disp a 2
  | .bgez a disp => iform 9 disp a 3
  | .bgtz a disp => iform 9 disp a 4
  | .blez a disp => iform 9 disp a 5
  | .j imm => jform 10 imm
  | .jal imm => jform 11 imm
  | .jalr d a imm => iform 12 imm a d
  | .loop a imm => iform 13 imm a 0
  | .trap n => sysform 0 n 0 0
  | .eret => sysform 1 0 0 0
  | .mfs d reg => sysform 2 reg 0 d
  | .mfsFstat d => sysform 2 0x009 0 d
  | .mts reg a => sysform 3 reg a 0
  | .mtsFcr a => sysform 3 0x008 a 0
  | .mtsFstat a => sysform 3 0x009 a 0
  | .mtsSqcap a => sysform 3 0x00A a 0
  | .mtsTvec a => sysform 3 0x014 a 0
  | .mtsHmask a => sysform 3 0x018 a 0
  | .mtsHacc a => sysform 3 0x019 a 0
  | .mtsSlotw a => sysform 3 0x030 a 0
  | .mtsL2mask a => sysform 3 0x0F0 a 0
  | .bkpt n => sysform 4 n 0 0
  | .synci => sysform 5 0 0 0
  | .ld t d a off => imform 15 off t.code a d
  | .st t d a off => imform 16 off t.code a d
  | .ldq q a => rform 17 0 0 0 a (q.setWidth 5)
  | .stq a q => rform 17 1 0 (q.setWidth 5) a 0
  | .sptest d a => rform 17 2 0 0 a d
  | .spcast w d a => rform 17 3 w.code 0 a d
  | .spmake w d a => rform 17 4 w.code 0 a d
  | .fence kind scope => rform 17 5 scope.code 0 0 (kind.setWidth 5)
  | .pref l2 a => rform 17 6 ((flagBit l2).setWidth 4) 0 a 0
  | .amoAdd t d a b => rformB 0 18 0 t.code b a d
  | .amoAnd t d a b => rformB 0 18 1 t.code b a d
  | .amoOr t d a b => rformB 0 18 2 t.code b a d
  | .amoXor t d a b => rformB 0 18 3 t.code b a d
  | .amoMin t d a b => rformB 0 18 4 t.code b a d
  | .amoMax t d a b => rformB 0 18 5 t.code b a d
  | .amoMinn t d a b => rformB 0 18 6 t.code b a d
  | .amoMaxn t d a b => rformB 0 18 7 t.code b a d
  | .amoSwap t d a b => rformB 0 18 8 t.code b a d
  | .amoFadd t d a b => rformB 0 18 9 t.code b a d
  | .amopAdd t a b => rformB 0 18 16 t.code b a 0
  | .amopAnd t a b => rformB 0 18 17 t.code b a 0
  | .amopOr t a b => rformB 0 18 18 t.code b a 0
  | .amopXor t a b => rformB 0 18 19 t.code b a 0
  | .amopMin t a b => rformB 0 18 20 t.code b a 0
  | .amopMax t a b => rformB 0 18 21 t.code b a 0
  | .amopMinn t a b => rformB 0 18 22 t.code b a 0
  | .amopMaxn t a b => rformB 0 18 23 t.code b a 0
  | .amopSwap t a b => rformB 0 18 24 t.code b a 0
  | .amopFadd t a b => rformB 0 18 25 t.code b a 0
  | .cas t d a b c => xsc 0 2 t b a c d
  | .vld cf d a off => imform 19 off ((flagBit cf).setWidth 4) a d
  | .vst cf d a off => imform 20 off ((flagBit cf).setWidth 4) a d
  | .vldX t cf q d a imm => xmem 0 t cf q 0 a d 0 imm
  | .vstX t cf q d a imm => xmem 1 t cf q 0 a d 0 imm
  | .vlds t cf q d a b => xmem 2 t cf q b a d 0 0
  | .vsts t cf q d a b => xmem 3 t cf q b a d 0 0
  | .vgath t cf q d a b => xmem 4 t cf q b a d 0 0
  | .vscat t cf q d a b => xmem 5 t cf q b a d 0 0
  | .vldb t cf q d a view => xmem 6 t cf q 0 a d 1 (viewWord view)
  | .vstb t cf q d a view => xmem 7 t cf q 0 a d 1 (viewWord view)
  | .nack a => rform 21 0 0 0 a 0
  | .barinit a b => rform 21 1 0 b a 0
  | .bararv d a => rform 21 2 0 0 a d
  | .barexp a b => rform 21 3 0 b a 0
  | .barwait a b => rform 21 4 0 b a 0
  | .bartry d a b => rform 21 5 0 b a d
  | .copy rlx ch a b c d => xform 3 0 (modOf 0 rlx) b a d { f1Zero with c, chan := ch }
  | .copyb rlx ch a view d => xform 3 1 (modOf 0 rlx) 0 a d { f1Zero with chan := ch, p := 1 } (viewWord view)
  | .notice rlx ch a b c d => xform 3 2 (modOf 0 rlx) b a d { f1Zero with c, chan := ch }
  | .tidwait ch a => xform 3 3 0 0 a 0 { f1Zero with chan := ch }
  | .tidget d ch => xform 3 4 0 0 0 d { f1Zero with chan := ch }
  | .publish idx => xpool 3 5 0 0 0 idx
  | .vadd t d a b => rform 22 0 t.code b a d
  | .vsub t d a b => rform 22 1 t.code b a d
  | .vmul t d a b => rform 22 2 t.code b a d
  | .vmulh t d a b => rform 22 3 t.code b a d
  | .vmin t d a b => rform 22 4 t.code b a d
  | .vmax t d a b => rform 22 5 t.code b a d
  | .vand t d a b => rform 22 8 t.code b a d
  | .vor t d a b => rform 22 9 t.code b a d
  | .vxor t d a b => rform 22 10 t.code b a d
  | .vshl t d a b => rform 22 11 t.code b a d
  | .vshr t d a b => rform 22 12 t.code b a d
  | .vshra t d a b => rform 22 13 t.code b a d
  | .vins t d a b => rform 22 18 t.code b a d
  | .vext t d a b => rform 22 19 t.code b a d
  | .vperm t d a b => rform 22 20 t.code b a d
  | .vzip t d a b => rform 22 21 t.code b a d
  | .vdot t d a b => rform 22 25 t.code b a d
  | .vlut t d a b => rform 22 29 t.code b a d
  | .vtopk t d a b => rform 22 32 t.code b a d
  | .vabs t d a => rform 22 6 t.code 0 a d
  | .vneg t d a => rform 22 7 t.code 0 a d
  | .vsplat t d a => rform 22 17 t.code 0 a d
  | .vredadd t d a => rform 22 22 t.code 0 a d
  | .vredmax t d a => rform 22 23 t.code 0 a d
  | .vredmin t d a => rform 22 24 t.code 0 a d
  | .vnarrow t d a => rform 22 27 t.code 0 a d
  | .vwiden t d a => rform 22 28 t.code 0 a d
  | .vcvt dst src d a => rform 22 26 dst.code (src.code.setWidth 5) a d
  | .vcomp t d a b => rform 22 30 t.code (b.setWidth 5) a d
  | .vexpnd t d a b => rform 22 31 t.code (b.setWidth 5) a d
  | .mand d a b => rform 22 33 0 (b.setWidth 5) (a.setWidth 5) (d.setWidth 5)
  | .mor d a b => rform 22 34 0 (b.setWidth 5) (a.setWidth 5) (d.setWidth 5)
  | .mnot d a => rform 22 35 0 0 (a.setWidth 5) (d.setWidth 5)
  | .mpopc d a => rform 22 36 0 0 (a.setWidth 5) d
  | .vaddX t sat q d a b => xvec 0 (modOf 0 sat) t.code q 0 0 d a b
  | .vsubX t sat q d a b => xvec 1 (modOf 0 sat) t.code q 0 0 d a b
  | .vmulX t sat q d a b => xvec 2 (modOf 0 sat) t.code q 0 0 d a b
  | .vshlX t sat q d a b => xvec 11 (modOf 0 sat) t.code q 0 0 d a b
  | .vmulhX t q d a b => xvec 3 0 t.code q 0 0 d a b
  | .vminX t q d a b => xvec 4 0 t.code q 0 0 d a b
  | .vmaxX t q d a b => xvec 5 0 t.code q 0 0 d a b
  | .vandX t q d a b => xvec 8 0 t.code q 0 0 d a b
  | .vorX t q d a b => xvec 9 0 t.code q 0 0 d a b
  | .vxorX t q d a b => xvec 10 0 t.code q 0 0 d a b
  | .vshrX t q d a b => xvec 12 0 t.code q 0 0 d a b
  | .vshraX t q d a b => xvec 13 0 t.code q 0 0 d a b
  | .vpermX t q d a b => xvec 20 0 t.code q 0 0 d a b
  | .vdotX t q d a b => xvec 25 0 t.code q 0 0 d a b
  | .vabsX t q d a => xvecF 6 0 t.code q 0 0 d a 0
  | .vnegX t q d a => xvecF 7 0 t.code q 0 0 d a 0
  | .vfma t q d a c b => xvec 14 0 t.code q c 0 d a b
  | .vcmp cc t q d a b => xvec 15 (modOf cc.code false) t.code q 0 0 (d.setWidth 5) a b
  | .vsel t mask d a b => xvec 16 0 t.code (maskOnly mask) 0 0 d a b
  | .vsplatX t q d a => xvecF 17 0 t.code q 0 0 d (.reg a) 0
  | .vinsX t q d a b => xvec 18 0 t.code q 0 0 d (.reg a) b.enc
  | .vextX t mask d a b => xvec 19 0 t.code (maskOnly mask) 0 0 d a b.enc
  | .vzipX h t q d a b => xvec 21 (modOf (h.setWidth 3) false) t.code q 0 0 d a b
  | .vredaddX t mask d a => xvecF 22 0 t.code (maskOnly mask) 0 0 d a 0
  | .vredmaxX t mask d a => xvecF 23 0 t.code (maskOnly mask) 0 0 d a 0
  | .vredminX t mask d a => xvecF 24 0 t.code (maskOnly mask) 0 0 d a 0
  | .vcvtX dst src q d a => xvecF 26 0 dst.code q 0 0 d a (src.code.setWidth 5)
  | .vnarrowX t sat hi q d a => xvecF 27 (modOf ((flagBit hi).setWidth 3) sat) t.code q 0 0 d a 0
  | .vwidenX t hi q d a => xvecF 28 (modOf ((flagBit hi).setWidth 3) false) t.code q 0 0 d a 0
  | .vlutX t g q d a b => xvec 29 (modOf (g.setWidth 3) false) t.code q 0 0 d a b
  | .vcompX t mask d a b e => xvec 30 0 t.code (maskOnly mask) 0 e d a b.enc
  | .vexpndX t mask d a b e => xvec 31 0 t.code (maskOnly mask) 0 e d a b.enc
  | .vtopkX t list mask d a b e => xvec 32 (modOf ((flagBit list).setWidth 3) false) t.code (maskOnly mask) 0 e d a b.enc
  | .mandX q d a b => xvec 33 0 0 q 0 0 (d.setWidth 5) (.reg (a.setWidth 5)) b.enc
  | .morX q d a b => xvec 34 0 0 q 0 0 (d.setWidth 5) (.reg (a.setWidth 5)) b.enc
  | .mnotX q d a => xvecF 35 0 0 q 0 0 (d.setWidth 5) (.reg (a.setWidth 5)) 0
  | .mpopcX mask d a => xvecF 36 0 0 (maskOnly mask) 0 0 d (.reg (a.setWidth 5)) 0
  | .vaccs t q d ch => xvecF 37 0 t.code q 0 0 d (.chan ch) 0
  | .acq d n => xform 5 0 0 0 0 d f1Zero n
  | .rel a n => xform 5 1 0 0 a 0 f1Zero n
  | .mshape a s => xform 5 2 0 0 a 0 f1Zero s
  | .mzero a n => xform 5 3 0 0 a 0 f1Zero n
  | .mcbl view => xform 5 4 0 0 0 0 { f1Zero with p := 1 } (viewWord view)
  | .mwld fmt rlx view => xform 5 5 (modOf 0 rlx) 0 0 0 { f1Zero with ty := fmt.code, p := 1 } (viewWord view)
  | .mcfg f => xform 5 6 0 0 0 0 f1Zero f
  | .mmul rlx a src => (match src with
    | .mem b c m => xform 5 7 (modOf 0 rlx) b a 0 { f1Zero with c } m
    | .queue q m => xform 5 7 (modOf 0 rlx) (q.setWidth 5) a 0 { f1Zero with bk := 1 } m
    | .buf view => xform 5 7 (modOf 0 rlx) 0 a 0 { f1Zero with bk := 3, p := 1 } (viewWord view))
  | .mmuls a ch m => xform 5 8 0 0 a 0 { f1Zero with chan := ch, bk := 2 } m
  | .mdrain t rlx a view d c => xform 5 9 (modOf 0 rlx) 0 a d { f1Zero with c, ty := t.code, p := 1 } (viewWord view)
  | .mrd d a g => xform 5 10 0 0 a d f1Zero g
  | .mwr a b g => xform 5 11 0 b a 0 f1Zero g
  | .msplit t => xform 5 12 0 0 0 0 f1Zero t
  | .fork a b => rform 23 0 0 b a 0
  | .rdv => rform 23 1 0 0 0 0
  | .endHelper => rform 23 2 0 0 0 0
  | .msgdone => rform 23 7 0 0 0 0
  | .yieldSlot => rform 23 8 0 0 0 0
  | .exit => rform 23 9 0 0 0 0
  | .waitdep => rform 23 10 0 0 0 0
  | .trigger => rform 23 11 0 0 0 0
  | .qput x q b => rform 23 3 ((flagBit x).setWidth 4) b (q.setWidth 5) 0
  | .qget x d q => rform 23 4 ((flagBit x).setWidth 4) 0 (q.setWidth 5) d
  | .qtry x d q b => rform 23 5 ((flagBit x).setWidth 4) b (q.setWidth 5) d
  | .msgrd x d a => rform 23 6 ((flagBit x).setWidth 4) 0 a d
  | .migrate a => rform 23 12 0 0 a 0
  | .send rlx ch a b => xform 6 0 (modOf 0 rlx) b.field.1 a 0 { f1Zero with chan := ch, bk := b.field.2, p := (VSrc.poolOf b (.reg 0)).1 }
      (VSrc.poolOf b (.reg 0)).2
  | .sendb rlx ch a b c => xform 6 1 (modOf 0 rlx) b a 0 { f1Zero with c, chan := ch }
  | .hset ch a f => xform 6 2 0 0 a 0 { f1Zero with chan := ch } f
  | .join d idx => xpool 6 3 0 d 0 idx
  | .leave idx => xpool 6 4 0 0 0 idx
  | .gbar idx => xpool 6 5 0 0 0 idx
  | .put d idx a => xpool 7 0 a d 0 idx
  | .get d e idx => xpool 7 1 0 d e idx
  | .putnb idx a => xpool 7 2 a 0 0 idx
  | .getnb idx => xpool 7 3 0 0 0 idx
  | .pwait d e idx => xpool 7 4 0 d e idx
  | .pwdraw d idx => xpool 7 5 0 d 0 idx
  | .emit idx a => xpool 8 0 a 0 0 idx
  | .sigtst d idx => xpool 8 1 0 d 0 idx
  | .bsig abs idx disp => xform 8 2 0 0 0 ((flagBit abs).setWidth 5) { f1Zero with p := 1 } (idx ++ disp)
  | .retract idx => xpool 8 3 0 0 0 idx
  | .pause => xform 8 4 0 0 0 0
  | .zrd d a => xform 8 5 0 0 (a.setWidth 5) d
  | .zwr d a => xform 8 6 0 0 a (d.setWidth 5)
  | .sigpre d idx => xpool 8 7 0 d 0 idx
  | .gwopen d a b => xform 9 0 0 b a d
  | .gwdetach => xform 9 1 0 0 0 0
  | .gwstat d => xform 9 2 0 0 0 d
  | .tqpush a => xform 9 3 0 0 a 0
  | .tqtake d e => xform 9 4 0 0 0 d { f1Zero with e }
  | .tqsteal d e a => xform 9 5 0 0 a d { f1Zero with e }
  | .tqdone a => xform 9 6 0 0 a 0
  | .stragrd d a f => xform 9 7 0 0 a d f1Zero f
  | _ => xform 0 0 0 0 0 0

/-- The encoder: the words of a well-formed instruction. -/
def encode (i : Instr) : List W32 := (encodeRaw i).words

end Sys2Proof
end

