-- ==== Sys2Proof/Machine/Runtime.lean ====
section
/-! DEFINITION. The Hufauk runtime's trap code, as one step at the runtime vector (R292, R357-R359). -/

namespace Sys2Proof.Machine

/-- The executing context is at the runtime's trap code. -/
def State.inRuntime (s : State) : Bool := decide (s.me.level = .k) && decide (s.me.pc = Config.runtimeTvec)

/-- The trap's cause and its source: the strand itself, or a helper (R93). -/
def State.causeCode (s : State) : Nat := wbits s.me.ecause 7 0
def State.causeSource (s : State) : Nat := wbits s.me.ecause 11 10

/-- The runtime returns to a place at the level of the trap. -/
def State.resumeAt (s : State) (pc : W64) : State := (s.modMe (fun c => { c with epc := pc })).leaveTrap

/-- The default action (R357, R358). -/
def State.defaultAction (s : State) : State :=
  s.kill s.me.id.comp { tid := s.me.id.tid, ecause := s.me.ecause, epc := s.me.epc, eaddr := s.me.eaddr, einfo := s.me.einfo, mchk := false }

/-- An address in the launch's `.text`. -/
def Launch.inText (l : Launch) (a : W64) : Bool := l.text.any (fun t => decide (t.1.toNat ≤ a.toNat) && decide (a.toNat < t.1.toNat + t.2))

/-- x12 is the address of an instruction start in the launch's `.text` (R292); what cannot be read is none. -/
def M.isStart (a : W64) : M Bool := do
  let s ← get
  if a.toNat % 4 == 0 && codeAddr a && s.myLaunch.inText a then
    match M.bitmapBit a s with
    | .ok b t => do
      set t
      pure b
    | .error (.block w) t => do
      set t
      throw (.block w)
    | .error (.trap _) _ => pure false
  else pure false

/-- `TRAP #1` (R292): a routine registered for the virtual core, or removed. -/
def M.register : M Unit := do
  let a := (← get).x 12
  let start ← M.isStart a
  let ok := decide (a = 0) || start
  modify (fun s =>
    let s := if !ok then s else s.modLaunch s.me.id.launch (fun l =>
      { l with routines := if a = 0 then AMap.drop l.routines s.me.place.vc else AMap.put l.routines s.me.place.vc a })
    ((s.setX 10 (if ok then 0 else 1)).modMe Strand.dropPend).resumeAt (s.me.epc + 4))

/-- A user routine: level S, x3 holds the trap's EPC (R292). -/
def State.callRoutine (s : State) (r : W64) : State :=
  (s.setX 3 s.me.epc).modMe (fun c => { c with level := .s, pc := r, hheld := false, entering := false, wait := none })

/-! ## RAPERM and AMOFMT (R359) -/

/-- The lowest virtual core of the launch on a package. -/
def Launch.lowestOn (l : Launch) (pkg : Nat) : Option Nat :=
  (List.range l.vcores).find? (fun v => (l.coreOf v).any (fun g => g / 2048 == pkg))

/-- RAPERM: the strand migrates to the aperture's target package and executes the atomic again there. -/
def M.moveForAtomic : M Unit := do
  let s ← get
  let e := nth (s.vfun s.me.place.pkg s.myLaunch.vf).apers (s.me.einfo.toNat - 1) 0
  let kill : M Unit := modify (·.defaultAction)
  match (s.myLaunch.lowestOn (aperTarget e)).bind (fun v => (s.myLaunch.coreOf v).map (fun g => (v, g))) with
  | none => kill
  | some (v, g) =>
    if aperKind e = 2 || s.me.id.isHandler || s.pinned then kill
    else if v = s.me.place.vc then modify (·.leaveTrap)
    else do
      M.readyToMove
      M.outgoing
      modify (fun s => ((s.leaveTrap).bumpAll).depart v g)

/-- The operation, type, register of the old value, address and operand of an AMO or AMOP. -/
def amoParts : Instr → Option (Nat × Ty × Option Reg × Reg × SrcB)
  | .amoAdd t d a b => some (0, t, some d, a, b)
  | .amoAnd t d a b => some (1, t, some d, a, b)
  | .amoOr t d a b => some (2, t, some d, a, b)
  | .amoXor t d a b => some (3, t, some d, a, b)
  | .amoMin t d a b => some (4, t, some d, a, b)
  | .amoMax t d a b => some (5, t, some d, a, b)
  | .amoMinn t d a b => some (6, t, some d, a, b)
  | .amoMaxn t d a b => some (7, t, some d, a, b)
  | .amoSwap t d a b => some (8, t, some d, a, b)
  | .amoFadd t d a b => some (9, t, some d, a, b)
  | .amopAdd t a b => some (0, t, none, a, b)
  | .amopAnd t a b => some (1, t, none, a, b)
  | .amopOr t a b => some (2, t, none, a, b)
  | .amopXor t a b => some (3, t, none, a, b)
  | .amopMin t a b => some (4, t, none, a, b)
  | .amopMax t a b => some (5, t, none, a, b)
  | .amopMinn t a b => some (6, t, none, a, b)
  | .amopMaxn t a b => some (7, t, none, a, b)
  | .amopSwap t a b => some (8, t, none, a, b)
  | .amopFadd t a b => some (9, t, none, a, b)
  | _ => none

/-- The instruction at the trap's EPC; behind an aperture its fetch waits for the peer (R47, R248). -/
noncomputable def M.trapped : M (Option Instr) := fun s =>
  match M.atPc s.me.epc M.fetch s with
  | .ok (.words ws) t => .ok (decode ws).toOption t
  | .ok _ t => .ok none t
  | .error (.block w) t => .error (.block w) t
  | .error (.trap _) _ => .ok none s

/-- The runtime's CAS loop on a target, from request `i` on, with the value expected there: the old value when one attempt
succeeds. An attempt that fails is a load, whose value the next one expects. -/
def M.casLoop (x : Target) (t : Ty) (f : Nat → Nat) : Nat → Nat → Nat → M Nat
  | 0, _, _ => M.block .reply
  | fuel + 1, i, old => do
    let ws ← M.request i .reply (askFor x (.cas t (BitVec.ofNat 64 old) (BitVec.ofNat 64 (f old))) false)
    let m := (nth ws 0 0).toNat
    if m = old then pure m else M.casLoop x t f fuel (i + 1) m

/-- AMOFMT: where the target has CAS of the operand's size, a CAS loop on the target performs the operation, an AMO's old value
is written, and the strand goes on past the instruction (R359). -/
noncomputable def M.emulate : M Unit := do
  let i ← M.trapped
  let s ← get
  let kill : M Unit := modify (·.defaultAction)
  match i.bind amoParts with
  | none => kill
  | some (op, t, d, a, b) => do
    match M.kept (M.resolve (s.x a) t.bytes .both) s with
    | .ok (.far f) u => do
      set u
      if !(aperOps f.entry).testBit 10 || !(aperFmts f.entry).testBit (fmtBit t) then kill
      else do
        M.outgoing
        let ws ← M.request 0 .reply (askFor (.far f) (.load t.bytes) false)
        let m ← M.casLoop (.far f) t (fun m => amoFn (fctxOf s.me.fcr) op t m (low t (bval s b))) (u.myPend.got.length + 1) 1 (nth ws 0 0).toNat
        match d with
        | some r => modify (·.setX r (atomicX t m))
        | none => pure ()
        modify (fun u => (u.modMe Strand.dropPend).resumeAt (u.me.epc + BitVec.ofNat 64 (blen 4 b)))
    | .error (.block w) u => do
      set u
      throw (.block w)
    | _ => kill

/-- The step of the runtime's trap code. (DEDUCED, log entry 49) (DESIGN CHOICE, log entry 63) -/
noncomputable def State.runtime (s : State) : Out :=
  let k := s.causeCode
  let atK := s.me.ecause.getLsbD 8
  let own := s.causeSource == 0
  if !atK && own && k == Cause.trap && decide (s.me.einfo = 1) then M.run M.register s
  else
    match (if atK || k == Cause.bkpt || k == Cause.trap then none else AMap.get s.myLaunch.routines s.me.place.vc) with
    | some r => .next (s.callRoutine r)
    | none =>
      if own && k == Cause.raperm then M.run M.moveForAtomic s
      else if own && k == Cause.amofmt then M.run M.emulate s
      else .next s.defaultAction

end Sys2Proof.Machine
end

