-- ==== Sys2Proof/Machine/Turn.lean ====
section
/-! DEFINITION. The turn of a context: what it fetches, decodes and executes at its boundary (R47, R58, R76-R79, R97). -/

namespace Sys2Proof.Machine

/-- The instructions a loader or storer strand executes (R76). -/
def helperMay : Instr → Bool
  | .add _ _ _ _ | .sub _ _ _ _ | .mul _ _ _ _ | .mulh _ _ _ _ | .mulhn _ _ _ _ | .div _ _ _ _ | .divn _ _ _ _
  | .rem _ _ _ _ | .remn _ _ _ _ | .and _ _ _ _ | .or _ _ _ _ | .xor _ _ _ _ | .andn _ _ _ _ | .shl _ _ _ _
  | .shr _ _ _ _ | .shra _ _ _ _ | .rotl _ _ _ _ | .min _ _ _ _ | .max _ _ _ _ | .minn _ _ _ _ | .maxn _ _ _ _
  | .slt _ _ _ _ | .sltn _ _ _ _ | .seq _ _ _ _ | .clz _ _ _ | .ctz _ _ _ | .popc _ _ _ | .sext _ _ _
  | .zext _ _ _ | .bfx _ _ _ _ | .bfi _ _ _ _ | .sel _ _ _ _ _ | .li _ _ | .liLit _ _ | .lih _ _ | .lk _ _
  | .addpc _ _ | .fli _ _ | .beq _ _ _ | .bne _ _ _ | .blt _ _ _ | .bge _ _ _ | .bltn _ _ _ | .bgen _ _ _
  | .bz _ _ | .bnz _ _ | .bltz _ _ | .bgez _ _ | .bgtz _ _ | .blez _ _ | .j _ | .jal _ | .jalr _ _ _ | .loop _ _
  | .trap _ | .mfs _ _ | .mfsFstat _ | .mts _ _ | .mtsFcr _ | .mtsFstat _ | .mtsSqcap _ | .mtsTvec _ | .mtsHmask _
  | .mtsHacc _ | .mtsSlotw _ | .mtsL2mask _ | .bkpt _ | .synci | .ld _ _ _ _ | .st _ _ _ _ | .ldq _ _ | .stq _ _
  | .sptest _ _ | .spcast _ _ _ | .spmake _ _ _ | .fence _ _ | .pref _ _ | .amoAdd _ _ _ _ | .amoAnd _ _ _ _
  | .amoOr _ _ _ _ | .amoXor _ _ _ _ | .amoMin _ _ _ _ | .amoMax _ _ _ _ | .amoMinn _ _ _ _ | .amoMaxn _ _ _ _
  | .amoSwap _ _ _ _ | .amoFadd _ _ _ _ | .amopAdd _ _ _ | .amopAnd _ _ _ | .amopOr _ _ _ | .amopXor _ _ _
  | .amopMin _ _ _ | .amopMax _ _ _ | .amopMinn _ _ _ | .amopMaxn _ _ _ | .amopSwap _ _ _ | .amopFadd _ _ _
  | .cas _ _ _ _ _ | .nack _ | .barinit _ _ | .bararv _ _ | .barexp _ _ | .barwait _ _ | .bartry _ _ _
  | .copy _ _ _ _ _ _ | .copyb _ _ _ _ _ | .notice _ _ _ _ _ _ | .tidwait _ _ | .tidget _ _ | .endHelper => true
  | .qput x _ _ | .qget x _ _ | .qtry x _ _ _ => x
  | _ => false

/-- The instruction at the executing context's pc: fetched, decoded and executed; what fetch or decoding raises has its
own meaning (R47, R58, R76, R77). -/
noncomputable def State.issue (s : State) : Out :=
  match M.fetch s with
  | .error (.block w) t => .next (t.block w)
  | .error (.trap t) _ => exec (.fetchFailure t.code t.eaddr t.einfo) s
  | .ok (.unmarked w0) t => exec (.illop 0 w0 true) t
  | .ok (.words ws) t =>
    let w0 := ws.headD 0
    match decode ws with
    | .error e => exec (.illop e.pos w0 false) t
    | .ok i =>
      if t.me.id.unit ≠ .compute && !helperMay i then exec (.illop 0 w0 false) t
      else exec i (t.modMe (fun c => { c with entering := false }))

/-- The turn of the executing context: a step of the runtime's trap code (R292), a trap that is due (R97, R319), or its
instruction. A blocked instruction executes again from its start (R5). -/
noncomputable def State.act (s : State) : Out :=
  if s.inRuntime then s.runtime
  else if s.due then .next s.boundary
  else (s.modMe Strand.unwait).issue

/-- What a step did to a lock-step pair that no instruction of its own did is an input: the checkpoint moves past it (R366,
DEDUCED, log entry 15). `own` is the core whose instruction the step executed. -/
def State.takeInputs (s t : State) (own : Option Nat) : State :=
  t.locks.foldl (fun (u : State) (l : Nat × LockStep) =>
    if own = some l.1 ∨ s.snapshot l.1 = t.snapshot l.1 then u else u.passInputs l.1) t

/-- An outcome with the inputs it brought to lock-step pairs. -/
def withInputs (s : State) (own : Option Nat) : Out → Out
  | .next t => if t.locks.isEmpty then .next t else .next (s.takeInputs t own)
  | o => o

/-- The core whose own instruction the turn executes, when what it changes is undone by a rollback. -/
def State.ownCore (s : State) (o : Out) : Option Nat :=
  match o with
  | .next t => if s.inRuntime || s.due || decide (t.launches ≠ s.launches) then none else some s.me.place.gcore
  | _ => none

/-- The turn of the executing context, with its inputs to lock-step pairs. -/
noncomputable def State.turn (s : State) : Out :=
  let o := s.act
  withInputs s (s.ownCore o) o

/-- The events of other agents and of the outside world; an instruction, and what its own fetch raises, is none. -/
def isEvent : Instr → Bool
  | .blockConditionMet _ | .helperTrapDelivery _ | .slotwTableBoundary _ | .messageAdmit _ _ | .pressureNotice _
  | .handlerSelect _ | .noticeArrival _ | .noticeRetry _ | .nackArrival _ | .streamerSegment _ | .sectorWrite _
  | .segmentComplete _ | .completionDecrement _ | .publishSwap _ | .matrixOpStart _ _ | .matrixRowEntry _ _
  | .matrixStallYield _ _ | .matrixOpComplete _ _ | .bankClearDone _ _ | .tileFetchRead _ _ | .pageWalk _ _ _
  | .peerAccessRequest _ | .keepWaitingSend _ | .keepWaitingArrival _ | .faultQueueRetry _ | .remoteTimeout _
  | .parkRefusal _ | .remoteCancel _ | .remoteReply _ | .apertureProbe _ _ _ _ _ _ _ | .amopNotsup _ | .timestampRebase _
  | .scrubPkg _ | .uncorrectableError _ _ | .gbarArrival _ | .gbarRelease _ | .windowOpen _ | .memberDepart _
  | .stealDecision _ | .stealReply _ | .tqdoneArrival _ | .stragrdReply _ | .migrateArrival _ | .offerArrival _
  | .withdrawalArrival _ | .connectorEvaluation _ _ | .clockedEvaluation _ _ | .portResultArrival _ | .emitReport _
  | .retractReport _ | .pauseReport _ | .leaveReport _ | .blockReport _ | .unblockReport _ | .resolutionArrival _
  | .causalityCycle _ | .causeArrival _ | .instantEnd _ | .resumptionArrival _ | .launchSelect _ | .strandPlace _ _
  | .graphNodeTest _ _ | .launchComplete _ | .eventRetransmit _ | .eventAck _ | .eviction _ | .restore _
  | .quarantine _ _ | .rollback _ | .egressRelease _ | .checkpointAdvance _ | .linkReplay _ | .creditOnlyFlit _
  | .syncFlit _ | .linkRetrain _ | .torusFlitArrival _ | .slotTableSwitch _ | .streamIngress _ _ | .reduceMsg _ _
  | .convert _ _ | .compress _ _ | .inflate _ _ | .transcode _ _ | .tokenise _ _ | .filterMsg _ _ | .splitMsg _ _
  | .seqjoin _ _ | .replicate _ _ | .checksum _ _ | .repack _ _ | .sinkCommit _ _ | .powerOn _ | .fwload _ | .imageLoad _
  | .submit _ | .attest _ | .partrpt _ | .resetvf _ | .qos _ | .slotCmd _ | .aperWrite _ | .ptbase _ | .invalidOp _
  | .thermalThrottle _ _ | .thermalShutdown _ | .malformedDatagram _ | .rdmaWrite _ _ _ | .rdmaRead _ _ _
  | .streamGraphLoad _ _ | .apertureInvalidate _ => true
  | _ => false

/-- A scheduled event happens. -/
noncomputable def State.happen (s : State) (i : Instr) : Out := if isEvent i then withInputs s none (exec i s) else .next s

/-- A scheduled turn: a context that may run has it. -/
noncomputable def State.turnOf (s : State) (i : Sid) : Out :=
  match s.strand? i with
  | some c => if c.runnable then (s.focus i).turn else .next s
  | none => .next s

end Sys2Proof.Machine
end

