-- ==== Sys2Proof/Machine/Step.lean ====
section
/-! DEFINITION. One step of the machine, and the placing of an instruction where the next step fetches it. -/

namespace Sys2Proof.Machine

/-- A step in the default order: an event and a context's turn by turns, each where the other has nothing to do; else a
tick passes (DESIGN CHOICE, log entry 1). -/
noncomputable def State.byDefault (s : State) : Out :=
  if s.tick % 2 = 0 then
    match s.anyEvent with
    | some t => withInputs s none (.next t)
    | none => match s.nextTurn with
      | some t => t.turn
      | none => .next s
  else
    match s.nextTurn with
    | some t => t.turn
    | none => match s.anyEvent with
      | some t => withInputs s none (.next t)
      | none => .next s

/-- A scheduled move of the machine's own, by its place among them. -/
def State.moveOn (s : State) (k : Nat) : Out :=
  match s.inward[k]? with
  | some e => withInputs s none (e s)
  | none => .next s

/-- One step: what the schedule names, else the default order. The machine stops when every package has shut down and
nothing is scheduled (R399). -/
noncomputable def step (s : State) : Host.Outcome State Fault Refusal :=
  let s := { s with tick := s.tick + 1 }
  match s.sched with
  | .event i :: r => { s with sched := r }.happen i
  | .strand i :: r => { s with sched := r }.turnOf i
  | .move k :: r => { s with sched := r }.moveOn k
  | [] => if s.pkgs.any (fun p => p.2.running) then s.byDefault else .fault .shutDown

/-! ## Placing an instruction (DESIGN CHOICE, log entry 19) -/

/-- Where the placed instruction stands: its address, and physical addresses of the level-1 table, a level-2 table, and the
page that maps the code and its boundary bitmap. -/
def slotPc : W64 := 0x1_0000
def slotL1 : Nat := 0x100_0000
def slotL2 : Nat := 0x104_0000
def slotPage : Nat := 0x200_0000

/-- The bytes that the placed instruction needs, as they lie in DRAM: table entries (R240, R241), the boundary bit (R56), and
the instruction's words, the first at the lowest address (R46). -/
def slotBytes (nbits w : Nat) : List (Nat × List Byte) :=
  [(slotL1, leBytes 8 (slotL2 + 1)), (slotL1 + 2 ^ 17, leBytes 8 (slotL2 + 1)),
   (slotL2, leBytes 8 (slotPage / 65536 * 2 ^ 28 + 0x1B)),
   (slotPage + 0x800, [1]), (slotPage + 0x1_0000, leBytes 20 (w % 2 ^ nbits))]

/-- The context that fetches the placed instruction: a compute strand of a launch of its own, in slot 0 of core 0, that has
seen every code write. -/
def State.slotStrand (s : State) : Strand :=
  { Strand.fresh { launch := s.next, seat := .placed 0, unit := .compute } { pkg := Config.packageId, core := 0, slot := 0, vc := 0 } with
    pc := slotPc, live := true, synced := s.codeLog.length }

/-- The launch of that context. -/
def slotLaunch : Launch :=
  { Launch.none with words := (Vector.replicate 8 0).set 1 0x1_0000_0001, pkgs := [Config.packageId], home := Config.packageId, state := .bound,
                     bind := [Config.packageId * 128], started := [0] }

/-- The state with an instruction where the next step fetches it: as the table numbers its bits, words of zeros after it. -/
def State.withFetchWord (s : State) (nbits w : Nat) : State :=
  let dram (x : Nat × List Byte) : Nat × List Byte := (dramKey Config.packageId x.1, x.2)
  let pieces := (slotBytes nbits w).map dram
  { s with me := s.slotStrand, rest := if s.me.live then s.me :: s.rest else s.rest, sched := .strand s.slotStrand.id :: s.sched, next := s.next + 1,
           mem := pieces.foldl (fun m x => Memory.putN m x.1 x.2) s.mem,
           poison := s.poison.filter (fun p => !pieces.any (fun x => decide (x.1 / 32 ≤ p) && decide (p ≤ (x.1 + x.2.length) / 32))),
           tlb := s.tlb.filter (fun e => e.vf != 0), launches := AMap.put s.launches s.next slotLaunch,
           vfs := AMap.put s.vfs (Config.packageId * 256) { s.vfun Config.packageId 0 with l1 := slotL1 } }

end Sys2Proof.Machine
end

