-- ==== Sys2Proof/Safety.lean ====
section
/-! DEFINITION. What counts as a safe state and a safe run, and the terms in which statements say what an instruction
does: that it completes, what it writes, and what it leaves as it was. -/

namespace Sys2Proof.Safety

open Sys2Proof.Machine

/-- Memory is in its canonical form. -/
def MemoryOk (s : State) : Prop := Memory.wf s.mem = true

/-- A step that goes on. -/
def Goes (s t : State) : Prop := step s = .next t

/-- A state that steps lead to. -/
inductive Reaches : State → State → Prop
  | here (s : State) : Reaches s s
  | more (s t u : State) : Reaches s t → Goes t u → Reaches s u

/-- A step that the model refuses. -/
def Refused (s : State) : Prop := ∃ r, step s = .refused r

/-! ## Completion and frames -/

/-- The instruction answers a next state, and that state has a property. -/
def Completes (i : Instr) (s : State) (P : State → Prop) : Prop := ∃ t, Sys2Proof.Machine.exec i s = .next t ∧ P t

/-- Every byte of memory reads as before. -/
def SameMem (s t : State) : Prop := ∀ k, Memory.get t.mem k = Memory.get s.mem k

/-- Nothing outside the executing context differs. The egress hold of a lock-step pair is the exception: an instruction
whose effect was released moves the checkpoint (R367). -/
structure KeepsOthers (u t : State) : Prop where
  others : t = { u with me := t.me, locks := t.locks }
  locks : u.me.released = false → t.locks = u.locks
  mem : SameMem u t

/-- `t` is `u` after the instruction has retired past its `n` bytes, with `c` for the executing context: it waits for
nothing, it keeps no answer, and no other register and no other part of the machine differs. -/
structure RetiresAs (u : State) (c : Strand) (n : Nat) (t : State) : Prop where
  pc : t.me.pc = u.me.pc + BitVec.ofNat 64 n
  context : t.me = { c with pc := t.me.pc, wait := none, pend := u.me.dropPend.pend, released := t.me.released }
  keeps : KeepsOthers u t

/-- `x[d]` takes a value, x0 discarding it (R9), and nothing else changes. -/
structure WritesX (u : State) (d : Reg) (v : W64) (n : Nat) (t : State) : Prop where
  regs : ∀ r, t.x r = if r = 0 then 0 else if r = d then v else u.x r
  rest : RetiresAs u { u.me with x := t.me.x } n t

/-- `x[d]` takes a value, the flags given are set in FSTAT (R35), and nothing else changes. -/
structure WritesXF (u : State) (d : Reg) (v : W64) (fl : Fl) (n : Nat) (t : State) : Prop where
  regs : ∀ r, t.x r = if r = 0 then 0 else if r = d then v else u.x r
  flags : t.me.fstat = u.me.fstat ||| fl.setWidth 64
  rest : RetiresAs u { u.me with x := t.me.x, fstat := t.me.fstat } n t

/-- `v[d]` takes a value, the flags given are set in FSTAT (R35), and nothing else changes. -/
structure WritesVF (u : State) (d : Reg) (v : V128) (fl : Fl) (n : Nat) (t : State) : Prop where
  regs : ∀ r, t.v r = if r = d then v else u.v r
  flags : t.me.fstat = u.me.fstat ||| fl.setWidth 64
  rest : RetiresAs u { u.me with v := t.me.v, fstat := t.me.fstat } n t

/-- `v[d]` takes a value, and nothing else changes. -/
structure WritesV (u : State) (d : Reg) (v : V128) (n : Nat) (t : State) : Prop where
  regs : ∀ r, t.v r = if r = d then v else u.v r
  rest : RetiresAs u { u.me with v := t.me.v } n t

/-- `m[d]` takes a value, m0 discarding it (R9), the flags given are set in FSTAT, and nothing else changes. -/
structure WritesMF (u : State) (d : Reg3) (v : BitVec 16) (fl : Fl) (n : Nat) (t : State) : Prop where
  regs : ∀ r, t.me.getM r = if r = 0 then 0xFFFF else if r = d then v else u.me.getM r
  flags : t.me.fstat = u.me.fstat ||| fl.setWidth 64
  rest : RetiresAs u { u.me with m := t.me.m, fstat := t.me.fstat } n t

/-- No register changes but the pc. -/
def WritesNothing (u : State) (n : Nat) (t : State) : Prop := RetiresAs u u.me n t

/-- Trap entry at the executing compute strand or handler (R94): the four saved registers, level K, the pc at TVEC, and no
other register; of the rest of the machine, only what the instruction held in its slot's queues and in channels is given
up. -/
structure TakesTrap (s : State) (code : Nat) (eaddr einfo : W64) (t : State) : Prop where
  ecause : t.me.ecause = BitVec.ofNat 64 (code + if s.me.level = .k then 256 else 0)
  epc : t.me.epc = s.me.pc
  eaddr : t.me.eaddr = eaddr
  einfo : t.me.einfo = einfo
  level : t.me.level = .k
  pc : t.me.pc = s.me.tvec
  context : t.me = { s.me with ecause := t.me.ecause, epc := t.me.epc, eaddr := t.me.eaddr, einfo := t.me.einfo,
                               level := .k, pc := t.me.pc, wait := none, pend := t.me.pend, entering := true,
                               hheld := s.me.hheld || !s.me.helperTraps.isEmpty }
  others : t = { s with me := t.me, queues := t.queues, cores := t.cores }
  entries : ∀ l seat, (t.slotq l seat).q = (s.slotq l seat).q
  core : ∀ g, t.core g = { s.core g with chHolds := (t.core g).chHolds }
  mem : SameMem s t

/-- The executing context traps. -/
def Traps (i : Instr) (s : State) (code : Nat) (eaddr einfo : W64) : Prop := Completes i s (TakesTrap s code eaddr einfo)

/-- A float instruction with a result and flags: FPE and no other effect when a flag meets an enable of FCR (R38), else the
result is written and the flags are set (R35). -/
def FloatX (i : Instr) (s : State) (d : Reg) (r : Nat × Fl) (n : Nat) : Prop :=
  (fpeOf s.me.fcr r.2 = false → Completes i s (WritesXF s d (BitVec.ofNat 64 r.1) r.2 n)) ∧
  (fpeOf s.me.fcr r.2 = true → s.me.id.unit = .compute → Traps i s Cause.fpe 0 (r.2.setWidth 64))

/-- The instruction continues at `target`, with `x[d]` written (x0 for none), and nothing else changes. -/
structure JumpsX (u : State) (d : Reg) (v : W64) (target : W64) (t : State) : Prop where
  regs : ∀ r, t.x r = if r = 0 then 0 else if r = d then v else u.x r
  context : t.me = { u.me with x := t.me.x, pc := target, wait := none, pend := u.me.dropPend.pend }
  keeps : KeepsOthers u t

/-- The return from a trap (R96). -/
structure Returns (u : State) (t : State) : Prop where
  level : t.me.level = if u.me.ecause.getLsbD 8 then .k else .s
  pc : t.me.pc = u.me.epc
  context : t.me = { u.me with level := t.me.level, pc := t.me.pc, hheld := false, entering := false, wait := none }
  keeps : KeepsOthers u t

/-- What a translation may change: the A and D marks of the leaf it uses (R242), the TLBs (R249), and the record of an aperture's
probe (R122). -/
structure WalkOnly (s u : State) : Prop where
  rest : u = { s with mem := u.mem, vfs := u.vfs, tlb := u.tlb }
  mem : ∀ k, Memory.get u.mem k = Memory.get s.mem k ∨
    ∃ va f, s.walkAt s.me.place.gcore s.myLaunch.vf va = .ok f ∧ k = dramKey (s.me.place.gcore / 2048) f.pa ∧
      (Memory.get u.mem k = Memory.get s.mem k ||| 0x20 ∨ Memory.get u.mem k = Memory.get s.mem k ||| 0x60)

/-- An MTS changes the executing context only: the register it names. -/
def SetsContext (s : State) (c : Strand) (t : State) : Prop := RetiresAs s c 4 t

/-- An MTS changes the record of the executing context's core only. -/
structure SetsCore (s : State) (c : Core) (t : State) : Prop where
  core : ∀ g, t.core g = if g = s.me.place.gcore then c else s.core g
  context : t.me = { s.me.dropPend with pc := s.me.pc + 4, wait := none }
  others : t = { s with me := t.me, cores := t.cores }
  mem : SameMem s t

/-- The executing context waits, and nothing else happens. -/
def Waits (i : Instr) (s : State) (w : Wait) : Prop := Completes i s (fun t => t = s.block w)

/-- A check or an access of the executing context goes through: it answers `a` and leaves the state `u`. -/
def Gives {α : Type} (m : M α) (s : State) (a : α) (u : State) : Prop := m s = .ok a u

/-- `t` is `u` after the instruction has retired past its `n` bytes with no change but a synchronising instruction's: the five
interval counters of the slot's compute strand are one higher (R270). -/
def Synced (u : State) (n : Nat) (t : State) : Prop := RetiresAs u.bumpAll u.bumpAll.me n t

/-- The executing context's place is one of the machine's: a package ID of 22 bits and a package core ID of 11 (R4, R21). -/
def Placed (s : State) : Prop := s.me.place.pkg < 2 ^ 22 ∧ s.me.place.core < 2048

/-- The request of the executing instruction: sent as its last step, under a reference, and the answers it has (R252). -/
def Answered (s : State) (sent : Bool) (got : List Answer) : Prop :=
  ∃ p, s.me.pendOf = some p ∧ p.waiting = false ∧ p.sent = sent ∧ p.got = got

/-- A packet that has left at the tail of its package's network (R371, R372). -/
def Sent (s t : State) (vn : VNet) (src dst : Nat) (b : Body) : Prop :=
  t.net = s.net ++ [{ vn := vn, src := src, dst := dst, body := b, after := none, sent := s.tick }]

/-- A packet has left: it is the newest in flight, and the torus has no flit of it yet (R371, R382). -/
structure Leaves (s : State) (vn : VNet) (src dst : Nat) (b : Body) (t : State) : Prop where
  sent : Sent s t vn src dst b
  torus : t.torus = s.torus

/-- A remote access is over at its requester: it is listed no more, its context has the answer, and UNACK is one lower
(R248). -/
structure AccessOver (u : State) (a : Asked) (r : Answer) (t : State) : Prop where
  asked : t.asked = u.asked.filter (fun b => b.ref != a.ref)
  owner : ∀ j, t.strand? j = if j = a.sid
    then (u.strand? j).map (fun c => { c.answer a.ref r with unack := c.unack - 1 }) else u.strand? j
  others : t = { u with asked := t.asked, me := t.me, rest := t.rest }

/-- A group changed, and nothing else. -/
structure GroupIs (u : State) (launch gid : Nat) (f : Group → Group) (t : State) : Prop where
  group : t.group? launch gid = (u.group? launch gid).map f
  apart : ∀ l i, ¬ (l = launch ∧ i = gid) → t.group? l i = u.group? l i
  others : t = { u with groups := t.groups }

/-! ## The host -/

/-- A command datagram that its package takes up: a well-formed one with this opcode, from the source its virtual function is
bound to, at a package that runs (R391). -/
structure Received (dg : List Byte) (op : Nat) (d : Dgram) (s : State) : Prop where
  read : Dgram.ofBytes dg = some d
  op : d.op = op
  running : (s.pkg d.pkg).running = true
  known : (AMap.get s.pkgs d.pkg).isSome = true
  source : s.sourceOk d = true
  booted : (s.pkg d.pkg).recovery = false

/-- It is new, and its virtual function is not being reset: it is executed (R391, R396). -/
structure Accepted (dg : List Byte) (op : Nat) (d : Dgram) (s : State) : Prop where
  received : Received dg op d s
  fresh : (s.vfun d.pkg d.vf).tags.find? (fun t => t.1 == d.tag) = none
  usable : (s.vfun d.pkg d.vf).resetting = false

/-- The reply to a command has left, with its TAG, and is kept under it (R391). -/
structure Replies (u : State) (d : Dgram) (status : Nat) (data : List Byte) (t : State) : Prop where
  sent : ∃ bytes, t.toHost = u.toHost ++ [{ vf := d.vf, bytes := bytes, sent := u.tick }] ∧
    bytes.drop 32 = leBytes 4 status ++ data ∧ (bytes.drop 8).take 4 = leBytes 4 d.tag.toNat ∧
    (t.vfun d.pkg d.vf).tags.getLast? = some (d.tag, bytes)
  vf : t.vfun d.pkg d.vf = { u.vfun d.pkg d.vf with tags := (t.vfun d.pkg d.vf).tags }
  others : t = { u with toHost := t.toHost, vfs := t.vfs }

/-! ## Memory -/

/-- Nothing stands in the way of an access: no poison, no shadowed buffer, no lock-step pair, no race record, the race
detector of the slot is off, the executing instruction has sent no request, and its context has no
AMOP that is still to be performed elsewhere (R119, R261 note 4). -/
structure Quiet (s : State) : Prop where
  poison : s.poison = []
  shadows : s.shadows = []
  locks : s.locks = []
  races : s.races = []
  detector : s.raceOn = false
  amops : s.me.farAmop = false
  stamps : s.rebaseDue s.me.place.pkg = false
  plan : s.me.pendOf = none

/-- The race detector of the slot is not in mode 1, in which a racing access appends to its log (R272). -/
def NoLog (s : State) : Prop := s.raceOn = false ∨ s.myComp.racecfg.getLsbD 1 = false

/-- The address of offset `o` of the strand's own private window (R19). -/
def privAddr (o : Nat) : W64 := 0xF000_0000_0000_0000 + BitVec.ofNat 64 o

/-- The key of that byte: the slot's slice of the core's scratchpad (R21). -/
def privKey (s : State) (o : Nat) : Nat := spKey s.me.place.gcore (0x5_0000 + s.me.place.slot * 0x4000 + o)

/-- The bytes of memory at a key, lowest first. -/
def bytesAt (s : State) (k n : Nat) : List Byte := (List.range n).map (fun i => Memory.get s.mem (k + i))

/-- The low bytes of a word, lowest first (R29). -/
def wordBytes (n : Nat) {w : Nat} (v : BitVec w) : List Byte := (List.range n).map (fun i => v.extractLsb' (8 * i) 8)

/-- These bytes stand at a key, and every byte elsewhere reads as before. -/
structure Stored (u : State) (k : Nat) (bs : List Byte) (t : State) : Prop where
  here : bytesAt t k bs.length = bs
  elsewhere : ∀ j, j < k ∨ k + bs.length ≤ j → Memory.get t.mem j = Memory.get u.mem j

/-- A store: the bytes at the key, no register but the pc, and beside memory only the bookkeeping of leases, code bytes and
walks. -/
structure StoresAt (u : State) (k : Nat) (bs : List Byte) (n : Nat) (t : State) : Prop where
  bytes : Stored u k bs t
  context : t.me = { u.me.dropPend with pc := u.me.pc + BitVec.ofNat 64 n, wait := none, wlog := t.me.wlog, pts := t.me.pts,
                                        released := t.me.released }
  rest : t = { u with me := t.me, mem := t.mem, tlb := t.tlb, parked := t.parked, stamps := t.stamps, codeLog := t.codeLog }

/-- An atomic on memory (R119, R120): the bytes after it, `x[d]`, and the five interval counters of the slot's compute
strand, each one higher (R270). -/
structure AtomicAt (u : State) (k : Nat) (bs : List Byte) (d : Reg) (v : W64) (n : Nat) (t : State) : Prop where
  regs : ∀ r, t.x r = if r = 0 then 0 else if r = d then v else u.x r
  bytes : Stored u k bs t
  ivals : t.me.ivals = if u.me.id.unit = .compute then Vector.ofFn (fun i => u.me.ivals.get i + 1) else u.me.ivals
  rest : t.rest = u.rest.map (fun c => if c.id = u.me.id.comp then c.bump 4 else c)
  context : t.me = { u.me.dropPend with x := t.me.x, ivals := t.me.ivals, pc := u.me.pc + BitVec.ofNat 64 n, wait := none,
                                        wlog := t.me.wlog, pts := t.me.pts, released := t.me.released }
  others : t = { u with me := t.me, rest := t.rest, mem := t.mem, tlb := t.tlb, parked := t.parked, stamps := t.stamps,
                        codeLog := t.codeLog }

/-- A posted atomic on memory of the package (R119): the bytes after it, and one more AMOP not acknowledged. -/
structure PostedAt (u : State) (k : Nat) (bs : List Byte) (o : AmopOut) (n : Nat) (t : State) : Prop where
  bytes : Stored u k bs t
  context : t.me = { u.me.dropPend with amops := u.me.amops ++ [o], unack := u.me.unack + 1,
                                        pc := u.me.pc + BitVec.ofNat 64 n, wait := none,
                                        wlog := t.me.wlog, pts := t.me.pts, released := t.me.released }
  others : t = { u with me := t.me, next := u.next + 1, net := t.net, mem := t.mem, tlb := t.tlb, parked := t.parked,
                        stamps := t.stamps, codeLog := t.codeLog }
  ack : t.net = u.net ++ [{ vn := .rpy, src := u.me.place.gcore, dst := u.me.place.gcore, body := .amopAck u.next u.me.id,
                            after := none, sent := u.tick }]

/-! ## Queues, messages, engine operations -/

/-- One queue register of the executing context's slot holds these entries; no other queue differs (R10). -/
structure QueueIs (s : State) (q : Reg3) (l : List V128) (t : State) : Prop where
  mine : ∀ r : Fin 8, t.myQueues.q.get r = if r = q.toFin then l else s.myQueues.q.get r
  others : ∀ k seat, ¬ (k = s.me.id.launch ∧ seat = s.me.id.seat) → t.slotq k seat = s.slotq k seat

/-- An entry has been taken: what the instruction held in the slot's queues and in channels is given up (R138). -/
structure Took (s : State) (q : Reg3) (l : List V128) (t : State) : Prop where
  queue : QueueIs s q l t
  cores : ∀ g, t.core g = { s.core g with chHolds := (t.core g).chHolds }

/-- A message enters the executing core's injection queue with its payload, padded with zeros to whole chunks, and the sender
retires (R183, R185, R186, R189). -/
structure Injects (u : State) (ch : Chan) (vc : Nat) (bs : List Byte) (rlx : Bool) (t : State) : Prop where
  entry : ∃ e : InjEntry, t.myCore.inj = u.myCore.inj ++ [e] ∧ e.sender = some u.me.id ∧ e.launch = u.me.id.launch ∧ e.vc = vc ∧
    e.msg.ch = ch.toNat ∧ e.msg.rpy = u.me.id.isHandler ∧ e.msg.vc = u.me.place.vc ∧ e.msg.tid = u.me.id.tid ∧
    e.msg.bytes = bs.length ∧ e.born = u.tick ∧ e.msg.data.take bs.length = bs ∧ e.msg.data.length = (bs.length + 15) / 16 * 16 ∧
    (∀ x ∈ e.msg.data.drop bs.length, x = 0) ∧ e.after = if rlx then 0 else u.next
  core : t.myCore = { u.myCore with inj := t.myCore.inj }
  cores : ∀ g, g ≠ u.me.place.gcore → t.core g = u.core g
  rest : Synced { u with cores := t.cores } 12 t

/-- The current message of the executing context is freed: its kick entry goes to the oldest notice on the wait list, or its
entry leaves the receive queue (R190, R191). -/
structure Freed (s : State) (ch i : Nat) (u : State) : Prop where
  me : u.me = { s.me with current := none }
  kick : ch = 0 → ∀ j : Fin 8, u.myCore.kick.get j =
    if j.val = i then s.myCore.waitList.head?.map (fun n => { n with pending := true, since := s.tick }) else s.myCore.kick.get j
  waiting : ch = 0 → u.myCore.waitList = s.myCore.waitList.drop 1 ∧ u.myCore.rq = s.myCore.rq
  queue : ch ≠ 0 → u.myCore.rq = s.myCore.rq.filter (fun e => e.idx != i) ∧ u.myCore.kick = s.myCore.kick
  cores : ∀ g, g ≠ s.me.place.gcore → u.core g = s.core g
  others : u = { s with me := u.me, rest := u.rest, cores := u.cores, net := u.net }

/-- A message is admitted to a receive queue, at an index that no entry has (R15, R185, R287). -/
structure Admitted (u : State) (g : Nat) (m : Msg) (t : State) : Prop where
  entry : ∃ i, i < 64 ∧ (∀ e ∈ (u.core g).rq, e.idx ≠ i) ∧
    (t.core g).rq = (u.core g).rq ++ [{ idx := i, msg := m, taken := 0, active := false }]
  core : t.core g = { u.core g with rq := (t.core g).rq,
                                    pressure := decide ((if (u.core g).pressure then 16 else 48) ≤ (u.core g).rq.length + 1) }
  cores : ∀ h, h ≠ g → t.core h = u.core h
  others : t = { u with cores := t.cores, net := t.net }

/-- An engine operation is complete: its tracker entry is free, its transfer ID is done at its strand, and its decrement, if
it has one, is on its way (R129, R134, R348). -/
structure OpDone (u : State) (ref : Nat) (op : EngOp) (t : State) : Prop where
  ops : ∀ r, AMap.get t.ops r = if r = ref then none else AMap.get u.ops r
  owner : ∀ i, t.strand? i = if i = op.owner then (u.strand? i).map (·.finish (BitVec.ofNat 6 op.ch) op.id) else u.strand? i
  barrier : op.bar = none → t.net = u.net
  decrement : ∀ k src, op.bar = some k → u.ownerCore op.owner = src →
    t.net = u.net ++ [{ vn := .ctl, src := src, dst := unitOf k, body := .decrement op.owner.launch k, after := none, sent := u.tick }]
  others : t = { u with me := t.me, rest := t.rest, ops := t.ops, net := t.net }

/-- A context changed, and no other one (R5). -/
def StrandIs (u : State) (i : Sid) (f : Strand → Strand) (t : State) : Prop :=
  (∀ j, t.strand? j = if j = i then (u.strand? j).map f else u.strand? j) ∧ t = { u with me := t.me, rest := t.rest }

/-- A report of the executing member to the home of its group is on its way; it follows the member's atomics (R266). -/
def Reported (s t : State) (home : Nat) (b : Body) : Prop :=
  ∃ n, s.next ≤ n ∧
    t.net = s.net ++ [{ vn := .ctl, src := s.me.place.gcore, dst := home, body := b, after := some (s.me.id, n), sent := s.tick }]

/-- The executing instruction has sent its request, once, and waits for its answer. -/
structure Asks (s : State) (w : Wait) (t : State) : Prop where
  pend : ∃ p, t.me.pendOf = some p ∧ p.on = w ∧ p.ref = s.next ∧ p.waiting = true ∧ p.sent = true
  me : t.me = { s.me with pend := t.me.pend, wait := some w }
  others : t = { s with me := t.me, net := t.net, groups := t.groups, next := s.next + 1 }

/-- A synchronising instruction retires with `x[d]` written and the five interval counters one higher (R270). -/
structure SyncedX (u : State) (d : Reg) (v : W64) (n : Nat) (t : State) : Prop where
  regs : ∀ r, t.x r = if r = 0 then 0 else if r = d then v else u.x r
  rest : RetiresAs u.bumpAll { u.bumpAll.me with x := t.me.x } n t

/-- An offer is on its way to the home of its connector, after its owner's atomics, and its port is OFFERED (R205, R303). -/
structure Offers (s : State) (idx : BitVec 16) (p : PortRec) (by_ : Option W64) (data : V128) (t : State) : Prop where
  port : ∀ k, AMap.get t.me.ports k = if k = idx.toNat then some (.offered by_ false) else AMap.get s.me.ports k
  packet : ∃ n, s.next ≤ n ∧ t.net = s.net ++
    [{ vn := .ctl, src := 2 ^ 46 + s.me.id.launch * 2 ^ 24 + s.me.id.tid, dst := 2 ^ 45 + s.me.id.launch * 128 + p.hvc,
       after := some (s.me.id, n), sent := s.tick,
       body := .offer p.hvc p.conn { lidx := p.lidx, sid := s.me.id, idx := idx.toNat, data := data } }]

/-- The bits of a signal's number in a signal set. -/
def bitOf (n : Nat) : BitVec 256 := BitVec.ofNat 256 (2 ^ n)

/-! ## The matrix queue -/

/-- A matrix instruction is accepted into a tenant's queue, at its tail, and retires (R159, R175): no cell, no register and
no byte of memory has changed yet. -/
structure Accepts (u : State) (ten : Bool) (base banks : Nat) (kind : MatKind) (t : State) : Prop where
  queue : ∃ op : MatOp, t.myCore.mq ten = u.myCore.mq ten ++ [op] ∧ op.owner = u.me.id ∧ op.ref = u.next ∧ op.base = base ∧
    op.banks = banks ∧ op.kind = kind ∧ op.started = false ∧ op.row = 0
  core : t.myCore = { u.myCore with mq0 := t.myCore.mq0, mq1 := t.myCore.mq1 }
  tenants : t.myCore.mq (!ten) = u.myCore.mq (!ten)
  cores : ∀ g, g ≠ u.me.place.gcore → t.core g = u.core g
  context : t.me = { u.me.dropPend with pc := u.me.pc + 12, wait := none, released := t.me.released }
  others : t = { u with me := t.me, cores := t.cores, next := u.next + 1, locks := t.locks }
  mem : SameMem u t

/-! ## Vectors -/

/-- Element `i` of `n` bits (R9). -/
def lane (n : Nat) (v : V128) (i : Nat) : BitVec n := v.extractLsb' (i * n) n

/-- The destination of a masked instruction (R137): the new elements where active; elsewhere zero under Z, else the old. -/
def Masked (n : Nat) (m : BitVec 16) (z : Bool) (old v : V128) (new : Nat → BitVec n) : Prop :=
  ∀ i, i < 128 / n → lane n v i = if m.getLsbD (i * n / 8) then new i else if z then 0 else lane n old i

/-- `v[d]` takes these elements where active, and nothing else changes but the flags that rise. -/
def WritesLanes (i : Instr) (s u : State) (d : Reg) (n : Nat) (m : BitVec 16) (z : Bool) (new : Nat → BitVec n)
    (len : Nat) : Prop :=
  ∃ v, Masked n m z (s.v d) v new ∧ Completes i s (WritesV u d v len)

/-- A vector instruction whose elements carry flags: the union of those of the active elements rises (R37); FPE and no
other effect when one meets an enable (R38). -/
def FloatLanes (i : Instr) (s u : State) (d : Reg) (n : Nat) (m : BitVec 16) (z : Bool) (new : Nat → Nat × Fl)
    (len : Nat) : Prop :=
  ∀ fl : Fl, (∀ k, k < 5 → (fl.getLsbD k = true ↔
      ∃ j, j < 128 / n ∧ m.getLsbD (j * n / 8) = true ∧ (new j).2.getLsbD k = true)) →
    (fpeOf s.me.fcr fl = false → ∃ v, Masked n m z (s.v d) v (fun j => BitVec.ofNat n (new j).1) ∧
      Completes i s (WritesVF u d v fl len)) ∧
    (fpeOf s.me.fcr fl = true → s.me.id.unit = .compute → Traps i s Cause.fpe 0 (fl.setWidth 64))

/-- The state after the sources of a vector instruction are taken (R138): queue entries and stream bytes leave, and what
the instruction held is given up. -/
def taken (u : State) (l : List VSrc) : State := (l.foldl State.takeSource u).unhold u.me.id

/-- `v[d]` and `x[e]` take values, x0 discarding, and nothing else changes. -/
structure WritesVX (u : State) (d : Reg) (v : V128) (e : Reg) (x : W64) (n : Nat) (t : State) : Prop where
  vregs : ∀ r, t.v r = if r = d then v else u.v r
  xregs : ∀ r, t.x r = if r = 0 then 0 else if r = e then x else u.x r
  rest : RetiresAs u { u.me with v := t.me.v, x := t.me.x } n t

/-- An element as the integer its type reads (R29). -/
def val (t : Ty) {n : Nat} (x : BitVec n) : Int := if t.signed then x.toInt else x.toNat

/-- An integer as an element: wrapped, or clamped to the type's range under .sat (R142). -/
def elem (t : Ty) (sat : Bool) (v : Int) : BitVec t.bits :=
  BitVec.ofInt t.bits (if sat then max (tyLo t) (min (tyHi t) v) else v)

/-- Element `x` comes before element `y` in the order of VTOPK (R155): the greater value first, NaNs last, the lower index
first among equals. -/
def Before (t : Ty) (v : V128) (x y : Nat) : Prop :=
  let a := (lane t.bits v x).toNat
  let b := (lane t.bits v y).toNat
  outranks t a b = true ∨ (outranks t b a = false ∧ x < y)

/-! ## Values -/

/-- The low bits of a register as a value of a type's width (R81). -/
abbrev narrow (t : Ty) (w : W64) : BitVec t.bits := w.setWidth t.bits

/-- The exact value of an encoding, by its sign, exponent and fraction (R31). An infinity counts as the power of two beyond the
largest finite value, so that infinities keep their place in the order. -/
def floatVal (t : Ty) (w : Nat) : ℚ :=
  let f : Nat := if t = .bf16 then 7 else 23
  let e := w / 2 ^ f % 256
  (if w / 2 ^ (f + 8) % 2 = 1 then -1 else 1) * ((w % 2 ^ f + if e = 0 then 0 else 2 ^ f : Nat) : ℚ) *
    (2 : ℚ) ^ ((max 1 e : Nat) - 127 - f : ℤ)

/-- An encoding is neither an infinity nor a NaN. -/
def FiniteVal (t : Ty) (w : Nat) : Prop := w / 2 ^ (if t = .bf16 then 7 else 23) % 256 < 255

/-- An operand as FZ leaves it: a subnormal becomes a zero of its sign (R40). -/
def flushed (fcr : W64) (t : Ty) (w : Nat) : Nat :=
  let f : Nat := if t = .bf16 then 7 else 23
  if fcr.getLsbD 2 ∧ w / 2 ^ f % 256 = 0 then w - w % 2 ^ f else w

/-- A value in the range where a rounded result is normal and finite. -/
def InRange (t : Ty) (x : ℚ) : Prop := (2 : ℚ) ^ (-126 : ℤ) ≤ |x| ∧ |x| ≤ ((2 : ℚ) - (2 : ℚ) ^ (if t = .bf16 then (-7 : ℤ) else -23)) * 2 ^ 127

/-- `w` is the exact value `x` rounded once by FCR's mode, and `fl` the flags (R36, R37): `w` has the sign of `x`, NX rises exactly
where `w` is not `x`, and the encodings next to `w` bound how far `x` lies from it: at most half way under RNE, and half way only
to an even fraction; otherwise not beyond `w` on the side the mode rounds from, and short of the next one on the other. -/
structure Rounded (t : Ty) (fcr : W64) (x : ℝ) (w : Nat) (fl : Fl) : Prop where
  size : w < 2 ^ (if t = .bf16 then 16 else 32)
  finite : FiniteVal t w
  sign : (floatVal t w : ℝ) < 0 ↔ x < 0
  exact_ : fl = if (floatVal t w : ℝ) = x then 0 else 16
  nearest : fcr.toNat % 4 = 0 →
    |(floatVal t (w - 1) : ℝ)| + |(floatVal t w : ℝ)| ≤ 2 * |x| ∧ 2 * |x| ≤ |(floatVal t w : ℝ)| + |(floatVal t (w + 1) : ℝ)| ∧
    (w % 2 = 1 → |(floatVal t (w - 1) : ℝ)| + |(floatVal t w : ℝ)| ≠ 2 * |x| ∧
      2 * |x| ≠ |(floatVal t w : ℝ)| + |(floatVal t (w + 1) : ℝ)|)
  up : (fcr.toNat % 4 = 2 ∧ 0 < x) ∨ (fcr.toNat % 4 = 3 ∧ x < 0) →
    |(floatVal t (w - 1) : ℝ)| < |x| ∧ |x| ≤ |(floatVal t w : ℝ)|
  down : fcr.toNat % 4 = 1 ∨ (fcr.toNat % 4 = 2 ∧ x < 0) ∨ (fcr.toNat % 4 = 3 ∧ 0 < x) →
    |(floatVal t w : ℝ)| ≤ |x| ∧ |x| < |(floatVal t (w + 1) : ℝ)|

/-- A float instruction whose exact result is `x` writes it rounded once, with the flags of that rounding, or takes FPE
(R36, R38). -/
def RoundsTo (i : Instr) (s : State) (t : Ty) (d : Reg) (x : ℝ) (n : Nat) : Prop :=
  ∃ w fl, Rounded t s.me.fcr x w fl ∧ FloatX i s d (w, fl) n

/-- A result extended to a register by its type's signedness (R81). -/
def wide (t : Ty) (r : BitVec t.bits) : W64 := if t.signed then r.signExtend 64 else r.setWidth 64

end Sys2Proof.Safety
end

