-- ==== Sys2Proof/Certificates/Slice0/Obligations.lean ====
section
/-! DEFINITION. The statements for the provers. -/

open Sys2Proof Sys2Proof.Machine Sys2Proof.Safety

/-- R81, R82: each two-source arithmetic instruction at every type: the sources are cut to the type's width, the result is
extended by its signedness, x0 discards, and nothing else changes.
R30, R82: the four divisions, with a zero divisor and with the most negative value divided by −1 (which BitVec's signed
quotient and remainder answer with that value and 0). -/
def Obligations.IntegerArithmetic : Prop :=
  (∀ (t : Ty) (d a : Reg) (b : SrcB) (s : State),
     let A := narrow t (s.x a)
     let B := narrow t (bval s b)
     let n := t.bits
     Completes (.add t d a b) s (WritesX s d (wide t (A + B)) (blen 4 b)) ∧
     Completes (.sub t d a b) s (WritesX s d (wide t (A - B)) (blen 4 b)) ∧
     Completes (.mul t d a b) s (WritesX s d (wide t (A * B)) (blen 4 b)) ∧
     Completes (.mulh t d a b) s
       (WritesX s d (wide t ((A.signExtend (2 * n) * B.signExtend (2 * n)).extractLsb' n n)) (blen 4 b)) ∧
     Completes (.mulhn t d a b) s
       (WritesX s d (wide t ((A.setWidth (2 * n) * B.setWidth (2 * n)).extractLsb' n n)) (blen 4 b))) ∧
  (∀ (t : Ty) (d a : Reg) (b : SrcB) (s : State),
     let A := narrow t (s.x a)
     let B := narrow t (bval s b)
     Completes (.div t d a b) s
       (WritesX s d (wide t (if B = 0 then BitVec.allOnes t.bits else A.sdiv B)) (blen 4 b)) ∧
     Completes (.divn t d a b) s (WritesX s d (wide t (if B = 0 then BitVec.allOnes t.bits else A / B)) (blen 4 b)) ∧
     Completes (.rem t d a b) s (WritesX s d (wide t (if B = 0 then A else A.srem B)) (blen 4 b)) ∧
     Completes (.remn t d a b) s (WritesX s d (wide t (if B = 0 then A else A % B)) (blen 4 b)))

/-- R82: the logical instructions, and the shifts and the rotation by the count modulo the width.
R82: minimum, maximum and comparison; the mnemonic, not the type, decides how the operands are read (R81). -/
def Obligations.IntegerLogicAndOrder : Prop :=
  (∀ (t : Ty) (d a : Reg) (b : SrcB) (s : State),
     let A := narrow t (s.x a)
     let B := narrow t (bval s b)
     let c := B.toNat % t.bits
     Completes (.and t d a b) s (WritesX s d (wide t (A &&& B)) (blen 4 b)) ∧
     Completes (.or t d a b) s (WritesX s d (wide t (A ||| B)) (blen 4 b)) ∧
     Completes (.xor t d a b) s (WritesX s d (wide t (A ^^^ B)) (blen 4 b)) ∧
     Completes (.andn t d a b) s (WritesX s d (wide t (A &&& ~~~B)) (blen 4 b)) ∧
     Completes (.shl t d a b) s (WritesX s d (wide t (A <<< c)) (blen 4 b)) ∧
     Completes (.shr t d a b) s (WritesX s d (wide t (A >>> c)) (blen 4 b)) ∧
     Completes (.shra t d a b) s (WritesX s d (wide t (A.sshiftRight c)) (blen 4 b)) ∧
     Completes (.rotl t d a b) s (WritesX s d (wide t (A.rotateLeft c)) (blen 4 b))) ∧
  (∀ (t : Ty) (d a : Reg) (b : SrcB) (s : State),
     let A := narrow t (s.x a)
     let B := narrow t (bval s b)
     Completes (.min t d a b) s (WritesX s d (wide t (if B.slt A then B else A)) (blen 4 b)) ∧
     Completes (.max t d a b) s (WritesX s d (wide t (if A.slt B then B else A)) (blen 4 b)) ∧
     Completes (.minn t d a b) s (WritesX s d (wide t (if B < A then B else A)) (blen 4 b)) ∧
     Completes (.maxn t d a b) s (WritesX s d (wide t (if A < B then B else A)) (blen 4 b)) ∧
     Completes (.slt t d a b) s (WritesX s d (if A.slt B then 1 else 0) (blen 4 b)) ∧
     Completes (.sltn t d a b) s (WritesX s d (if A < B then 1 else 0) (blen 4 b)) ∧
     Completes (.seq t d a b) s (WritesX s d (if A = B then 1 else 0) (blen 4 b)))

/-- R82: CLZ and CTZ count up to the first one bit, and give the width when there is none; POPC counts the one bits; SEXT
and ZEXT extend from the type's width for either signedness.
R83, R84: BFX and BFI with the field that S selects, an empty one included, and SEL. -/
def Obligations.IntegerBitFields : Prop :=
  (∀ (t : Ty) (d a : Reg) (s : State),
     let A := narrow t (s.x a)
     let n := t.bits
     (∃ k, k ≤ n ∧ (∀ i, n - k ≤ i → i < n → A.getLsbD i = false) ∧ (k < n → A.getLsbD (n - 1 - k) = true) ∧
       Completes (.clz t d a) s (WritesX s d (wide t (BitVec.ofNat n k)) 4)) ∧
     (∃ k, k ≤ n ∧ (∀ i, i < k → A.getLsbD i = false) ∧ (k < n → A.getLsbD k = true) ∧
       Completes (.ctz t d a) s (WritesX s d (wide t (BitVec.ofNat n k)) 4)) ∧
     Completes (.popc t d a) s
       (WritesX s d (wide t (BitVec.ofNat n (Finset.univ.filter (fun i : Fin n => A.getLsbD i = true)).card)) 4) ∧
     Completes (.sext t d a) s (WritesX s d (A.signExtend 64) 4) ∧
     Completes (.zext t d a) s (WritesX s d (A.setWidth 64) 4)) ∧
  (∀ (t : Ty) (d c a : Reg) (b : SrcB) (s : State),
     let A := narrow t (s.x a)
     let D := narrow t (s.x d)
     let S := bval s b
     let len := (S.extractLsb' 0 7).toNat
     let pos := (S.extractLsb' 8 6).toNat
     let l := Nat.min len (t.bits - pos)
     Completes (.bfx t d a b) s (WritesX s d
       (if len = 0 ∨ t.bits ≤ pos then 0
        else if t.signed then (A.extractLsb' pos l).signExtend 64 else (A.extractLsb' pos l).setWidth 64) (blen 4 b)) ∧
     (∃ r : BitVec t.bits,
       (∀ i, i < t.bits → r.getLsbD i = if pos ≤ i ∧ i < pos + l then A.getLsbD (i - pos) else D.getLsbD i) ∧
       Completes (.bfi t d a b) s (WritesX s d (wide t r) (blen 4 b))) ∧
     Completes (.sel t d c a b) s
       (WritesX s d (wide t (if s.x c = 0 then narrow t (bval s b) else A)) (blen 12 b)))

/-- R85: the immediate loads. LK gives the pool word of kind 1 (R22), and raises the pool-kind ILLOP when the index names
none. -/
def Obligations.Immediates : Prop :=
  ∀ (d : Reg) (imm : BitVec 20) (idx : BitVec 16) (v : W64) (s : State),
    Completes (.li d imm) s (WritesX s d (imm.signExtend 64) 4) ∧
    Completes (.liLit d v) s (WritesX s d v 12) ∧
    Completes (.lih d imm) s (WritesX s d (imm.signExtend 64 * 4096) 4) ∧
    Completes (.addpc d imm) s (WritesX s d (s.me.pc + imm.signExtend 64 * 4) 4) ∧
    Completes (.fli d imm) s (WritesX s d (imm.setWidth 64 * 4096) 4) ∧
    (∀ w, s.myLaunch.pool[idx.toNat]? = some w → s.myLaunch.kinds[idx.toNat]? = some 1 →
      Completes (.lk d idx) s (WritesX s d w 4)) ∧
    (s.me.id.unit = .compute → s.myLaunch.kinds[idx.toNat]? ≠ some 1 →
      Traps (.lk d idx) s Cause.illop 0 (idx.setWidth 64))

/-- R86-R89: the float instructions, at every operand, with the flags they raise: the result and the flags are those of the
exact operation rounded once under FCR as it stands (R36), and FPE is taken when an enabled flag rises (R38).
R39: with a NaN operand the result of the arithmetic instructions is the canonical NaN when FCR.DN is 1, else the first
NaN operand with its top fraction bit set; NV rises for a signalling NaN.
R36, R37, R40: for finite operands, subnormals flushed under FZ, the sum, difference, product, quotient and fused sum are the exact
rational rounded once, wherever that is a normal value, and FSQRT gives the rounded real root. FMIN and FMAX give one of the
operands, that no other lies below or above, −0 below +0, and the other operand where one alone is a quiet NaN (R39); FSQRT gives
±0 and +∞ unchanged and NV with the canonical NaN below zero. -/
def Obligations.FloatArithmetic : Prop :=
  (∀ (t : Ty) (d a c : Reg) (b : SrcB) (s : State),
     let C := fctxOf s.me.fcr
     let A := low t (s.x a)
     let B := low t (bval s b)
     FloatX (.fadd t d a b) s d (fAdd C t A B) (blen 4 b) ∧
     FloatX (.fsub t d a b) s d (fSub C t A B) (blen 4 b) ∧
     FloatX (.fmul t d a b) s d (fMul C t A B) (blen 4 b) ∧
     FloatX (.fdiv t d a b) s d (fDiv C t A B) (blen 4 b) ∧
     FloatX (.fmin t d a b) s d (fMinMax C t false A B) (blen 4 b) ∧
     FloatX (.fmax t d a b) s d (fMinMax C t true A B) (blen 4 b) ∧
     FloatX (.fsqrt t d a) s d (fSqrt C t A) 4 ∧
     FloatX (.fma t d a c b) s d (fMa C t A (low t (s.x c)) B) (blen 12 b)) ∧
  (∀ (t : Ty) (d a : Reg) (b : SrcB) (s : State), t.isFlt = true → s.me.fcr.getLsbD 2 = false →
     let A := low t (s.x a)
     let B := low t (bval s b)
     let q := 2 ^ (fracBits t - 1)
     let res := if s.me.fcr.getLsbD 3 then fpack t false 255 q else if isNanF t A then A ||| q else B ||| q
     ∀ fl : Fl, (isNanF t A = true ∨ isNanF t B = true) →
       (isSnan t A = true ∨ isSnan t B = true → fl = Fl.nv) → (isSnan t A = false → isSnan t B = false → fl = 0) →
       FloatX (.fadd t d a b) s d (res, fl) (blen 4 b) ∧ FloatX (.fsub t d a b) s d (res, fl) (blen 4 b) ∧
       FloatX (.fmul t d a b) s d (res, fl) (blen 4 b) ∧ FloatX (.fdiv t d a b) s d (res, fl) (blen 4 b)) ∧
  (∀ (t : Ty) (d a c : Reg) (b : SrcB) (s : State), t.isFlt = true →
     let A := flushed s.me.fcr t (low t (s.x a))
     let B := flushed s.me.fcr t (low t (bval s b))
     let C := flushed s.me.fcr t (low t (s.x c))
     let sgn (w : Nat) : Nat := w / 2 ^ (t.bits - 1)
     let v := floatVal t
     (FiniteVal t A → FiniteVal t B →
       (InRange t (v A + v B) → RoundsTo (.fadd t d a b) s t d (v A + v B : ℚ) (blen 4 b)) ∧
       (InRange t (v A - v B) → RoundsTo (.fsub t d a b) s t d (v A - v B : ℚ) (blen 4 b)) ∧
       (InRange t (v A * v B) → RoundsTo (.fmul t d a b) s t d (v A * v B : ℚ) (blen 4 b)) ∧
       (v B ≠ 0 → InRange t (v A / v B) → RoundsTo (.fdiv t d a b) s t d (v A / v B : ℚ) (blen 4 b)) ∧
       (FiniteVal t C → InRange t (v A * v C + v B) → RoundsTo (.fma t d a c b) s t d (v A * v C + v B : ℚ) (blen 12 b))) ∧
     (isNanF t A = false → isNanF t B = false →
       (∃ r, (r = A ∨ r = B) ∧ v r ≤ v A ∧ v r ≤ v B ∧ (v A = v B → sgn r = max (sgn A) (sgn B)) ∧
         FloatX (.fmin t d a b) s d (r, 0) (blen 4 b)) ∧
       (∃ r, (r = A ∨ r = B) ∧ v A ≤ v r ∧ v B ≤ v r ∧ (v A = v B → sgn r = min (sgn A) (sgn B)) ∧
         FloatX (.fmax t d a b) s d (r, 0) (blen 4 b))) ∧
     (isNanF t A = true → isSnan t A = false → isNanF t B = false →
       FloatX (.fmin t d a b) s d (B, 0) (blen 4 b) ∧ FloatX (.fmax t d a b) s d (B, 0) (blen 4 b)) ∧
     (isNanF t A = false → isNanF t B = true → isSnan t B = false →
       FloatX (.fmin t d a b) s d (A, 0) (blen 4 b) ∧ FloatX (.fmax t d a b) s d (A, 0) (blen 4 b)) ∧
     (FiniteVal t A → 0 < v A → RoundsTo (.fsqrt t d a) s t d (Real.sqrt (v A)) 4) ∧
     (v A = 0 ∨ A = finf t false → FloatX (.fsqrt t d a) s d (A, 0) 4) ∧
     (isNanF t A = false → v A < 0 → FloatX (.fsqrt t d a) s d (canonNan t, Fl.nv) 4))

/-- R39, R87: comparisons. With a NaN operand the result is 0; FLT and FLE raise NV then, FEQ only for a signalling NaN.
Otherwise no flag rises, exactly one of a < b, a = b and b < a holds, and FLE is FLT or FEQ.
R87, R88, R41: FCLASS sets exactly one bit, the class of the operand, and raises nothing. FCVT from a float to an
integer type, and between float and integer types otherwise, with the flags it raises; an integer result is extended by
its type (R81). From BF16 to FP32 a value that is no NaN keeps its bits, and from FP32 to BF16 toward zero it loses the low
half. -/
def Obligations.FloatCompareAndConvert : Prop :=
  (∀ (t : Ty) (d a : Reg) (b : SrcB) (s : State), t.isFlt = true →
     let C := fctxOf s.me.fcr
     let A := low t (s.x a)
     let B := low t (bval s b)
     let nan := isNanF t A = true ∨ isNanF t B = true
     let snan := isSnan t A = true ∨ isSnan t B = true
     ∃ (lt eq gt : Bool),
       (nan → lt = false ∧ eq = false ∧ gt = false) ∧
       (¬ nan → (lt = true ∧ eq = false ∧ gt = false) ∨ (lt = false ∧ eq = true ∧ gt = false) ∨
         (lt = false ∧ eq = false ∧ gt = true)) ∧
       ((fCmp C t .lt B A).1 = gt) ∧
       (∀ fl : Fl, (nan → fl = Fl.nv) → (¬ nan → fl = 0) →
         FloatX (.flt t d a b) s d (if lt then 1 else 0, fl) (blen 4 b) ∧
         FloatX (.fle t d a b) s d (if lt || eq then 1 else 0, fl) (blen 4 b)) ∧
       (∀ fl : Fl, (snan → fl = Fl.nv) → (¬ snan → fl = 0) →
         FloatX (.feq t d a b) s d (if eq then 1 else 0, fl) (blen 4 b))) ∧
  (∀ (t dst src : Ty) (d a : Reg) (s : State),
     let A := low t (s.x a)
     let r := fCvt (fctxOf s.me.fcr) dst src (low src (s.x a))
     (t.isFlt = true → ∃ bit, bit ≤ 9 ∧ Completes (.fclass t d a) s (WritesX s d (BitVec.ofNat 64 (2 ^ bit)) 4) ∧
       (bit = 8 ↔ isSnan t A = true) ∧ (bit = 9 ↔ isNanF t A = true ∧ isSnan t A = false) ∧
       (bit = 7 ↔ A = finf t false) ∧ (bit = 0 ↔ A = finf t true) ∧ (bit = 4 ↔ A = 0) ∧
       (bit = 3 ↔ A = fpack t true 0 0) ∧ (bit = 2 ↔ isSub t A = true ∧ fneg t A = true) ∧
       (bit = 5 ↔ isSub t A = true ∧ fneg t A = false)) ∧
     (fpeOf s.me.fcr r.2 = false → Completes (.fcvt dst src d a) s
       (WritesXF s d (if dst.isInt then ext dst r.1 else BitVec.ofNat 64 r.1) r.2 4)) ∧
     (fpeOf s.me.fcr r.2 = true → s.me.id.unit = .compute →
       Traps (.fcvt dst src d a) s Cause.fpe 0 (r.2.setWidth 64)) ∧
     (s.me.fcr.getLsbD 2 = false →
       (src = .bf16 → dst = .f32 → isNanF .bf16 (low src (s.x a)) = false → r = (low src (s.x a) * 65536, 0)) ∧
       (src = .f32 → dst = .bf16 → isNanF .f32 (low src (s.x a)) = false → s.me.fcr.toNat % 4 = 1 →
         r.1 = low src (s.x a) / 65536)))

/-- R57, R90: the branches, taken to a target that passes R57, taken to one that does not (BADTGT), and not taken. Neither writes a
register; the check of the target changes no more than a page-table mark. R57, R91, R92: the jumps and LOOP likewise. JALR takes
its target from x[a] before x[d] is written; LOOP falls through when the counter reaches 0, and a bad target leaves it. -/
def Obligations.BranchesAndJumps : Prop :=
  (∀ (a b : Reg) (disp : BitVec 10) (dz : BitVec 15) (s u : State),
     let T := s.me.pc + disp.signExtend 64 * 4
     let Z := s.me.pc + dz.signExtend 64 * 4
     let bad (T : W64) : Prop := T.toNat % 4 ≠ 0 ∨ 2 ^ 54 ≤ T.toNat ∨ ∃ u, Gives (M.bitmapBit T) s false u
     let rule (i : Instr) (c : Prop) (T : W64) : Prop :=
       (c → Gives (M.target T) s () u → Completes i s (JumpsX u 0 0 T)) ∧ (¬ c → Completes i s (WritesNothing s 4)) ∧
         (c → bad T → s.me.id.unit = .compute → Traps i s Cause.badtgt T 0)
     rule (.beq a b disp) (s.x a = s.x b) T ∧
     rule (.bne a b disp) (s.x a ≠ s.x b) T ∧
     rule (.blt a b disp) ((s.x a).toInt < (s.x b).toInt) T ∧
     rule (.bge a b disp) ((s.x b).toInt ≤ (s.x a).toInt) T ∧
     rule (.bltn a b disp) ((s.x a).toNat < (s.x b).toNat) T ∧
     rule (.bgen a b disp) ((s.x b).toNat ≤ (s.x a).toNat) T ∧
     rule (.bz a dz) (s.x a = 0) Z ∧
     rule (.bnz a dz) (s.x a ≠ 0) Z ∧
     rule (.bltz a dz) ((s.x a).toInt < 0) Z ∧
     rule (.bgez a dz) (0 ≤ (s.x a).toInt) Z ∧
     rule (.bgtz a dz) (0 < (s.x a).toInt) Z ∧
     rule (.blez a dz) ((s.x a).toInt ≤ 0) Z ∧
     (∀ t : W64, Gives (M.target t) s () u → WalkOnly s u)) ∧
  (∀ (d a : Reg) (imm : BitVec 25) (k : BitVec 15) (s u : State),
     let P := s.me.pc
     let J := P + imm.signExtend 64 * 4
     let R := s.x a + k.signExtend 64
     let L := P + k.signExtend 64 * 4
     let bad (T : W64) : Prop := T.toNat % 4 ≠ 0 ∨ 2 ^ 54 ≤ T.toNat ∨ ∃ u, Gives (M.bitmapBit T) s false u
     (Gives (M.target J) s () u → Completes (.j imm) s (JumpsX u 0 0 J) ∧ Completes (.jal imm) s (JumpsX u 1 (P + 4) J)) ∧
     (Gives (M.target R) s () u → Completes (.jalr d a k) s (JumpsX u d (P + 4) R)) ∧
     (s.x a = 1 → Completes (.loop a k) s (WritesX s a 0 4)) ∧
     (s.x a ≠ 1 → Gives (M.target L) s () u → Completes (.loop a k) s (JumpsX u a (s.x a - 1) L)) ∧
     (s.me.id.unit = .compute →
       (bad J → Traps (.j imm) s Cause.badtgt J 0 ∧ Traps (.jal imm) s Cause.badtgt J 0) ∧
       (bad R → Traps (.jalr d a k) s Cause.badtgt R 0) ∧ (s.x a ≠ 1 → bad L → Traps (.loop a k) s Cause.badtgt L 0)))

/-- R94, R100: TRAP and BKPT take their traps at any level, with EADDR 0 and EINFO n; EPC holds the instruction. -/
def Obligations.TrapAndBkpt : Prop :=
  ∀ (n : BitVec 12) (s : State), s.me.id.unit = .compute →
    Traps (.trap n) s 21 0 (n.setWidth 64) ∧ Traps (.bkpt n) s 22 0 (n.setWidth 64)

/-- R96: ERET at level K returns to EPC at the level ECAUSE.PK names and leaves ECAUSE, EADDR and EINFO; to a bad target it raises
BADTGT, and at level S PERM. -/
def Obligations.EretReturns : Prop :=
  ∀ (s u : State),
    (s.me.level ≠ .s → Gives (M.target s.me.epc) s () u → Completes .eret s (Returns u)) ∧
    (s.me.level = .s → s.me.id.unit = .compute → Traps .eret s Cause.perm 0 0) ∧
    (s.me.level ≠ .s → s.me.id.unit = .compute →
      (s.me.epc.toNat % 4 ≠ 0 ∨ 2 ^ 54 ≤ s.me.epc.toNat ∨ ∃ u, Gives (M.bitmapBit s.me.epc) s false u) →
      Traps .eret s Cause.badtgt s.me.epc 0)

/-- R24, R25, R101: MFS writes x[d] with the register's value at a level that may read it, and raises PERM with the
register's number at a lower one. -/
def Obligations.MfsReads : Prop :=
  ∀ (d : Reg) (reg : BitVec 12) (s : State),
    let r := reg.toNat
    let low := s.me.level = .s ∧ (r = 0x011 ∨ r = 0x014 ∨ r = 0x0F0) ∨ s.me.level = .k ∧ r = 0x0F0
    (s.me.id.unit = .compute ∨ noHelper r = false → ¬ low → Completes (.mfs d reg) s (WritesX s d (s.sysReg r) 4)) ∧
    (s.me.id.unit = .compute → low → Traps (.mfs d reg) s Cause.perm (reg.setWidth 64) 0) ∧
    (s.me.id.unit = .compute → Completes (.mfsFstat d) s (WritesX s d s.me.fstat 4)) ∧
    s.sysReg 0x001 = BitVec.ofNat 64 s.me.id.tid ∧ s.sysReg 0x004 = BitVec.ofNat 64 s.me.place.vc ∧
    s.sysReg 0x008 = s.me.fcr ∧ s.sysReg 0x00A = s.me.sqcap ∧ s.sysReg 0x010 = s.me.ecause ∧
    s.sysReg 0x011 = s.me.epc ∧ s.sysReg 0x012 = s.me.eaddr ∧ s.sysReg 0x013 = s.me.einfo ∧
    s.sysReg 0x014 = s.me.tvec ∧ s.sysReg 0x022 = BitVec.ofNat 64 (s.me.unack % 65536) ∧
    (∀ c : Fin 64, s.sysReg (0x40 + c.val) = (s.me.chwm.get c).setWidth 64)

/-- R24, R25, R101: the registers MTS writes, each at a level that may write it, with a value of its range.
R24: an MTS of a register the level may not write raises PERM with its number, at level S for the registers of level
K, at levels S and K for L2MASK, and at every level for a read-only register. -/
def Obligations.MtsWrites : Prop :=
  (∀ (a : Reg) (s : State),
     let v := s.x a
     let c := s.me
     let kern := c.level ≠ .s
     (c.id.unit = .compute → v.toNat < 512 → Completes (.mtsFcr a) s (SetsContext s { c with fcr := v })) ∧
     (c.id.unit = .compute → v.toNat < 32 → Completes (.mtsFstat a) s (SetsContext s { c with fstat := v })) ∧
     (kern → 1 ≤ v.toNat → v.toNat ≤ 16 → Completes (.mtsSqcap a) s (SetsContext s { c with sqcap := v })) ∧
     (kern → v.toNat % 4 = 0 → Completes (.mtsTvec a) s (SetsContext s { c with tvec := v })) ∧
     (kern → v.toNat < 4096 → v.getLsbD 9 = false → v.extractLsb' 10 2 ≠ 3 →
       Completes (.mts 0x010 a) s (SetsContext s { c with ecause := v })) ∧
     (kern → Completes (.mts 0x011 a) s (SetsContext s { c with epc := v })) ∧
     (kern → Completes (.mts 0x012 a) s (SetsContext s { c with eaddr := v })) ∧
     (kern → Completes (.mts 0x013 a) s (SetsContext s { c with einfo := v })) ∧
     (kern → v.extractLsb' 2 4 = 0 → Completes (.mts 0x023 a) s (SetsContext s { c with racecfg := v })) ∧
     (s.myCore.streamClash v = none → Completes (.mtsHmask a) s (SetsCore s (s.myCore.setMask v))) ∧
     (v.toNat % 4 = 3 → Completes (.mtsHacc a) s (SetsCore s (s.myCore.setAcc v))) ∧
     (∀ i : Fin 64, ((s.myCore.setMask v).htab.get i).enable = v.getLsbD i ∧
       ((s.myCore.setAcc v).htab.get i).accept = v.getLsbD i) ∧
     (kern → v.toNat < 2 ^ 32 →
       Completes (.mtsSlotw a) s (SetsCore s { s.myCore with slotwNew := some (v.setWidth 32) })) ∧
     (c.level = .h → v.toNat < 65536 → s.myLaunch.vf < 16 → Completes (.mtsL2mask a) s (fun t =>
       t.me = { c.dropPend with pc := c.pc + 4, wait := none } ∧ t = { s with me := t.me, vfs := t.vfs } ∧ SameMem s t ∧
       ∀ p f, f < 16 → t.vfun p f =
         if p = c.place.pkg ∧ f = s.myLaunch.vf then { s.vfun p f with l2mask := v.setWidth 16 } else s.vfun p f))) ∧
  (∀ (a : Reg) (reg : BitVec 12) (s : State), s.me.id.unit = .compute →
     (s.me.level = .s → 1 ≤ (s.x a).toNat → (s.x a).toNat ≤ 16 → Traps (.mtsSqcap a) s Cause.perm 0x00A 0) ∧
     (s.me.level = .s → (s.x a).toNat % 4 = 0 → Traps (.mtsTvec a) s Cause.perm 0x014 0) ∧
     (s.me.level = .s → (s.x a).toNat < 2 ^ 32 → Traps (.mtsSlotw a) s Cause.perm 0x030 0) ∧
     (s.me.level ≠ .h → (s.x a).toNat < 65536 → Traps (.mtsL2mask a) s Cause.perm 0x0F0 0) ∧
     (s.me.level = .s → (reg = 0x011 ∨ reg = 0x012 ∨ reg = 0x013) → Traps (.mts reg a) s Cause.perm (reg.setWidth 64) 0) ∧
     (writeLevel reg.toNat = none → Traps (.mts reg a) s Cause.perm (reg.setWidth 64) 0))

/-- R102: SYNCI waits for AMOPs still on their way to a peer, and otherwise brings the strand's fetch up to every store so
far and has no other effect.
R123, R270: a fence waits for the work it names and otherwise changes only the interval counters of its scope and the
narrower ones. That SYNCI waits for those AMOPs (log entry 26) and what a fence of the engine class waits for (log entry 30) are
readings of the model. -/
def Obligations.SynciAndFences : Prop :=
  (∀ (s : State),
     (s.me.farAmop = false → Completes .synci s (RetiresAs s { s.me with synced := s.codeLog.length } 4)) ∧
     (s.me.farAmop = true → Waits .synci s (.amops .sys)) ∧
     (∀ k n what, s.me.synced = s.codeLog.length → s.codeBytes k n what = bytesAt s k n)) ∧
  (∀ (kind : BitVec 2) (sc : Scope) (s : State),
     let n := sc.code.toNat
     ((kind.getLsbD 0 = true → s.engineBusy sc = false) → (kind.getLsbD 1 = true → s.amopBusy sc = false) →
       Completes (.fence kind sc) s (fun t =>
         t.me = { s.me.dropPend with pc := s.me.pc + 4, wait := none, ivals := t.me.ivals } ∧
         (s.me.id.unit = .compute → ∀ i : Fin 5, t.me.ivals.get i = s.me.ivals.get i + if i.val ≤ n then 1 else 0) ∧
         (s.me.id.unit ≠ .compute → t.me.ivals = s.me.ivals) ∧
         t = { s with me := t.me, rest := t.rest } ∧
         t.rest = s.rest.map (fun c => if c.id = s.me.id.comp then c.bump n else c) ∧ SameMem s t)) ∧
     (kind.getLsbD 0 = true → s.engineBusy sc = true → Waits (.fence kind sc) s (.engines sc)) ∧
     (kind.getLsbD 0 = false → kind.getLsbD 1 = true → s.amopBusy sc = true → Waits (.fence kind sc) s (.amops sc)))

/-- R105, R109, R111: LD at every type but .c4 and VLD, from the strand's own private window: the bytes of memory, lowest
first, extended as R81 states for integer types; no byte of memory changes.
R105, R109, R111: ST and VST to the strand's own private window: the low bytes of the register, lowest first, at the
address computed; every other byte and every register stay.
R104, R109, R239-R243, R249, R251: LD and ST at a global address that a leaf of the package's own DRAM maps with the
rights: the bytes at the physical address; of the rest of memory only the leaf's marks (R242). A store to a line of the
tables waits for the accesses in flight that used it. -/
def Obligations.LoadsAndStores : Prop :=
  (∀ (t : Ty) (cf : Bool) (d a : Reg) (off : BitVec 11) (s : State) (o : Nat), Quiet s → o < 0x4000 → t.notC4 = true →
     let w := leNat (bytesAt s (privKey s o) t.bytes)
     (s.x a + off.signExtend 64 * BitVec.ofNat 64 t.bytes = privAddr o → o % t.bytes = 0 →
       ∃ stamps pts, Completes (.ld t d a off) s
         (WritesX { s with stamps := stamps, me := { s.me with wlog := [], pts := pts } } d (if t.isInt then wide t (BitVec.ofNat t.bits w) else BitVec.ofNat 64 w) 4)) ∧
     (s.x a + off.signExtend 64 * 16 = privAddr o → o % 16 = 0 →
       ∃ stamps pts, Completes (.vld cf d a off) s
         (WritesV { s with stamps := stamps, me := { s.me with wlog := [], pts := pts } } d (BitVec.ofNat 128 (leNat (bytesAt s (privKey s o) 16))) 4))) ∧
  (∀ (t : Ty) (cf : Bool) (d a : Reg) (off : BitVec 11) (s : State) (o : Nat),
     MemoryOk s → Quiet s → o < 0x4000 → t.notC4 = true →
     (s.x a + off.signExtend 64 * BitVec.ofNat 64 t.bytes = privAddr o → o % t.bytes = 0 →
       Completes (.st t d a off) s (StoresAt s (privKey s o) (wordBytes t.bytes (s.x d)) 4)) ∧
     (s.x a + off.signExtend 64 * 16 = privAddr o → o % 16 = 0 →
       Completes (.vst cf d a off) s (StoresAt s (privKey s o) (wordBytes 16 (s.v d)) 4))) ∧
  (∀ (t : Ty) (d a : Reg) (off : BitVec 11) (s : State) (f : Leaf), MemoryOk s → Quiet s → t.notC4 = true →
     let A := s.x a + off.signExtend 64 * BitVec.ofNat 64 t.bytes
     let g := s.me.place.gcore
     let vf := s.myLaunch.vf
     let k := dramKey s.me.place.pkg (f.phys A.toNat)
     A.toNat < 2 ^ 55 → A.toNat % t.bytes = 0 → f.aper = 0 →
     (s.translateAt g vf s.me.level A.toNat .load = .ok f →
       let m := s.useLeaf g vf A.toNat f false
       let w := leNat (bytesAt m k t.bytes)
       ∃ stamps pts, Completes (.ld t d a off) s
         (WritesX { m with stamps := stamps, me := { s.me with wlog := [], pts := pts } } d
           (if t.isInt then wide t (BitVec.ofNat t.bits w) else BitVec.ofNat 64 w) 4)) ∧
     (s.translateAt g vf s.me.level A.toNat .store = .ok f → s.lineBusy k t.bytes = false →
       Completes (.st t d a off) s (StoresAt (s.useLeaf g vf A.toNat f true) k (wordBytes t.bytes (s.x d)) 4)) ∧
     (∀ w, WalkOnly s (s.useLeaf g vf A.toNat f w) ∨ s.walkAt g vf A.toNat ≠ .ok f))

/-- R104, R109-R111: the load and store forms of one access, in any window: when the access goes through, the instruction
completes with its bytes, or with its bytes stored, and the state is otherwise as the access left it. -/
def Obligations.LoadStoreAnyWindow : Prop :=
  ∀ (t : Ty) (cf : Bool) (q : Qual) (d a : Reg) (qr : Reg3) (off : BitVec 11) (imm : BitVec 32) (s u : State)
    (bs : List Byte),
    let A := s.x a + off.signExtend 64 * BitVec.ofNat 64 t.bytes
    let V := s.x a + off.signExtend 64 * 16
    let X := s.x a + imm.signExtend 64
    let some_ := ∃ i, i < 128 / t.bits ∧ (s.me.getM q.mask).getLsbD (i * t.bits / 8) = true
    (Gives (M.load A t.bytes) s bs u → Completes (.ld t d a off) s
      (WritesX u d (if t.isInt then wide t (BitVec.ofNat t.bits (leNat bs)) else BitVec.ofNat 64 (leNat bs)) 4)) ∧
    (Gives (M.store A (leBytes t.bytes (s.x d).toNat)) s () u → Completes (.st t d a off) s (WritesNothing u 4)) ∧
    (Gives (M.load V 16) s bs u → bs.length = 16 →
      Completes (.vld cf d a off) s (WritesV u d (BitVec.ofNat 128 (leNat bs)) 4)) ∧
    (Gives (M.store V (wordBytes 16 (s.v d))) s () u → Completes (.vst cf d a off) s (WritesNothing u 4)) ∧
    (t.notC4 = true → some_ → Gives (M.load X 16) s bs u → bs.length = 16 →
      WritesLanes (.vldX t cf q d a imm) s u d t.bits (s.me.getM q.mask) q.z (lane t.bits (BitVec.ofNat 128 (leNat bs))) 12) ∧
    (t.notC4 = true → ¬ some_ → WritesLanes (.vldX t cf q d a imm) s s d t.bits (s.me.getM q.mask) q.z (fun _ => 0) 12 ∧
      Completes (.vstX t cf q d a imm) s (WritesNothing s 12)) ∧
    (some_ → (∃ (s1 : State) (tg : Target), Gives (M.kept (M.resolve X 16 .store)) s tg s1 ∧
        Gives (M.stores [(tg, (wordBytes 16 (s.v d)).zipIdx.map
          (fun (b, j) => if (s.me.getM q.mask).getLsbD (8 * j / t.bits * t.bits / 8) then some b else none))]) s1 () u) →
      Completes (.vstX t cf q d a imm) s (WritesNothing u 12)) ∧
    (s.myQueues.full s.me.id.unit qr = false →
      Gives (M.load (s.x a) 16) (s.modMyQueues (·.hold s.me.id.unit qr 16)) bs u → u.me.id = s.me.id →
      Completes (.ldq qr a) s (fun w =>
        (∀ r, (w.slotq s.me.id.launch s.me.id.seat).q.get r = if r = qr.toFin
          then (u.slotq s.me.id.launch s.me.id.seat).q.get r ++ [BitVec.ofNat 128 (leNat bs)]
          else (u.slotq s.me.id.launch s.me.id.seat).q.get r) ∧
        w.me = { u.me.dropPend with pc := u.me.pc + 4, wait := none, released := w.me.released } ∧
        w.mem = u.mem ∧ w.rest = u.rest)) ∧
    (∀ e r, s.myQueues.heldByOthers s.me.id.unit qr = false → s.myQueues.q.get qr.toFin = e :: r →
      Gives (M.store (s.x a) (wordBytes 16 e)) (s.modMyQueues (·.hold s.me.id.unit qr 1)) () u → u.me.id = s.me.id →
      Completes (.stq a qr) s (fun w =>
        (∀ r, (w.slotq s.me.id.launch s.me.id.seat).q.get r = if r = qr.toFin
          then ((u.slotq s.me.id.launch s.me.id.seat).q.get r).drop 1
          else (u.slotq s.me.id.launch s.me.id.seat).q.get r) ∧
        w.me = { u.me.dropPend with pc := u.me.pc + 4, wait := none, released := w.me.released } ∧
        w.mem = u.mem ∧ w.rest = u.rest))

/-- R104, R105: the frame of loads and stores outside the global window, whatever the instruction does (retire, trap or
wait): a load changes no byte of memory, and a store none outside the bytes at the address it computes. -/
def Obligations.StoreFrame : Prop :=
  ∀ (t : Ty) (cf : Bool) (q : Qual) (d a : Reg) (qr : Reg3) (off : BitVec 11) (imm : BitVec 32) (s w : State), NoLog s →
    MemoryOk s → (∀ x ∈ s.plan, x.2.isMem = false) →
    let A := s.x a + off.signExtend 64 * BitVec.ofNat 64 t.bytes
    let V := s.x a + off.signExtend 64 * 16
    let X := s.x a + imm.signExtend 64
    let outside (B : W64) (n : Nat) : Prop := ∀ j,
      (∀ (acc : Acc) (u : State), Gives (M.resolve B n .store) s (.mem acc) u → ∀ i, i < n → j ≠ s.activeKey (acc.key + i)) →
      Memory.get w.mem j = Memory.get s.mem j
    (A.extractLsb' 56 8 ≠ 0 →
      (Sys2Proof.Machine.exec (.ld t d a off) s = .next w → SameMem s w) ∧
      (Sys2Proof.Machine.exec (.st t d a off) s = .next w → outside A t.bytes)) ∧
    (V.extractLsb' 56 8 ≠ 0 →
      (Sys2Proof.Machine.exec (.vld cf d a off) s = .next w → SameMem s w) ∧
      (Sys2Proof.Machine.exec (.vst cf d a off) s = .next w → outside V 16)) ∧
    (X.extractLsb' 56 8 ≠ 0 →
      (Sys2Proof.Machine.exec (.vldX t cf q d a imm) s = .next w → SameMem s w) ∧
      (Sys2Proof.Machine.exec (.vstX t cf q d a imm) s = .next w → outside X 16)) ∧
    ((s.x a).extractLsb' 56 8 ≠ 0 →
      (Sys2Proof.Machine.exec (.ldq qr a) s = .next w → SameMem s w) ∧
      (Sys2Proof.Machine.exec (.stq a qr) s = .next w → outside (s.x a) 16))

/-- R104, R106: an access whose address is not a multiple of its size raises ALIGN with EINFO the size, before any
translation; nothing is loaded or stored.
R19, R20: an address whose top byte names no window, or with a bit outside its window's fields, raises SPACE; a local
pointer to another core raises FOREIGN with the two cores in EINFO. -/
def Obligations.AddressChecks : Prop :=
  (∀ (t : Ty) (cf : Bool) (d a c : Reg) (b : SrcB) (off : BitVec 11) (s : State), s.me.id.unit = .compute → t.notC4 = true →
     s.shadows = [] → s.me.pendOf = none →
     let A := s.x a + off.signExtend 64 * BitVec.ofNat 64 t.bytes
     let V := s.x a + off.signExtend 64 * 16
     let own (B : W64) : Prop := B.toNat < 2 ^ 55 ∨ ∃ o, o < 0x4000 ∧ B = privAddr o
     (own A → A.toNat % t.bytes ≠ 0 →
       Traps (.ld t d a off) s Cause.align A (BitVec.ofNat 64 t.bytes) ∧
       Traps (.st t d a off) s Cause.align A (BitVec.ofNat 64 t.bytes)) ∧
     (own V → V.toNat % 16 ≠ 0 → Traps (.vld cf d a off) s Cause.align V 16 ∧ Traps (.vst cf d a off) s Cause.align V 16) ∧
     (own (s.x a) → (s.x a).toNat % t.bytes ≠ 0 →
       Traps (.amoAdd t d a b) s Cause.align (s.x a) (BitVec.ofNat 64 t.bytes) ∧
       Traps (.amopAdd t a b) s Cause.align (s.x a) (BitVec.ofNat 64 t.bytes) ∧
       Traps (.cas t d a b c) s Cause.align (s.x a) (BitVec.ofNat 64 t.bytes))) ∧
  (∀ (t : Ty) (d a : Reg) (off : BitVec 11) (s : State), s.me.id.unit = .compute → s.me.pendOf = none →
     let A := s.x a + off.signExtend 64 * BitVec.ofNat 64 t.bytes
     let top := (A.extractLsb' 56 8).toNat
     let both (c : Nat) (e : W64) : Prop := Traps (.ld t d a off) s c A e ∧ Traps (.st t d a off) s c A e
     (0 < top ∧ top < 0xF0 ∨ 0xF4 < top → both Cause.space 0) ∧
     (top = 0 → A.getLsbD 55 = true → both Cause.space 0) ∧
     (top = 0xF0 → A.extractLsb' 14 42 ≠ 0 → both Cause.space 0) ∧
     (top = 0xF1 → (A.extractLsb' 47 9 ≠ 0 ∨ A.extractLsb' 19 17 ≠ 0) → both Cause.space 0) ∧
     (top = 0xF2 → A.extractLsb' 25 31 ≠ 0 → both Cause.space 0) ∧
     (top = 0xF3 → A.extractLsb' 28 28 ≠ 0 → both Cause.space 0) ∧
     (top = 0xF4 → s.flaggedOf s.me.id = none → both Cause.space 0) ∧
     (top = 0xF1 → A.extractLsb' 47 9 = 0 → A.extractLsb' 19 17 = 0 → (s.pkg s.me.place.pkg).gradeB = false →
       (A.extractLsb' 36 11).toNat ≠ s.me.place.core →
       both Cause.foreign (BitVec.ofNat 64 (s.me.place.core * 65536 + (A.extractLsb' 36 11).toNat))))

/-- R115-R118: SPTEST writes its word and touches nothing; SPCAST between every pair of windows of R116, SPMAKE for each window,
both SPACE otherwise; PREF changes nothing that can be seen. A gang pointer's member is where the window's check finds it
(R19, R220). -/
def Obligations.Pointers : Prop :=
  ∀ (w : Win) (l2 : Bool) (d a : Reg) (o c g : Nat) (s : State),
    let p := s.me.place
    let mine := 0x5_0000 + p.slot * 0x4000
    (∃ tw, Completes (.sptest d a) s (WritesX s d tw 4) ∧
      (o < 0x4000 → s.x a = privAddr o → tw.extractLsb' 0 4 = 1 ∧ tw.getLsbD 4 = true ∧ tw.getLsbD 5 = true ∧
        tw.getLsbD 6 = true ∧ tw.extractLsb' 7 57 = 0) ∧
      (0xF4 < (s.x a).toNat / 2 ^ 56 → tw.extractLsb' 0 4 = 15 ∧ tw.getLsbD 5 = false ∧ tw.extractLsb' 8 8 = 4)) ∧
    (o < 0x4000 → s.x a = privAddr o → p.core < 2048 → p.slot < 4 →
      Completes (.spcast .priv d a) s (WritesX s d (s.x a) 4) ∧
      Completes (.spcast .loc d a) s
        (WritesX s d (BitVec.ofNat 64 (0xF1 * 2 ^ 56 + p.core * 2 ^ 36 + mine + o)) 4)) ∧
    (o < 0x4000 → p.core < 2048 → p.slot < 4 → s.x a = BitVec.ofNat 64 (0xF1 * 2 ^ 56 + p.core * 2 ^ 36 + mine + o) →
      Completes (.spcast .priv d a) s (WritesX s d (privAddr o) 4)) ∧
    (s.x a = BitVec.ofNat 64 o → o < 2 ^ 55 → s.me.id.unit = .compute → w ≠ .glob →
      Traps (.spcast w d a) s Cause.space (s.x a) (w.code.setWidth 64)) ∧
    (o < 0x8_0000 → c < 2048 → p.core < 2048 → p.slot < 4 → s.x a = BitVec.ofNat 64 (0xF1 * 2 ^ 56 + c * 2 ^ 36 + o) →
      Completes (.spcast .loc d a) s (WritesX s d (s.x a) 4) ∧
      (c / 256 = p.core / 256 → 0x6_0000 ≤ o → Completes (.spcast .clus d a) s
        (WritesX s d (BitVec.ofNat 64 (0xF2 * 2 ^ 56 + c % 256 * 2 ^ 17 + (o - 0x6_0000))) 4)) ∧
      (s.me.id.unit = .compute → c / 256 ≠ p.core / 256 ∨ o < 0x6_0000 → Traps (.spcast .clus d a) s Cause.space (s.x a) 3) ∧
      (s.me.id.unit = .compute → c ≠ p.core ∨ o < mine ∨ mine + 0x4000 ≤ o → Traps (.spcast .priv d a) s Cause.space (s.x a) 1)) ∧
    (o < 0x2_0000 → c < 256 → p.core < 2048 → s.x a = BitVec.ofNat 64 (0xF2 * 2 ^ 56 + c * 2 ^ 17 + o) →
      Completes (.spcast .clus d a) s (WritesX s d (s.x a) 4) ∧
      Completes (.spcast .loc d a) s
        (WritesX s d (BitVec.ofNat 64 (0xF1 * 2 ^ 56 + (p.core / 256 * 256 + c) * 2 ^ 36 + o + 0x6_0000)) 4)) ∧
    (o < 2 ^ 18 → c < 2 ^ 12 → s.x a = BitVec.ofNat 64 (0xF4 * 2 ^ 56 + c * 2 ^ 18 + o) →
      Completes (.spcast .gang d a) s (WritesX s d (s.x a) 4) ∧
      (∀ off, s.spot (s.x a) false = .ok (.sp g off) →
        (g / 2048 = p.pkg → Completes (.spcast .loc d a) s
          (WritesX s d (BitVec.ofNat 64 (0xF1 * 2 ^ 56 + g % 2048 * 2 ^ 36 + off)) 4)) ∧
        (g / 2048 ≠ p.pkg → s.me.id.unit = .compute → Traps (.spcast .loc d a) s Cause.space (s.x a) 2)) ∧
      (∀ e, s.spot (s.x a) false = .error e → s.me.id.unit = .compute → Traps (.spcast .loc d a) s Cause.space (s.x a) 2)) ∧
    (s.x a = BitVec.ofNat 64 o → p.core < 2048 →
      (o < 0x4000 → Completes (.spmake .priv d a) s (WritesX s d (privAddr o) 4)) ∧
      (o < 0x8_0000 → Completes (.spmake .loc d a) s
        (WritesX s d (BitVec.ofNat 64 (0xF1 * 2 ^ 56 + p.core * 2 ^ 36 + o)) 4)) ∧
      (o < 0x2_0000 → Completes (.spmake .clus d a) s
        (WritesX s d (BitVec.ofNat 64 (0xF2 * 2 ^ 56 + p.core % 256 * 2 ^ 17 + o)) 4)) ∧
      (o < 0x200_0000 → Completes (.spmake .die d a) s
        (WritesX s d (BitVec.ofNat 64 (0xF3 * 2 ^ 56 + p.core / 256 * 2 ^ 25 + o)) 4)) ∧
      (0x4000 ≤ o → o < 2 ^ 64 → s.me.id.unit = .compute → Traps (.spmake .priv d a) s Cause.space (s.x a) 1) ∧
      (o < 2 ^ 55 → Completes (.spmake .glob d a) s (WritesX s d (s.x a) 4)) ∧
      (2 ^ 55 ≤ o → o < 2 ^ 64 → s.me.id.unit = .compute → Traps (.spmake .glob d a) s Cause.space (s.x a) 0)) ∧
    (s.x a = BitVec.ofNat 64 o → o < 2 ^ 64 →
      (∀ gr m, s.flaggedOf s.me.id.comp = some (gr, m) → gr.gang = true → gr.winOpen = true → m.win = .attached →
        (o < m.len → Completes (.spmake .gang d a) s
          (WritesX s d (BitVec.ofNat 64 (0xF4 * 2 ^ 56 + m.idx * 2 ^ 18 + o)) 4)) ∧
        (m.len ≤ o → s.me.id.unit = .compute → Traps (.spmake .gang d a) s Cause.space (s.x a) 5)) ∧
      (s.flaggedOf s.me.id.comp = none → s.me.id.unit = .compute → Traps (.spmake .gang d a) s Cause.space (s.x a) 5)) ∧
    Completes (.pref l2 a) s (WritesNothing s 4)

/-- R119, R121: AMO in the strand's own private window, at every operation: x[d] takes the old value, memory the new one,
as one event; the flags of .fadd are not kept.
R119, R121, R123: AMOP in the strand's own private window: memory takes the new value, no register changes, and UNACK
counts it until its acknowledgement.
R120: CAS in the strand's own private window: x[d] takes the old value, and x[c] is stored exactly when memory held
x[b]. -/
def Obligations.Atomics : Prop :=
  (∀ (t : Ty) (d a : Reg) (b : SrcB) (s : State) (o : Nat), MemoryOk s → Quiet s → o < 0x4000 → o % t.bytes = 0 →
     t.notC4 = true → s.x a = privAddr o →
     let k := privKey s o
     let M : BitVec t.bits := BitVec.ofNat t.bits (leNat (bytesAt s k t.bytes))
     let B := narrow t (bval s b)
     let old := if t.isInt then wide t M else M.setWidth 64
     let gets (i : Instr) (r : BitVec t.bits) : Prop :=
       Completes i s (AtomicAt s k (wordBytes t.bytes r) d old (blen 4 b))
     gets (.amoAdd t d a b) (M + B) ∧
     gets (.amoAnd t d a b) (M &&& B) ∧
     gets (.amoOr t d a b) (M ||| B) ∧
     gets (.amoXor t d a b) (M ^^^ B) ∧
     gets (.amoMin t d a b) (if B.slt M then B else M) ∧
     gets (.amoMax t d a b) (if M.slt B then B else M) ∧
     gets (.amoMinn t d a b) (if B < M then B else M) ∧
     gets (.amoMaxn t d a b) (if M < B then B else M) ∧
     gets (.amoSwap t d a b) (B) ∧
     gets (.amoFadd t d a b) (BitVec.ofNat t.bits (fAdd (fctxOf s.me.fcr) .f32 M.toNat B.toNat).1)) ∧
  (∀ (t : Ty) (a : Reg) (b : SrcB) (s : State) (o : Nat), MemoryOk s → Quiet s → o < 0x4000 → o % t.bytes = 0 →
     t.notC4 = true → s.x a = privAddr o →
     let k := privKey s o
     let M : BitVec t.bits := BitVec.ofNat t.bits (leNat (bytesAt s k t.bytes))
     let B := narrow t (bval s b)
     let posts (i : Instr) (r : BitVec t.bits) : Prop :=
       Completes i s (PostedAt s k (wordBytes t.bytes r)
         { ref := s.next, home := Home.ofCore s.me.place.gcore, va := s.x a, lines := [], away := false, gang := false }
         (blen 4 b))
     posts (.amopAdd t a b) (M + B) ∧
     posts (.amopAnd t a b) (M &&& B) ∧
     posts (.amopOr t a b) (M ||| B) ∧
     posts (.amopXor t a b) (M ^^^ B) ∧
     posts (.amopMin t a b) (if B.slt M then B else M) ∧
     posts (.amopMax t a b) (if M.slt B then B else M) ∧
     posts (.amopMinn t a b) (if B < M then B else M) ∧
     posts (.amopMaxn t a b) (if M < B then B else M) ∧
     posts (.amopSwap t a b) (B) ∧
     posts (.amopFadd t a b) (BitVec.ofNat t.bits (fAdd (fctxOf s.me.fcr) .f32 M.toNat B.toNat).1)) ∧
  (∀ (t : Ty) (d a c : Reg) (b : SrcB) (s : State) (o : Nat), MemoryOk s → Quiet s → o < 0x4000 → o % t.bytes = 0 →
     t.notC4 = true → s.x a = privAddr o →
     let k := privKey s o
     let M : BitVec t.bits := BitVec.ofNat t.bits (leNat (bytesAt s k t.bytes))
     (M = narrow t (bval s b) →
       Completes (.cas t d a b c) s (AtomicAt s k (wordBytes t.bytes (s.x c)) d (wide t M) (blen 12 b))) ∧
     (M ≠ narrow t (bval s b) →
       Completes (.cas t d a b c) s (AtomicAt s k (wordBytes t.bytes M) d (wide t M) (blen 12 b))))

/-- R111, R137: the strided and indexed vector accesses: when each active element's access is checked and performed, the
active elements of a load take the bytes at their addresses and the others keep their value or take zero; a store
changes no register.
R112: VLDB and VSTB of a record: lane i names view element x[a] + i (two codes a lane for .c4), and lanes beyond the
view are inactive; the checks of type, view and x[a] in their order. -/
def Obligations.VectorMemory : Prop :=
  (∀ (t : Ty) (cf : Bool) (q : Qual) (d a b : Reg) (s s1 u : State) (ts : List (Nat × Target)) (bss : List (List Byte)),
     t.notC4 = true →
     let n := t.bits
     let m := s.me.getM q.mask
     let act := (List.range (128 / n)).filter (fun i => m.getLsbD (i * n / 8))
     let strided := act.map (fun i => (i, s.x a + BitVec.ofNat 64 i * s.x b))
     let indexed := act.map (fun i => (i, s.x a + wide t (lane n (s.v b) i)))
     let elem (i : Nat) : BitVec n := BitVec.ofNat n (leNat (((act.zip bss).lookup i).getD []))
     let loads (i : Instr) (at_ : List (Nat × W64)) : Prop :=
       Gives (M.lanes cf (n / 8) .load at_) s ts s1 → ts.map (·.1) = act → Gives (M.loads (ts.map (·.2))) s1 bss u →
       bss.length = act.length → u.me.v = s.me.v → WritesLanes i s u d n m q.z elem 12
     let stores (i : Instr) (at_ : List (Nat × W64)) : Prop :=
       Gives (M.lanes cf (n / 8) .store at_) s ts s1 →
       Gives (M.stores (ts.map (fun (i, tg) => (tg, (wordBytes (n / 8) (lane n (s.v d) i)).map some)))) s1 () u →
       Completes i s (WritesNothing u 12)
     loads (.vlds t cf q d a b) strided ∧ loads (.vgath t cf q d a b) indexed ∧
     stores (.vsts t cf q d a b) strided ∧ stores (.vscat t cf q d a b) indexed) ∧
  (∀ (t : Ty) (cf : Bool) (q : Qual) (d a : Reg) (view : View) (s s1 u : State) (w : Window) (ts : List (Nat × Target))
     (bss : List (List Byte)), t.notC4 = true → s.myLaunch.buf view.idx.toNat = .ok w.rec_ → w = windowOf w.rec_ view →
     let n := t.bits
     let m := s.me.getM q.mask
     let step := if w.rec_.ty = .c4 then 2 else 1
     let at0 := (s.x a).toNat
     let act := (List.range (128 / n)).filter (fun i => m.getLsbD (i * n / 8) && decide (at0 + step * i < w.count))
     let at_ := act.map (fun i => (i, w.addr (at0 + step * i)))
     let in_ (i : Nat) : Bool := act.contains i
     let fits := (w.rec_.ty = t ∨ w.rec_.ty = .c4 ∧ t = .n8 ∧ at0 % 2 = 0) ∧ w.start < w.rec_.e1 ∧
       w.start + w.rows ≤ w.rec_.e1 ∧ at0 < w.count
     let claim := cf || w.rec_.claim
     (fits → Gives (M.lanes claim (n / 8) .load at_) s ts s1 → ts.map (·.1) = act →
       Gives (M.loads (ts.map (·.2))) s1 bss u →
       bss.length = act.length → u.me.v = s.me.v →
       ∃ v, (∀ i, i < 128 / n → lane n v i = if in_ i then BitVec.ofNat n (leNat (((act.zip bss).lookup i).getD []))
               else if q.z then 0 else lane n (s.v d) i) ∧
         Completes (.vldb t cf q d a view) s (WritesV u d v 12)) ∧
     (fits → Gives (M.lanes claim (n / 8) .store at_) s ts s1 →
       Gives (M.stores (ts.map (fun (i, tg) => (tg, (wordBytes (n / 8) (lane n (s.v d) i)).map some)))) s1 () u →
       Completes (.vstb t cf q d a view) s (WritesNothing u 12)) ∧
     (s.me.id.unit = .compute → ¬ (w.rec_.ty = t ∨ w.rec_.ty = .c4 ∧ t = .n8) →
       Traps (.vldb t cf q d a view) s Cause.illop 0 (BitVec.ofNat 64 (2 ^ 61 + 2 * 2 ^ 40 + view.idx.toNat))) ∧
     (s.me.id.unit = .compute → (w.rec_.ty = t ∨ w.rec_.ty = .c4 ∧ t = .n8) → w.count ≤ at0 →
       Traps (.vldb t cf q d a view) s Cause.space w.rec_.base (BitVec.ofNat 64 view.idx.toNat)))

/-- R134, R135: barrier objects in the strand's own private window. An arrival that is the last one, with no transaction
due, flips the phase and sets the pending arrivals again. -/
def Obligations.Barriers : Prop :=
  ∀ (d a b : Reg) (s : State) (o : Nat), MemoryOk s → Quiet s → o < 0x4000 → o % 8 = 0 → s.x a = privAddr o →
    let k := privKey s o
    let w : W64 := BitVec.ofNat 64 (leNat (bytesAt s k 8))
    let phase := w.extractLsb' 48 16
    let txn := w.extractLsb' 24 24
    let arrp := w.extractLsb' 12 12
    let expa := w.extractLsb' 0 12
    let n := s.x b
    let after (x : BitVec 24) (y : BitVec 12) : W64 :=
      if x = 0 ∧ y = 0 then (phase + 1) ++ x ++ expa ++ expa else phase ++ x ++ y ++ expa
    (1 ≤ n.toNat → n.toNat ≤ 4095 → Completes (.barinit a b) s
      (StoresAt s k (wordBytes 8 ((0 : BitVec 16) ++ (0 : BitVec 24) ++ n.setWidth 12 ++ n.setWidth 12)) 4)) ∧
    (arrp ≠ 0 → Completes (.bararv d a) s
      (AtomicAt s k (wordBytes 8 (after txn (arrp - 1))) d (phase.setWidth 64) 4)) ∧
    (n.toNat < 2 ^ 23 → Completes (.barexp a b) s
      (AtomicAt s k (wordBytes 8 (after (txn + n.setWidth 24) arrp)) 0 0 4)) ∧
    (phase ≠ n.setWidth 16 → Completes (.barwait a b) s (AtomicAt s k (wordBytes 8 w) 0 0 4)) ∧
    Completes (.bartry d a b) s
      (AtomicAt s k (wordBytes 8 w) d (if phase = n.setWidth 16 then 0 else 1) 4) ∧
    (phase = n.setWidth 16 → Completes (.barwait a b) s (fun t =>
      t = { s with stamps := t.stamps, me := { s.me with wlog := [], pts := t.me.pts, wait := some .phase } })) ∧
    (s.me.id.unit = .compute → n.toNat = 0 ∨ 4095 < n.toNat →
      Traps (.barinit a b) s Cause.illop 0 (0x4000_0000_0000_0000 ||| (b.setWidth 64 <<< 32) ||| (n.setWidth 32).setWidth 64))

/-- R53, R55, R138, R139: what each kind of vector source gives: a register, the head of a queue (the next entry for a
second source of the same queue), 16 bytes of a channel's stream, two pool constants, a literal. -/
def Obligations.VectorSources : Prop :=
  ∀ (t : Ty) (r r' : Reg) (q : Reg3) (c : Chan) (i : BitVec 16) (k : BitVec 2) (v : W64) (e e' : V128) (rest : List V128)
    (s : State),
    Gives (M.vsrcs t (.reg r) (.reg r')) s (s.v r, s.v r') s ∧
    (t.notC4 = true → ∀ j, j < 128 / t.bits → k = 0 → lane t.bits (literal t k v) j = v.setWidth t.bits) ∧
    (∀ j, j < 4 → k = 1 → lane 32 (literal t k v) j = v.setWidth 32) ∧
    (∀ j, j < 2 → k = 2 → lane 64 (literal t k v) j = v) ∧
    Gives (M.vsrcs t (.reg r) (.lit k v)) s (s.v r, literal t k v) s ∧
    (∀ x y, s.myLaunch.pool[i.toNat]? = some x → s.myLaunch.kinds[i.toNat]? = some 1 →
      s.myLaunch.pool[i.toNat + 1]? = some y → s.myLaunch.kinds[i.toNat + 1]? = some 1 →
      Gives (M.vsrcs t (.pool i) (.reg r)) s (y ++ x, s.v r) s) ∧
    (s.myQueues.heldByOthers s.me.id.unit q = false → s.myQueues.q.get q.toFin = e :: rest →
      ∃ u, Gives (M.vsrcs t (.queue q) (.reg r)) s (e, s.v r) u ∧ u = { s with queues := u.queues } ∧
        ∀ w, w = taken u [.queue q, .reg r] → w.myQueues.q.get q.toFin = rest) ∧
    (s.myQueues.heldByOthers s.me.id.unit q = false → s.myQueues.q.get q.toFin = e :: e' :: rest →
      ∃ u, Gives (M.vsrcs t (.queue q) (.queue q)) s (e, e') u ∧ u = { s with queues := u.queues } ∧
        ∀ w, w = taken u [.queue q, .queue q] → w.myQueues.q.get q.toFin = rest) ∧
    (s.myCore.chHolds = [] → 16 ≤ (streamOf s.myCore.rq c.toNat).length → (s.myCore.htab.get c.toFin).enable = false →
      ∃ u, Gives (M.vsrcs t (.chan c) (.reg r)) s
        (BitVec.ofNat 128 (leNat ((streamOf s.myCore.rq c.toNat).take 16)), s.v r) u ∧ u = { s with cores := u.cores } ∧
        ∀ w, w = taken u [.chan c, .reg r] →
          streamOf w.myCore.rq c.toNat = (streamOf s.myCore.rq c.toNat).drop 16)

/-- R137, R141, R142: the element-wise integer instructions, VEC and XVEC, at every integer type, mask and source: each
active element is the operation of the two source elements, wrapped or saturated.
R137, R141: the bitwise instructions at every type, and VABS and VNEG, which at a float type clear and flip the sign
bit. -/
def Obligations.VectorIntegers : Prop :=
  (∀ (t : Ty) (sat : Bool) (q : Qual) (d ra rb : Reg) (a b : VSrc) (va vb : V128) (s u : State), t.isInt = true →
     let n := t.bits
     let both (ix iv : Instr) (f f' : BitVec n → BitVec n → BitVec n) : Prop :=
       (Gives (M.vsrcs t a b) s (va, vb) u →
         WritesLanes ix s (taken u [a, b]) d n (s.me.getM q.mask) q.z (fun j => f (lane n va j) (lane n vb j)) (vlen b)) ∧
       WritesLanes iv s (s.unhold s.me.id) d n 0xFFFF false (fun j => f' (lane n (s.v ra) j) (lane n (s.v rb) j)) 4
     both (.vaddX t sat q d a b) (.vadd t d ra rb)
       (fun x y => elem t sat (val t x + val t y)) (fun x y => elem t false (val t x + val t y)) ∧
     both (.vsubX t sat q d a b) (.vsub t d ra rb)
       (fun x y => elem t sat (val t x - val t y)) (fun x y => elem t false (val t x - val t y)) ∧
     both (.vmulX t sat q d a b) (.vmul t d ra rb)
       (fun x y => elem t sat (val t x * val t y)) (fun x y => elem t false (val t x * val t y)) ∧
     both (.vmulhX t q d a b) (.vmulh t d ra rb)
       (fun x y => elem t false (val t x * val t y / (2 ^ t.bits : Nat))) (fun x y => elem t false (val t x * val t y / (2 ^ t.bits : Nat))) ∧
     both (.vminX t q d a b) (.vmin t d ra rb)
       (fun x y => if val t y < val t x then y else x) (fun x y => if val t y < val t x then y else x) ∧
     both (.vmaxX t q d a b) (.vmax t d ra rb)
       (fun x y => if val t x < val t y then y else x) (fun x y => if val t x < val t y then y else x) ∧
     both (.vshlX t sat q d a b) (.vshl t d ra rb)
       (fun x y => elem t sat (val t x * (2 ^ (y.toNat % t.bits) : Nat))) (fun x y => elem t false (val t x * (2 ^ (y.toNat % t.bits) : Nat))) ∧
     both (.vshrX t q d a b) (.vshr t d ra rb)
       (fun x y => x >>> (y.toNat % t.bits)) (fun x y => x >>> (y.toNat % t.bits)) ∧
     both (.vshraX t q d a b) (.vshra t d ra rb)
       (fun x y => x.sshiftRight (y.toNat % t.bits)) (fun x y => x.sshiftRight (y.toNat % t.bits))) ∧
  (∀ (t : Ty) (q : Qual) (d ra rb : Reg) (a b : VSrc) (va vb : V128) (s u : State), t.notC4 = true →
     let n := t.bits
     let both (ix iv : Instr) (f : BitVec n → BitVec n → BitVec n) : Prop :=
       (Gives (M.vsrcs t a b) s (va, vb) u →
         WritesLanes ix s (taken u [a, b]) d n (s.me.getM q.mask) q.z (fun j => f (lane n va j) (lane n vb j)) (vlen b)) ∧
       WritesLanes iv s (s.unhold s.me.id) d n 0xFFFF false (fun j => f (lane n (s.v ra) j) (lane n (s.v rb) j)) 4
     let one (ix iv : Instr) (f : BitVec n → BitVec n) : Prop :=
       (Gives (M.vsrcs t a (.reg 0)) s (va, vb) u →
         WritesLanes ix s (taken u [a]) d n (s.me.getM q.mask) q.z (fun j => f (lane n va j)) 12) ∧
       WritesLanes iv s (s.unhold s.me.id) d n 0xFFFF false (fun j => f (lane n (s.v ra) j)) 4
     let sign : BitVec n := BitVec.ofNat n (2 ^ (n - 1))
     both (.vandX t q d a b) (.vand t d ra rb) (· &&& ·) ∧
     both (.vorX t q d a b) (.vor t d ra rb) (· ||| ·) ∧
     both (.vxorX t q d a b) (.vxor t d ra rb) (· ^^^ ·) ∧
     one (.vabsX t q d a) (.vabs t d ra)
       (fun x => if t.isFlt then x &&& ~~~sign else if val t x < 0 then -x else x) ∧
     one (.vnegX t q d a) (.vneg t d ra) (fun x => if t.isFlt then x ^^^ sign else -x))

/-- R37, R38, R141: the element-wise float instructions and VFMA, with the union of the flags of the active elements.
R157: VACCS adds one 16-byte chunk of the channel's stream to v[d] and stays at its instruction; the end word is
taken, adds nothing and ends it. -/
def Obligations.VectorFloats : Prop :=
  (∀ (t : Ty) (q : Qual) (d ra rb c : Reg) (a b : VSrc) (va vb : V128) (s u : State), t.isFlt = true →
     let n := t.bits
     let C := fctxOf s.me.fcr
     let both (ix iv : Instr) (f : Nat → Nat → Nat × Fl) : Prop :=
       (Gives (M.vsrcs t a b) s (va, vb) u →
         FloatLanes ix s (taken u [a, b]) d n (s.me.getM q.mask) q.z
           (fun j => f (lane n va j).toNat (lane n vb j).toNat) (vlen b)) ∧
       FloatLanes iv s (s.unhold s.me.id) d n 0xFFFF false
         (fun j => f (lane n (s.v ra) j).toNat (lane n (s.v rb) j).toNat) 4
     both (.vaddX t false q d a b) (.vadd t d ra rb) (fAdd C t) ∧
     both (.vsubX t false q d a b) (.vsub t d ra rb) (fSub C t) ∧
     both (.vmulX t false q d a b) (.vmul t d ra rb) (fMul C t) ∧
     both (.vminX t q d a b) (.vmin t d ra rb) (fMinMax C t false) ∧
     both (.vmaxX t q d a b) (.vmax t d ra rb) (fMinMax C t true) ∧
     (Gives (M.vsrcs t a b) s (va, vb) u →
       FloatLanes (.vfma t q d a c b) s (taken u [a, b]) d n (s.me.getM q.mask) q.z
         (fun j => fMa C t (lane n va j).toNat (lane n (s.v c) j).toNat (lane n vb j).toNat) (vlen b))) ∧
  (∀ (t : Ty) (q : Qual) (d : Reg) (c : Chan) (x : V128) (s u : State), t.notC4 = true → Gives (M.source t (.chan c)) s x u →
     let w := (u.takeChunk c).unhold u.me.id
     let m := s.me.getM q.mask
     let n := t.bits
     (x.extractLsb' 64 64 = 0xFFC1_C0DE_FFC1_C0DE → Completes (.vaccs t q d c) s (WritesNothing w 12)) ∧
     (x.extractLsb' 64 64 ≠ 0xFFC1_C0DE_FFC1_C0DE → t.isInt = true →
       WritesLanes (.vaccs t q d c) s w d n m q.z (fun j => lane n (s.v d) j + lane n x j) 0) ∧
     (x.extractLsb' 64 64 ≠ 0xFFC1_C0DE_FFC1_C0DE → t.isFlt = true →
       FloatLanes (.vaccs t q d c) s w d n m q.z
         (fun j => fAdd (fctxOf s.me.fcr) t (lane n (s.v d) j).toNat (lane n x j).toNat) 0))

/-- R144, R145: VCMP sets or clears every byte-lane bit of an active element together; VSEL takes a where the mask is set
and b elsewhere.
R9, R156: the mask operations, bit by bit under the mask of the XVEC form; MPOPC counts; m0 discards and reads as all
ones. A literal in the place of m[b] is a reading of the model (log entry 64). -/
def Obligations.VectorMasks : Prop :=
  (∀ (cc : CC) (t : Ty) (q : Qual) (d : Reg3) (vd : Reg) (a b : VSrc) (va vb : V128) (s u : State), t.notC4 = true →
     Gives (M.vsrcs t a b) s (va, vb) u →
     let n := t.bits
     let m := s.me.getM q.mask
     let C := fctxOf s.me.fcr
     let x (j : Nat) := lane n va j
     let y (j : Nat) := lane n vb j
     let int (j : Nat) : Bool := match cc with
       | .eq => x j == y j
       | .ne => x j != y j
       | .lt => decide (val t (x j) < val t (y j))
       | .le => decide (val t (x j) ≤ val t (y j))
       | .gt => decide (val t (y j) < val t (x j))
       | .ge => decide (val t (y j) ≤ val t (x j))
       | .unord => false
     let res (j : Nat) : Bool × Fl := if t.isFlt then fCmp C t cc (x j).toNat (y j).toNat else (int j, 0)
     (∀ (r : BitVec 16) (fl : Fl),
       (∀ k, k < 16 → r.getLsbD k = if m.getLsbD (8 * k / n * n / 8) then (res (8 * k / n)).1
         else if q.z then false else (s.me.getM d).getLsbD k) →
       (∀ k, k < 5 → (fl.getLsbD k = true ↔ ∃ j, j < 128 / n ∧ m.getLsbD (j * n / 8) = true ∧ (res j).2.getLsbD k = true)) →
       (fpeOf s.me.fcr fl = false → Completes (.vcmp cc t q d a b) s (WritesMF (taken u [a, b]) d r fl (vlen b))) ∧
       (fpeOf s.me.fcr fl = true → s.me.id.unit = .compute →
         Traps (.vcmp cc t q d a b) s Cause.fpe 0 (fl.setWidth 64))) ∧
     (∃ v, Masked n m false vb v (lane n va) ∧
       Completes (.vsel t q.mask vd a b) s (WritesV (taken u [a, b]) vd v (vlen b)))) ∧
  (∀ (q : Qual) (d a b : Reg3) (bx : KSrc) (x : Reg) (s : State),
     let A := s.me.getM a
     let B := s.me.getM b
     let m := s.me.getM q.mask
     let count (w : BitVec 16) : W64 := BitVec.ofNat 64 (Finset.univ.filter (fun i : Fin 16 => w.getLsbD i = true)).card
     let op (iv ix : Instr) (len : Nat) (f : Bool → Bool → Bool) : Prop :=
       ∃ r r' : BitVec 16,
         (∀ j, j < 16 → r.getLsbD j = f (A.getLsbD j) (B.getLsbD j)) ∧
         (∀ j, j < 16 → r'.getLsbD j = if m.getLsbD j then f (A.getLsbD j) ((kval s bx).getLsbD j)
           else if q.z then false else (s.me.getM d).getLsbD j) ∧
         Completes iv s (WritesMF s d r 0 4) ∧ Completes ix s (WritesMF s d r' 0 len)
     op (.mand d a b) (.mandX q d a bx) (klen bx) (fun x y => x && y) ∧
     op (.mor d a b) (.morX q d a bx) (klen bx) (fun x y => x || y) ∧
     op (.mnot d a) (.mnotX q d a) 12 (fun x _ => !x) ∧
     Completes (.mpopc x a) s (WritesX s x (count A) 4) ∧
     Completes (.mpopcX q.mask x a) s (WritesX s x (count (A &&& m)) 12))

/-- R146-R148: VSPLAT, VINS and VEXT move elements to and from x registers, VPERM bytes, VZIP pairs of elements; an index
beyond the elements raises operand ILLOP.
R154, R155: VCOMP packs the selected elements and VEXPND spreads elements over the selected places, the XVEC forms with
their count in x[e]; VTOPK takes the k first elements in rank order, with their lanes on request. A literal in the place of the
register that b names is a reading of the model (log entry 64), and VTOPK with d = e is its choice (log entry 65). -/
def Obligations.VectorMoves : Prop :=
  (∀ (t : Ty) (h : BitVec 2) (q : Qual) (d ra rb : Reg) (rx : XSrc) (a b : VSrc) (va vb : V128) (s u : State), t.notC4 = true →
     let n := t.bits
     let c := 128 / n
     let m := s.me.getM q.mask
     let i := (s.x rb).toNat
     let ix := (xval s rx).toNat
     let new (i j : Nat) : BitVec n := if j = i then narrow t (s.x ra) else lane n (s.v d) j
     let out (x : BitVec n) : W64 := if t.isInt then wide t x else x.setWidth 64
     let operand (f : Reg) (w : W64) : W64 := 0x4000_0000_0000_0000 ||| (f.setWidth 64 <<< 32) ||| (w.setWidth 32).setWidth 64
     let perm (x y : V128) (k : Nat) : BitVec 8 :=
       if (lane 8 y k).toNat < 16 then lane 8 x (lane 8 y k).toNat else 0
     let zip (g : BitVec 2) (x y : V128) (j : Nat) : BitVec n :=
       match g.toNat with
       | 0 => if j % 2 = 0 then lane n x (j / 2) else lane n y (j / 2)
       | 1 => if j % 2 = 0 then lane n x (c / 2 + j / 2) else lane n y (c / 2 + j / 2)
       | 2 => if j < c / 2 then lane n x (2 * j) else lane n y (2 * (j - c / 2))
       | _ => if j < c / 2 then lane n x (2 * j + 1) else lane n y (2 * (j - c / 2) + 1)
     WritesLanes (.vsplat t d ra) s s d n 0xFFFF false (fun _ => narrow t (s.x ra)) 4 ∧
     WritesLanes (.vsplatX t q d ra) s s d n m q.z (fun _ => narrow t (s.x ra)) 12 ∧
     (i < c → WritesLanes (.vins t d ra rb) s s d n 0xFFFF false (new i) 4) ∧
     (ix < c → WritesLanes (.vinsX t q d ra rx) s s d n m q.z (new ix) (xlen rx)) ∧
     (c ≤ i → s.me.id.unit = .compute → Traps (.vins t d ra rb) s Cause.illop 0 (operand rb (s.x rb)) ∧
       Traps (.vext t d ra rb) s Cause.illop 0 (operand rb (s.x rb))) ∧
     (c ≤ ix → s.me.id.unit = .compute → Traps (.vinsX t q d ra rx) s Cause.illop 0 (operand (xfield rx) (xval s rx)) ∧
       (Gives (M.poolOk [a]) s () s → Traps (.vextX t q.mask d a rx) s Cause.illop 0 (operand (xfield rx) (xval s rx)))) ∧
     (i < c → Completes (.vext t d ra rb) s (WritesX (s.unhold s.me.id) d (out (lane n (s.v ra) i)) 4)) ∧
     (ix < c → Gives (M.source t a) s va u → Gives (M.poolOk [a]) s () s →
       (m.getLsbD (ix * n / 8) = true →
         Completes (.vextX t q.mask d a rx) s (WritesX (taken u [a]) d (out (lane n va ix)) (xlen rx))) ∧
       (m.getLsbD (ix * n / 8) = false → Completes (.vextX t q.mask d a rx) s (WritesNothing (taken u [a]) (xlen rx)))) ∧
     (∃ v, (∀ k, k < 16 → lane 8 v k = perm (s.v ra) (s.v rb) k) ∧
       Completes (.vperm t d ra rb) s (WritesV (s.unhold s.me.id) d v 4)) ∧
     WritesLanes (.vzip t d ra rb) s (s.unhold s.me.id) d n 0xFFFF false (zip 0 (s.v ra) (s.v rb)) 4 ∧
     (Gives (M.vsrcs t a b) s (va, vb) u →
       WritesLanes (.vzipX h t q d a b) s (taken u [a, b]) d n m q.z (zip h va vb) (vlen b) ∧
       ∃ v, (∀ k, k < 16 → lane 8 v k =
           if m.getLsbD (8 * k / n * n / 8) then perm va vb k else if q.z then 0 else lane 8 (s.v d) k) ∧
         Completes (.vpermX t q d a b) s (WritesV (taken u [a, b]) d v (vlen b)))) ∧
  (∀ (t : Ty) (list : Bool) (mask b : Reg3) (d ra rb e : Reg) (rx : XSrc) (bx : KSrc) (a : VSrc) (va vb : V128) (s u : State), t.notC4 = true →
     let n := t.bits
     let c := 128 / n
     let act (m : BitVec 16) (j : Nat) : Bool := m.getLsbD (j * n / 8)
     let sel (p m : BitVec 16) (j : Nat) : Bool := act p j && act m j
     let comp (i : Instr) (p m : BitVec 16) (v : V128) (w : State) (e : Reg) (len : Nat) : Prop :=
       let l := (List.range c).filter (sel p m)
       ∃ x, (∀ j, j < c → lane n x j = match l[j]? with
           | some k => lane n v k
           | none => 0) ∧
         Completes i s (WritesVX w d x e (BitVec.ofNat 64 l.length) len)
     let expd (i : Instr) (p m : BitVec 16) (v : V128) (w : State) (e : Reg) (len : Nat) : Prop :=
       ∃ x, (∀ j, j < c → lane n x j =
           if sel p m j then lane n v ((List.range j).filter (sel p m)).length else 0) ∧
         Completes i s (WritesVX w d x e (BitVec.ofNat 64 ((List.range c).filter (sel p m)).length) len)
     let k := (s.x rb).toNat
     let kx := (xval s rx).toNat
     let tops (i : Instr) (k : Nat) (list : Bool) (m : BitVec 16) (v : V128) (w : State) (len : Nat) : Prop :=
       ∃ (r : List Nat) (x y : V128), r.Nodup ∧ (∀ j ∈ r, j < c ∧ act m j = true) ∧
         r.length = Nat.min k ((List.range c).filter (act m)).length ∧
         r.Pairwise (Before t v) ∧ (∀ j ∈ r, ∀ p, p < c → act m p = true → p ∉ r → Before t v j p) ∧
         (∀ j, j < c → lane n x j = match r[j]? with
           | some p => lane n v p
           | none => 0) ∧
         (∀ j, j < 16 → lane 8 y j = match r[j]? with
           | some p => BitVec.ofNat 8 p
           | none => 0xFF) ∧
         Completes i s (fun o =>
           (∀ z, o.v z = if list = true ∧ z = e then y else if z = d then x else w.v z) ∧
           RetiresAs w { w.me with v := o.me.v } len o)
     let h := s.unhold s.me.id
     let w := taken u [a]
     let m := s.me.getM mask
     comp (.vcomp t d ra b) (s.me.getM b) 0xFFFF (s.v ra) h 0 4 ∧ expd (.vexpnd t d ra b) (s.me.getM b) 0xFFFF (s.v ra) h 0 4 ∧
     (Gives (M.vsrcs t a (.reg 0)) s (va, vb) u →
       comp (.vcompX t mask d a bx e) (kval s bx) m va w e (klen bx) ∧ expd (.vexpndX t mask d a bx e) (kval s bx) m va w e (klen bx)) ∧
     (k ≤ c → tops (.vtopk t d ra rb) k false 0xFFFF (s.v ra) h 4) ∧
     (kx ≤ c → Gives (M.poolOk [a]) s () s → Gives (M.source t a) s va u → tops (.vtopkX t list mask d a rx e) kx list m va w (xlen rx)) ∧
     (c < k → s.me.id.unit = .compute → Traps (.vtopk t d ra rb) s Cause.illop 0
       (0x4000_0000_0000_0000 ||| (rb.setWidth 64 <<< 32) ||| ((s.x rb).setWidth 32).setWidth 64)) ∧
     (c < kx → s.me.id.unit = .compute → Gives (M.poolOk [a]) s () s → Traps (.vtopkX t list mask d a rx e) s Cause.illop 0
       (0x4000_0000_0000_0000 ||| ((xfield rx).setWidth 64 <<< 32) ||| ((xval s rx).setWidth 32).setWidth 64)))

/-- R149, R150: the reductions of the active elements (their identity when none is active) and the dot products. Which products of a dot product raise NV is a reading of the model (log entry 33). -/
def Obligations.VectorReduce : Prop :=
  ∀ (t : Ty) (q : Qual) (d ra rb : Reg) (a b : VSrc) (va vb : V128) (s u : State), t.notC4 = true →
    let n := t.bits
    let C := fctxOf s.me.fcr
    let act (m : BitVec 16) : List Nat := (List.range (128 / n)).filter (fun j => m.getLsbD (j * n / 8))
    let flt (k : Fold) (m : BitVec 16) (v : V128) := foldRun k C t ((act m).map (fun j => (lane n v j).toNat))
    let adds (i : Instr) (m : BitVec 16) (v : V128) (w : State) (len : Nat) : Prop :=
      t.isInt = true → Completes i s (WritesX w d (BitVec.ofInt 64 ((act m).map (fun j => val t (lane n v j))).sum) len)
    let best (i : Instr) (m : BitVec 16) (v : V128) (w : State) (len : Nat) (none_ : Int) (le : Int → Int → Prop) : Prop :=
      t.isInt = true → ∃ r : Int, (act m = [] → r = none_) ∧
        (act m ≠ [] → (∃ j ∈ act m, val t (lane n v j) = r) ∧ ∀ j ∈ act m, le (val t (lane n v j)) r) ∧
        Completes i s (WritesX w d (BitVec.ofInt 64 r) len)
    let flts (i : Instr) (k : Fold) (m : BitVec 16) (v : V128) (w : State) (len : Nat) : Prop :=
      t.isFlt = true →
        (fpeOf s.me.fcr (flt k m v).2 = false → Completes i s (WritesXF w d (flt k m v).1 (flt k m v).2 len)) ∧
        (fpeOf s.me.fcr (flt k m v).2 = true → s.me.id.unit = .compute →
          Traps i s Cause.fpe 0 ((flt k m v).2.setWidth 64))
    let h := s.unhold s.me.id
    let w := taken u [a]
    let m := s.me.getM q.mask
    adds (.vredadd t d ra) 0xFFFF (s.v ra) h 4 ∧ flts (.vredadd t d ra) .add 0xFFFF (s.v ra) h 4 ∧
    best (.vredmax t d ra) 0xFFFF (s.v ra) h 4 (tyLo t) (· ≤ ·) ∧ flts (.vredmax t d ra) .max 0xFFFF (s.v ra) h 4 ∧
    best (.vredmin t d ra) 0xFFFF (s.v ra) h 4 (tyHi t) (· ≥ ·) ∧ flts (.vredmin t d ra) .min 0xFFFF (s.v ra) h 4 ∧
    (Gives (M.vsrcs t a (.reg 0)) s (va, vb) u →
      adds (.vredaddX t q.mask d a) m va w 12 ∧ flts (.vredaddX t q.mask d a) .add m va w 12 ∧
      best (.vredmaxX t q.mask d a) m va w 12 (tyLo t) (· ≤ ·) ∧ flts (.vredmaxX t q.mask d a) .max m va w 12 ∧
      best (.vredminX t q.mask d a) m va w 12 (tyHi t) (· ≥ ·) ∧ flts (.vredminX t q.mask d a) .min m va w 12) ∧
    (let g := 32 / n
     let dotInt (x y : V128) (j : Nat) : BitVec 32 := lane 32 (s.v d) j +
       BitVec.ofInt 32 ((List.range g).map (fun e => val t (lane n x (g * j + e)) * val t (lane n y (g * j + e)))).sum
     let dotFlt (x y : V128) (j : Nat) : Nat × Fl := fDot C (lane 32 (s.v d) j).toNat (lane n x (2 * j)).toNat
       (lane n y (2 * j)).toNat (lane n x (2 * j + 1)).toNat (lane n y (2 * j + 1)).toNat
     (t = .i8 ∨ t = .n8 ∨ t = .i16 ∨ t = .n16 →
       WritesLanes (.vdot t d ra rb) s h d 32 0xFFFF false (dotInt (s.v ra) (s.v rb)) 4 ∧
       (Gives (M.vsrcs t a b) s (va, vb) u →
         WritesLanes (.vdotX t q d a b) s (taken u [a, b]) d 32 m q.z (dotInt va vb) (vlen b))) ∧
     (t = .bf16 →
       FloatLanes (.vdot t d ra rb) s h d 32 0xFFFF false (dotFlt (s.v ra) (s.v rb)) 4 ∧
       (Gives (M.vsrcs t a b) s (va, vb) u →
         FloatLanes (.vdotX t q d a b) s (taken u [a, b]) d 32 m q.z (dotFlt va vb) (vlen b))))

/-- R151-R153: conversions, narrowing, widening and codebook decode. -/
def Obligations.VectorConvert : Prop :=
  ∀ (t dst src : Ty) (sat hi : Bool) (g : BitVec 2) (q : Qual) (d ra rb : Reg) (a : VSrc) (va vb : V128) (s u : State)
    (lit : W64),
    let C := fctxOf s.me.fcr
    let m := s.me.getM q.mask
    let h := s.unhold s.me.id
    let w := taken u [a]
    let cvt (i : Instr) (v : V128) (w : State) (m : BitVec 16) (z : Bool) (len : Nat) : Prop :=
      let n := dst.bits
      let cnt := 128 / Nat.max src.bits n
      let r (j : Nat) := fCvt C dst src (lane src.bits v j).toNat
      ∀ fl : Fl, (∀ k, k < 5 → (fl.getLsbD k = true ↔
          ∃ j, j < cnt ∧ m.getLsbD (j * n / 8) = true ∧ (r j).2.getLsbD k = true)) →
        (fpeOf s.me.fcr fl = false → ∃ x, (∀ j, j < 128 / n → lane n x j = if cnt ≤ j then 0
            else if m.getLsbD (j * n / 8) then BitVec.ofNat n (r j).1 else if z then 0 else lane n (s.v d) j) ∧
          Completes i s (WritesVF w d x fl len)) ∧
        (fpeOf s.me.fcr fl = true → s.me.id.unit = .compute → Traps i s Cause.fpe 0 (fl.setWidth 64))
    let half := t.bits / 2
    let c := 128 / t.bits
    let cut (sat : Bool) (x : BitVec t.bits) : BitVec half :=
      if sat then BitVec.ofInt half (if t.signed then max (-((2 ^ (half - 1) : Nat) : Int)) (min ((2 ^ (half - 1) : Nat) - 1) x.toInt)
        else min ((2 ^ half : Nat) - 1) x.toNat) else x.setWidth half
    let narrows (i : Instr) (sat hi : Bool) (v : V128) (w : State) (m : BitVec 16) (z : Bool) (len : Nat) : Prop :=
      ∃ x, (∀ j, j < 2 * c → lane half x j =
          if hi && decide (j < c) then lane half (s.v d) j
          else if !hi && decide (c ≤ j) then 0
          else if m.getLsbD (j * half / 8) then cut sat (lane t.bits v (if hi then j - c else j))
          else if z then 0 else lane half (s.v d) j) ∧ Completes i s (WritesV w d x len)
    let widens (hi : Bool) (v : V128) (j : Nat) : BitVec (2 * t.bits) :=
      let x := lane t.bits v (if hi then c / 2 + j else j)
      if t.signed then x.signExtend (2 * t.bits) else x.setWidth (2 * t.bits)
    let table : List Byte := wordBytes 16 (s.v rb) ++ wordBytes 16 (s.v (rb + 1))
    let litTable : List Byte := (List.replicate 4 (wordBytes 8 lit)).flatten
    let pairs (tb : List Byte) (g : Nat) (v : V128) (j : Nat) : BitVec 16 :=
      let k := 2 * (lane 4 v (8 * g + j)).toNat
      (tb.getD (k + 1) 0) ++ (tb.getD k 0)
    let looks (tb : List Byte) (v : V128) (j : Nat) : BitVec 8 :=
      if (lane 8 v j).toNat < 32 then tb.getD (lane 8 v j).toNat 0 else 0
    (dst.notC4 = true → src.notC4 = true → (dst.isFlt = true ∨ src.isFlt = true) →
      cvt (.vcvt dst src d ra) (s.v ra) h 0xFFFF false 4 ∧
      (Gives (M.vsrcs src a (.reg 0)) s (va, vb) u → cvt (.vcvtX dst src q d a) va w m q.z 12)) ∧
    (t.isInt = true → 16 ≤ t.bits → narrows (.vnarrow t d ra) false false (s.v ra) h 0xFFFF false 4 ∧
      (Gives (M.vsrcs t a (.reg 0)) s (va, vb) u → narrows (.vnarrowX t sat hi q d a) sat hi va w m q.z 12)) ∧
    (t.isInt = true → t.bits ≤ 32 →
      WritesLanes (.vwiden t d ra) s h d (2 * t.bits) 0xFFFF false (widens false (s.v ra)) 4 ∧
      (Gives (M.vsrcs t a (.reg 0)) s (va, vb) u →
        WritesLanes (.vwidenX t hi q d a) s w d (2 * t.bits) m q.z (widens hi va) 12)) ∧
    WritesLanes (.vlut .c4 d ra rb) s h d 16 0xFFFF false (pairs table 0 (s.v ra)) 4 ∧
    WritesLanes (.vlut .n8 d ra rb) s h d 8 0xFFFF false (looks table (s.v ra)) 4 ∧
    (Gives (M.vsrcs .c4 a (.reg 0)) s (va, vb) u →
      WritesLanes (.vlutX .c4 g q d a (.reg rb)) s w d 16 m q.z (pairs table g.toNat va) 12) ∧
    (Gives (M.vsrcs .n8 a (.reg 0)) s (va, vb) u →
      WritesLanes (.vlutX .n8 g q d a (.reg rb)) s w d 8 m q.z (looks table va) 12 ∧
      WritesLanes (.vlutX .n8 g q d a (.lit 2 lit)) s w d 8 m q.z (looks litTable va) 20)

/-- R124-R129, R344, R348: COPY and COPYB whose ranges and barrier operand pass their checks take a tracker entry and the
channel's next transfer ID, and retire. The operation then holds, in segments that each lie in one aligned 4 KiB of the source,
exactly the pairs of one source byte and the destination byte of the same place in the order of the copy; for a view whose rows
end inside a byte, exactly its codes, each with its half of a source byte and of a destination byte (R128). No byte of memory
has moved yet. A copy of no bytes checks no address and completes its ID at once (log entry 31). TIDGET reads the channel's
counter, TIDWAIT waits for the watermark. The buffer that a notice names is log entry 35.
R130-R133: NOTICE and PUBLISH send their request once, wait for its answer and then retire; NACK sends its packet to the core
of the notice's sender, after the strand's earlier atomics (R265), and retires. -/
def Obligations.CopiesAndNotices : Prop :=
  (∀ (rlx : Bool) (ch : Chan) (a b c d : Reg) (view : View) (w : Window) (dst src : Runs) (rows : List Runs)
     (i i' : Nat) (bar : Option Nat) (s s1 s2 u : State),
     let id := if s.me.tcnt.get ch.toFin + 1 = 0 then 1 else s.me.tcnt.get ch.toFin + 1
     let parts (l : List Seg) : List Nat := (l.flatMap (·.pieces)).map (fun p => match p with
       | .run _ _ n => n
       | .code _ _ _ _ => 1)
     let keys (r : Runs) : List Nat := r.flatMap (fun x => (List.range x.len).map (x.key + ·))
     let pairs (l : List Piece) : List (Nat × Nat) := l.flatMap (fun p => match p with
       | .run k j n => (List.range n).map (fun i => (k + i, j + i))
       | .code _ _ _ _ => [])
     let bytes (src dst : Runs) (l : List Seg) : Prop :=
       (∀ k j, (k, j) ∈ pairs (l.flatMap (·.pieces)) ↔ ∃ i : Nat, (keys src)[i]? = some k ∧ (keys dst)[i]? = some j) ∧
       (∀ g ∈ l, ∃ k n, (pairs g.pieces).map (·.1) = (List.range n).map (k + ·) ∧ k % 4096 + n ≤ 4096) ∧
       (∀ g ∈ l, ∀ p ∈ g.pieces, ∀ k h j m, p ≠ .code k h j m)
     let codes (rows : List Runs) (dst : Runs) (cols count : Nat) (l : List Seg) : Prop :=
       (∀ p, p ∈ l.flatMap (·.pieces) ↔ ∃ (i : Nat) (row : Runs) (k j : Nat), i < count ∧ rows[i / cols]? = some row ∧
         (keys row)[i % cols / 2]? = some k ∧ (keys dst)[i / 2]? = some j ∧
         p = .code k (i % cols % 2 == 1) j (if i % 2 = 1 then 0xF0 else if i + 1 = count then 0xFF else 0x0F)) ∧
       (∀ g ∈ l, ∃ b, ∀ k h j m, .code k h j m ∈ g.pieces → k / 4096 = b)
     let issued (dst : Runs) (n : Nat) (bar : Option Nat) (held : List Seg → Prop) (t : State) : Prop :=
       t.me.tcnt = u.me.tcnt.set ch.toNat id ch.isLt ∧
       t.me = { u.me.dropPend with pc := u.me.pc + 12, wait := none, tcnt := t.me.tcnt, gens := t.me.gens } ∧
       (∃ op, AMap.get t.ops u.next = some op ∧ op.owner = s.me.id ∧ op.ch = ch.toNat ∧ op.id = id ∧ op.notice = false ∧
         op.dst = dst ∧ op.bar = bar ∧ op.sent = [] ∧ op.part = [] ∧ op.rlx = rlx ∧ (parts op.unsent).sum = n ∧
         held op.unsent ∧
         t.net = u.net ++ (if op.serial then op.unsent.take 1 else op.unsent).map (fun g =>
           { vn := .req, src := s.me.place.gcore, dst := g.server, body := .segCmd u.next g.n,
             after := if rlx then none else some (s.me.id, u.next), sent := u.tick })) ∧
       t = { u with me := t.me, ops := t.ops, net := t.net, next := u.next + 1 } ∧ SameMem u t
     let free := u.locks = [] ∧ u.me.released = false ∧ u.me = s.me ∧ (u.copiesBy u.me.id).length < 32
     let n := (s.x c).toNat
     (free → 0 < n → n < 2 ^ 32 → Gives (M.range .store 0 (s.x a) n) s (dst, i) s1 →
       Gives (M.range .load i (s.x b) n) s1 (src, i') s2 → Gives (M.barOperand d) s2 bar u →
       (dst.map (·.len)).sum = n → (src.map (·.len)).sum = n → (∀ r ∈ dst, 0 < r.len) → (∀ r ∈ src, 0 < r.len) →
       Completes (.copy rlx ch a b c d) s (issued dst n bar (bytes src dst))) ∧
     (free → s.x c = 0 → Gives (M.barOperand d) s none u → Completes (.copy rlx ch a b c d) s (fun t =>
       t.me = { (Strand.finish { u.me with tcnt := u.me.tcnt.set ch.toNat id ch.isLt } ch id).dropPend with
                pc := u.me.pc + 12, wait := none } ∧ t = { u with me := t.me })) ∧
     (free → s.myLaunch.buf view.idx.toNat = .ok w.rec_ → w = windowOf w.rec_ view → w.bad = false → 0 < w.packed →
       Gives (M.range .store 0 (s.x a) w.packed) s (dst, i) s1 → Gives (M.ranges .load i w.ranges) s1 (rows, i') s2 →
       Gives (M.barOperand d) s2 bar u → (dst.map (·.len)).sum = w.packed → (∀ r ∈ dst, 0 < r.len) →
       (∀ r ∈ rows.flatten, 0 < r.len) →
       (w.ragged = false → (rows.flatten.map (·.len)).sum = w.packed →
         Completes (.copyb rlx ch a view d) s (issued dst w.packed bar (bytes rows.flatten dst))) ∧
       (w.ragged = true → rows.length = w.allRows → (∀ r ∈ rows, (r.map (·.len)).sum = w.rowBytes) →
         Completes (.copyb rlx ch a view d) s (issued dst w.count bar (codes rows dst w.cols w.count)))) ∧
     Completes (.tidget d ch) s (WritesX s d ((s.me.tcnt.get ch.toFin).setWidth 64) 12) ∧
     ((s.me.chwm.get ch.toFin - (s.x a).setWidth 32).toNat < 2 ^ 31 → Completes (.tidwait ch a) s (Synced s 12)) ∧
     (2 ^ 31 ≤ (s.me.chwm.get ch.toFin - (s.x a).setWidth 32).toNat → Waits (.tidwait ch a) s (.transfer ch))) ∧
  (∀ (rlx : Bool) (ch : Chan) (a b c d : Reg) (idx : BitVec 16) (g : Nat) (bar : Option Nat) (r : Runs × Nat)
     (s s1 u : State) (ref : Nat) (eo : EngOp) (rec_ : BufRec) (sp : Spot) (ws : List W64),
     s.locks = [] → s.me.released = false → Placed s →
     let n := (s.x c).toNat
     (s.asking = false → n < 2 ^ 32 → s.myLaunch.coreOf (s.x a).toNat = some g → g / 2048 = s.me.place.pkg →
       Gives (M.range .load 0 (s.x b) n) s r s1 → Gives (M.barOperand d) s1 bar u → WalkOnly s u →
       (s.copiesBy s.me.id).length < 32 → (rlx = true ∨ s.me.farAmop = false) →
       let buf := if (s.x b).extractLsb' 56 8 = 0xF0
         then BitVec.ofNat 64 (0xF1 * 2 ^ 56 + s.me.place.core * 2 ^ 36 + (0x5_0000 + s.me.place.slot * 0x4000 + (s.x b).toNat % 0x4000))
         else s.x b
       Completes (.notice rlx ch a b c d) s (fun t => ∃ h : W32,
         t.me = { s.me with tcnt := t.me.tcnt, gens := t.me.gens, pend := t.me.pend, wait := some .notice } ∧
         (∃ p, t.me.pendOf = some p ∧ p.waiting = true ∧ p.sent = true ∧ p.ref = s.next ∧ p.on = .notice) ∧
         Sent s t .req s.me.place.gcore g (.notice s.next g
           { launch := s.me.id.launch, handle := h, bytes := BitVec.ofNat 32 n, buf, vc := s.me.place.vc,
             tid := s.me.id.tid, pending := false, since := 0 }) ∧
         (∃ op, AMap.get t.ops s.next = some op ∧ op.notice = true ∧ op.owner = s.me.id ∧ op.id = s.me.nextId ch ∧
           op.bar = bar) ∧
         t = { u with me := t.me, ops := t.ops, net := t.net, next := s.next + 1 })) ∧
     (Answered s true [.ok ws] → Completes (.notice rlx ch a b c d) s (Synced s 12)) ∧
     (let h := (s.x a).extractLsb' 32 32
      (s.noticeOf s.me.id.launch h = some (ref, eo) → Completes (.nack a) s (fun t => ∃ u, Synced u 4 t ∧ u = { s with net := u.net } ∧
        u.net = s.net ++ [{ vn := .rpy, src := s.me.place.gcore, dst := s.ownerCore eo.owner, body := .nack s.me.id.launch h,
                            after := some (s.me.id, s.next), sent := s.tick }])) ∧
      (s.noticeOf s.me.id.launch h = none → Completes (.nack a) s (Synced s 4))) ∧
     (s.myLaunch.buf idx.toNat = .ok rec_ → rec_.shadow = true → s.spot rec_.base true = .ok sp →
       s.engineHold rec_.base 1 sp = .ok () →
       (s.me.pendOf = none → s.publishBusy sp.key rec_.len = true → Waits (.publish idx) s .publish) ∧
       (s.me.pendOf = none → s.publishBusy sp.key rec_.len = false → s.me.farAmop = false →
         Completes (.publish idx) s (fun t =>
           t.me = { s.me with pend := t.me.pend, wait := some .publish } ∧
           Sent s t .ctl s.me.place.gcore (unitOf sp.key) (.swap s.me.id sp.key s.next) ∧
           t = { s with me := t.me, net := t.net, next := s.next + 1 })) ∧
       (Answered s false [.ok ws] → s.me.farAmop = false → Completes (.publish idx) s (Synced s 12))))

/-- R161-R163, R165, R167, R174, R177: the instructions that allocate, shape, clear, read and write accumulator banks. ACQ
takes the lowest run of free banks within the launch's limit, or answers all ones; REL gives the banks up; the others are
accepted into the queue of the strand's tenant. Which run ACQ waits for is a reading of the model (log entry 38). -/
def Obligations.MatrixBanks : Prop :=
  ∀ (d a b : Reg) (n f g : BitVec 32) (ten : Bool) (l : Alloc) (lo : Nat) (s : State),
    let k := n.toNat
    let c := s.myCore
    let heldRun (x : Nat) : Prop := ∃ i, i < k ∧ ∃ o, c.bankState (x + i) = .held o ∨ c.bankState (x + i) = .leaving o
    let room := s.tenant = .ok ten ∧ (c.mq ten).length < 16
    (1 ≤ k → k ≤ 128 → lo + k ≤ 128 → (∀ i, i < k → c.bankState (lo + i) = .free) → (∀ x, x < lo → heldRun x) →
      s.banksHeld + k ≤ s.myLaunch.accum → Completes (.acq d n) s (fun t =>
        (∀ r, t.x r = if r = 0 then 0 else if r = d then BitVec.ofNat 64 lo else s.x r) ∧
        t.me = { s.me.dropPend with x := t.me.x, allocs := s.me.allocs ++ [{ base := lo, n := k, int := false, w := 1 }],
                                    pc := s.me.pc + 12, wait := none } ∧
        (∀ i : Fin 128, t.myCore.banks.get i = if lo ≤ i.val ∧ i.val < lo + k then .held s.me.id else c.banks.get i) ∧
        t.myCore = { c with banks := t.myCore.banks } ∧ t = { s with me := t.me, cores := t.cores } ∧ SameMem s t)) ∧
    (1 ≤ k → k ≤ 128 → ((∀ x, x + k ≤ 128 → heldRun x) ∨ s.myLaunch.accum < s.banksHeld + k) →
      Completes (.acq d n) s (WritesX s d (BitVec.allOnes 64) 12)) ∧
    (room → s.allocAt a = .ok l → l.n = k → Completes (.rel a n) s (fun t => ∃ u, Accepts s ten l.base l.n .rel u ∧
      t = (u.modMyCore (·.setBanks l.base l.n (.leaving s.me.id))).modMe (fun x => { x with allocs := x.allocs.erase l }))) ∧
    (room → s.allocAt a = .ok l → f.extractLsb' 12 20 = 0 → (f.extractLsb' 8 4 = 2 ∨ f.extractLsb' 8 4 = 9) →
      1 ≤ (f.extractLsb' 0 8).toNat → (f.extractLsb' 0 8).toNat ≤ 128 → l.n % (f.extractLsb' 0 8).toNat = 0 →
      Completes (.mshape a f) s (fun t => ∃ u, Accepts s ten l.base l.n .mshape u ∧
        t = u.modMe (fun x => { x with allocs := x.allocs.map (fun y => if y.base = l.base
          then { y with int := decide (f.extractLsb' 8 4 = 2), w := (f.extractLsb' 0 8).toNat } else y) }))) ∧
    (room → 1 ≤ k → (s.x a).toNat + k ≤ 128 → (∀ i, i < k → c.bankState ((s.x a).toNat + i) = .held s.me.id) →
      Completes (.mzero a n) s (Accepts s ten (s.x a).toNat k .mzero)) ∧
    (f.toNat ≤ 1 → Completes (.mcfg f) s
      (RetiresAs s { s.me with mctx := { s.me.mctx with intStream := decide (f = 1) } } 12)) ∧
    (g.toNat ≤ 127 → (s.x a).toNat < 128 → c.bankState (s.x a).toNat = .held s.me.id → s.matrixBy s.me.id = [] → c.cellPoison = [] →
      ∃ v, (∀ i, i < 4 → lane 32 v i = c.cell (s.x a).toNat (4 * g.toNat + i)) ∧
        Completes (.mrd d a g) s (WritesV s d v 12)) ∧
    (room → g.toNat ≤ 127 → (s.x a).toNat < 128 → c.bankState (s.x a).toNat = .held s.me.id →
      Completes (.mwr a b g) s (Accepts s ten (s.x a).toNat 1 (.mwr g.toNat (s.v b)))) ∧
    (s.me.level ≠ .s → n.extractLsb' 8 24 = 0 →
      (n = 0 ∨ n.extractLsb' 0 4 ≠ 0 ∧ n.extractLsb' 4 4 ≠ 0 ∧ n.extractLsb' 0 4 &&& n.extractLsb' 4 4 = 0) →
      c.mq0 = [] → c.mq1 = [] → Completes (.msplit n) s (fun t =>
        t.myCore = { c with half0 := n.extractLsb' 0 4, half1 := n.extractLsb' 4 4 } ∧
        t.me = { s.me.dropPend with mctx := { s.me.mctx with tile := none }, pc := s.me.pc + 12, wait := none } ∧
        t.rest = s.rest.map (fun x => if x.place.gcore = s.me.place.gcore
          then { x with mctx := { x.mctx with tile := none } } else x) ∧
        t = { s with me := t.me, rest := t.rest, cores := t.cores } ∧ SameMem s t)) ∧
    (s.me.level = .s → s.me.id.unit = .compute → n.extractLsb' 8 24 = 0 →
      (n = 0 ∨ n.extractLsb' 0 4 ≠ 0 ∧ n.extractLsb' 4 4 ≠ 0 ∧ n.extractLsb' 0 4 &&& n.extractLsb' 4 4 = 0) →
      Traps (.msplit n) s Cause.perm 0 0)

/-- R159, R166-R172: the matrix instructions with data, whose checks pass, are accepted with the keys of the bytes they
will read or write; MMUL from memory, from a queue and from a record, MMULS from a channel. The order of shape checks is a reading of the model (log entry 37). -/
def Obligations.MatrixWork : Prop :=
  ∀ (rlx : Bool) (fmt : WFmt) (t : Ty) (a b cr d : Reg) (ch : Chan) (q : Reg3) (m : BitVec 32) (view : View) (w : Window)
    (ten : Bool) (f : WFmt) (l : Alloc) (rows : List (List Nat)) (runs sruns : Runs) (i i' : Nat)
    (scale : Option (List Nat)) (bar : Option Nat) (s u u1 u2 : State),
    let c := s.myCore
    let int := s.me.mctx.intStream
    let room := (u.myCore.mq ten).length < 16 ∧ u.locks = [] ∧ u.me.id = s.me.id ∧ u.me.place = s.me.place
    let record := s.myLaunch.buf view.idx.toNat = .ok w.rec_ ∧ w = windowOf w.rec_ view
    let banks (n : Nat) : Nat := (n + 15) / 16
    let rowsOk := 1 ≤ m.toNat ∧ m.toNat ≤ 2048 ∧
      ∃ x ∈ s.me.allocs, x.base ≤ (s.x a).toNat ∧ (s.x a).toNat + banks m.toNat ≤ x.base + x.n
    (room → record → s.tenant = .ok ten → w.rec_.ty = .bf16 → w.count = 16 →
      Gives (M.rowsOf .load 0 w) s (rows, runs, i) u →
      Completes (.mcbl view) s (Accepts u ten 0 0 (.mcbl rows.flatten))) ∧
    (room → record → s.tenant = .ok ten → w.rec_.ty = weightTy fmt →
      (if fmt = .bf16t then w.allRows = 32 ∧ w.cols = c.kOf fmt else w.allRows = c.kOf fmt ∧ w.cols = 32) →
      Gives (M.rowsOf .load 0 w) s (rows, runs, i) u →
      Completes (.mwld fmt rlx view) s (Accepts u ten 0 0 (.mwld fmt (c.kOf fmt) rows))) ∧
    (room → u = s → rowsOk → s.mShape a = .ok (f, ten) →
      Completes (.mmul rlx a (.queue q m)) s (Accepts s ten (s.x a).toNat (banks m.toNat) (.mmulQueue int q m.toNat)) ∧
      ((c.htab.get ch.toFin).enable = false → Completes (.mmuls a ch m) s
        (Accepts s ten (s.x a).toNat (banks m.toNat) (.mmuls int ch.toNat m.toNat)))) ∧
    (room → rowsOk → s.mShape a = .ok (f, ten) → (s.x b).toNat % 16 = 0 → (s.x cr).toNat % 16 = 0 →
      Gives (M.rowsAt (s.x b) (s.x cr) (if int then c.kOf f else 2 * c.kOf f) 0 m.toNat) s (rows, runs) u →
      Completes (.mmul rlx a (.mem b cr m)) s (Accepts u ten (s.x a).toNat (banks m.toNat) (.mmulMem int true rows))) ∧
    (room → record → w.rec_.ty = (if int then .i8 else .bf16) → s.mShape a = .ok (f, ten) → w.cols = c.kOf f →
      w.bad = false → 1 ≤ w.allRows → w.allRows ≤ 2048 →
      (∃ x ∈ s.me.allocs, x.base ≤ (s.x a).toNat ∧ (s.x a).toNat + banks w.allRows ≤ x.base + x.n) →
      w.rec_.base.extractLsb' 56 8 ≠ 0xF4 → Gives (M.rowsOf .load 0 w) s (rows, runs, i) u →
      Completes (.mmul rlx a (.buf view)) s
        (Accepts u ten (s.x a).toNat (banks w.allRows) (.mmulMem int false rows))) ∧
    (room → record → s.allocAt a = .ok l → w.rec_.ty = t → w.allRows = 16 * l.n / l.w → w.cols = 32 * l.w →
      (t = .bf16 ∨ t = .f32 ∨ l.int = true ∧ t.isInt = true ∧ t.bits ≤ 32) → s.tenant = .ok ten →
      0xF0 ≤ (w.rec_.base.extractLsb' 56 8).toNat → (w.rec_.base.extractLsb' 56 8).toNat ≤ 0xF3 →
      Gives (M.rowsOf .store 0 w) s (rows, runs, i) u1 → Gives (M.scales i cr (32 * l.w)) u1 (scale, sruns, i') u2 →
      Gives (M.barOperand d) u2 bar u →
      Completes (.mdrain t rlx a view d cr) s
        (Accepts u ten l.base l.n (.mdrain l.w l.int t (s.me.fcr.toNat % 4) rows scale bar))) ∧
    (s.me.id.unit = .compute → room → u = s → rowsOk → s.weights = none →
      Traps (.mmul rlx a (.queue q m)) s Cause.illop 0 (BitVec.ofNat 64 (2 ^ 61 + 3 * 2 ^ 40)))

/-- R10, R179-R182: FORK starts the helpers at the entries that are not 0, with x10 to x17 and nothing else of the compute
strand's; RDV waits for both; END makes a helper idle with its registers kept, once the AMOPs ordered
like its stores are performed (R261). QPUT, QGET and QTRY of both classes: entries
leave in the order they came, QPUT waits for a free entry and QGET for one to take, and QTRY answers 0 where QGET would wait.
What a FORK resets in a helper and renames of its earlier run (log entry 28), and that QTRY's status wins where both destinations
are one register (log entry 41), are readings of the model. -/
def Obligations.HelpersAndQueues : Prop :=
  ∀ (a b d : Reg) (x : Bool) (q : Reg3) (v : V128) (l : List V128) (s s1 u : State),
    let unitIs (i : Agent) : Sid := { s.me.id with unit := i }
    let started (e : W64) (o : Option Strand) : Prop := ∃ c, o = some c ∧ c.pc = e ∧ c.level = .s ∧ c.live = true ∧
      c.wait = none ∧ c.place = u.me.place ∧ c.res = .resident ∧ c.sqcap = BitVec.ofNat 64 u.myLaunch.sqcap ∧
      ∀ r : Reg, c.getX r = if 10 ≤ r.toNat ∧ r.toNat ≤ 17 then u.x r else 0
    let rest (t : State) : State := { s with queues := t.queues, cores := t.cores }
    let can := s.myQueues.heldByOthers s.me.id.unit q = false ∧ s.myQueues.q.get q.toFin = v :: l
    (s.me.id.unit = .compute → s.me.id.isHandler = false → s.helpersIdle = true →
      Gives (M.helperEntry (s.x a) 1) s () s1 → Gives (M.helperEntry (s.x b) 2) s1 () u → u.me.id = s.me.id →
      Completes (.fork a b) s (fun t =>
        (s.x a ≠ 0 → started (s.x a) (t.strand? (unitIs .loader))) ∧
        (s.x a = 0 → t.strand? (unitIs .loader) = u.strand? (unitIs .loader)) ∧
        (s.x b ≠ 0 → started (s.x b) (t.strand? (unitIs .storer))) ∧
        (s.x b = 0 → t.strand? (unitIs .storer) = u.strand? (unitIs .storer)) ∧
        (∀ i, i ≠ unitIs .loader → i ≠ unitIs .storer → i ≠ s.me.id → (∀ n, i.seat ≠ .placed (2 ^ 24 + n)) →
          t.strand? i = u.strand? i) ∧
        t.me = { u.me.dropPend with ivals := (u.me.bump 4).ivals, pc := u.me.pc + 4, wait := none } ∧
        t = { u with me := t.me, rest := t.rest, ops := t.ops, next := t.next } ∧ SameMem u t ∧
        t.ops.map (fun o => (o.1, { o.2 with owner := s.me.id })) = u.ops.map (fun o => (o.1, { o.2 with owner := s.me.id })) ∧
        ((∀ o ∈ u.ops, o.2.owner ≠ unitIs .loader ∧ o.2.owner ≠ unitIs .storer) → t.ops = u.ops ∧ t.next = u.next))) ∧
    (s.me.id.isHandler = false → s.helpersIdle = false → Waits (.fork a b) s .helpers ∧ Waits .rdv s .helpers) ∧
    (s.me.id.unit = .compute → s.me.id.isHandler = false → s.helpersIdle = true →
      ((s.x a).toNat % 4 ≠ 0 ∨ 2 ^ 54 ≤ (s.x a).toNat) → Traps (.fork a b) s Cause.badtgt (s.x a) 1) ∧
    (s.me.id.isHandler = false → s.helpersIdle = true → Completes .rdv s (Synced s 4)) ∧
    (s.me.id.unit ≠ .compute → (s.me.farAmop = false → Completes .endHelper s (RetiresAs s { s.me with live := false } 4)) ∧
      (s.me.farAmop = true → Waits .endHelper s .unacked)) ∧
    (s.me.id.unit = .compute → Traps .endHelper s Cause.illop 0 0x4000_0000_0000_0000) ∧
    (s.myQueues.full s.me.id.unit q = false → Completes (.qput x q b) s (fun t =>
      QueueIs s q (s.myQueues.q.get q.toFin ++ [if x then (s.x b).setWidth 128 else s.v b]) t ∧
      RetiresAs { s with queues := t.queues } s.me 4 t)) ∧
    (s.myQueues.full s.me.id.unit q = true → Waits (.qput x q b) s (.queueRoom q)) ∧
    (can →
      Completes (.qget true d q) s (fun t => Took s q l t ∧ WritesX (rest t) d (v.setWidth 64) 4 t) ∧
      Completes (.qget false d q) s (fun t => Took s q l t ∧ WritesV (rest t) d v 4 t) ∧
      Completes (.qtry true d q b) s (fun t => Took s q l t ∧
        (∀ r, t.x r = if r = 0 then 0 else if r = b then 1 else if r = d then v.setWidth 64 else s.x r) ∧
        RetiresAs (rest t) { s.me with x := t.me.x } 4 t) ∧
      Completes (.qtry false d q b) s (fun t => Took s q l t ∧
        (∀ r, t.x r = if r = 0 then 0 else if r = b then 1 else s.x r) ∧ (∀ r, t.v r = if r = d then v else s.v r) ∧
        RetiresAs (rest t) { s.me with x := t.me.x, v := t.me.v } 4 t)) ∧
    (s.myQueues.heldByOthers s.me.id.unit q = true ∨ s.myQueues.q.get q.toFin = [] →
      Completes (.qtry x d q b) s (WritesX s b 0 4) ∧ Waits (.qget x d q) s (.queueEntry q))

/-- R183-R187: SEND carries the 16 bytes its source gives, SENDB the bytes of a range, each in the order sent; the message
enters the core's injection queue. A sender with as many messages as its SQCAP takes SQFULL. HSET writes one handler-table
entry. -/
def Obligations.MessageSending : Prop :=
  ∀ (rlx : Bool) (ch : Chan) (a b' c : Reg) (b : VSrc) (f : BitVec 32) (v : V128) (g o : Nat) (ts : List Target)
    (far : List (List Byte)) (s u w : State),
    let n := (s.x c).toNat
    let vc := (s.x a).toNat
    let sent := (s.sentBy s.me.id).length
    let gate := s.myLaunch.coreOf vc = some g ∧ sent < s.me.sqcap.toNat ∧
      (s.me.id.isHandler = true ∨ s.myCore.told.contains g = false) ∧ s.myCore.inj.length < 16 ∧ s.locks = []
    (gate → Gives (M.poolOk [b]) s () s → Gives (M.source .n8 b) s v u →
      Completes (.send rlx ch a b) s (Injects (taken u [b]) ch vc (wordBytes 16 v) rlx)) ∧
    (gate → n ≤ 256 → Gives (M.sendSource rlx (s.x b') n) s ts w → Gives (M.sendRequests 0 ts) w far u → u.poison = [] →
      u.locks = [] →
      Completes (.sendb rlx ch a b' c) s (Injects u ch vc (u.sendBytes rlx ts far) rlx)) ∧
    (gate → n ≤ 256 → Quiet s → o + n ≤ 0x4000 → s.x b' = privAddr o → (rlx = false ∨ s.me.wlog = []) →
      Completes (.sendb rlx ch a b' c) s (Injects s ch vc (bytesAt s (privKey s o) n) rlx)) ∧
    (s.me.id.unit = .compute → gate → n ≤ 256 → Quiet s → o < 0x4000 → 0x4000 < o + n → s.x b' = privAddr o →
      Traps (.sendb rlx ch a b' c) s Cause.space (privAddr 0x4000) 0) ∧
    (s.me.id.unit = .compute → s.myLaunch.coreOf vc = some g → s.me.sqcap.toNat ≤ sent → Gives (M.poolOk [b]) s () s →
      Traps (.send rlx ch a b) s Cause.sqfull (s.x a) (BitVec.ofNat 64 (sent % 32 + ch.toNat * 256))) ∧
    (s.me.id.unit = .compute → s.myLaunch.coreOf vc = none → Gives (M.poolOk [b]) s () s →
      Traps (.send rlx ch a b) s Cause.illop 0
        (0x4000_0000_0000_0000 ||| (a.setWidth 64 <<< 32) ||| ((s.x a).setWidth 32).setWidth 64)) ∧
    (s.myLaunch.coreOf vc = some g → sent < s.me.sqcap.toNat → s.me.id.isHandler = false → s.myCore.told.contains g = true →
      Gives (M.poolOk [b]) s () s → Waits (.send rlx ch a b) s .pressure) ∧
    (f.extractLsb' 5 27 = 0 → (s.x a).toNat % 4 = 0 → (s.x a).toNat < 2 ^ 54 → (f.getLsbD 4 = true ∨ 2 ≤ ch.toNat) →
      (f.getLsbD 3 = false ∨ (s.myCore.htab.get ch.toFin).enable = true ∨ s.myCore.streams ch.toNat = false) →
      Completes (.hset ch a f) s (fun t =>
        (∀ i : Fin 64, t.myCore.htab.get i = if i = ch.toFin
          then { pc := s.x a, prio := f.extractLsb' 0 3, enable := f.getLsbD 3, accept := f.getLsbD 4 }
          else s.myCore.htab.get i) ∧
        t.myCore = { s.myCore with htab := t.myCore.htab } ∧ (∀ h, h ≠ s.me.place.gcore → t.core h = s.core h) ∧
        RetiresAs { s with cores := t.cores } s.me 12 t))

/-- R189-R191: MSGRD reads the header or a unit of the current message; MSGDONE frees the message; YIELD ends a handler's
activation and frees its message, and in a placed strand only retires. -/
def Obligations.CurrentMessage : Prop :=
  ∀ (x : Bool) (d a : Reg) (m : Msg) (ch k : Nat) (s : State),
    let i := (s.x a).toNat
    let head : BitVec 64 :=
      (((BitVec.ofNat 24 m.vc ++ BitVec.ofNat 24 m.tid) ++ BitVec.ofBool m.rpy) ++ BitVec.ofNat 6 m.ch) ++ BitVec.ofNat 9 m.bytes
    (s.curMsg = some m → m.bytes ≤ 256 →
      (s.x a = BitVec.allOnes 64 → m.vc < 2 ^ 24 → m.tid < 2 ^ 24 → m.ch < 64 →
        Completes (.msgrd true d a) s (WritesX s d head 4)) ∧
      (8 * i < m.bytes →
        Completes (.msgrd true d a) s (WritesX s d (BitVec.ofNat 64 (leNat ((m.data.drop (8 * i)).take 8))) 4)) ∧
      (16 * i < m.bytes →
        Completes (.msgrd false d a) s (WritesV s d (BitVec.ofNat 128 (leNat ((m.data.drop (16 * i)).take 16))) 4)) ∧
      (s.me.id.unit = .compute → m.bytes ≤ 8 * i → s.x a ≠ BitVec.allOnes 64 →
        Traps (.msgrd x d a) s Cause.illop 0
          (0x4000_0000_0000_0000 ||| (a.setWidth 64 <<< 32) ||| ((s.x a).setWidth 32).setWidth 64))) ∧
    (s.me.current = some (ch, k) → Completes .msgdone s (fun t => ∃ u, Freed s ch k u ∧ Synced u 4 t)) ∧
    (s.me.id.unit = .compute → s.me.current = none →
      Traps .msgdone s Cause.illop 0 0x4000_0000_0000_0000 ∧ Traps (.msgrd x d a) s Cause.illop 0 0x4000_0000_0000_0000) ∧
    (s.me.id.isHandler = true → Completes .yieldSlot s (fun t => ∃ u w,
      (s.me.current = some (ch, k) → Freed s ch k u) ∧ (s.me.current = none → u.me = s.me ∧ u = { s with rest := u.rest }) ∧
      Synced u 4 w ∧ t = w.modMe (fun c => { c with live := false, act := none }))) ∧
    (s.me.id.isHandler = false → Completes .yieldSlot s (Synced s 4))

/-- R13, R15, R130-R132, R185, R188, R191, R287, R346: messages and notices at their receiver. An admission takes the first
message of its sender; a notice takes a free kick entry, joins the wait list, or is refused; a handler starts at its entry
with the channel and the index; a packet leaves its network when it arrives. Which free entry is taken is a free value (log entry 10). -/
def Obligations.MessageEvents : Prop :=
  ∀ (k g to_ op ref launch : Nat) (h : W32) (on : Bool) (e : InjEntry) (n : Kick) (p : Packet) (eo : EngOp) (ch i : Nat)
    (hd : Strand) (s : State),
    let u := s.deliver k
    let notices (ev : Instr) : Prop :=
      ((∃ j : Fin 8, (s.core g).kick.get j = none) → Completes ev s (fun t =>
        (∃ j : Fin 8, (s.core g).kick.get j = none ∧
          ∀ r : Fin 8, (t.core g).kick.get r = if r = j then some { n with pending := true, since := s.tick } else (s.core g).kick.get r) ∧
        (t.core g).waitList = (s.core g).waitList ∧
        (AMap.get s.ops op = some eo → ∀ c, t.strand? c = if c = eo.owner then (s.strand? c).map (·.answer op (.ok [])) else s.strand? c) ∧
        t = { u with me := t.me, rest := t.rest, cores := t.cores })) ∧
      ((∀ j : Fin 8, (s.core g).kick.get j ≠ none) → (s.core g).waitList.length < 16 → Completes ev s (fun t =>
        (t.core g).kick = (s.core g).kick ∧ (t.core g).waitList = (s.core g).waitList ++ [n] ∧
        (AMap.get s.ops op = some eo → ∀ c, t.strand? c = if c = eo.owner then (s.strand? c).map (·.answer op (.ok [])) else s.strand? c) ∧
        t = { u with me := t.me, rest := t.rest, cores := t.cores })) ∧
      ((∀ j : Fin 8, (s.core g).kick.get j ≠ none) → 16 ≤ (s.core g).waitList.length →
        Completes ev s (fun t => Sent u t .req g g (.noticeRefused op g n) ∧ t = { u with net := t.net }))
    (s.net[k]? = some p → u.net = s.net.take k ++ s.net.drop (k + 1) ∧ u = { s with net := u.net }) ∧
    ((s.core g).inj[k]? = some e → s.sentEarlier g k e = false → s.admissible e = some to_ →
      Completes (.messageAdmit g k) s (fun t => ∃ w : State,
        (∀ c, w.core c = if c = g then { s.core g with inj := (s.core g).inj.take k ++ (s.core g).inj.drop (k + 1) } else s.core c) ∧
        w = { s with cores := w.cores } ∧ Admitted w to_ e.msg t)) ∧
    (s.arriving k = some (.pressure g on to_) → Completes (.pressureNotice k) s (fun t =>
      (∀ c, c ∈ (t.core to_).told ↔ (c ∈ (s.core to_).told ∧ (on = true ∨ c ≠ g)) ∨ (on = true ∧ c = g)) ∧
      (∀ c, c ≠ to_ → t.core c = s.core c) ∧ t = { u with cores := t.cores })) ∧
    (s.candidate g = some (ch, i) →
      ((s.handlersOf g).filter (fun x => !x.live))[s.choose 5 ((s.handlersOf g).filter (fun x => !x.live)).length]? = some hd →
      s.strand? hd.id = some hd → Completes (.handlerSelect g) s (fun t => ∃ (w : State) (c : Strand), t = w.asStrand hd.id State.checkEntry ∧
        (w.core g).htab = (s.core g).htab ∧
        (ch ≠ 0 → (w.core g).rq = (s.core g).rq.map (fun r => if r.idx = i then { r with active := true } else r)) ∧
        w.strand? hd.id = some c ∧ c.pc = (nth (s.core g).htab.toList ch (HEntry.reset ch)).pc ∧
        c.level = .s ∧ c.live = true ∧ c.current = some (ch, i) ∧ c.act = some ch ∧
        (∀ r, c.getX r = if r = 10 then BitVec.ofNat 64 ch else if r = 11 then BitVec.ofNat 64 i else hd.getX r) ∧
        (∀ j : Fin 5, c.ivals.get j = hd.ivals.get j + 1) ∧ w = { s with me := w.me, rest := w.rest, cores := w.cores })) ∧
    (s.arriving k = some (.notice op g n) → s.evictedAt n.launch g = false → notices (.noticeArrival k)) ∧
    (s.arriving k = some (.noticeRefused op g n) → s.evictedAt n.launch g = false → notices (.noticeRetry k)) ∧
    (s.arriving k = some (.nack launch h) → s.net[k]? = some p →
      s.ops.find? (fun o => o.2.notice && o.2.owner.launch == launch && handleOf o.2.owner.tid o.2.slot o.2.gen == h) = some (ref, eo) →
      (s.ownerCore eo.owner = p.dst → Completes (.nackArrival k) s (OpDone u ref eo)) ∧
      (s.ownerCore eo.owner ≠ p.dst → Completes (.nackArrival k) s (fun t =>
        Sent u t .rpy p.dst (s.ownerCore eo.owner) (.nack launch h) ∧ t = { u with net := t.net })))

/-- R18, R194-R197: JOIN of an unflagged group takes the next index, and answers all ones from a full one; a member that
joins again gets its index; the last thread of a flagged group forms it. LEAVE ends a membership. GBAR reports its arrival
once and retires with the release. The order of the checks of JOIN is a reading of the model (log entry 43). -/
def Obligations.Groups : Prop :=
  ∀ (d : Reg) (idx : BitVec 16) (r : GroupRec) (g : Group) (m : Member) (ws : List W64) (s : State),
    let u := s.me.id.launch
    let mine := s.myLaunch.group idx.toNat = .ok r
    let only := s.groups.filter (fun x => x.launch == u && x.gid == r.gid) = [g]
    let member := g.formed = true ∧ g.memberOf s.me.id = some m
    let near := s.locks = [] ∧ s.me.released = false
    let joins (i : Nat) (t : State) : Prop :=
      (∀ x, t.x x = if x = 0 then 0 else if x = d then BitVec.ofNat 64 i else s.x x) ∧
      t.me = { s.me.dropPend with x := t.me.x, groups := s.me.groups ++ [(r.gid, i)], pc := s.me.pc + 12, wait := none } ∧
      (∃ h n, t.group? u r.gid = some h ∧ h.nextIdx = i + 1 ∧ h.members.getLast? = some n ∧ n.sid = s.me.id ∧ n.idx = i ∧
        n.inside = true) ∧
      t = { s with me := t.me, groups := t.groups }
    let leaves (t : State) : Prop :=
      (∀ h ∈ t.groups, h.launch = u → h.gid = r.gid → h.memberOf s.me.id = none) ∧
      t.me.groups = s.me.groups.filter (fun x => x.1 != r.gid) ∧ t.me.pc = s.me.pc + 12 ∧ t.me.wait = none ∧ t.me.x = s.me.x ∧
      t.me.grp = (if g.gang || g.reactive || g.strag then 0xFFFF else s.me.grp) ∧ t.mem = s.mem
    (mine → s.group? u r.gid = some g → member → Completes (.join d idx) s (WritesX s d (BitVec.ofNat 64 m.idx) 12)) ∧
    (mine → near → r.flagged = false → s.me.groups.length < 8 → s.group? u r.gid = none →
      (s.groups.filter (fun x => x.launch == u)).length < 4096 → Completes (.join d idx) s (joins 0)) ∧
    (mine → near → r.flagged = false → s.me.groups.length < 8 → s.group? u r.gid = some g → s.joinsAfter g = false → g.formed = true →
      g.memberOf s.me.id = none → s.me.id ∉ g.joining → g.nextIdx < g.size → Completes (.join d idx) s (joins g.nextIdx)) ∧
    (mine → near → r.flagged = false → s.me.groups.length < 8 → s.group? u r.gid = some g → s.joinsAfter g = false → g.formed = true →
      g.memberOf s.me.id = none → s.me.id ∉ g.joining → g.size ≤ g.nextIdx →
      Completes (.join d idx) s (WritesX s d (BitVec.allOnes 64) 12)) ∧
    (mine → near → r.flagged = true → s.me.groups.length < 8 → s.mayNotJoin r = false → s.group? u r.gid = some g → s.joinsAfter g = false →
      g.formed = false → s.me.id ∉ g.joining →
      (g.joining.length + 1 < r.size → Completes (.join d idx) s (fun t => t.me = { s.me with wait := some .forming } ∧
        (∃ h, t.group? u r.gid = some h ∧ h.joining = g.joining ++ [s.me.id] ∧ h.formed = false) ∧
        t = { s with me := t.me, groups := t.groups })) ∧
      (r.size ≤ g.joining.length + 1 → Completes (.join d idx) s (fun t =>
        t.x d = (if d = 0 then 0 else BitVec.ofNat 64 (s.me.id.tid - r.first)) ∧ t.me.pc = s.me.pc + 12 ∧ t.me.wait = none ∧
        (∃ h, t.group? u r.gid = some h ∧ h.formed = true ∧ h.joining = [] ∧ h.members.map (·.idx) = List.range r.size) ∧
        t.mem = s.mem))) ∧
    (s.me.id.unit = .compute → mine → 8 ≤ s.me.groups.length → s.group? u r.gid = none →
      Traps (.join d idx) s Cause.illop 0 (0x4000_0000_0000_0000 ||| ((BitVec.ofNat 64 r.gid).setWidth 32).setWidth 64)) ∧
    (mine → only → member → (∀ p ∈ g.members, p.inside = true → p.sid = s.me.id → p.idx = m.idx) → near → s.me.stolen = [] →
      g.winOpen = false → (∀ q, m.queue = some q → q.out = 0) →
      (g.reactive = false → Completes (.leave idx) s leaves) ∧
      (g.reactive = true → Answered s true [.ok ws] → Completes (.leave idx) s leaves) ∧
      (g.reactive = true → s.asking = false → Completes (.leave idx) s (fun t => Reported s t g.home (.leave u g.gid m.idx) ∧
        Asks s .instant t))) ∧
    (s.me.id.unit = .compute → mine → (∀ h, s.group? u r.gid = some h → h.memberOf s.me.id = none) →
      Traps (.leave idx) s Cause.illop 0 (0x4000_0000_0000_0000 ||| ((BitVec.ofNat 64 r.gid).setWidth 32).setWidth 64) ∧
      Traps (.gbar idx) s Cause.illop 0 (0x4000_0000_0000_0000 ||| ((BitVec.ofNat 64 r.gid).setWidth 32).setWidth 64)) ∧
    (mine → s.group? u r.gid = some g → member →
      (near → s.asking = false → Completes (.gbar idx) s (fun t =>
        Reported s t g.home (.gbarArrive u r.gid m.idx m.count) ∧ Asks s (.barrier r.gid) t)) ∧
      (Answered s true [.ok ws] → Completes (.gbar idx) s (Synced s 12)))

/-- R192, R193, R198-R200: EXIT checks what the strand still holds, leaves its groups, one after another (R195), and ends it; WAITDEP
waits for the producers; TRIGGER marks the strand; MIGRATE sends the strand with its state to another virtual core. The network of
a moving context, and that the banks REL has given up move with it and are cleared at the old core, are readings of the model (log
entry 42). -/
def Obligations.StrandLife : Prop :=
  ∀ (a : Reg) (target : Nat) (s : State),
    let u := s.me.id.launch
    let tid := s.me.id.tid
    let comp := s.me.id.unit = .compute ∧ s.me.id.isHandler = false
    let mineToo (c : Strand) : Prop := c.id.launch = u ∧ c.id.seat = s.me.id.seat
    let vc := (s.x a).toNat
    (comp → s.lowestBank = none → s.me.stolen = [] → s.me.ports = [] → s.helpersIdle = true → s.working = false →
      s.me.groups = [] → Completes .exit s (fun t => t.me = Strand.nobody ∧ tid ∈ (t.launch u).ended ∧
        tid ∈ (t.launch u).triggered ∧ (∀ k, k ≠ u → t.launch k = s.launch k) ∧ (∀ c ∈ t.rest, ¬ mineToo c) ∧
        (∀ c ∈ s.rest, ¬ mineToo c → c ∈ t.rest) ∧ (t.slotq u s.me.id.seat) = SlotQueues.empty ∧
        t = { s with me := t.me, rest := t.rest, queues := t.queues, launches := t.launches, locks := t.locks })) ∧
    (comp → ∀ b, b < 128 → s.myCore.holds b s.me.id = true → (∀ k, k < b → s.myCore.holds k s.me.id = false) →
      Traps .exit s Cause.accheld 0 (BitVec.ofNat 64 b)) ∧
    (comp → s.lowestBank = none → s.me.stolen = [] → s.me.ports = [] → s.helpersIdle = true → s.working = false → ∀ w,
      Gives (M.leaveAll s.me.groups) s () w → w.me.id = s.me.id → w.locks = [] →
      Completes .exit s (fun t => t.me = Strand.nobody ∧ tid ∈ (t.launch u).ended ∧ tid ∈ (t.launch u).triggered ∧
        (∀ k, k ≠ u → t.launch k = w.launch k) ∧ (∀ c, c ∈ t.rest ↔ c ∈ w.rest ∧ ¬ mineToo c) ∧
        (t.slotq u s.me.id.seat) = SlotQueues.empty ∧
        t = { w with me := t.me, rest := t.rest, queues := t.queues, launches := t.launches, locks := t.locks })) ∧
    (comp → s.lowestBank = none → s.me.stolen = [] → ∀ p, (AMap.get s.me.ports p).isSome = true →
      (∀ k, k < p → AMap.get s.me.ports k = none) → Traps .exit s Cause.portbad 0 (BitVec.ofNat 64 p)) ∧
    (comp → s.lowestBank = none → ∀ x, s.me.stolen = [x] → Traps .exit s Cause.tileheld 0 x.1) ∧
    (comp → s.lowestBank = none → s.me.stolen = [] → s.me.ports = [] → (s.helpersIdle = false → Waits .exit s .helpers) ∧
      (s.helpersIdle = true → s.working = true → Waits .exit s .work)) ∧
    (s.me.id.unit = .compute → s.me.id.isHandler = true → Traps .exit s Cause.illop 0 0x4000_0000_0000_0000) ∧
    (s.me.id.isHandler = false → (s.depsMet = true → Completes .waitdep s (Synced s 4)) ∧
      (s.depsMet = false → Waits .waitdep s .producers)) ∧
    (s.me.id.isHandler = false → s.locks = [] → (s.me.unack ≠ 0 → Waits .trigger s .unacked) ∧
      (s.me.unack = 0 → Completes .trigger s (fun t => ∃ w, Synced w 4 t ∧ w.me = { s.me with triggered := true } ∧
        tid ∈ (w.launch u).triggered ∧ (∀ k, k ≠ u → w.launch k = s.launch k) ∧
        w.launch u = { s.launch u with triggered := (w.launch u).triggered } ∧
        w = { s with me := w.me, launches := w.launches }))) ∧
    (comp → s.myLaunch.coreOf vc = some target → s.pinned = false →
      (vc = s.me.place.vc → Completes (.migrate a) s (Synced s 4)) ∧
      (vc ≠ s.me.place.vc → s.helpersIdle = true → s.me.unack = 0 → s.me.ports = [] → s.matrixBegun = false → s.locks = [] →
        s.me.released = false → Placed s → Completes (.migrate a) s (fun t =>
          t.me = { s.me.dropPend with ivals := (s.me.bump 4).ivals, pc := s.me.pc + 4, wait := none, res := .moving,
                                      place := { pkg := target / 2048, core := target % 2048, slot := s.me.place.slot, vc := vc } } ∧
          (∃ c, Sent s t .ctl s.me.place.gcore target (.migrate c) ∧ c.sid = s.me.id ∧ c.from_ = s.me.place) ∧
          (t.core s.me.place.gcore).fwd = s.myCore.fwd.filter (fun f => f.1 ≠ s.me.id) ++ [(s.me.id, s.next)] ∧
          (∀ b : Fin 128, (t.core s.me.place.gcore).banks.get b =
            if s.myCore.banks.get b = .held s.me.id ∨ s.myCore.banks.get b = .leaving s.me.id then .clearing
            else s.myCore.banks.get b) ∧
          (∀ g, g ≠ s.me.place.gcore → t.core g = s.core g) ∧ t.mem = s.mem))) ∧
    (comp → (s.myLaunch.coreOf vc = none ∨ s.pinned = true) → Traps (.migrate a) s Cause.illop 0
      (0x4000_0000_0000_0000 ||| (a.setWidth 64 <<< 32) ||| ((s.x a).setWidth 32).setWidth 64))

/-- R202-R209: PUTNB and GETNB leave an offer and retire; PUT and GET leave one and wait, and retire with the decision at
their own offer; PWAIT takes a decision; PWDRAW sends a withdrawal, once. PORTBAD by its reasons. -/
def Obligations.Ports : Prop :=
  ∀ (d e a : Reg) (idx : BitVec 16) (w st : W64) (dat : V128) (by_ : Option W64) (s : State),
    let p := PortRec.ofWord w
    let own := s.me.id.isHandler = false ∧ s.myLaunch.word 3 idx.toNat = .ok w ∧ (w.extractLsb' 32 24).toNat = s.me.id.tid
    let src := 2 ^ 46 + s.me.id.launch * 2 ^ 24 + s.me.id.tid
    let dst := 2 ^ 45 + s.me.id.launch * 128 + p.hvc
    let near := s.locks = [] ∧ s.me.released = false
    let free := s.me.ports.length < 8 ∧ s.portState idx = none
    let low : V128 := BitVec.ofNat 128 ((s.v a).toNat % 2 ^ (8 * p.w))
    let bad (r : Nat) : W64 := BitVec.ofNat 64 (r * 65536 + idx.toNat)
    let waits (data : V128) (t : State) : Prop := Offers s idx p (some s.me.pc) data t ∧
      t.me = { s.me with ports := t.me.ports, pend := t.me.pend, wait := some (.port idx.toNat) } ∧ t = { s with me := t.me, net := t.net }
    let idle : State := { s with me := { s.me with ports := AMap.drop s.me.ports idx.toNat } }
    let took (d e : Reg) (u t : State) : Prop := (∀ r, t.x r = if r = 0 then 0 else if r = d then st else s.x r) ∧
      (∀ r, t.v r = if r = e ∧ (st.toNat % 8 = 0 ∨ st.toNat % 8 = 3) then dat else s.v r) ∧
      RetiresAs u.bumpAll { u.bumpAll.me with x := t.me.x, v := t.me.v } 12 t
    (own → near → free → p.sink = false →
      Completes (.putnb idx a) s (fun t => Offers s idx p none low t ∧
        RetiresAs { s with net := t.net } { s.me with ports := t.me.ports } 12 t) ∧
      (s.portDomain p = none → Completes (.put d idx a) s (waits low))) ∧
    (own → near → free → p.sink = true →
      Completes (.getnb idx) s (fun t => Offers s idx p none 0 t ∧
        RetiresAs { s with net := t.net } { s.me with ports := t.me.ports } 12 t) ∧
      (s.portDomain p = none → Completes (.get d e idx) s (waits 0))) ∧
    (own → s.portState idx = some (.decided st dat (some s.me.pc)) →
      Completes (.put d idx a) s (SyncedX idle d st 12) ∧ Completes (.get d e idx) s (took e d idle)) ∧
    (own → s.portState idx = some (.offered (some s.me.pc) false) →
      Waits (.put d idx a) s (.port idx.toNat) ∧ Waits (.get d e idx) s (.port idx.toNat)) ∧
    (own → s.portState idx = some (.decided st dat by_) →
      (p.sink = true → Completes (.pwait d e idx) s (took d e idle)) ∧
      (p.sink = false → Completes (.pwait d e idx) s (SyncedX idle d st 12)) ∧
      (s.me.pendOf = none → Completes (.pwdraw d idx) s (SyncedX s d st 12))) ∧
    (own → s.portState idx = some (.offered by_ false) → s.me.unreported = false → Waits (.pwait d e idx) s (.port idx.toNat)) ∧
    (own → s.portState idx = none → Completes (.pwdraw d idx) s (SyncedX s d 4 12)) ∧
    (own → near → s.portState idx = some (.offered by_ false) → Completes (.pwdraw d idx) s (fun t =>
      AMap.get t.me.ports idx.toNat = some (.offered by_ true) ∧
      (∃ n, t.net = s.net ++ [{ vn := .ctl, src := src, dst := dst, after := some (s.me.id, n),
                                sent := s.tick, body := .withdraw p.hvc p.conn p.lidx s.me.id idx.toNat }]) ∧
      t.me = { s.me with ports := t.me.ports, pend := t.me.pend, wait := some (.port idx.toNat) } ∧
      t = { s with me := t.me, net := t.net })) ∧
    (s.me.id.unit = .compute → s.me.id.isHandler = false →
      ((∀ x, s.myLaunch.word 3 idx.toNat ≠ .ok x) → Traps (.putnb idx a) s Cause.portbad 0 (bad 1)) ∧
      (s.myLaunch.word 3 idx.toNat = .ok w → (w.extractLsb' 32 24).toNat ≠ s.me.id.tid →
        Traps (.putnb idx a) s Cause.portbad 0 (bad 2)) ∧
      (own → 8 ≤ s.me.ports.length → Traps (.putnb idx a) s Cause.portbad 0 (bad 3)) ∧
      (own → s.me.ports.length < 8 → s.portState idx ≠ none → Traps (.putnb idx a) s Cause.portbad 0 (bad 4)) ∧
      (own → s.portState idx = none → Traps (.pwait d e idx) s Cause.portbad 0 (bad 5)) ∧
      (own → free → p.sink = true → Traps (.putnb idx a) s Cause.portbad 0 (bad 6)))

/-- R210-R215, R266, R315: the instructions of a reactive domain. EMIT and RETRACT report after the member's atomics; a test of
a resolved signal answers it, one of an unknown signal reports that the member blocks; PAUSE retires with the resumption; the
delay registers and the previous instant's signal. What a restored member reports anew is a reading of the model (log entry
54). -/
def Obligations.Reactive : Prop :=
  ∀ (abs : Bool) (idx disp : BitVec 16) (d a : Reg) (z : Reg3) (w : W64) (g : Group) (m : Member) (pr : Nat × Bool) (x : Signal)
    (ws : List W64) (s u : State),
    let n := (w.extractLsb' 40 8).toNat
    let inside := s.me.id.isHandler = false ∧ s.flaggedOf s.me.id = some (g, m) ∧ g.reactive = true
    let decl := s.myLaunch.word 6 idx.toNat = .ok w ∧ inside ∧ (w.extractLsb' 48 16).toNat = g.gid
    let near := s.locks = [] ∧ s.me.released = false
    let seen := m.sees.find? (fun y => y.1 == n) = some pr
    let T := s.me.pc + disp.signExtend 64 * 4
    (decl → near → m.mine.getLsbD n = true →
      Completes (.emit idx a) s (fun t =>
        Reported s t g.home (.emit g.launch g.gid m.idx n ((s.x a).setWidth 32)) ∧ Synced { s with net := t.net } 12 t) ∧
      Completes (.retract idx) s (fun t => Reported s t g.home (.retract g.launch g.gid m.idx n) ∧
        (∃ h, t.flaggedOf s.me.id = some (h, { m with mine := m.mine &&& ~~~bitOf n })) ∧
        Synced { s with net := t.net, groups := t.groups } 12 t)) ∧
    (decl → m.mine.getLsbD n = false → Completes (.retract idx) s (Synced s 12) ∧
      (s.me.id.unit = .compute → Traps (.emit idx a) s Cause.illop 0 (0x4000_0000_0000_0000 ||| BitVec.ofNat 64 n))) ∧
    (decl → seen → Completes (.sigtst d idx) s (SyncedX s d (if pr.2 then 1 else 2) 12) ∧
      (pr.2 = abs → Completes (.bsig abs idx disp) s (Synced s 12)) ∧
      (pr.2 ≠ abs → Gives (M.target T) s () u → Completes (.bsig abs idx disp) s (fun t =>
        t.me = { u.bumpAll.me with pend := u.me.dropPend.pend, pc := T, wait := none, released := t.me.released } ∧
        KeepsOthers u.bumpAll t))) ∧
    (decl → near → m.sees.find? (fun y => y.1 == n) = none → s.me.unreported = true → Completes (.sigtst d idx) s (fun t =>
      Reported s t g.home (.blockSig g.launch g.gid m.idx n) ∧
      t.me = { s.me with pend := t.me.pend, wait := some (.signal idx.toNat) } ∧ t = { s with me := t.me, net := t.net })) ∧
    (decl → m.sees.find? (fun y => y.1 == n) = none → s.me.unreported = false →
      Waits (.sigtst d idx) s (.signal idx.toNat) ∧ Waits (.bsig abs idx disp) s (.signal idx.toNat)) ∧
    (inside → near → s.asking = false → Completes .pause s (fun t => Reported s t g.home (.pause g.launch g.gid m.idx) ∧
      (∃ h, t.flaggedOf s.me.id = some (h, { m with mine := 0 })) ∧ Asks s .instant t)) ∧
    (inside → Answered s true [.ok ws] → Completes .pause s (Synced s 12)) ∧
    (s.me.id.unit = .compute → s.flaggedOf s.me.id = none → Traps .pause s Cause.illop 0 0x4000_0000_0000_0000) ∧
    Completes (.zrd d z) s (WritesX s d (s.me.zc.get z.toFin) 12) ∧
    (inside → Completes (.zwr z a) s (fun t =>
      (∀ i : Fin 8, t.me.zp.get i = (if i = z.toFin then s.x a else s.me.zp.get i) ∧
        t.me.zw.get i = (if i = z.toFin then true else s.me.zw.get i)) ∧
      RetiresAs s { s.me with zp := t.me.zp, zw := t.me.zw } 12 t)) ∧
    ((∀ h k, s.flaggedOf s.me.id = some (h, k) → h.reactive = false) → Completes (.zwr z a) s (fun t =>
      (∀ i : Fin 8, t.me.zp.get i = (if i = z.toFin then s.x a else s.me.zp.get i) ∧
        t.me.zc.get i = (if i = z.toFin then s.x a else s.me.zc.get i)) ∧
      RetiresAs s { s.me with zp := t.me.zp, zc := t.me.zc } 12 t)) ∧
    (decl → g.signal? n = some x → Completes (.sigpre d idx) s
      (WritesX s d ((0 : BitVec 31) ++ BitVec.ofBool x.prevPresent ++ x.prevVal) 12))

/-- R216-R222: the instructions of a gang's window and of tile queues. A window opens once for all its members; the owner of a
queue pushes at its end and takes from its head; a steal and a straggler request are answered by another agent. The length that
GWSTAT reports of a closed window (log entry 44), and that TQTAKE and TQSTEAL write x[e] last where d = e (log entry 41), are
readings of the model. -/
def Obligations.Gangs : Prop :=
  ∀ (d e a b : Reg) (f : BitVec 32) (g : Group) (m : Member) (q : TileQueue) (x y : W64) (s : State),
    let base (i : Reg) : W64 := 0x4000_0000_0000_0000 ||| (i.setWidth 64 <<< 32) ||| ((s.x i).setWidth 32).setWidth 64
    let inside := s.me.id.isHandler = false ∧ s.flaggedOf s.me.id = some (g, m)
    let near := s.locks = [] ∧ s.me.released = false
    let p := s.x a
    let n := (s.x b).toNat
    let off := (p.extractLsb' 0 19).toNat
    let slice := p.extractLsb' 56 8 = 0xF1 ∧ p.extractLsb' 47 9 = 0 ∧ p.extractLsb' 19 17 = 0 ∧
      (p.extractLsb' 36 11).toNat = s.me.place.core ∧ p.toNat % 16 = 0 ∧ n % 16 = 0 ∧ 16 ≤ n ∧ n ≤ 262144 ∧ off + n ≤ 0x8_0000
    let v := p.toNat
    let near_ := (s.myLaunch.neighbours (s.myLaunch.recOf g) m.idx).contains v = true ∧ v ≠ m.idx
    let key (k : Nat) : Nat := spKey s.me.place.gcore (q.ring + 8 * (k % g.tqcap))
    let victim := (p.extractLsb' 16 12).toNat
    let toVictim (k node : Nat) (home : Bool) : Packet :=
      { vn := .ctl, src := s.me.place.gcore, dst := node, after := some (s.me.id, k), sent := s.tick,
        body := .tqdone g.launch g.gid victim (p.extractLsb' 32 32) home }
    (inside → g.gang = true → slice →
      (near → s.asking = false → g.winOpen = false → Completes (.gwopen d a b) s (fun t =>
        Reported s t g.home (.winArrive g.launch g.gid m.idx off n) ∧ Asks s .window t)) ∧
      (Answered s true [.ok [x]] → Completes (.gwopen d a b) s (WritesX s d x 12)) ∧
      (s.asking = false → g.winOpen = true → m.win = .attached → Completes (.gwopen d a b) s (WritesX s d 1 12)) ∧
      (s.asking = false → g.winOpen = true → m.win ≠ .attached → Completes (.gwopen d a b) s (WritesX s d 3 12))) ∧
    (s.me.id.unit = .compute → inside → g.gang = true → p.extractLsb' 56 8 ≠ 0xF1 → Traps (.gwopen d a b) s Cause.illop 0 (base a)) ∧
    (inside → g.gang = true → m.len < 2 ^ 32 → g.attached m < 2 ^ 16 → m.idx < 2 ^ 12 → Completes (.gwstat d) s
      (WritesX s d (BitVec.ofNat 32 m.len ++ BitVec.ofNat 16 (g.attached m) ++ BitVec.ofNat 12 m.idx ++ (0 : BitVec 1) ++
        BitVec.ofBool m.dep ++ BitVec.ofBool g.winOpen ++ BitVec.ofBool (g.winOpen && decide (m.win = .attached))) 12)) ∧
    (inside → g.gang = true → g.winOpen = true → m.win = .attached → s.gangBusy = true → Waits .gwdetach s .unacked) ∧
    (inside → g.gang = true → (g.winOpen = true → m.win = .attached → s.gangBusy = false) → Completes .gwdetach s (fun t =>
      (g.winOpen = true → m.win = .attached → ∃ h k, t.flaggedOf s.me.id = some (h, k) ∧ k.idx = m.idx ∧ k.win = .detached ∧
        (h.winOpen = false ↔ ∀ o ∈ g.current, o.idx ≠ m.idx → o.win ≠ .attached)) ∧
      ((g.winOpen = false ∨ m.win ≠ .attached) → t.groups = s.groups) ∧ RetiresAs { s with groups := t.groups } s.me 12 t)) ∧
    (inside → g.strag = true → m.queue = some q → s.locks = [] → s.me.farAmop = false → MemoryOk s → s.shadows = [] →
      (q.count + q.out < g.tqcap → Completes (.tqpush a) s (fun t => Stored s (key (q.head + q.count)) (wordBytes 8 (s.x a)) t ∧
        (∃ h, t.flaggedOf s.me.id = some (h, { m with queue := some { q with count := q.count + 1 } })) ∧
        RetiresAs { s with mem := t.mem, groups := t.groups } s.me 12 t)) ∧
      (g.tqcap ≤ q.count + q.out → s.me.id.unit = .compute → Traps (.tqpush a) s Cause.illop 0 (base a)) ∧
      (q.count = 0 → Completes (.tqtake d e) s (SyncedX s e 0 12)) ∧
      (q.count ≠ 0 → Completes (.tqtake d e) s (fun t =>
        (∀ r, t.x r = if r = 0 then 0 else if r = e then 1
          else if r = d then BitVec.ofNat 64 (leNat (bytesAt s (key q.head) 8)) else s.x r) ∧
        (∃ h, t.flaggedOf s.me.id = some (h, { m with queue := some { q with head := (q.head + 1) % g.tqcap, count := q.count - 1 } })) ∧
        RetiresAs ({ s with groups := t.groups } : State).bumpAll { s.bumpAll.me with x := t.me.x } 12 t))) ∧
    (inside → g.strag = true → near_ →
      (near → s.asking = false → (g.member? v).isSome = true → Completes (.tqsteal d e a) s (fun t => Asks s .request t ∧
          ∃ o c k, g.member? v = some o ∧ c = s.coreOf o.sid o.core ∧ t.net = s.net ++
            [{ vn := .ctl, src := s.me.place.gcore, dst := c, body := .steal g.launch g.gid m.idx v s.next,
               after := some (s.me.id, k), sent := s.tick }])) ∧
      (Answered s true [.ok [x, y]] → Completes (.tqsteal d e a) s (fun t =>
        (∀ r, t.x r = if r = 0 then 0 else if r = e then y else if r = d ∧ y.extractLsb' 0 3 = 1 then x else s.x r) ∧
        RetiresAs s.bumpAll { s.bumpAll.me with x := t.me.x } 12 t))) ∧
    (inside → g.strag = true → s.me.stolen.any (fun t => t.1 == p) = true →
      (s.me.unack ≠ 0 → Waits (.tqdone a) s .unacked) ∧
      (s.me.unack = 0 → near → Completes (.tqdone a) s (fun t =>
        (∃ k, t.net = s.net ++ [toVictim k g.home true, toVictim k ((g.member? victim).elim g.home (fun o => s.coreOf o.sid o.core)) false]) ∧
        Synced { s with me := { s.me with stolen := s.me.stolen.filter (fun z => z.1 != p) }, net := t.net } 12 t))) ∧
    (inside → g.strag = true → v < g.size → f.toNat ≤ 5 →
      (near → s.asking = false → Completes (.stragrd d a f) s (fun t => Asks s .request t ∧
        Reported s t g.home (.straggler g.launch g.gid v f.toNat s.me.id s.next))) ∧
      (Answered s true [.ok [x]] → Completes (.stragrd d a f) s (WritesX s d x 12)))

/-- R97: a helper that traps (here at a jump to a bad target) stops at its instruction; its registers stay, and the trap
waits at its slot's compute strand with the helper's address, which changes in nothing else.
R5, R26, R47, R77, R78, R94, R95, R97: a context's boundary. What fetch and decoding raise is taken as a trap, or, at the
first fetch of a trap entry, loses the strand; a helper's trap is taken by its compute strand; a written SLOTW takes effect;
a blocked context has its turn again. How long a helper's trap is held is a reading of the model (log entry 24). -/
def Obligations.StrandEvents : Prop :=
  (∀ (imm : BitVec 25) (s : State),
     let T := s.me.pc + imm.signExtend 64 * 4
     s.me.id.unit ≠ .compute → 2 ^ 54 ≤ T.toNat →
     Completes (.j imm) s (fun t =>
       t.me = { s.me with live := false, wait := none, pend := [] } ∧
       t.rest = s.rest.map (fun c => if c.id = s.me.id.comp then
         { c with helperTraps :=
             c.helperTraps ++ [{ unit := s.me.id.unit, code := Cause.badtgt, eaddr := T, pc := s.me.pc }] }
         else c) ∧
       t = { s with me := t.me, rest := t.rest, queues := t.queues, cores := t.cores } ∧
       (∀ l seat, (t.slotq l seat).q = (s.slotq l seat).q) ∧
       (∀ g, t.core g = { s.core g with chHolds := (t.core g).chHolds }) ∧ SameMem s t)) ∧
  (∀ (k pos g code : Nat) (w0 w : W32) (um : Bool) (a e : W64) (i : Sid) (c : Strand) (h : HelperTrap) (s : State),
     let info : W64 := 0x8000_0000_0000_0000 ||| (BitVec.ofNat 64 pos <<< 32) ||| w0.setWidth 64
     let lost (t : State) : Prop := s.me.id.tid ∈ (t.launch s.me.id.launch).ended ∧
       (∀ c, t.strand? s.me.id = some c → c.res = .ended) ∧
       (∃ f, (t.launch s.me.id.launch).firstFault = some f ∧ f.mchk = true) ∧
       (s.myLaunch.coreOf 0 = some g → ∃ x : InjEntry, (t.core g).sys = (s.core g).sys ++ [x] ∧ x.launch = s.me.id.launch ∧
         x.vc = 0 ∧ x.msg.ch = 1 ∧ x.msg.data = wordBytes 8 (20 : W64) ++
           wordBytes 8 (BitVec.ofNat 64 s.me.id.tid <<< 24 ||| 0x49))
     let alone := s.me.groups = [] ∧ s.me.ports = [] ∧ s.me.id.isHandler = false ∧ s.me.id.unit = .compute ∧ s.me.entering = true ∧
       s.me.id.tid < 2 ^ 24 ∧ ∀ r ∈ s.rest, r.id ≠ s.me.id
     let stops (code : Nat) (a : W64) (t : State) : Prop :=
       (∀ j, t.strand? j = if j = s.me.id then some { s.me with live := false, wait := none, pend := [] }
         else if j = s.me.id.comp then (s.strand? j).map (fun c =>
           { c with helperTraps := c.helperTraps ++ [{ unit := s.me.id.unit, code := code, eaddr := a, pc := s.me.pc }] })
         else s.strand? j) ∧ SameMem s t
     (s.me.id.unit = .compute → (um = false ∨ s.me.entering = false) → pos < 2 ^ 31 →
       Traps (.illop pos w0 um) s Cause.illop (s.me.pc + BitVec.ofNat 64 (4 * pos)) info) ∧
     (alone → Completes (.illop pos w0 true) s lost) ∧
     (s.me.id.unit ≠ .compute → Completes (.illop pos w0 um) s (stops Cause.illop (s.me.pc + BitVec.ofNat 64 (4 * pos)))) ∧
     (s.me.id.unit = .compute → code < 256 → (s.me.entering = false ∨ (code ≠ Cause.page ∧ code ≠ Cause.perm)) →
       Traps (.fetchFailure code a e) s code a e) ∧
     (alone → code = Cause.page ∨ code = Cause.perm → Completes (.fetchFailure code a e) s lost) ∧
     (s.me.id.unit ≠ .compute → Completes (.fetchFailure code a e) s (stops code a)) ∧
     (s.contextAt k = some i → (s.focus i).helperDue = true → (s.focus i).due = true → (s.focus i).me.res = .resident →
       Completes (.helperTrapDelivery k) s (fun t => t = s.asStrand i (·.boundary))) ∧
     (s.me.entryDue = true → s.boundary = s.checkEntry) ∧
     (s.me.entryDue = false → s.settle = none → s.me.causeDue = none → s.me.nextHelperTrap = some h → s.flaggedOf s.me.id = none →
       let t := s.boundary
       t.me.ecause = BitVec.ofNat 64 (h.code % 256 + (if s.me.level = .k then 256 else 0) + (if h.unit = .loader then 1024 else 2048)) ∧
       t.me.epc = s.me.pc ∧ t.me.eaddr = h.eaddr ∧ t.me.einfo = h.pc &&& 0x007F_FFFF_FFFF_FFFF ∧ t.me.level = .k ∧
       t.me.pc = s.me.tvec ∧ t.me.helperTraps = s.me.helperTraps.erase h ∧ t.me.x = s.me.x ∧ t.me.v = s.me.v ∧ t.mem = s.mem) ∧
     ((s.core g).slotwNew = some w → Completes (.slotwTableBoundary g) s (fun t =>
       (∀ j, t.core j = if j = g then { s.core g with slotw := w, slotwNew := none } else s.core j) ∧
       t = { s with cores := t.cores })) ∧
     (s.contextAt k = some i → s.strand? i = some c → (∀ r ∈ s.rest, r.id ≠ s.me.id) →
       Completes (.blockConditionMet k) s (fun t => t.me = { c with wait := none } ∧
         (∀ j, t.strand? j = if j = i then some { c with wait := none } else s.strand? j) ∧
         t = { s with me := t.me, rest := t.rest })))

/-- R127, R128, R133, R134, R344, R345, R348, R349, R371: what the streamers and trackers do. A command that has come enters its
streamer's queue; of the commands that may be served, the first of the issuing core whose turn is next is read, and its bytes
leave, sector by sector; a sector becomes new in one event once all its bytes have come, and a segment is acknowledged with its
last byte; the last acknowledgement completes the operation, and one of overlapping ranges sends its next command; a decrement
changes its barrier object in one event; a swap makes the other half active. -/
def Obligations.EngineEvents : Prop :=
  ∀ (n k ref seg key base launch src dst : Nat) (op : EngOp) (g : Seg) (c : SegCmd) (l1 l2 : List SegCmd) (bs : List Bit8)
    (poison : Bool) (i : Sid) (mo : MatOp) (s : State),
    let u := s.deliver k
    let x := s.streamer n
    let ready (d : SegCmd) : Prop := ∃ y, s.segment? d = some y ∧ s.readable y = true
    let before (a b : SegCmd) : Prop := (x.last < a.core ∧ (b.core ≤ x.last ∨ a.core < b.core)) ∨ (b.core ≤ x.last ∧ a.core < b.core)
    let serves := (∀ j, s.commandAt n j = none) ∧ x.cmds = l1 ++ c :: l2 ∧ (∀ d ∈ x.cmds, (s.segment? d).isSome = true) ∧
      s.segment? c = some (op, g) ∧ s.readable (op, g) = true ∧ (∀ d ∈ l1, ready d → before c d) ∧
      (∀ d ∈ l2, ready d → before c d ∨ d.core = c.core)
    let plain := s.locks = [] ∧ s.shadows = [] ∧ MemoryOk s
    let sector := s.arriving k = some (.sector ref seg bs poison) ∧ bs.head?.map (·.key) = some key ∧ plain
    let here := op.part.filter (fun b => b.1.key / 32 == key / 32) ++ bs.map (fun b => (b, poison))
    let becomes (l : List Bit8) (bad : Bool) (t : State) : Prop :=
      (∀ y j, (Memory.get t.mem y).getLsbD j = ((l.reverse.find? (fun b => b.key == y && b.mask.getLsbD j)).map (·.byte.getLsbD j)).getD
        ((Memory.get s.mem y).getLsbD j)) ∧
      (bad = true → key / 32 ∈ t.poison) ∧
      (bad = false → (l.map (·.key)).eraseDups.length = 32 → key / 32 ∉ t.poison) ∧
      t = { u with mem := t.mem, codeLog := t.codeLog, tlb := t.tlb, parked := t.parked, poison := t.poison, l2Poison := t.l2Poison,
                   races := t.races, ops := t.ops, net := t.net, stamps := t.stamps }
    let acked (t : State) : Prop :=
      ((∃ y ∈ op.sent, y.1 = seg ∧ y.2 ≤ bs.length) → Sent u t .blk (unitIn op.dst key) (s.ownerCore op.owner) (.segAck ref seg)) ∧
      ((∀ y ∈ op.sent, y.1 = seg → bs.length < y.2) → t.net = u.net)
    let w : W64 := BitVec.ofNat 64 (leNat (bytesAt s key 8))
    let phase := w.extractLsb' 48 16
    let txn := w.extractLsb' 24 24 - 1
    let arrp := w.extractLsb' 12 12
    let expa := w.extractLsb' 0 12
    (s.commandAt n k = some (ref, seg) → (∀ j, j < k → s.commandAt n j = none) → x.cmds.length < 32 →
      exec (.streamerSegment n) s = exec (.streamerSegment n) (u.modStreamer n (fun y =>
        { y with cmds := y.cmds ++ [{ op := ref, seg := seg, core := (AMap.get s.ops ref).elim 0 (fun o => s.ownerCore o.owner) }] }))) ∧
    (serves → Completes (.streamerSegment n) s (fun t =>
      (∀ r, AMap.get t.ops r = if r = c.op then some { op with
          unsent := op.unsent.filter (fun y => y.n != g.n), sent := op.sent ++ [(g.n, (g.pieces.flatMap (s.pieceBytes op)).length)] }
        else AMap.get s.ops r) ∧
      t.streamer n = { cmds := l1 ++ l2, last := c.core } ∧ (∀ m, m ≠ n → t.streamer m = s.streamer m) ∧
      t = { s with ops := t.ops, net := t.net, streamers := t.streamers } ∧
      (g.pieces = [.run src dst 32] → dst % 32 = 0 → s.shadows = [] → s.poison = [] → op.olds = [] →
        Sent s t .blk n (unitIn op.dst dst) (.sector c.op g.n
          ((List.range 32).map (fun j => { key := dst + j, byte := Memory.get s.mem (src + j), mask := 0xFF })) false)))) ∧
    (sector → AMap.get s.ops ref = some op → s.evictedKey op.owner.launch key = false →
      (wholeSector op.dst (key / 32) (here.map (·.1)) = true → Completes (.sectorWrite k) s (fun t =>
        becomes (here.map (·.1)) (here.any (·.2)) t ∧ acked t ∧
        ∀ r, AMap.get t.ops r = if r = ref then some { op with sent := op.sent.map (fun y => if y.1 = seg then (y.1, y.2 - bs.length) else y),
                                                               part := op.part.filter (fun b => b.1.key / 32 != key / 32) }
          else AMap.get s.ops r)) ∧
      (wholeSector op.dst (key / 32) (here.map (·.1)) = false → Completes (.sectorWrite k) s (fun t =>
        acked t ∧ t = { u with ops := t.ops, net := t.net } ∧
        ∀ r, AMap.get t.ops r = if r = ref then some { op with sent := op.sent.map (fun y => if y.1 = seg then (y.1, y.2 - bs.length) else y),
                                                               part := op.part ++ bs.map (fun b => (b, poison)) }
          else AMap.get s.ops r))) ∧
    (sector → AMap.get s.ops ref = none →
      (s.matrix? ref = none → Completes (.sectorWrite k) s (fun t => becomes bs poison t ∧ t.ops = s.ops ∧ t.net = u.net)) ∧
      (s.matrix? ref = some mo → s.evictedKey mo.owner.launch key = false → Completes (.sectorWrite k) s (fun t =>
        becomes bs poison t ∧ t.ops = s.ops ∧ Sent u t .blk (unitIn mo.dst key) (s.ownerCore mo.owner) (.segAck ref 0)))) ∧
    (s.arriving k = some (.segAck ref seg) → AMap.get s.ops ref = some op →
      (op.unsent = [] → (∀ y ∈ op.sent, y.1 = seg) → Completes (.segmentComplete k) s (OpDone u ref op)) ∧
      (op.unsent ≠ [] ∨ (∃ y ∈ op.sent, y.1 ≠ seg) → Completes (.segmentComplete k) s (fun t =>
        (∀ r, AMap.get t.ops r = if r = ref then some { op with sent := op.sent.filter (fun y => y.1 != seg) } else AMap.get s.ops r) ∧
        ((op.serial = false ∨ ∃ y ∈ op.sent, y.1 ≠ seg) → t.net = u.net) ∧
        (op.serial = true → (∀ y ∈ op.sent, y.1 = seg) → op.unsent.head? = some g → t.net = u.net ++
          [{ vn := .req, src := s.ownerCore op.owner, dst := g.server, body := .segCmd ref g.n,
             after := if op.rlx then none else some (op.owner, ref), sent := s.tick }]) ∧
        t = { u with ops := t.ops, net := t.net }))) ∧
    (s.arriving k = some (.segAck ref seg) → AMap.get s.ops ref = none → Completes (.segmentComplete k) s (fun t =>
      (∀ h, (t.core h).mq0 = (s.core h).mq0.map (fun o => if o.ref = ref then { o with row := o.row - 1 } else o) ∧
        (t.core h).mq1 = (s.core h).mq1.map (fun o => if o.ref = ref then { o with row := o.row - 1 } else o)) ∧
      t = { u with cores := t.cores })) ∧
    (s.arriving k = some (.decrement launch key) → plain → s.evictedKey launch key = false →
      Completes (.completionDecrement k) s (fun t =>
        Stored s key (wordBytes 8 (if txn = 0 ∧ arrp = 0 then (phase + 1) ++ txn ++ expa ++ expa else phase ++ txn ++ arrp ++ expa)) t ∧
        t = { u with mem := t.mem })) ∧
    (s.arriving k = some (.decrement launch key) → s.evictedKey launch key = true → Completes (.completionDecrement k) s (fun t => t = s)) ∧
    (s.arriving k = some (.swap i base ref) → Completes (.publishSwap k) s (fun t =>
      t.shadows = s.shadows.map (fun h => if h.base = base then { h with second := !h.second } else h) ∧
      (∀ j, t.strand? j = if j = i then (s.strand? i).map (·.answer ref (.ok [])) else s.strand? j) ∧
      t = { u with me := t.me, rest := t.rest, shadows := t.shadows }))

/-- R42, R43, R161-R174, R339, R342, R343: what the array does with the instructions accepted: it begins one, takes rows into
the cells' chains in order, yields a stream that has no row, completes each kind with its own effect, and clears a bank that
left its strand. How far the tile fetch unit reads ahead is a reading of the model (log entry 40). -/
def Obligations.MatrixEvents : Prop :=
  ∀ (g ten b line : Nat) (int : Bool) (o : MatOp) (keys : List Nat) (rows : List (List Nat)) (bs : List Byte) (bad : Bool)
    (q : Reg3) (v : V128) (l : List V128) (n ch w rm : Nat) (t8 : Tile) (fmt : WFmt) (kk : Nat) (src : List Nat) (ty : Ty)
    (dst : List (List Nat)) (scale : Option (List Nat)) (bar : Option Nat) (s : State),
    let c := s.core g
    let mq := c.mq (ten == 1)
    let mine := o ∈ mq ∧ ∀ e ∈ s.cores, ∀ p ∈ e.2.mq0 ++ e.2.mq1, p.ref = o.ref → e.1 = g ∧ p = o
    let free := running mq = none ∧ s.nextMatrix g mq [] [] = some o ∧ mine
    let runs := running mq = some o ∧ mine
    let weights := (s.mctxOf o).tile = some t8
    let left (t : State) : Prop := (∀ p ∈ (t.core g).mq0 ++ (t.core g).mq1, p.ref ≠ o.ref) ∧
      (∀ h, h ≠ g → t.core h = s.core h)
    let entered (bytes : List Byte) (poison : Bool) (t : State) : Prop :=
      (∀ j, j < 32 → (t.core g).cell (o.base + o.row / 16) (o.row % 16 * 32 + j) =
        BitVec.ofNat 32 (chainCell (s.mctxOf o) t8 (rowElems int bytes) j (c.cell (o.base + o.row / 16) (o.row % 16 * 32 + j)).toNat)) ∧
      (∀ x i, (x ≠ o.base + o.row / 16 ∨ i / 32 ≠ o.row % 16) → x < 128 → i < 512 → (t.core g).cell x i = c.cell x i) ∧
      (∀ j, j < 32 → poison = true ∨ t8.poison = true →
        (o.base + o.row / 16) * 512 + (o.row % 16 * 32 + j) ∈ (t.core g).cellPoison) ∧
      (∃ p, t.matrix? o.ref = some p ∧ p.row = o.row + 1 ∧ p.buf = []) ∧ (∀ h, h ≠ g → t.core h = s.core h)
    let done := mq.find? (·.finishing) = some o ∧ s.locks = []
    (free → (∀ a b c d e f h, o.kind ≠ .mdrain a b c d e f h) → Completes (.matrixOpStart g ten) s (fun t =>
      t.matrix? o.ref = some { o with started := true, parked := false } ∧ t = { s with cores := t.cores })) ∧
    (free → s.locks = [] → o.kind = .mdrain w false .f32 rm dst none bar → o.laters = [] → c.cellPoison = [] → (∀ r ∈ dst, r.length = 128 * w) →
      Completes (.matrixOpStart g ten) s (fun t =>
        (∀ r (hr : r < dst.length), ∀ j, j < 32 * w → ∀ y, y < 4 → ∃ p ∈ t.net, ∃ l, p.body = .sector o.ref 0 l false ∧
          { key := dst[r].getD (4 * j + y) 0, mask := 0xFF,
            byte := (c.cell (o.base + j / 32 * (o.banks / w) + r / 16) (r % 16 * 32 + j % 32)).extractLsb' (8 * y) 8 } ∈ l) ∧
        (∃ p, t.matrix? o.ref = some p ∧ p.started = true ∧ p.row = (dst.flatten.map (· / 32)).eraseDups.length) ∧
        t = { s with cores := t.cores, net := t.net })) ∧
    (running mq ≠ none → Completes (.matrixOpStart g ten) s (fun t => t = s)) ∧
    (runs → weights → o.kind = .mmulMem int false (keys :: rows) → s.locks = [] → s.shadows = [] → s.poison = [] → o.olds = [] →
      Completes (.matrixRowEntry g ten) s (fun t => entered (keys.map (Memory.get s.mem)) false t ∧
        (∀ p, t.matrix? o.ref = some p → p.kind = .mmulMem int false rows) ∧ t = { s with cores := t.cores })) ∧
    (runs → weights → o.kind = .mmulMem int true (keys :: rows) → o.fetched keys = some (bs, bad) →
      Completes (.matrixRowEntry g ten) s (fun t => entered bs bad t ∧
        (∀ p, t.matrix? o.ref = some p → p.kind = .mmulMem int true rows ∧ (∀ x ∈ p.pins, x ∈ o.pins ∧ x.line ∈ rows.flatMap rowLines) ∧
          ∀ x ∈ o.pins, ∀ r, rows.head? = some r → x.line ∈ rowLines r → x ∈ p.pins) ∧
        t = { s with cores := t.cores })) ∧
    (runs → o.kind = .mmulMem int true (keys :: rows) → o.fetched keys = none → Completes (.matrixRowEntry g ten) s (fun t => t = s)) ∧
    (runs → weights → o.kind = .mmulQueue int q (n + 1) → s.arrayQueue o q = v :: l → Completes (.matrixRowEntry g ten) s (fun t =>
      (t.slotq o.owner.launch o.owner.seat).q.get q.toFin = l ∧
      (o.buf.length + 16 < s.rowBytes o int → t.matrix? o.ref = some { o with buf := o.buf ++ wordBytes 16 v }) ∧
      (s.rowBytes o int ≤ o.buf.length + 16 → entered (o.buf ++ wordBytes 16 v) false t ∧
        (∀ p, t.matrix? o.ref = some p → p.kind = .mmulQueue int q n)) ∧
      t = { s with queues := t.queues, cores := t.cores })) ∧
    (runs → weights → o.kind = .mmuls int ch (n + 1) → c.arrayStream ch = v :: l → Completes (.matrixRowEntry g ten) s (fun t =>
      (picot v = true → t.matrix? o.ref = some { o with kind := .mmuls int ch 0, buf := [] }) ∧
      (picot v = false → s.rowBytes o int ≤ o.buf.length + 16 → entered (o.buf ++ wordBytes 16 v) false t ∧
        (∀ p, t.matrix? o.ref = some p → p.kind = .mmuls int ch n)) ∧
      (t.core g).rq = takeStream ch c.rq 16 ∧ t = { s with cores := t.cores, net := t.net })) ∧
    (runs → s.rowPresent g o = false → (∃ p ∈ mq, p.started = false ∧ p.owner ≠ o.owner) →
      Completes (.matrixStallYield g ten) s (fun t => t.matrix? o.ref = some { o with started := false, parked := true } ∧
        t = { s with cores := t.cores })) ∧
    (runs → s.rowPresent g o = true → Completes (.matrixStallYield g ten) s (fun t => t = s)) ∧
    (mq = [o] → mine → o.kind = .mmulMem int true rows → o.started = true → (o.rlx = true ∨ s.atomicsBefore o.owner o.ref = false) →
      (((c.mq0 ++ c.mq1).map (fun p => p.pins.length)).sum < 56 ∨ ∃ r, rows.head? = some r ∧ line ∈ rowLines r) → s.shadows = [] → s.poison = [] → o.olds = [] →
      (rows.flatMap rowLines).find? (fun x => !o.pins.any (fun p => p.line == x)) = some line →
      Completes (.tileFetchRead g ten) s (fun t => t.matrix? o.ref =
        some { o with pins := o.pins ++ [{ line := line, bytes := bytesAt s (64 * line) 64, poison := false }] } ∧
        t = { s with cores := t.cores })) ∧
    (done → o.kind = .mzero → Completes (.matrixOpComplete g ten) s (fun t =>
      (∀ x i, i < 512 → (t.core g).cell x i = if o.base ≤ x ∧ x < o.base + o.banks then 0 else c.cell x i) ∧ left t ∧
      t = { s with cores := t.cores })) ∧
    (done → o.kind = .mwr n v → n < 128 → Completes (.matrixOpComplete g ten) s (fun t =>
      (∀ x i, i < 512 → (t.core g).cell x i = if x = o.base ∧ i / 4 = n then lane 32 v (i % 4) else c.cell x i) ∧ left t ∧
      t = { s with cores := t.cores })) ∧
    (done → o.kind = .mcbl src → s.shadows = [] → o.olds = [] → src.length = 32 → Completes (.matrixOpComplete g ten) s (fun t =>
      (∀ p, t.strand? o.owner = some p → ∀ j, j < 16 → p.mctx.staged[j]? = some (BitVec.ofNat 16
        (leNat [Memory.get s.mem (src.getD (2 * j) 0), Memory.get s.mem (src.getD (2 * j + 1) 0)]))) ∧ left t ∧
      t = { s with me := t.me, rest := t.rest, cores := t.cores })) ∧
    (done → o.kind = .mwld fmt kk rows → Completes (.matrixOpComplete g ten) s (fun t =>
      (∀ p, s.strand? o.owner = some p → ∃ r, t.strand? o.owner = some r ∧
        r.mctx.tile = some { s.readTile o fmt kk rows with poison := (s.readTile o fmt kk rows).poison || (fmt == .c4 && p.mctx.stagedPoison) } ∧
        r.mctx.latched = (if fmt = .c4 then p.mctx.staged else p.mctx.latched) ∧ r.mctx.staged = p.mctx.staged) ∧ left t ∧
      t = { s with me := t.me, rest := t.rest, cores := t.cores })) ∧
    (done → o.kind = .rel → Completes (.matrixOpComplete g ten) s (fun t => left t ∧ (∀ x i, (t.core g).cell x i = c.cell x i) ∧
      (∀ x, x < 128 → (t.core g).bankState x =
        if o.base ≤ x ∧ x < o.base + o.banks ∧ c.bankState x = .leaving o.owner then .clearing else c.bankState x) ∧
      t = { s with cores := t.cores })) ∧
    (done → (o.kind = .mshape ∨ o.kind = .mmulMem int bad [] ∨ o.kind = .mmulQueue int q 0 ∨ o.kind = .mmuls int ch 0) →
      Completes (.matrixOpComplete g ten) s (fun t => left t ∧ (∀ x i, (t.core g).cell x i = c.cell x i) ∧
        t = { s with cores := t.cores })) ∧
    (done → o.kind = .mdrain w int ty rm dst scale bar → Completes (.matrixOpComplete g ten) s (fun t => left t ∧
      (bar = none → t.net = s.net) ∧
      (∀ x, bar = some x → Sent s t .ctl (s.ownerCore o.owner) (unitOf x) (.decrement o.owner.launch x)) ∧
      t = { s with cores := t.cores, net := t.net })) ∧
    (c.bankState b = .clearing → b < 128 →
      Completes (.bankClearDone g b) s (fun t =>
        (∀ x i, i < 512 → (t.core g).cell x i = if x = b then 0 else c.cell x i) ∧
        (∀ x, x < 128 → (t.core g).bankState x = if x = b then .free else c.bankState x) ∧
        (∀ h, h ≠ g → t.core h = s.core h) ∧ t = { s with cores := t.cores }))

/-- R105, R122, R242, R248-R252, R327, R357: translation and remote accesses at their target. A walk fills the TLBs of its core and
cluster and sets A; an access not imported is PERM, one whose walk raises PAGE is parked or waits for room, and any other is
performed there and answered; one whose key is known is performed at once. A parked one is tried again once its line has been
stored to, and is then performed and answered; or it is refused, or cancelled. -/
def Obligations.RemoteTargets : Prop :=
  ∀ (k core vf ref key : Nat) (va : W64) (f : Leaf) (r : Remote) (p : Parked) (tr : Trap) (n : Nat) (bs : List Byte) (b c : W64)
    (ac : Acc) (s : State),
    let u := s.deliver k
    let pkg := core / 2048
    let a := va.toNat % 2 ^ 55
    let entry (own : Option Nat) : TlbEntry := { core := own, clus := core / 16, vf := vf, leaf := { f with word := f.word ||| 0x20 },
                                                 page := if f.large then a / 2 ^ 25 else a / 2 ^ 16 }
    let mark := dramKey r.pkg f.pa
    let answers (w : State) (x : Answer) (t : State) : Prop :=
      Leaves w .rpy r.node (w.coreOf r.sid (r.fromPkg * 2048)) (.reply r.ref r.sid x r.posted) t
    let reply (w : State) (x : Answer) (t : State) : Prop := answers w x t ∧ t = { w with net := t.net }
    let asks := s.arriving k = some (.remote r) ∧ r.host = false ∧ (AMap.get s.pkgs r.pkg).isSome = true ∧ s.requestWaits r = false ∧
      s.wanted r = true
    let known := r.accs = [] ∧ (u.vfun r.pkg r.vf).imports.contains r.fromPkg = true
    let found := known ∧ u.peerKey r.pkg r.vf r.va.toNat r.op.need = .ok (key, f) ∧
      MemoryOk s ∧ s.poison = [] ∧ s.shadows = [] ∧ mark ≠ key ∧ (mark < key ∨ key + r.op.size ≤ mark)
    let marked (w t : State) : Prop := ∀ x, x = mark ∨ x < key ∨ key + r.op.size ≤ x →
      Memory.get t.mem x = if x = mark then Memory.get w.mem x ||| (if r.op.need.w then 0x60 else 0x20) else Memory.get w.mem x
    let performed (w : State) (ev : Instr) : Prop :=
      (r.op = .load n ∨ r.op = .fetch n → Completes ev s (fun t => answers w (.ok (asWords (bytesAt s key n))) t ∧ marked s t ∧
        t = { w with mem := t.mem, net := t.net })) ∧
      (r.op = .store (bs.map some) → Completes ev s (fun t => answers w (.ok []) t ∧ marked s t ∧ bytesAt t key bs.length = bs)) ∧
      (r.op = .atomic 0 .n64 b 0 false false → Completes ev s (fun t =>
        answers w (.ok [BitVec.ofNat 64 (leNat (bytesAt s key 8))]) t ∧ marked s t ∧
        bytesAt t key 8 = wordBytes 8 (BitVec.ofNat 64 (leNat (bytesAt s key 8)) + b))) ∧
      (r.op = .cas .n64 b c → Completes ev s (fun t =>
        answers w (.ok [BitVec.ofNat 64 (leNat (bytesAt s key 8))]) t ∧ marked s t ∧
        bytesAt t key 8 = if leNat (bytesAt s key 8) = b.toNat then wordBytes 8 c else bytesAt s key 8))
    let without : State := { s with parked := s.parked.take k ++ s.parked.drop (k + 1) }
    let again := s.parked[k]? = some p ∧ p.req = r ∧ r.host = false ∧ (p.due = true ∨ p.queued = false) ∧ s.requestWaits r = false ∧
      s.wanted r = true
    (s.walk pkg vf a = .ok f → s.tlbLeaf core vf a = none → MemoryOk s → Completes (.pageWalk core vf va) s (fun t =>
      (∀ x, Memory.get t.mem x = if x = dramKey pkg f.pa then Memory.get s.mem x ||| 0x20 else Memory.get s.mem x) ∧
      entry (some core) ∈ t.tlb ∧ entry none ∈ t.tlb ∧ t = { s with mem := t.mem, tlb := t.tlb })) ∧
    (s.walk pkg vf a = .error tr → Completes (.pageWalk core vf va) s (fun t => t = s)) ∧
    (asks → r.accs = [] → (u.vfun r.pkg r.vf).imports.contains r.fromPkg = false →
      Completes (.peerAccessRequest k) s (reply u (.trap Cause.perm 0 6))) ∧
    (asks → known → u.peerKey r.pkg r.vf r.va.toNat r.op.need = .error tr →
      (tr.code ≠ Cause.page → Completes (.peerAccessRequest k) s (reply u (.trap tr.code 0 tr.einfo))) ∧
      (tr.code = Cause.page → (u.vfun r.pkg r.vf).pager = none → Completes (.peerAccessRequest k) s (fun t =>
        (∃ q : Parked, t.parked = s.parked ++ [q] ∧ q.req = r ∧ q.die / 8 = r.pkg ∧ q.due = false ∧
          (q.queued = true ↔ (s.parked.filter (fun x => x.queued && x.die == q.die)).length < 64)) ∧
        t = { u with parked := t.parked }))) ∧
    (asks → found → performed u (.peerAccessRequest k)) ∧
    (asks → r.accs = [ac] → ac.home = .away → ac.chk = false → ac.n = n → r.op = .load n → s.poison = [] → s.shadows = [] →
      Completes (.peerAccessRequest k) s (reply u (.ok (asWords (bytesAt s ac.key n))))) ∧
    (s.arriving k = some (.remote r) → s.requestWaits r = true → Completes (.peerAccessRequest k) s (fun t => t = s)) ∧
    (s.arriving k = some (.remote r) → s.requestWaits r = false → s.wanted r = false → Completes (.peerAccessRequest k) s (fun t => t = u)) ∧
    (s.arriving k = some (.remote r) → r.host = true → s.wanted r = true → r.accs = [] → r.op = .load n → s.shadows = [] → s.poison = [] →
      Completes (.peerAccessRequest k) s (reply u (.ok (asWords (bytesAt s (hostKey r.pkg r.va.toNat) n))))) ∧
    (s.parked[k]? = some p → p.req = r →
      Completes (.keepWaitingSend k) s (fun t =>
        Leaves s .rpy (2 ^ 40 + r.pkg) (2 ^ 40 + r.fromPkg) (.keepWaiting r.ref) t ∧ t = { s with net := t.net }) ∧
      Completes (.parkRefusal k) s (reply without (.trap Cause.page 0 (BitVec.ofNat 64 (0x500 + r.aper * 4096)))) ∧
      (p.due = false → p.queued = true → Completes (.faultQueueRetry k) s (fun t => t = s))) ∧
    (again → r.accs = [] →
      ((s.vfun r.pkg r.vf).imports.contains r.fromPkg = false → Completes (.faultQueueRetry k) s (reply without (.trap Cause.perm 0 6))) ∧
      (found → performed without (.faultQueueRetry k)) ∧
      (known → s.peerKey r.pkg r.vf r.va.toNat r.op.need = .ok (key, f) → Completes (.faultQueueRetry k) s (fun t =>
        t = (without.markLeaf r.pkg f r.op.need.w).performAt r [{ r.acc key with lines := f.lines }])) ∧
      (known → s.peerKey r.pkg r.vf r.va.toNat r.op.need = .error tr → tr.code ≠ Cause.page →
        Completes (.faultQueueRetry k) s (reply without (.trap tr.code 0 tr.einfo))) ∧
      (known → s.peerKey r.pkg r.vf r.va.toNat r.op.need = .error tr → tr.code = Cause.page → (s.vfun r.pkg r.vf).pager = none →
        Completes (.faultQueueRetry k) s (fun t =>
          (∃ q : Parked, t.parked[k]? = some q ∧ q = { p with line := q.line, queued := q.queued, due := false } ∧
            (q.queued = true ↔ p.queued = true ∨ (s.parked.filter (fun x => x.queued && x.die == p.die)).length < 64)) ∧
          (∀ j, j ≠ k → t.parked[j]? = s.parked[j]?) ∧ t = { s with parked := t.parked }))) ∧
    (s.arriving k = some (.cancel ref) → s.parked.find? (fun q => q.req.ref == ref) = some p → p.req = r →
      Completes (.remoteCancel k) s (reply { u with parked := s.parked.filter (fun q => q.req.ref != ref) } .cancelled)) ∧
    (s.arriving k = some (.cancel ref) → (∀ q ∈ s.parked, q.req.ref ≠ ref) → Completes (.remoteCancel k) s (fun t => t = u))

/-- R119, R122, R243, R248, R252, R257, R360, R362: remote accesses at their requester. A keep-waiting notice starts the limit anew;
a timeout is PAGE with bits 8 and 9; a reply, an acknowledgement and a NOTSUP end an access and lower UNACK; a posted AMOP that was
refused brings its event; a probe fills an aperture entry and an invalidation empties it; a rebase, when it is due, moves the
timestamps of a package down. What becomes of late replies is a reading of the model (log entry 50), and so is by how much a rebase
moves timestamps (log entry 78). -/
def Obligations.RemoteRequesters : Prop :=
  ∀ (k ref pkg vf aper target g : Nat) (ops : BitVec 11) (fmts : BitVec 3) (rev : Byte) (ok : Bool) (a : Asked) (r : Answer) (i : Sid)
    (c : Strand) (va x : W64) (n : Nat) (ws : List W64) (s : State),
    let u := s.deliver k
    let e := nth (s.vfun pkg vf).apers (aper - 1) 0
    let acked (t : State) : Prop :=
      (∀ j, t.strand? j = (s.strand? j).map (fun c => if c.amops.any (fun x => x.ref == ref) then
          { c with amops := c.amops.filter (fun x => x.ref != ref), unack := c.unack - 1 } else c))
    let event (vc code : Nat) (addr : W64) (t : State) : Prop := acked t ∧
      (∃ x : InjEntry, (t.core g).sys = (s.core g).sys ++ [x] ∧ x.launch = i.launch ∧ x.vc = vc ∧ x.msg.ch = 1 ∧
        x.msg.data = wordBytes 8 (BitVec.ofNat 64 code) ++ wordBytes 8 addr) ∧ t = { u with me := t.me, rest := t.rest, cores := t.cores }
    let its (x : W64) : Prop := (∃ d ∈ s.contexts, ∃ y ∈ d.amops, y.ref = ref) ∧ ∀ d ∈ s.contexts, ∀ y ∈ d.amops, y.ref = ref → y.va = x
    let there (vc : Nat) := s.strand? i = some c ∧ (s.launch i.launch).coreOf vc = some g
    let mine (x : Nat × Nat × Nat) : Bool := 64 * x.1 / 2 ^ 56 == pkg
    (s.arriving k = some (.keepWaiting ref) → Completes (.keepWaitingArrival k) s (fun t =>
      t.asked = s.asked.map (fun x => if x.ref = ref then { x with noticed := x.noticed + 1 } else x) ∧ t = { u with asked := t.asked })) ∧
    (s.asked[k]? = some a → a.aper < 16 → a.gang = false → s.replied a.ref = false → Completes (.remoteTimeout k) s (AccessOver s a
      (.trap Cause.page a.va (BitVec.ofNat 64 (0x300 + a.aper * 4096))))) ∧
    (s.asked[k]? = some a → a.gang = true ∨ s.replied a.ref = true → Completes (.remoteTimeout k) s (fun t => t = s)) ∧
    (s.arriving k = some (.reply ref i (.ok ws) true) ∨ s.arriving k = some (.amopAck ref i) →
      Completes (.remoteReply k) s (fun t => acked t ∧ t = { u with me := t.me, rest := t.rest })) ∧
    (s.arriving k = some (.reply ref i (.trap Cause.mchk va x) true) → there 0 →
      Completes (.remoteReply k) s (event 0 Cause.mchk (x &&& 0x7FFF_FFFF_FFFF_FFFF))) ∧
    (s.arriving k = some (.reply ref i (.trap n va x) true) → n ≠ Cause.mchk → n ≠ Cause.amofmt →
      Completes (.remoteReply k) s (fun t => acked t ∧ t = { u with me := t.me, rest := t.rest })) ∧
    (s.arriving k = some (.reply ref i (.ok ws) false) → s.asked.find? (fun x => x.ref == ref) = some a →
      Completes (.remoteReply k) s (AccessOver u a (.ok ws))) ∧
    (s.arriving k = some (.reply ref i (.trap n va x) false) → s.asked.find? (fun x => x.ref == ref) = some a →
      Completes (.remoteReply k) s (AccessOver u a
        (.trap n (if va = 0 then a.va else va) (if n = Cause.page then x ||| BitVec.ofNat 64 (a.aper * 4096) else x)))) ∧
    (s.arriving k = some (.reply ref i r false) → (∀ x ∈ s.asked, x.ref ≠ ref) → Completes (.remoteReply k) s (fun t => t = u)) ∧
    (s.arriving k = some (.notsup ref i va) → there c.place.vc → its x → Completes (.amopNotsup k) s (event c.place.vc 9 x)) ∧
    (1 ≤ aper → aper ≤ (s.vfun pkg vf).apers.length → aperKind e ≠ 0 → aperState e = 0 →
      Completes (.apertureProbe pkg vf aper ops fmts rev ok) s (fun t => ∃ x, (t.vfun pkg vf).apers[aper - 1]? = some x ∧
        aperState x = (if ok then 1 else 2) ∧ aperRev x = rev.toNat ∧ aperFmts x = fmts.toNat ∧ aperOps x = ops.toNat ∧
        aperBase x = aperBase e ∧ aperTarget x = aperTarget e ∧ aperTvf x = aperTvf e ∧ aperKind x = aperKind e ∧
        t.vfun pkg vf = { s.vfun pkg vf with apers := (s.vfun pkg vf).apers.set (aper - 1) x } ∧ t = { s with vfs := t.vfs })) ∧
    (1 ≤ aper → aperState e ≠ 0 → Completes (.apertureProbe pkg vf aper ops fmts rev ok) s (fun t => t = s)) ∧
    (Completes (.apertureInvalidate target) s (fun t => (∀ x ∈ t.vfs, ∀ y ∈ x.2.apers, aperKind y = 1 → aperTarget y = target →
      aperState y = 0 ∧ aperRev y = 0 ∧ aperFmts y = 0 ∧ aperOps y = 0) ∧ t = { s with vfs := t.vfs })) ∧
    (s.rebaseDue pkg = false → Completes (.timestampRebase pkg) s (fun t => t = s)) ∧
    (s.rebaseDue pkg = true → Completes (.timestampRebase pkg) s (fun t =>
      (∀ j, t.strand? j = (s.strand? j).map (fun x => if x.place.pkg = pkg then { x with pts := x.pts - 2 ^ 46 } else x)) ∧
      t.stamps = s.stamps.map (fun x => if mine x then (x.1, x.2.1 - 2 ^ 46, x.2.2 - 2 ^ 46) else x) ∧
      (∀ x ∈ t.contexts, x.place.pkg = pkg → x.res ≠ .ended → x.pts ≤ (t.pkg pkg).rebased) ∧
      (∀ q, t.pkg q = if q = pkg then { s.pkg q with rebased := (t.pkg pkg).rebased } else s.pkg q) ∧
      t = { s with me := t.me, rest := t.rest, stamps := t.stamps, pkgs := t.pkgs }))

/-- R196, R197, R200, R216, R220-R222, R327-R336: the decisions of a group's home and of its members' cores: arrivals and
releases of a barrier, the opening of a window, departures, steals, tiles done, straggler records, and the arrival of a
strand that migrates. -/
def Obligations.GroupEvents : Prop :=
  ∀ (k launch gid idx n base len thief victim ref st f : Nat) (g : Group) (m v : Member) (q : TileQueue) (d : W64) (seq : W32)
    (i : Sid) (c : Cargo) (p : Packet) (s : State),
    let u := s.deliver k
    let here := s.group? launch gid = some g ∧ s.evictedAt launch g.home = false
    let others (x : Member) : Prop := x ∈ g.members ∧ x.inside = true ∧ x.idx ≠ idx
    let t0 := leastOf ((g.members.map (fun x => if x.idx = idx then { x with arrived := some (s.tick, n) } else x)).filterMap
      (fun x => x.arrived.map (·.1)))
    let late (t : Nat) : Nat := Nat.min ((cycleAt (g.home / 2048) t - cycleAt (g.home / 2048) t0) / 256) 65535
    let free := (g.strag = false ∨ g.undone = [])
    let core := s.coreOf v.sid v.core
    let held := ((g.member? thief).bind (fun t => s.strand? t.sid)).elim 0 (·.stolen.length)
    let gone := v.inside = false ∨ s.strand? v.sid = none
    let away := (∃ c, s.strand? v.sid = some c ∧ c.res = .moving) ∨ (s.core core).shifting = true
    let key := slotKey core g.tqcap q (q.head + q.count - 1)
    let asked := s.arriving k = some (.steal launch gid thief victim ref) ∧ s.group? launch gid = some g ∧ g.member? victim = some v ∧
      s.evictedAt launch core = false ∧ s.locks = [] ∧ s.shadows = []
    let decides (st : Nat) (d : W64) (seq : W32) (t : State) : Prop :=
      Leaves u .ctl core g.home (.stealResult launch gid thief victim ref st d seq) t
    let tells (st : Nat) : Prop := Completes (.stealDecision k) s (fun t => decides st 0 0 t ∧ t = { u with net := t.net })
    let told := s.arriving k = some (.stealResult launch gid thief victim ref st d seq) ∧ here ∧ g.member? thief = some m
    let rec_ : W64 := seq ++ (BitVec.ofNat 16 victim ++ (1 : BitVec 16))
    (s.arriving k = some (.gbarArrive launch gid idx n) → here → (∃ x, others x ∧ x.arrived = none) →
      Completes (.gbarArrival k) s (GroupIs u launch gid (fun g => g.modMember idx (fun m => { m with arrived := some (s.tick, n) })))) ∧
    (s.arriving k = some (.gbarArrive launch gid idx n) → here → (∃ x ∈ g.members, x.idx = idx) → (∀ x, others x → x.arrived ≠ none) →
      free → Completes (.gbarArrival k) s (fun t => ∃ h, t.group? launch gid = some h ∧ h.phases = g.phases + 1 ∧
        (∀ x ∈ h.members, x.arrived = none) ∧ h.members.map (fun x => (x.idx, x.sid)) = g.members.map (fun x => (x.idx, x.sid)) ∧
        (∀ x ∈ g.members, x.idx = idx ∨ x.arrived ≠ none →
          ∃ p ∈ t.net, p.body = .gbarRelease x.sid g.launch g.gid ∧ p.src = g.home ∧ p.dst = s.coreOf x.sid x.core) ∧
        (g.strag = false → h.members.map (·.strag) = g.members.map (·.strag)) ∧
        (g.strag = true → (g.members.map (·.idx)).Nodup → ∀ x ∈ g.members, ∀ at_ cnt, x.idx ≠ idx → x.arrived = some (at_, cnt) →
          ∃ y, h.member? x.idx = some y ∧ y.strag.score.toNat = Nat.min ((7 * x.strag.score.toNat + late at_) / 8) 65535 ∧
            y.strag.hist.get 0 = BitVec.ofNat 16 (late at_) ∧ (∀ j : Fin 8, ∀ hj : j.val ≠ 0, y.strag.hist.get j = x.strag.hist.get ⟨j.val - 1, by omega⟩) ∧
            y.strag.qocc = cnt ∧ y.lagCopy = y.strag.lag ∧
            (y.strag.lag = true ↔ (x.strag.lag = true ∨ g.persist ≤ y.strag.above) ∧ ¬ g.persist ≤ y.strag.below)) ∧
        t = { u with groups := t.groups, net := t.net })) ∧
    (s.arriving k = some (.gbarRelease i launch gid) → Completes (.gbarRelease k) s (StrandIs u i (·.wake (.barrier gid) (.ok [])))) ∧
    (s.arriving k = some (.winArrive launch gid idx base len) → here → g.departed = false → g.winOpen = false →
      ((∃ x, others x ∧ x.opening = none) → Completes (.windowOpen k) s
        (GroupIs u launch gid (fun g => g.modMember idx (fun m => { m with opening := some (base, len) })))) ∧
      ((∃ x ∈ g.members, x.inside = true ∧ x.idx = idx) → (∀ x, others x → x.opening ≠ none) → Completes (.windowOpen k) s (fun t =>
        (∃ h, t.group? launch gid = some h ∧ h.winOpen = true ∧ h.departed = false ∧
          ∀ x ∈ g.members, x.inside = true → ∃ y ∈ h.members, y.idx = x.idx ∧ y.sid = x.sid ∧ y.win = .attached ∧ y.opening = none ∧
            y.dep = false ∧ y.seesGone = [] ∧ (x.idx = idx → y.base = base ∧ y.len = len) ∧
            (x.idx ≠ idx → x.opening = some (y.base, y.len))) ∧
        (∀ j, t.strand? j = if ∃ x ∈ g.members, x.inside = true ∧ x.sid = j then (s.strand? j).map (·.wake .window (.ok [0])) else s.strand? j) ∧
        t = { u with me := t.me, rest := t.rest, groups := t.groups }))) ∧
    (s.arriving k = some (.winArrive launch gid idx base len) → here → g.departed = true → g.winOpen = false →
      (∃ x ∈ g.members, x.inside = true ∧ x.idx = idx) → (∀ x, others x → x.opening ≠ none) → Completes (.windowOpen k) s (fun t =>
        (∃ h, t.group? launch gid = some h ∧ h.winOpen = false ∧ h.departed = false ∧ ∀ y ∈ h.members, y.opening = none) ∧
        (∀ j, t.strand? j = if ∃ x ∈ g.members, x.inside = true ∧ x.sid = j then (s.strand? j).map (·.wake .window (.ok [2])) else s.strand? j) ∧
        t = { u with me := t.me, rest := t.rest, groups := t.groups })) ∧
    (s.arriving k = some (.depart launch gid idx n) → s.group? launch gid = some g → g.windows ≠ n →
      Completes (.memberDepart k) s (fun t => t = u)) ∧
    (s.arriving k = some (.depart launch gid idx n) → s.net[k]? = some p → s.group? launch gid = some g → g.winOpen = true → g.windows = n →
      (g.members.map (·.idx)).Nodup → Completes (.memberDepart k) s (fun t =>
        (∃ h, t.group? launch gid = some h ∧ ∀ x ∈ g.members, h.member? x.idx = some
          (if x.inside = true ∧ s.coreOf x.sid x.core = p.dst ∧ idx ∉ x.seesGone
            then { x with dep := true, seesGone := x.seesGone ++ [idx] } else x)) ∧ t = { u with groups := t.groups })) ∧
    (asked →
      (gone → tells 3) ∧ (¬ gone → away → tells 5) ∧ (¬ gone → ¬ away → 8 ≤ held → tells 4) ∧
      (¬ gone → ¬ away → held < 8 → v.lagCopy = false → tells 0) ∧
      (¬ gone → ¬ away → held < 8 → v.lagCopy = true → v.count = 0 → tells 2) ∧
      (¬ gone → ¬ away → held < 8 → v.lagCopy = true → v.queue = some q → q.count ≠ 0 → Completes (.stealDecision k) s (fun t =>
        decides 1 (BitVec.ofNat 64 (leNat (bytesAt s key 8))) (nextSeq q.seq) t ∧
        t.groups = (u.modQueue launch gid victim (fun q => { q with count := q.count - 1, out := q.out + 1, seq := nextSeq q.seq })).groups ∧
        t = { u with groups := t.groups, net := t.net }))) ∧
    (told → m.inside = true → st = 1 → victim < 2 ^ 12 → Completes (.stealReply k) s (fun t =>
      (∃ h, t.group? launch gid = some h ∧ h = { g with undone := g.undone ++ [(victim, seq, m.sid)] }) ∧
      (∀ j, t.strand? j = if j = m.sid then (s.strand? j).map (fun c =>
        { c.answer ref (.ok [d, rec_]) with stolen := c.stolen ++ [(rec_, d)] }) else s.strand? j) ∧
      t = { u with me := t.me, rest := t.rest, groups := t.groups })) ∧
    (told → m.inside = true → st ≠ 1 → Completes (.stealReply k) s (StrandIs u m.sid (·.answer ref (.ok [0, BitVec.ofNat 64 st])))) ∧
    (told → m.inside = false → st = 1 → Completes (.stealReply k) s (fun t => t = u.returnTile launch gid victim d)) ∧
    (s.arriving k = some (.tqdone launch gid victim seq true) → here → (∀ x ∈ g.members, x.arrived = none) →
      Completes (.tqdoneArrival k) s (GroupIs u launch gid (fun g =>
        { g with undone := g.undone.filter (fun x => !(x.1 == victim && x.2.1 == seq)) }))) ∧
    (s.arriving k = some (.tqdone launch gid victim seq false) → s.net[k]? = some p → s.evictedAt launch p.dst = false →
      Completes (.tqdoneArrival k) s (GroupIs u launch gid (fun g =>
        g.modMember victim (fun m => { m with queue := m.queue.map (fun q => { q with out := q.out - 1 }) })))) ∧
    (s.arriving k = some (.straggler launch gid idx f i ref) → here → g.member? idx = some m →
      Completes (.stragrdReply k) s (StrandIs u i (·.answer ref (.ok [stragField g m f])))) ∧
    (s.arriving k = some (.migrate c) → s.net[k]? = some p → s.evictedAt c.sid.launch p.dst = false → Completes (.migrateArrival k) s (fun t =>
      (∀ h, t.core h = if h = p.dst then { s.core h with arrivals := (s.core h).arrivals ++ [c] } else s.core h) ∧
      t = { u with cores := t.cores }))

/-- R205, R295, R303-R309: a connector at its home pillow. Of each class at most one row fires, one that is enabled and that
no enabled row of the class contains; a fired port's offer leaves with the row's status and its routed data; a clocked
connector evaluates once in an instant and withdraws every offer left; a withdrawal takes an offer back. -/
def Obligations.Connectors : Prop :=
  ∀ (k pillow l cl j next idx num : Nat) (absent : Nat → Bool) (o : Offer) (c : Connector) (g : Group) (i : Sid) (stat : W64)
    (data : V128) (s : State),
    let u := s.deliver k
    let held (c : Connector) : Prop := s.conn? c.launch c.hvc c.num = some c ∧ s.homeEvicted c.launch c.hvc = false
    let now (t : State) (d : Connector) : Prop := t.conn? c.launch c.hvc c.num = some d
    let bit (x : Nat) : Bool := (c.fire j).getLsbD x
    let told (t : State) (o : Offer) (st : W64) (d : V128) : Prop := ∃ p ∈ t.net, p.src = 2 ^ 38 + pillow ∧
      p.dst = s.ownerCore o.sid ∧ p.body = .portResult o.sid o.idx st d
    let given (o : Offer) : V128 := if (s.portWord c o.lidx).sink then
      BitVec.ofNat 128 ((((c.routes j).find? (fun r => !r.2.2.1 && r.2.2.2 == o.lidx)).elim 0 (fun r => (c.routeData r).toNat)) %
        2 ^ (8 * (s.portWord c o.lidx).w)) else 0
    let serves := s.turnAt pillow num = some c ∧ held c
    let rank (x : Nat) : Nat := (x + 127 - (AMap.get s.pillowTurn pillow).getD 63) % 64
    let turn (t : State) : Prop := ∀ x, AMap.get t.pillowTurn x = if x = pillow then some num else AMap.get s.pillowTurn x
    (c.pick absent cl = some (j, next) → j ∈ c.rowsOf cl ∧ c.enabled absent j = true ∧
      ∀ r ∈ c.rowsOf cl, c.enabled absent r = true → c.fire r ≠ c.fire j → c.fire r &&& c.fire j ≠ c.fire j) ∧
    (c.pick absent cl = none → c.rowsOf cl ≠ [] → ∀ r ∈ c.rowsOf cl, c.enabled absent r = true →
      ∃ q ∈ c.rowsOf cl, c.enabled absent q = true ∧ c.fire q ≠ c.fire r ∧ c.fire q &&& c.fire r = c.fire r) ∧
    (s.arriving k = some (.offer c.hvc c.num o) → o.sid.launch = c.launch → held c → Completes (.offerArrival k) s (fun t =>
      now t { c with offers := c.offers ++ [o], active := true } ∧ t = { u with connectors := t.connectors })) ∧
    (s.arriving k = some (.withdraw c.hvc c.num l i idx) → i.launch = c.launch → held c →
      s.connectors.find? (fun x => x.2 == c) = some (pillow, c) → Completes (.withdrawalArrival k) s (fun t =>
        now t { c with offers := c.offers.filter (fun o => o.lidx != l), active := true } ∧
        (c.offerAt l = some o → told t o 2 0) ∧ (c.offerAt l = none → t.net = u.net) ∧
        t = { u with connectors := t.connectors, net := t.net })) ∧
    (s.turnAt pillow num = some c → ∀ x ∈ s.connectors, x.1 = pillow → s.homeEvicted x.2.launch x.2.hvc = false → s.wantsTurn x.2 = true →
      rank num ≤ rank x.2.num) ∧
    (serves → c.clocked = false → c.active = true → c.classes = [cl] → c.pick (fun _ => false) cl = some (j, next) →
      Completes (.connectorEvaluation pillow num) s (fun t =>
        now t { c with offers := c.offers.filter (fun o => !bit o.lidx), buffers := c.buffersAfter j, ptrs := AMap.put c.ptrs cl next, active := true } ∧
        (∀ o ∈ c.offers, bit o.lidx = true → told t o (if (c.rowWord j 1).getLsbD o.lidx then 1 else if c.rowWord j 2 ≠ 0 then 3 else 0) (given o)) ∧
        turn t ∧ t = { s with connectors := t.connectors, net := t.net, pillowTurn := t.pillowTurn })) ∧
    (serves → c.clocked = false → c.active = true → (∀ x ∈ c.classes, c.pick (fun _ => false) x = none) →
      Completes (.connectorEvaluation pillow num) s (fun t => now t { c with active := false } ∧ turn t ∧
        t = { s with connectors := t.connectors, pillowTurn := t.pillowTurn })) ∧
    (serves → c.clocked = true → Completes (.connectorEvaluation pillow num) s (fun t => t = s)) ∧
    (serves → s.clockOf c = some g → c.evaluated = false → s.clockReady g c = true → (∀ x, s.absentPort g c x = absent x) →
      Completes (.clockedEvaluation pillow num) s (fun t =>
        (∃ d, now t d ∧ d.evaluated = true ∧ d.offers = [] ∧
          d.buffers = if (c.pick absent 0).isSome then c.buffersAfter ((c.pick absent 0).elim 0 (·.1)) else c.buffers) ∧
        (c.pick absent 0 = none → ∀ o ∈ c.offers, told t o 2 0) ∧
        (c.pick absent 0 = some (j, next) → ∀ o ∈ c.offers, told t o
          (if bit o.lidx then g.inst ++ (if (c.rowWord j 1).getLsbD o.lidx then (1 : BitVec 32) else if c.rowWord j 2 ≠ 0 then 3 else 0) else 2)
          (if bit o.lidx then given o else 0)) ∧
        (∀ h, t.group? g.launch g.gid = some h → ∀ m ∈ h.members, ∀ x,
          m.react = .blockedPort x → s.blockedOn c m = false) ∧
        turn t ∧ t = { s with connectors := t.connectors, groups := t.groups, net := t.net, pillowTurn := t.pillowTurn })) ∧
    (s.served pillow num = some c → s.clockOf c = some g → (c.evaluated = true ∨ s.clockReady g c = false) →
      Completes (.clockedEvaluation pillow num) s (fun t => t = s)) ∧
    (s.arriving k = some (.portResult i idx stat data) → Completes (.portResultArrival k) s (StrandIs u i (·.decided idx stat data)))

/-- R17, R195, R213-R215, R312-R321: a reactive domain at its home. The first EMIT of a signal makes it PRESENT and each one is
combined; a signal that no member may emit any more is ABSENT; every member's core is told; a stall sends CAUSE to every
blocked member; the end of an instant commits the delay registers, starts the signals anew and resumes the members. That a
restored domain is judged anew, and the trap at a blocked PWAIT, are readings of the model (log entry 54). -/
def Obligations.Instants : Prop :=
  ∀ (k key launch gid idx n port : Nat) (v : W32) (pres : Bool) (e : W64) (inst : W32) (g : Group) (m : Member) (x : Signal)
    (by_ : Option W64) (w : W64) (s : State),
    let u := s.deliver k
    let here := s.group? launch gid = some g ∧ s.evictedAt launch g.home = false
    let frame (t : State) : Prop := t = { u with groups := t.groups, net := t.net }
    let sent (t : State) (a : Member) (b : Body) : Prop := ∃ p ∈ t.net, p.src = g.home ∧ p.dst = s.coreOf a.sid a.core ∧ p.body = b
    let toAll (t : State) (p : Bool) : Prop := ∀ a ∈ g.members, a.inside = true → sent t a (.resolution launch gid a.idx n p)
    let sum : W32 := if x.comb = 0 then 0 else if x.comb = 1 then x.value + v else if x.comb = 2 then x.value ||| v
      else if x.value.ult v then v else x.value
    let only : Prop := ∀ b ∈ g.members, b.may.getLsbD n = true → b.idx = idx
    let reports (b : Body) := s.arriving k = some b ∧ here
    let idxs := (g.members.map (·.idx)).Nodup
    let unique := s.groups[key]? = some g ∧ s.group? g.launch g.gid = some g
    let mayOf (a : Member) : BitVec 256 := (s.launch g.launch).mayEmit ((s.launch g.launch).recOf g) a.idx
    (reports (.emit launch gid idx n v) → g.signal? n = some x → Completes (.emitReport k) s (fun t => frame t ∧
      (∃ h, t.group? launch gid = some h ∧ h.signal? n = some { x with value := sum, status := if x.status = .unknown then .present else x.status } ∧
        (x.status = .unknown → ∀ a ∈ h.members, a.react ≠ .blockedSig n)) ∧
      (x.status = .unknown → toAll t true) ∧ (x.status ≠ .unknown → t.net = u.net))) ∧
    (reports (.retract launch gid idx n) → idxs → g.member? idx = some m → g.signal? n = some x → x.status = .unknown → n < 256 →
      Completes (.retractReport k) s (fun t => frame t ∧ ∃ h, t.group? launch gid = some h ∧
        h.signal? n = some { x with status := if ∀ b ∈ g.members, b.may.getLsbD n = true → b.idx = idx then .absent else .unknown } ∧
        (∃ a, h.member? idx = some a ∧ a.may = m.may &&& ~~~bitOf n) ∧ (only → toAll t false))) ∧
    (reports (.pause launch gid idx) → idxs → g.member? idx = some m → Completes (.pauseReport k) s (fun t => frame t ∧
      ∃ h a, t.group? launch gid = some h ∧ h.member? idx = some a ∧ a.react = .paused ∧ a.may = 0 ∧
        (g.signal? n = some x → x.status = .unknown → only → h.signal? n = some { x with status := .absent }))) ∧
    (reports (.leave launch gid idx) → idxs → g.member? idx = some m → Completes (.leaveReport k) s (fun t => frame t ∧
      ∃ h a, t.group? launch gid = some h ∧ h.member? idx = some a ∧ a.react = (if m.inside then .leaving else .left) ∧ a.may = 0)) ∧
    (reports (.blockSig launch gid idx n) → idxs → g.member? idx = some m → g.signal? n = some x → Completes (.blockReport k) s (fun t =>
      (∃ h, t.group? launch gid = some h ∧ h.member? idx = some (if x.status = .unknown then { m with react := .blockedSig n } else m)) ∧
      t = { u with groups := t.groups })) ∧
    (reports (.blockPort launch gid idx port) → idxs → g.member? idx = some m → s.portEvaluated launch port = false →
      Completes (.blockReport k) s (GroupIs u launch gid (fun g => g.modMember idx (fun m => { m with react := .blockedPort port })))) ∧
    (reports (.unblock launch gid idx) → idxs → g.member? idx = some m → Completes (.unblockReport k) s (fun t =>
      (∃ h, t.group? launch gid = some h ∧ h.member? idx = some { m with react := if m.react.blocked then .running else m.react, renew := false }) ∧
      t = { u with groups := t.groups })) ∧
    (reports (.resolution launch gid idx n pres) → Completes (.resolutionArrival k) s
      (GroupIs u launch gid (fun g => g.modMember idx (fun m => { m with sees := m.sees ++ [(n, pres)] })))) ∧
    (unique → s.stalled g = true → Completes (.causalityCycle key) s (fun t =>
      (∀ h, t.group? g.launch g.gid = some h → ∀ a ∈ h.members, a.react.blocked = false) ∧
      (∀ a ∈ g.members, ∀ y, a.react = .blockedSig y → y < 256 → g.waitedOn.length < 256 → sent t a (.cause g.launch g.gid a.idx
        (g.inst ++ (BitVec.ofNat 16 g.waitedOn.length ++ BitVec.ofNat 16 y)))) ∧
      (∀ a ∈ g.members, ∀ y, a.react = .blockedPort y → g.waitedOn.length < 256 → sent t a (.cause g.launch g.gid a.idx
        (g.inst ++ (BitVec.ofNat 16 g.waitedOn.length ++ (0x100 : BitVec 16))))) ∧
      t = { s with groups := t.groups, net := t.net })) ∧
    (unique → s.stalled g = false → Completes (.causalityCycle key) s (fun t => t = s)) ∧
    (reports (.cause launch gid idx e) → g.member? idx = some m → m.sid = s.me.id → (∀ r ∈ s.rest, r.id ≠ s.me.id) →
      s.me.id.unit = .compute → s.ownOffer = none →
      (s.me.pendOf.map Pend.on = some (.signal n) → e.getLsbD 8 = false →
        Completes (.causeArrival k) s (fun t =>
          TakesTrap { u with net := t.net } Cause.cause (BitVec.ofNat 64 n) e t ∧
          (g.reactive = true → s.flaggedOf s.me.id = some (g, m) → Reported u t g.home (.unblock g.launch g.gid m.idx)))) ∧
      (s.me.pendOf.map Pend.on = some (.port port) → AMap.get s.me.ports port = some (.offered by_ false) → e.getLsbD 8 = true →
        s.myLaunch.pool[port]? = some w → Completes (.causeArrival k) s (fun t =>
          t.me = { s.me with ports := t.me.ports, causeDue := some (BitVec.ofNat 64 port, e) } ∧
          (∀ j, AMap.get t.me.ports j = if j = port then some (.offered by_ true) else AMap.get s.me.ports j) ∧
          (∃ p ∈ t.net, p.body = .withdraw (PortRec.ofWord w).hvc (PortRec.ofWord w).conn (PortRec.ofWord w).lidx s.me.id port) ∧
          t = { u with me := t.me, net := t.net })) ∧
      (s.me.pendOf = none → Completes (.causeArrival k) s (fun t => t = u))) ∧
    (unique → s.instantOver g = true → idxs → Completes (.instantEnd key) s (fun t =>
      (∃ h, t.group? g.launch g.gid = some h ∧ h.inst = (if g.inst + 1 = 0 then 1 else g.inst + 1) ∧
        (∀ a ∈ g.members, ∃ b, h.member? a.idx = some b ∧
          b.react = (if a.react = .paused then .running else if a.react = .leaving then .left else a.react) ∧
          b.may = (if a.react = .paused then mayOf a else 0)) ∧
        (g.signal? n = some x → ∃ y, h.signal? n = some y ∧ y.prevVal = x.value ∧ (y.prevPresent = true ↔ x.status = .present) ∧
          y.value = 0 ∧ y.comb = x.comb ∧
          y.status = if ∀ a ∈ g.members, a.react = .paused → (mayOf a).getLsbD n = false then .absent else .unknown)) ∧
      (∀ a ∈ g.members, a.react ≠ .left → sent t a (.resume g.launch g.gid a.idx (if g.inst + 1 = 0 then 1 else g.inst + 1))) ∧
      (∀ j, (∀ a ∈ g.members, a.inside = true → a.react ≠ .left → a.sid ≠ j) → t.strand? j = s.strand? j) ∧
      (∀ a ∈ g.members, a.inside = true → a.react ≠ .left → ∀ c, s.strand? a.sid = some c → ∃ d, t.strand? a.sid = some d ∧
        ∀ i : Fin 8, d.zc.get i = (if c.zw.get i then c.zp.get i else c.zc.get i) ∧ d.zw.get i = false) ∧
      (∀ y ∈ t.connectors, y.2.launch = g.launch → y.2.clocked = true → y.2.cgrp = g.gid → y.2.evaluated = false) ∧
      t = { s with me := t.me, rest := t.rest, groups := t.groups, connectors := t.connectors, net := t.net })) ∧
    (unique → s.instantOver g = false → Completes (.instantEnd key) s (fun t => t = s)) ∧
    (reports (.resume launch gid idx inst) → g.member? idx = some m → Completes (.resumptionArrival k) s (fun t =>
      (∀ j, t.strand? j = if j = m.sid then (s.strand? j).map (·.wake .instant (.ok [])) else s.strand? j) ∧
      (∃ h a, t.group? launch gid = some h ∧ h.member? idx = some a ∧ a.sees = [] ∧
        a.mine = if m.react = .left then 0 else (s.launch launch).mayEmit ((s.launch launch).recOf g) idx) ∧
      t = { u with me := t.me, rest := t.rest, groups := t.groups }))

/-- R7, R8, R27, R193, R198, R233, R237, R276-R290, R322, R394: the scheduler and the graph engine. A head that finds its
clusters is bound and its cores are made ready; a strand starts in the lowest free slot with its first registers; a node's
test chooses a successor; a launch that is over leaves the machine and is reported once; a placement set stops, is saved,
and comes back. The order in which queue heads are tried and what each preparation clears are readings of the model (log entries 53 and 54). -/
def Obligations.Scheduling : Prop :=
  ∀ (pkg u v core slot tid graph node k key : Nat) (h : Nat × Nat × Nat) (hs : List (Nat × Nat × Nat)) (p : Plan) (w : State)
    (g : Graph) (n : GNode) (word : Nat) (m : HostMsg) (tag : W64) (rest : List Nat) (s : State),
    let l := s.launch u
    let vc := v * 16 + core % 16
    let heads := rankBy (s.rank pkg) (s.heads pkg)
    let clusters := p.primary (s.launch h.1).lockstep
    let vs := s.keptSet (key / 128) (key % 128)
    let saved := s.savedSet (key / 128) (key % 128)
    let stopped := s.stopSet (key / 128) vs
    let sid : Sid := { launch := u, seat := .placed tid, unit := .compute }
    let place : Place := { pkg := core / 2048, core := core % 2048, slot := slot, vc := vc }
    let distinct := (s.contexts.map (·.id)).Nodup
    (heads = [] → Completes (.launchSelect pkg) s (fun t => t = s)) ∧
    (heads = h :: hs → s.headPlan (s.launch h.1) = some p → p.gone = [] → (∀ x ∈ s.exports, x.launch ≠ h.1) →
      s.pillowShareOk { s.launch h.1 with bind := clusters } h.1 = true →
      ((s.modPkg pkg (fun p => { p with lastVf := some h.2.1, lastQ := AMap.put p.lastQ h.2.1 h.2.2 })).unqueue h.1).bindTo h.1 clusters = some w →
      Completes (.launchSelect pkg) s (fun t => t = w ∧ (t.launch h.1).state = .bound ∧ (t.launch h.1).bind = clusters ∧
        (∀ vc c, (t.launch h.1).coreOf vc = some c →
          (∀ o, o < 0x5_0000 ∨ (0x6_0000 ≤ o ∧ o < 0x8_0000) → Memory.get t.mem (spKey c o) = 0) ∧
          (t.core c).slotw = (t.launch h.1).slotw ∧ (∀ i : Fin 64, (t.core c).htab.get i = HEntry.reset i.val) ∧
          (t.core c).rq = [] ∧ (∀ i : Fin 8, (t.core c).kick.get i = none)))) ∧
    (s.holder (core / 16) = some (u, v) → l.bind[v]? = some (core / 16) → (s.freeSlots u core).head? = some slot → l.heldFor vc = none →
      l.stopping.contains v = false → (s.core core).shifting = false →
      (s.core core).arrivals = [] → l.unstarted vc = tid :: rest → s.strand? sid = none → l.graph = none → s.locks = [] →
      Completes (.strandPlace core slot) s (fun t => ∃ c, t.strand? sid = some c ∧ c.pc = l.words[0] ∧ c.level = .s ∧ c.live = true ∧
        c.place = place ∧ c.res = .resident ∧
        (∀ r, c.getX r = if r = 10 then BitVec.ofNat 64 tid else if r = 2 then 0xF000_0000_0000_4000 else 0) ∧ (∀ r, c.getV r = 0) ∧
        c.fcr = 0 ∧ c.fstat = 0 ∧ c.sqcap = BitVec.ofNat 64 l.sqcap ∧ c.racecfg = l.racecfg ∧ c.grp = 0xFFFF ∧ c.unack = 0 ∧
        (∀ o, o < 0x4000 → Memory.get t.mem (spKey core (0x5_0000 + slot * 0x4000 + o)) = 0) ∧
        tid ∈ (t.launch u).started ∧ t.slotq u (.placed tid) = SlotQueues.empty)) ∧
    ((s.freeSlots u core).head? ≠ some slot ∨ l.stopping.contains v = true ∨ (s.core core).shifting = true → s.holder (core / 16) = some (u, v) → Completes (.strandPlace core slot) s (fun t => t = s)) ∧
    (AMap.get s.graphs graph = some g → g.nodes.find? (fun x => x.num == node) = some n → n.st = .ready → (g.nodes.map (·.num)).Nodup →
      (n.kind = 1 ∨ n.kind = 2) → s.nodeWord g n = word → Completes (.graphNodeTest graph node) s (fun t =>
        ∃ r, AMap.get t.graphs graph = some r ∧ (∃ x, r.nodes.find? (fun x => x.num == node) = some x ∧ x.st = .complete) ∧
          ∀ x ∈ g.nodes, x.st = .waiting → x.num ∈ n.successors → x.num ≠ n.chosen word → x.num ≠ node →
            ∃ y, r.nodes.find? (fun y => y.num == x.num) = some y ∧ y.st = .skipped)) ∧
    (n.kind = 1 → n.chosen word = if word ≠ 0 then n.field 11 0 else n.field 23 12) ∧
    (AMap.get s.graphs graph = some g → g.nodes.find? (fun x => x.num == node) = some n → (n.st ≠ .ready ∨ n.kind = 0) →
      Completes (.graphNodeTest graph node) s (fun t => t = s)) ∧
    ((∀ q ∈ l.pkgs, (s.vfun q l.vf).resetting = false) → s.mayComplete u = true → l.graph = none → l.reported = false →
      Completes (.launchComplete u) s (fun t => (t.launch u).state = .done ∧ (t.launch u).ran = true ∧ (t.launch u).reported = true ∧
        (∀ c ∈ t.rest, c.id.launch ≠ u) ∧ (∀ x ∈ t.groups, x.launch ≠ u) ∧ (∀ x ∈ t.connectors, x.2.launch ≠ u) ∧
        (∃ x : HostMsg, t.toHost = s.toHost ++ [x] ∧ t.unacked = s.unacked ++ [x] ∧ x.vf = l.vf ∧
          x.bytes.drop 32 = completion l.serial (match l.firstFault with | some f => if f.mchk then 5 else 4 | none => 0)
            (if l.firstFault.isSome then l.firstFault else none)))) ∧
    ((∀ q ∈ l.pkgs, (s.vfun q l.vf).resetting = false) → s.mayComplete u = false → Completes (.launchComplete u) s (fun t => t = s)) ∧
    (s.unacked[k]? = some m → Completes (.eventRetransmit k) s (fun t => t.toHost = s.toHost ++ [m] ∧ t = { s with toHost := t.toHost })) ∧
    (Completes (.eventAck tag) s (fun t => t.unacked = s.unacked.filter (fun x => leNat ((x.bytes.drop 8).take 4) != tag.toNat) ∧
      t = { s with unacked := t.unacked })) ∧
    ((s.launch (key / 128)).state = .bound → (s.launch (key / 128)).evicted.contains (key % 128) = false →
      (stopped.setSettled (key / 128) vs = false → Completes (.eviction key) s (fun t => t = stopped)) ∧
      (stopped.setSettled (key / 128) vs = true → Completes (.eviction key) s (fun t =>
        (t.launch (key / 128)).evicted = (stopped.launch (key / 128)).evicted ++ vs ∧
        ∀ x ∈ vcoresOf vs, ∀ c, (stopped.launch (key / 128)).coreOf x = some c →
          (AMap.get t.savedCores (key / 128, x)).isSome = true ∧ (AMap.get t.savedMem (key / 128, x)).isSome = true ∧
          ∀ o, o < 2 ^ 19 → Memory.get t.mem (spKey c o) = 0)) ∧
      (distinct → ∀ c ∈ s.setContexts (key / 128) vs, c.res = .resident → c.ports = [] → c.pend = [] →
        ∃ d, stopped.strand? c.id = some d ∧ d.res = .evicted ∧ d.x = c.x ∧ d.pc = c.pc)) ∧
    ((s.launch (key / 128)).evicted.contains (key % 128) = true → Completes (.eviction key) s (fun t => t = s)) ∧
    (s.mayRestore (key / 128) (key % 128) = true → Completes (.restore key) s (fun t =>
      (t.launch (key / 128)).evicted = (s.launch (key / 128)).evicted.filter (fun x => !saved.contains x) ∧
      ∀ c ∈ t.contexts, c.id.launch = key / 128 → c.place.vc / 16 ∈ saved → c.res ≠ .evicted)) ∧
    (s.mayRestore (key / 128) (key % 128) = false → Completes (.restore key) s (fun t => t = s))

/-- R361-R370: hardware errors. A scrub changes nothing that a program sees; an uncorrectable error in a memory poisons the
sector, one in a core quarantines it; a quarantine is recorded and reported; a pair goes back to its checkpoint; a matched
effect leaves its hold. What a rollback does with later inputs is a reading of the model (log entries 15 and 55). -/
def Obligations.HardwareErrors : Prop :=
  ∀ (g p core wh unit pkg : Nat) (l : LockStep) (i : Sid) (held : List Sid) (s : State),
    let row := rowOf g
    let rec_ := s.pkg row.1
    (Completes (.scrubPkg pkg) s (fun t => (∀ d, d < 8 → (AMap.get (s.pkg pkg).corrected d).getD 0 ≤ (AMap.get (t.pkg pkg).corrected d).getD 0) ∧
      t.pkg pkg = { s.pkg pkg with corrected := (t.pkg pkg).corrected } ∧ (∀ q, q ≠ pkg → t.pkg q = s.pkg q) ∧ t = { s with pkgs := t.pkgs })) ∧
    (unit = 1 ∨ unit = 2 ∨ unit = 5 → Completes (.uncorrectableError wh unit) s (fun t =>
      (∀ x, x ∈ t.poison ↔ x ∈ s.poison ∨ x = wh) ∧ (∀ x, x ∈ t.l2Poison ↔ if x = wh then unit = 2 else x ∈ s.l2Poison) ∧
      t = { s with poison := t.poison, l2Poison := t.l2Poison })) ∧
    (unit = 3 ∨ unit = 10 → Completes (.uncorrectableError wh unit) s (fun t => t = s)) ∧
    (unit = 4 ∨ unit = 6 ∨ unit = 8 ∨ unit = 9 ∨ (unit = 7 ∧ (s.core g).split = false) → g < 2 ^ 40 → s.pairAt g = none →
      Completes (.uncorrectableError g unit) s (fun t => Sys2Proof.Machine.exec (.quarantine g unit) s = .next t)) ∧
    (s.holder (g / 16) = none → s.locks = [] → AMap.get rec_.quar row.2 = none →
      (∀ c ∈ s.contexts, c.res = .resident → c.place.gcore ∉ rightOf g) → Completes (.quarantine g unit) s (fun t =>
        t.pkg row.1 = { rec_ with quarList := rec_.quarList ++ [(g % 2048, unit, rec_.bootCount)], quar := AMap.put rec_.quar row.2 (columnOf g) } ∧
        (∃ x : HostMsg, t.toHost = s.toHost ++ [x] ∧ x.vf = 0xFF ∧ leNat ((x.bytes.drop 6).take 2) = 0x8002) ∧
        (∀ h, t.core h = if h ∈ rightOf g then { s.core h with shifting := true } else s.core h) ∧
        t = { s with pkgs := t.pkgs, toHost := t.toHost, unacked := t.unacked, nextTag := t.nextTag, cores := t.cores })) ∧
    (s.boundTo (g / 16) = [] → s.pairAt g = none → AMap.get rec_.quar row.2 ≠ none → Completes (.quarantine g unit) s (fun t =>
      (t.core g).quarantined = true ∧ (t.pkg row.1).quar = rec_.quar ∧ t.mem = s.mem)) ∧
    (s.pairAt core = some p → AMap.get s.locks p = some l → l.rolls < 2 →
      (∀ c ∈ s.contexts, c.place.gcore = p → c.res ≠ .evicted) → Completes (.rollback core) s (fun t =>
      AMap.get t.locks p = some { l with log := [], held := [], rolls := l.rolls + 1 } ∧
      t.core p = { l.core with shifting := (s.core p).shifting } ∧
      (∀ q, q ≠ p → t.core q = s.core q) ∧ t.mem = l.log.foldl (fun m c => Memory.put m c.1 c.2) s.mem ∧
      (∀ x, x ∈ t.poison ↔ if ∃ c ∈ l.log, c.1 / 32 = x then x ∈ l.poison else x ∈ s.poison) ∧ (∀ c ∈ l.check, c ∈ t.rest) ∧
      (∀ c ∈ s.rest, (c.place.gcore ≠ p ∨ c.res ≠ .resident) → (∀ x ∈ l.check, x.id ≠ c.id) → c ∈ t.rest) ∧
      (s.me.place.gcore = p → s.me.res = .resident → t.me = Strand.nobody))) ∧
    (s.pairAt core = none → Completes (.rollback core) s (fun t => t = s)) ∧
    (AMap.get s.locks core = some l → l.held = i :: held → Completes (.egressRelease core) s (fun t =>
      AMap.get t.locks core = some { l with held := held } ∧
      (∀ j, t.strand? j = if j = i then (s.strand? j).map (fun c => { c with released := true, wait := none }) else s.strand? j) ∧
      t = { s with locks := t.locks, me := t.me, rest := t.rest })) ∧
    (AMap.get s.locks core = some l → Completes (.checkpointAdvance core) s (fun t =>
      (∃ c, AMap.get t.locks core = some c ∧ c.log = [] ∧ c.rolls = 0 ∧ c.held = l.held ∧ c.core = s.core core ∧
        ∀ x, x ∈ c.check ↔ ∃ y ∈ s.contexts, y.place.gcore = core ∧
          (y.res = .resident ∨ (y.res = .evicted ∧ (s.launch y.id.launch).evicted.contains (y.place.vc / 16) = false)) ∧ x = { y with released := false, wait := none }) ∧
      t = { s with locks := t.locks }))

/-- R375-R382: the fabric. A receiver takes the next number only; a flit that fails is replayed with all that follow it, and its credit
return counts once; owed credits return in a flit, 63 at most; a sync flit brings the free counts, and the sender takes off what it has
sent since; the third failed retrain takes a link down, both ways, either package records it, and packets that would have crossed it
take another way; no flit of the torus is lost, those of a whole packet that is next leave the ejection buffer, and another flit goes
out on a closer output, with a number; a connection's shadow tables come into force as a whole. The places of the torus coordinates are
the model's choice (log entry 14). -/
def Obligations.Fabric : Prop :=
  ∀ (k pkg o conn : Nat) (f : Flit) (n : VNet) (c : Nat) (x : TorusFlit) (q : Packet) (os : List Nat) (e : Conn) (sl : List Nat)
    (fr : List (VNet × Nat)) (last : BitVec 12) (s : State),
    let l := s.link k
    let room := linkRoom k
    let back := reverseLink k
    let to_ (t : State) (n : VNet) : Nat := (t.link back).credit (linkRoom back) n
    let off (l : Link) : Link := { l with down := true, retry := [], wire := [] }
    let again := l.retry.filter (fun y => decide ((y.seq - l.expect).toNat < 2048))
    let others (t : State) : Prop := (∀ j, j ≠ k → t.link j = s.link j) ∧ t = { s with links := t.links }
    let returns (t : State) (y : Flit) : Prop := (t.link back).wire = (s.link back).wire ++ [y] ∧ y.seq = (s.link back).nextSeq ∧ y.bad = false ∧
      (t.link back).nextSeq = (s.link back).nextSeq + 1 ∧ (∀ j, j ≠ k → j ≠ back → t.link j = s.link j) ∧ t = { s with links := t.links }
    let good := l.wire = [f] ∧ f.bad = false ∧ f.seq = l.expect
    let node := s.torusNode pkg
    let out := 2 ^ 60 + pkg * 8 + o
    let alone := node.arrived = [x] ∧ node.inject = [] ∧ node.eject = []
    let flits (q : TorusNode) : List TorusFlit := q.arrived ++ q.inject ++ q.eject
    (l.wire = [f] → f.bad = true ∨ f.seq ≠ l.expect → l.receiveAll = ({ l with wire := [] }, []) ∧ (back ≠ k → ∀ y, to_ (s.land k) y = to_ s y)) ∧
    (good → l.receiveAll.1.expect = l.expect + 1 ∧ l.receiveAll.2 = [f]) ∧
    (good → back ≠ k → f.load = .credit → f.credits = some (n, c) → to_ (s.land k) n = to_ s n + c ∧ (∀ y, y ≠ n → to_ (s.land k) y = to_ s y)) ∧
    (good → back ≠ k → f.load = .sync fr last → f.credits = none → ∀ y u, AMap.get fr y = some u →
      to_ (s.land k) y = u - ((s.link back).retry.filter (fun z =>
        decide (z.net = y) && decide (z.load = .data) && decide ((z.seq - last - 1).toNat < 2048))).length) ∧
    (good → f.load = .torus x → f.credits = none → ((s.land k).torusNode (linkPkg back)).arrived =
      (s.torusNode (linkPkg back)).arrived ++ [{ x with via := back % 8 }]) ∧
    ((∀ y ∈ l.wire.drop 1, y.seq ≠ l.expect) → Completes (.linkReplay k) s (fun t => t.link k = { l with wire := again } ∧ others t)) ∧
    (l.owed = [(n, c)] → c ≠ 0 → s.linkDown back = false → back ≠ k → Completes (.creditOnlyFlit k) s (fun t =>
      AMap.get (t.link k).owed n = some (c - Nat.min 63 c) ∧ (∀ y, to_ t y = to_ s y) ∧
      ∃ y, returns t y ∧ y.load = .credit ∧ y.credits = some (n, Nat.min 63 c))) ∧
    (l.owed = [] ∨ s.linkDown back = true → Completes (.creditOnlyFlit k) s (fun t => t = s)) ∧
    (4096 ≤ l.sinceSync → torusLink k = false → s.linkDown back = false → back ≠ k → Completes (.syncFlit k) s (fun t =>
      (t.link k).owed = [] ∧ (t.link k).sinceSync = 0 ∧ ∃ y fr, returns t y ∧ y.load = .sync fr (l.expect - 1) ∧
        ∀ z, AMap.get fr z = some (room - s.heldAt k z))) ∧
    (l.sinceSync < 4096 ∨ torusLink k = true ∨ s.linkDown back = true → Completes (.syncFlit k) s (fun t => t = s)) ∧
    (l.down = true ∨ retrains k = false → Completes (.linkRetrain k) s (fun t => t = s)) ∧
    (l.down = false → retrains k = true → l.retrains < 2 → Completes (.linkRetrain k) s (fun t =>
      t.link k = { l with wire := again, retrains := l.retrains + 1 } ∧ others t)) ∧
    (l.down = false → retrains k = true → 2 ≤ l.retrains → back ≠ k → Completes (.linkRetrain k) s (fun t =>
      t.link k = off l ∧ t.link back = off (s.link back) ∧ (∀ j, j ≠ k → j ≠ back → t.link j = s.link j) ∧
      ((AMap.get s.pkgs (linkPkg k)).isSome = true → t.pkg (linkPkg k) = { s.pkg (linkPkg k) with
        linksDown := (s.pkg (linkPkg k)).linksDown ++ [k], linkMchk := (s.pkg (linkPkg k)).linkMchk ++ [k] }) ∧
      (linkPkg back ≠ linkPkg k → (AMap.get s.pkgs (linkPkg back)).isSome = true → t.pkg (linkPkg back) = { s.pkg (linkPkg back) with
        linksDown := (s.pkg (linkPkg back)).linksDown ++ [back], linkMchk := (s.pkg (linkPkg back)).linkMchk ++ [back] }) ∧
      (∀ y ∈ again, ∀ x, y.load = .torus x → x ∈ (t.torusNode (linkPkg k)).arrived) ∧
      t.net.map (fun p => { p with trip := none }) = s.net.map (fun p => { p with trip := none }) ∧
      t = { s with links := t.links, pkgs := t.pkgs, net := t.net, streams := t.streams, torus := t.torus })) ∧
    (Completes (.torusFlitArrival pkg) s (fun t => ∀ y ∈ flits node,
      (∃ m, AMap.get (t.torusNode pkg).taken (y.src, y.net) = some m ∧ y.seq < m) ∨
      (∃ z ∈ flits (t.torusNode pkg), z = { y with born := z.born }) ∨
      ∃ o b, ∃ w ∈ (t.link (2 ^ 60 + pkg * 8 + o)).wire, w.load = .torus { y with born := b })) ∧
    (alone → x.dst = pkg → s.ejected pkg x.via x.net [] < 2048 → (AMap.get node.taken (x.src, x.net)).getD 0 = x.seq → x.index = 0 →
      x.count = 1 → x.packet = some q → Completes (.torusFlitArrival pkg) s (fun t =>
        t.net = s.net ++ [{ q with trip := some (s.way q pkg (torusRouter (pkg * 8 + x.via))) }] ∧ flits (t.torusNode pkg) = [] ∧
        AMap.get (t.torusNode pkg).taken (x.src, x.net) = some (x.seq + 1) ∧
        (∀ r, r ≠ pkg → t.torusNode r = s.torusNode r) ∧ t = { s with net := t.net, torus := t.torus })) ∧
    (alone → x.dst ≠ pkg → torusCloser pkg x.dst = o :: os → s.torusUp pkg o = true → (s.link out).wire.length ≤ 252 →
      Completes (.torusFlitArrival pkg) s (fun t => flits (t.torusNode pkg) = [] ∧
        (∃ w, (t.link out).wire = (s.link out).wire ++ [w] ∧ w.load = .torus x ∧ w.seq = (s.link out).nextSeq ∧ w.bad = false) ∧
        (∀ j, j ≠ out → t.link j = s.link j) ∧ (∀ r, r ≠ pkg → t.torusNode r = s.torusNode r) ∧
        t = { s with torus := t.torus, links := t.links })) ∧
    (s.conns[conn]? = some e →
      (e.shadow = none → Completes (.slotTableSwitch conn) s (fun t => t = s)) ∧
      (e.shadow = some [] → Completes (.slotTableSwitch conn) s (fun t => t.conns = s.conns.take conn ++ s.conns.drop (conn + 1) ∧
        t = { s with conns := t.conns })) ∧
      (e.shadow = some sl → sl ≠ [] → Completes (.slotTableSwitch conn) s (fun t =>
        t.conns = s.conns.set conn { e with slots := sl, shadow := none } ∧ t = { s with conns := t.conns })))

/-- R233, R239, R247, R375, R390-R396, R398: the commands of the host. Each is answered once with a status under its TAG; a TAG
seen before gets the stored reply; a sender that may not give a command is refused; a malformed datagram has no reply; each
command has its own effect. The byte places of payloads and the source rules are the model's choice (log entries 17 and 66),
and so are some ends of launches under RESETVF (log entry 58). -/
def Obligations.HostCommands : Prop :=
  ∀ (dg : List Byte) (op h : Nat) (d : Dgram) (x : W32 × List Byte) (w : State) (im : Image) (rec_ : Vector W64 8) (ev : List Byte → Instr)
    (s : State),
    let b (o n : Nat) : Nat := u d.data o n
    let cmd (op : Nat) : Prop := Accepted dg op d s
    let refused (e : Instr) : Prop := Completes e s (Replies s d 2 [])
    let evs := [(1, Instr.fwload), (2, .imageLoad), (3, .submit), (4, .attest), (5, .partrpt), (6, .resetvf), (7, .qos), (8, .slotCmd),
      (9, .aperWrite), (10, .ptbase)]
    let vf := b 0 1
    let same (c : Conn) : Prop := c.src = d.pkg * 2048 + b 4 2 % 2048 ∧ c.dst = d.pkg * 2048 + b 6 2 % 2048 ∧ c.net = vnetOf (b 2 1) ∧ c.graph = none
    let sub := Submission.ofBytes d.data
    let home := sub.pkgs.headD 0
    ((op, ev) ∈ evs → Received dg op d s →
      (((s.vfun d.pkg d.vf).tags.find? (fun t => t.1 == d.tag)) = some x → Completes (ev dg) s (fun t =>
        t.toHost = s.toHost ++ [{ vf := d.vf, bytes := x.2, sent := s.tick }] ∧ t = { s with toHost := t.toHost })) ∧
      (((s.vfun d.pkg d.vf).tags.find? (fun t => t.1 == d.tag)) = none →
        ((op ∈ [1, 6, 7, 8, 9, 10] ∧ d.vf ≠ 0xFF) ∨ (op ∈ [2, 3] ∧ 16 ≤ d.vf)) → refused (ev dg))) ∧
    ((op, ev) ∈ evs → Dgram.ofBytes dg = none → Completes (ev dg) s (fun t => t = s)) ∧
    (Completes (.malformedDatagram dg) s (fun t => t = s)) ∧
    (Accepted dg op d s → (op = 0 ∨ 10 < op) → refused (.invalidOp dg)) ∧
    (cmd 1 → d.vf = 0xFF → Completes (.fwload dg) s (fun t => ∃ w : State, Replies w d 0 [] t ∧
      w.pkg d.pkg = { s.pkg d.pkg with staged := some (bytesAt s (hostKey d.src (b 0 8)) (b 8 8)) } ∧ w = { s with pkgs := w.pkgs })) ∧
    (cmd 2 → d.vf < 16 →
      (s.image d.vf (bytesAt s (hostKey d.src (b 0 8)) (b 8 8)) = some (h, w) → Completes (.imageLoad dg) s (Replies w d 0 (leBytes 4 h))) ∧
      (s.image d.vf (bytesAt s (hostKey d.src (b 0 8)) (b 8 8)) = none → refused (.imageLoad dg))) ∧
    (cmd 3 → d.vf < 16 →
      (AMap.get s.images sub.handle = none → refused (.submit dg)) ∧
      (AMap.get s.images sub.handle = some im → s.submitOk d.vf sub im = false → refused (.submit dg)) ∧
      (AMap.get s.images sub.handle = some im → s.submitOk d.vf sub im = true → (im.records.drop sub.first).take sub.count = [rec_] →
        nodeOf rec_ = none → tooBig rec_ = false → wbits rec_[1] 24 0 ≠ 0 → sub.nodes = [] →
        Completes (.submit dg) s (fun t => ∃ (w : State) (uid : Nat), Replies w d 0 (leBytes 4 (s.pkg home).nextSerial.toNat) t ∧
          (t.launch uid).state = .queued ∧ (t.launch uid).serial = (s.pkg home).nextSerial ∧ (t.launch uid).pool = im.pool ∧
          (∀ i : Fin 8, (t.launch uid).words.get i = if i = 7 then BitVec.ofNat 64 ((s.pkg home).nextSerial.toNat * 16 + d.vf) else rec_.get i) ∧
          (AMap.get (t.pkg home).queues (d.vf, sub.die * 16 + sub.queue)) =
            some ((AMap.get (s.pkg home).queues (d.vf, sub.die * 16 + sub.queue)).getD [] ++ [uid]) ∧
          (t.pkg home).nextSerial = (if (s.pkg home).nextSerial + 1 = 0 then 1 else (s.pkg home).nextSerial + 1)))) ∧
    (cmd 4 → Completes (.attest dg) s (fun t => ∃ (w : State) (sig : List Byte), sig.length = 384 ∧
      Replies w d 0 (sha256 (s.pkg d.pkg).firmware ++ sha256 (s.partReport d.pkg) ++ leBytes 8 (s.ident d.pkg).toNat ++
        leBytes 8 (s.pkg d.pkg).bootCount ++ d.data.take 32 ++ sig) t ∧
      w.pkg d.pkg = { s.pkg d.pkg with attests := (s.pkg d.pkg).attests + 1 } ∧ w = { s with pkgs := w.pkgs })) ∧
    (cmd 5 → Completes (.partrpt dg) s (Replies s d 0 (s.partReport d.pkg)) ∧
      (s.partReport d.pkg).take 8 = leBytes 8 (s.ident d.pkg).toNat) ∧
    (cmd 6 → d.vf = 0xFF → 15 < vf → refused (.resetvf dg)) ∧
    (cmd 6 → d.vf = 0xFF → vf ≤ 15 → (∀ x ∈ s.launchesOf d.pkg vf, (s.launch x).state = .queued) → (s.launches.map (·.1)).Nodup →
      Completes (.resetvf dg) s (fun t => (∃ w : State, Replies w d 0 [] t) ∧
        (∀ x ∈ s.launchesOf d.pkg vf, (t.launch x).state = .done ∧ (t.launch x).reported = true) ∧
        (∀ x ∈ t.streams, ¬ (x.2.vf = vf ∧ x.2.pkg = d.pkg)) ∧ (∀ x ∈ t.conns, ¬ (x.vf = vf ∧ x.die / 8 = d.pkg)) ∧
        (t.vfun d.pkg vf).resetting = false)) ∧
    (cmd 7 → d.vf = 0xFF →
      (15 < vf ∨ 32 < b 1 1 ∨ 64 < b 2 1 ∨ b 3 1 = 0 → refused (.qos dg)) ∧
      (vf ≤ 15 → b 1 1 ≤ 32 → b 2 1 ≤ 64 → b 3 1 ≠ 0 → Completes (.qos dg) s (fun t => ∃ w : State, Replies w d 0 [] t ∧
        w.vfun d.pkg vf = { s.vfun d.pkg vf with l2mask := BitVec.ofNat 16 (b 4 2), dramWeight := b 3 1, slotShare := b 1 1, pillowShare := b 2 1 } ∧
        w = { s with vfs := w.vfs }))) ∧
    (cmd 8 → d.vf = 0xFF → b 0 1 ≠ 1 → b 1 1 ≤ 15 →
      (s.allocate (b 1 1) (d.pkg * 2048 + b 4 2 % 2048) (d.pkg * 2048 + b 6 2 % 2048) (vnetOf (b 2 1)) (b 3 1) none = some w →
        Completes (.slotCmd dg) s (Replies w d 0 [])) ∧
      (s.allocate (b 1 1) (d.pkg * 2048 + b 4 2 % 2048) (d.pkg * 2048 + b 6 2 % 2048) (vnetOf (b 2 1)) (b 3 1) none = none →
        refused (.slotCmd dg))) ∧
    (cmd 8 → d.vf = 0xFF → b 0 1 = 1 →
      ((∀ c ∈ s.conns, ¬ same c) → refused (.slotCmd dg)) ∧
      ((∃ c ∈ s.conns, same c) → (∀ c ∈ s.conns, c.shadow = none) → Completes (.slotCmd dg) s (fun t => ∃ w : State, Replies w d 0 [] t ∧
        (∀ c ∈ w.conns, same c → c.shadow = some []) ∧ (∀ c ∈ s.conns, ¬ same c → c ∈ w.conns) ∧ w = { s with conns := w.conns }))) ∧
    (cmd 9 → d.vf = 0xFF →
      (15 < vf ∨ b 1 1 = 0 ∨ 15 < b 1 1 ∨ bits (b 8 16) 39 38 = 3 ∨ bits (b 8 16) 37 26 ≠ 0 → refused (.aperWrite dg)) ∧
      (vf ≤ 15 → 1 ≤ b 1 1 → b 1 1 ≤ (s.vfun d.pkg vf).apers.length → b 1 1 ≤ 15 → bits (b 8 16) 39 38 ≠ 3 → bits (b 8 16) 37 26 = 0 →
        Completes (.aperWrite dg) s (fun t => ∃ (w : State) (e : BitVec 128), Replies w d 0 [] t ∧ aperState e = 0 ∧
          aperBase e = bits (b 8 16) 127 64 ∧ aperTarget e = bits (b 8 16) 21 0 ∧ aperTvf e = bits (b 8 16) 25 22 ∧
          aperKind e = bits (b 8 16) 39 38 ∧
          w.vfun d.pkg vf = { s.vfun d.pkg vf with apers := (s.vfun d.pkg vf).apers.set (b 1 1 - 1) e } ∧ w = { s with vfs := w.vfs }))) ∧
    (cmd 10 → d.vf = 0xFF →
      (15 < vf → refused (.ptbase dg)) ∧
      (vf ≤ 15 → Completes (.ptbase dg) s (fun t => ∃ w : State, Replies w d 0 [] t ∧
        w.vfun d.pkg vf = { s.vfun d.pkg vf with l1 := b 8 8 } ∧ (∀ e ∈ w.tlb, ¬ (e.clus / 128 = d.pkg ∧ e.vf = vf)) ∧
        w = { s with vfs := w.vfs, tlb := w.tlb })))

/-- R389, R394, R399: RDMA reaches memory through a virtual function's tables; power-on boots a package with one boot more, and
with zero memories where its firmware verifies; a package that is down serves no RDMA; heat lowers the clock, and at last stops
every launch with STATUS 5 and shuts the package down. Connection numbers and what a power-on keeps are the model's choice (log
entries 5, 17, 20 and 58). -/
def Obligations.HostAndPower : Prop :=
  ∀ (conn len pkg rate key : Nat) (va : W64) (x : Byte) (data : List Byte) (s : State),
    let old := s.pkg pkg
    let fw := old.staged.getD old.firmware
    let on := s.launches.filter (fun l => l.2.pkgs.contains pkg && (!decide (l.2.state = .done) || !l.2.reported))
    let up := s.alive (conn / 16) = true
    (up → s.globalKey (conn / 16) (conn % 16) va.toNat = some key → MemoryOk s → s.shadows = [] → Completes (.rdmaWrite conn va [x]) s (fun t =>
      Stored s key [x] t ∧ t = { s with mem := t.mem, codeLog := t.codeLog, races := t.races, tlb := t.tlb, parked := t.parked, poison := t.poison, l2Poison := t.l2Poison })) ∧
    (up → s.globalKey (conn / 16) (conn % 16) va.toNat = none → Completes (.rdmaWrite conn va [x]) s (fun t => t = s)) ∧
    (up → s.readGlobal (conn / 16) (conn % 16) va.toNat len = some data → Completes (.rdmaRead conn va len) s (fun t =>
      t.toHost = s.toHost ++ [{ vf := conn % 16, bytes := data, sent := s.tick }] ∧ t = { s with toHost := t.toHost })) ∧
    (¬ up → Completes (.rdmaWrite conn va data) s (fun t => t = s) ∧ Completes (.rdmaRead conn va len) s (fun t => t = s)) ∧
    (MemoryOk s → (∀ c ∈ s.cores, c.2.remap.getLsbD 7 = false) → (∀ l ∈ s.launches, l.2.pkgs.contains pkg = true → (s.launch l.1).home = pkg) →
      (∀ p ∈ s.pkgs, p.2.linksDown = []) → Completes (.powerOn pkg) s (fun t =>
      (∀ k, Memory.get t.mem k = if Config.verify fw = true ∧ k / 2 ^ 56 = pkg ∧ k < 2 ^ 79 then 0 else Memory.get s.mem k) ∧
      (t.pkg pkg).bootCount = old.bootCount + 1 ∧ (t.pkg pkg).running = true ∧ (t.pkg pkg).firmware = fw ∧
      (t.pkg pkg).recovery = !Config.verify fw ∧ (t.pkg pkg).quarList = old.quarList ∧ (t.pkg pkg).queues = [] ∧
      (t.pkg pkg).nextSerial = 1 ∧ (t.pkg pkg).clock = 2500 ∧ (Config.verify fw = true → t.cycle pkg = 0) ∧
      (∀ c ∈ t.rest, c.place.pkg ≠ pkg) ∧ (∀ g, g / 2048 = pkg → (t.core g).banks = Vector.replicate 128 .free ∧
        (Config.verify fw = true → (t.core g).cells = []) ∧ (t.core g).rq = [] ∧ (t.core g).inj = []) ∧
      (∀ p, p ≠ pkg → t.pkg p = s.pkg p) ∧ t.toHost = s.toHost)) ∧
    (Completes (.thermalThrottle pkg rate) s (fun t =>
      t.pkg pkg = { old with clock := if rate % 100 = 0 ∧ 1200 ≤ rate ∧ rate < old.clock then rate else old.clock } ∧
      (∀ p, p ≠ pkg → t.pkg p = s.pkg p) ∧ t = { s with pkgs := t.pkgs })) ∧
    (Completes (.thermalShutdown pkg) s (fun t => (t.pkg pkg).running = false ∧ (t.pkg pkg).queues = [] ∧
      (∀ l ∈ on, AMap.get s.launches l.1 = some l.2 → (t.launch l.1).state = .done ∧ (t.launch l.1).reported = true) ∧
      (∀ g ∈ t.graphs, ∀ n ∈ g.2.nodes, ∀ u ∈ n.launch, ∀ l ∈ on, l.1 ≠ u) ∧
      (on = [] → t.toHost = s.toHost))) ∧
    (∀ l, on = [l] → AMap.get s.launches l.1 = some l.2 → l.2.reported = false → Completes (.thermalShutdown pkg) s (fun t =>
      ∃ y : HostMsg, t.toHost = s.toHost ++ [y] ∧ (y.bytes.drop 32).take 5 = leBytes 4 l.2.serial.toNat ++ [5]))

/-- R383-R388: stream graphs. A message takes the next number at its source; each operator makes of the head of its input
what its kind says, and passes gaps and diverted messages untouched; the sink commits in order: pieces of at most 240 bytes
to its channel, nothing for a gap. How a graph is described and the corners of its operators are the model's choice (log entry 18). -/
def Obligations.Streams : Prop :=
  ∀ (graph node vf core : Nat) (g : StreamGraph) (n : StreamNode) (m : StreamMsg) (data o a b : List Byte) (w : W32) (by_ : Byte) (to_ : Nat)
    (m1 m2 : StreamMsg) (r1 r2 : List StreamMsg) (v s : State),
    let has := AMap.get s.streams graph = some g ∧ g.nodes[node]? = some n ∧ n.outs = [to_] ∧ g.full to_ = false ∧ to_ / 16 = g.nodes.length
    let head := n.inputs = [[m]] ∧ n.lastSeq ≠ some m.seq
    let live := has ∧ head ∧ m.gap = false ∧ m.fault = none
    let gives (l : List StreamMsg) (t : State) : Prop := (∃ h, AMap.get t.streams graph = some h ∧ h.sinkIn = g.sinkIn ++ l ∧
        ∃ q, h.nodes[node]? = some q ∧ q.inputs.all (·.isEmpty) = true) ∧ (∀ k, k ≠ graph → AMap.get t.streams k = AMap.get s.streams k) ∧
      t = { s with streams := t.streams }
    let one (d : List Byte) : State → Prop := gives [{ m with data := d, sub := 0 }]
    let diverts (code off : Nat) : State → Prop := gives [{ m with fault := some (code, n.kind, n.site, off), sub := 0 }]
    let gone : State → Prop := gives [{ seq := m.seq, sub := 0, last := m.last, gap := true, data := [], fault := none }]
    let two := has ∧ n.inputs = [[m1], [m2]] ∧ n.lastSeq ≠ some m1.seq ∧ m1.gap = false ∧ m1.fault = none ∧ m2.gap = false ∧ m2.fault = none
    let ops := [(Instr.convert graph node, 1), (.compress graph node, 2), (.inflate graph node, 3), (.transcode graph node, 4),
      (.tokenise graph node, 5), (.filterMsg graph node, 6), (.splitMsg graph node, 7), (.replicate graph node, 9),
      (.checksum graph node, 10), (.repack graph node, 11)]
    (AMap.get s.streams graph = some g → g.full 0 = false → Completes (.streamIngress graph data) s (fun t =>
      (∃ h, AMap.get t.streams graph = some h ∧ h.nextSeq = g.nextSeq + 1 ∧
        h = { g.push 0 [{ seq := g.nextSeq, sub := 0, last := true, gap := false, data := data, fault := none }] with nextSeq := h.nextSeq }) ∧
      t = { s with streams := t.streams })) ∧
    (AMap.get s.streams graph = some g → g.full 0 = true → Completes (.streamIngress graph data) s (fun t => t = s)) ∧
    (∀ e ∈ ops, n.kind = e.2 → has → head → m.real = false → Completes e.1 s (gives [{ m with sub := 0 }])) ∧
    (∀ e ∈ ops, n.kind = e.2 → AMap.get s.streams graph = some g → g.nodes[node]? = some n → n.inputs = [[]] → Completes e.1 s (fun t => t = s)) ∧
    (live → n.kind = 1 → n.param 0 = 2 → n.param 1 = 4 → m.data = leBytes 4 w.toNat → Completes (.convert graph node) s
      (one [BitVec.ofInt 8 (max 0 (min 255 w.toInt))])) ∧
    (live → n.kind = 2 → n.param 0 = 1 → m.data.length ≤ 65535 → Completes (.compress graph node) s
      (one (1 :: leBytes 2 m.data.length ++ leBytes 2 (65535 - m.data.length) ++ m.data))) ∧
    (live → n.kind = 3 → n.param 0 = 0 → inflate (n.param 1) m.data = .ok (o, m.data.length) → Completes (.inflate graph node) s (one o)) ∧
    (live → n.kind = 3 → n.param 0 = 0 → inflate (n.param 1) m.data = .error (false, 0) → Completes (.inflate graph node) s (diverts 1 0)) ∧
    (live → n.kind = 4 → n.param 0 = 1 → n.param 1 = 4 → Completes (.transcode graph node) s (one (m.data.flatMap (fun x => [x, 0])))) ∧
    (live → n.kind = 5 → n.vocab = [] → m.data.length ≤ n.param 1 → Completes (.tokenise graph node) s
      (one (m.data.flatMap (fun x => leBytes 4 (n.param 0 + x.toNat))))) ∧
    (live → n.kind = 6 → n.param 1 = 0 → n.param 2 = 2 → m.data[n.param 0]? = some by_ →
      (by_ = 0 → Completes (.filterMsg graph node) s (one m.data)) ∧ (by_ ≠ 0 → Completes (.filterMsg graph node) s gone)) ∧
    (live → n.kind = 6 → m.data.length ≤ n.param 0 → Completes (.filterMsg graph node) s (diverts 1 (n.param 0))) ∧
    (live → n.kind = 7 → n.param 0 = 0 → 0 < m.data.length → m.data.length ≤ n.param 1 → Completes (.splitMsg graph node) s (one m.data)) ∧
    (live → n.kind = 7 → n.param 0 = 0 → n.param 1 = a.length → m.data = a ++ b → 0 < b.length → b.length ≤ a.length →
      Completes (.splitMsg graph node) s (gives [{ m with data := a, sub := 0, last := false }, { m with data := b, sub := 1 }])) ∧
    (live → n.kind = 9 → Completes (.replicate graph node) s (one m.data)) ∧
    (live → n.kind = 10 → n.param 0 = 0 → Completes (.checksum graph node) s (one (m.data ++ leBytes 4 (crc32c m.data).toNat))) ∧
    (live → n.kind = 10 → n.param 0 ≠ 0 → m.data = a ++ leBytes 4 (crc32c a).toNat → Completes (.checksum graph node) s (one a)) ∧
    (live → n.kind = 11 → n.param 2 = 0 → n.param 0 = 4 → n.param 1 = 2 → m.data = leBytes 4 w.toNat →
      Completes (.repack graph node) s (one (leBytes 2 w.toNat))) ∧
    (live → n.kind = 11 → 0 < n.param 0 → m.data.length % n.param 0 ≠ 0 → Completes (.repack graph node) s
      (diverts 4 (m.data.length / n.param 0 * n.param 0))) ∧
    (two → n.kind = 0 → n.param 0 = 0 → n.param 1 = 0 → m1.seq = m2.seq → m1.sub = m2.sub → m1.data.length = 4 → m2.data.length = 4 →
      m1.last = m2.last → Completes (.reduceMsg graph node) s (gives [{ m1 with sub := 0, data := leBytes 4 (leNat m1.data + leNat m2.data) }])) ∧
    (has → n.inputs = [[m1], [m2]] → n.lastSeq ≠ some m1.seq → n.kind = 8 → n.param 0 = 0 → m1.before m2 = true → m2.before m1 = false →
      m1.gap = false → Completes (.seqjoin graph node) s (fun t => (∃ h, AMap.get t.streams graph = some h ∧
        h.sinkIn = g.sinkIn ++ [{ m1 with sub := 0 }] ∧ ∃ q, h.nodes[node]? = some q ∧ q.inputs = [[], [m2]]) ∧ t = { s with streams := t.streams })) ∧
    (has → n.inputs = [m1 :: m2 :: r1] → n.kind = 8 → n.param 0 = 1 → n.param 1 = 2 → m1.real = true → m2.real = true →
      m1.data.length + m2.data.length ≤ 65536 → n.lastSeq = none → m1.seq ≠ m2.seq → Completes (.seqjoin graph node) s (fun t =>
        (∃ h, AMap.get t.streams graph = some h ∧
          h.sinkIn = g.sinkIn ++ [{ m1 with sub := 0, data := m1.data ++ m2.data }, { m2 with sub := 0, gap := true, data := [] }] ∧
          ∃ q, h.nodes[node]? = some q ∧ q.inputs = [r1]) ∧ t = { s with streams := t.streams })) ∧
    (AMap.get s.streams graph = some g → node = g.nodes.length → g.sinkIn = m :: r2 → m.seq = g.commitSeq → m.sub = g.commitSub →
      (m.gap = true → Completes (.sinkCommit graph node) s (fun t => (∃ h, AMap.get t.streams graph = some h ∧ h.sinkIn = r2 ∧
        (m.last = true → h.commitSeq = g.commitSeq + 1 ∧ h.commitSub = 0) ∧
        (m.last = false → h.commitSeq = g.commitSeq ∧ h.commitSub = g.commitSub + 1)) ∧ t = { s with streams := t.streams })) ∧
      (m.gap = false → m.fault = none → s.sinkCore g = some core → m.data.length ≤ 240 → Completes (.sinkCommit graph node) s (fun t =>
        (∃ h, AMap.get t.streams graph = some h ∧ h.sinkIn = r2) ∧
        (∃ e : InjEntry, (t.core core).sys = (s.core core).sys ++ [e] ∧ e.launch = g.launch ∧ e.vc = g.vc ∧ e.msg.ch = g.chan ∧
          e.msg.data.take (16 + m.data.length) = leBytes 4 m.seq.toNat ++ leBytes 2 m.sub ++ leBytes 2 0 ++ leBytes 4 m.data.length ++
            leBytes 4 1 ++ m.data ∧ e.msg.bytes = 16 + m.data.length) ∧ t = { s with streams := t.streams, cores := t.cores }))) ∧
    (s.streamGraph vf data = g →
      (vf < 16 → (AMap.get s.pkgs g.pkg).isSome = true → (AMap.get s.launches g.launch).isSome = true → 2 ≤ g.chan → g.chan < 64 →
        g.vc < (s.launch g.launch).vcores → ringOk g.ringSlots = true → g.site < 10 → g.nodes.all StreamNode.paramsOk = true →
        g.joinedUp = true → s.graphFits g = true → s.connect g s.next = some v → Completes (.streamGraphLoad vf data) s (fun t =>
          AMap.get t.streams s.next = some g ∧ t.next = s.next + 1 ∧
          (∀ k, k ≠ s.next → AMap.get t.streams k = AMap.get s.streams k) ∧ t.conns = v.conns ∧
          ∀ x ∈ s.graphConns g, ∃ c ∈ t.conns, c.src = x.1.node ∧ c.dst = x.2.node ∧ c.net = .blk ∧ c.graph = some s.next)) ∧
      ((16 ≤ vf ∨ g.chan < 2 ∨ ringOk g.ringSlots = false ∨ 10 ≤ g.site ∨ g.joinedUp = false ∨ s.graphFits g = false ∨
          s.connect g s.next = none) →
        Completes (.streamGraphLoad vf data) s (fun t => t = s)))

/-- R46, R47, R51, R59-R75: words written out from the spec's own encoding tables decode to the instructions they stand for,
and words that stand for none are refused. -/
def Obligations.DecodeWords : Prop :=
  decode [0x000E0038] = .ok (.trap 7) ∧
  decode [0x40220 * 4096 + 0x1B8] = .ok (.mfs 3 0x011) ∧
  decode [0x60223038] = .ok (.mts 0x011 3) ∧
  decode [0x20000038] = .ok .eret ∧
  decode [0x00C03185, 0x00000004, 0x00000000] = .ok (.add .i64 3 3 (.lit 4)) ∧
  decode [0x3C8E6284] = .ok (.shra .i32 5 6 (.reg 7)) ∧
  decode [0x000E6286, 0x40000030, 0x00000000] = .ok (.sel .i64 5 8 6 (.reg 7)) ∧
  decode [0x024E6298] = .ok (.fadd .f32 5 6 (.reg 7)) ∧
  decode [0xFFF890A4] = .ok (.bnz 9 (BitVec.ofInt 15 (-4))) ∧
  decode [0xFFFA5034] = .ok (.loop 5 (BitVec.ofInt 15 (-3))) ∧
  decode [0x4020031C] = .ok (.fli 6 0x40200) ∧
  decode [0x00000000] = .error ⟨0, .major⟩ ∧
  decode [] = .error ⟨0, .framing⟩

/-- R46-R75: every instruction that is well formed is read back from its own words, with every operand. -/
def Obligations.EncodeDecode : Prop :=
  ∀ (i : Instr), WellFormed i = true → isEvent i = false → (∀ p w u, i ≠ .illop p w u) → (∀ c a e, i ≠ .fetchFailure c a e) →
    decode (encode i) = .ok i

/-- R46, R52, R77: every word pattern is an instruction or a fault. What the decoder answers is well formed and no event, and
its words are exactly those of the instruction, so that no bit of an instruction is ignored. -/
def Obligations.DecodeEncode : Prop :=
  ∀ (ws : List W32) (i : Instr), decode ws = .ok i →
    WellFormed i = true ∧ isEvent i = false ∧ encode i = ws.take (lengthOf (ws.headD 0))

/-- R46, R47, R56, R58, R76, R77: a scheduled turn of a context fetches the words at its pc, as many as word 0 says, with the
bitmap's bit for them, decodes them, and executes what they stand for. A code word is the four bytes of memory that the
launch's tables give its address. What decodes to no instruction is ILLOP. -/
def Obligations.StepRuns : Prop :=
  ∀ (s t : State) (id : Sid) (c : Strand) (r : List Pick) (ws : List W32) (w : W32) (va : W64) (f : Leaf) (i : Instr) (e : DecErr),
    let u := ({ s with tick := s.tick + 1, sched := r } : State).focus id
    let v := u.modMe Strand.unwait
    let ready := s.sched = .strand id :: r ∧ s.strand? id = some c ∧ c.runnable = true ∧ u.inRuntime = false ∧ u.due = false
    let runs (i : Instr) (v : State) : Prop := step s = withInputs u (u.ownCore (Sys2Proof.Machine.exec i v)) (Sys2Proof.Machine.exec i v) ∧
      ∀ w, Sys2Proof.Machine.exec i v = .next w → w.locks = [] → step s = .next w
    (ready → Gives M.fetch v (.words ws) t → decode ws = .ok i → t.me.id.unit = .compute ∨ helperMay i = true →
      runs i (t.modMe (fun c => { c with entering := false }))) ∧
    (ready → Gives M.fetch v (.words ws) t → decode ws = .error e → runs (.illop e.pos (ws.headD 0) false) t) ∧
    (ready → Gives M.fetch v (.unmarked w) t → runs (.illop 0 w true) t) ∧
    (ready → Gives M.fetch v (.words ws) t → decode ws = .ok i → t.me.id.unit ≠ .compute → helperMay i = false →
      runs (.illop 0 (ws.headD 0) false) t) ∧
    (Gives M.fetch s (.words ws) t → ws.length = lengthOf (ws.headD 0) ∧ s.me.pc.toNat < 2 ^ 54 ∧
      (∃ t, Gives (M.fetchWord s.me.pc) s (ws.headD 0) t) ∧ ∃ x, Gives (M.bitmapBit s.me.pc) x true t) ∧
    (Gives (M.fetchWord va) s w t → s.me.id.unit = .compute → s.shadows = [] → s.me.synced = s.codeLog.length →
      s.translateAt s.me.place.gcore s.myLaunch.vf s.me.level (va.toNat % 2 ^ 55) .fetch = .ok f → f.aper = 0 →
      w = BitVec.ofNat 32 (leNat (bytesAt t (dramKey s.me.place.pkg (f.phys (va.toNat % 2 ^ 55))) 4)))

/-- R24, R94, R96: no instruction at level S leaves its context at level K but by a trap, which continues at TVEC, and none
brings a context to level H. -/
def Obligations.LevelEntry : Prop :=
  ∀ (i : Instr) (s t : State), isEvent i = false → Sys2Proof.Machine.exec i s = .next t → t.me.id = s.me.id →
    (s.me.level = .s → t.me.level = .k → t.me.pc = s.me.tvec ∧ t.me.epc = s.me.pc) ∧
    (s.me.level ≠ .h → t.me.level ≠ .h)

/-- Every step keeps memory in the canonical form that the model gives it (log entry 20), whatever instruction or event it is. -/
def Obligations.MemoryStays : Prop :=
  ∀ (s t : State), MemoryOk s → step s = .next t → MemoryOk t

/-- R8, R9, R25, R27, R389, and the model's choices of log entries 4, 5 and 7: the machine after reset. Memory is canonical and reads as zero, no context
is live, no launch, group or connector exists, one package runs, and a context starts with the registers of R8, R25, R27. -/
def Obligations.ResetState : Prop :=
  MemoryOk State.reset ∧ (∀ k, Memory.get State.reset.mem k = 0) ∧ State.reset.contexts.all (fun c => !c.live) = true ∧
  State.reset.launches = [] ∧ State.reset.groups = [] ∧ State.reset.connectors = [] ∧ State.reset.net = [] ∧ State.reset.sched = [] ∧
  (State.reset.pkg Config.packageId).running = true ∧ (State.reset.pkg Config.packageId).bootCount = 1 ∧
  (∀ (i : Sid) (p : Place) (r : Reg), (Strand.fresh i p).getX r = (if r = 2 then 0xF000_0000_0000_4000 else 0) ∧
    (Strand.fresh i p).getV r = 0) ∧
  (∀ (i : Sid) (p : Place) (r : Reg3), (Strand.fresh i p).getM r = (if r = 0 then 0xFFFF else 0) ∧
    (Strand.fresh i p).zc.get r.toFin = 0 ∧ (Strand.fresh i p).zp.get r.toFin = 0) ∧
  (∀ (i : Sid) (p : Place), (Strand.fresh i p).level = .s ∧ (Strand.fresh i p).fcr = 0 ∧ (Strand.fresh i p).fstat = 0 ∧
    (Strand.fresh i p).ecause = 0 ∧ (Strand.fresh i p).grp = 0xFFFF ∧ (Strand.fresh i p).sqcap = 16 ∧
    (Strand.fresh i p).tvec = Config.runtimeTvec)
end

