-- ==== Sys2Proof/Laws/Bytes.lean ====
section
/-! SUPPORT. Memory as a list of bytes: reading after a write, and the canonical form that every operation keeps. -/

namespace Sys2Proof.Machine

theorem Memory.wfFrom_mono {lo hi : Nat} {m : List Host.Cell} (h : lo ≤ hi) (w : Memory.wfFrom hi m = true) :
    Memory.wfFrom lo m = true := by
  cases m with
  | nil => rfl
  | cons e m =>
    obtain ⟨a, b⟩ := e
    simp only [Memory.wfFrom, Bool.and_eq_true, decide_eq_true_eq] at w ⊢
    exact ⟨⟨by omega, w.1.2⟩, w.2⟩

theorem Memory.put_wfFrom (m : List Host.Cell) (k : Nat) (v : Byte) :
    ∀ lo, lo ≤ k → Memory.wfFrom lo m = true → Memory.wfFrom lo (Memory.put m k v) = true := by
  induction m with
  | nil =>
    intro lo h _
    simp only [Memory.put]
    split
    · rfl
    · rename_i hv
      simp only [Memory.wfFrom, Bool.and_eq_true, decide_eq_true_eq, and_true]
      exact ⟨h, by simpa using hv⟩
  | cons e m ih =>
    obtain ⟨a, b⟩ := e
    intro lo h w
    simp only [Memory.wfFrom, Bool.and_eq_true, decide_eq_true_eq] at w
    simp only [Memory.put]
    split
    · split
      · simp only [Memory.wfFrom, Bool.and_eq_true, decide_eq_true_eq]; exact w
      · rename_i hk hv
        simp only [Memory.wfFrom, Bool.and_eq_true, decide_eq_true_eq]
        exact ⟨⟨h, by simpa using hv⟩, ⟨by omega, w.1.2⟩, w.2⟩
    · split
      · split
        · exact Memory.wfFrom_mono (by omega) w.2
        · rename_i hk hv
          simp only [Memory.wfFrom, Bool.and_eq_true, decide_eq_true_eq]
          exact ⟨⟨h, by simpa using hv⟩, by subst hk; exact w.2⟩
      · simp only [Memory.wfFrom, Bool.and_eq_true, decide_eq_true_eq]
        exact ⟨w.1, ih (a + 1) (by omega) w.2⟩

/-- Writing one byte keeps the canonical form. -/
theorem Memory.put_wf (m : List Host.Cell) (k : Nat) (v : Byte) (h : Memory.wf m = true) :
    Memory.wf (Memory.put m k v) = true :=
  Memory.put_wfFrom m k v 0 (Nat.zero_le _) h

/-- Writing bytes keeps the canonical form. -/
theorem Memory.putN_wf (bs : List Byte) : ∀ (m : List Host.Cell) (k : Nat), Memory.wf m = true →
    Memory.wf (Memory.putN m k bs) = true := by
  induction bs with
  | nil => exact fun m k h => h
  | cons b bs ih => exact fun m k h => ih _ _ (Memory.put_wf m k b h)

/-- Folding writes keeps the canonical form. -/
theorem Memory.foldl_wf {α : Type} (f : List Host.Cell → α → List Host.Cell)
    (hf : ∀ m a, Memory.wf m = true → Memory.wf (f m a) = true) (l : List α) :
    ∀ m, Memory.wf m = true → Memory.wf (l.foldl f m) = true := by
  induction l with
  | nil => exact fun m h => h
  | cons a l ih => exact fun m h => ih _ (hf m a h)

theorem Memory.filter_wfFrom (p : Host.Cell → Bool) (m : List Host.Cell) :
    ∀ lo, Memory.wfFrom lo m = true → Memory.wfFrom lo (m.filter p) = true := by
  induction m with
  | nil => exact fun _ h => h
  | cons e m ih =>
    obtain ⟨a, b⟩ := e
    intro lo w
    simp only [Memory.wfFrom, Bool.and_eq_true, decide_eq_true_eq] at w
    simp only [List.filter_cons]
    split
    · simp only [Memory.wfFrom, Bool.and_eq_true, decide_eq_true_eq]
      exact ⟨w.1, ih _ w.2⟩
    · exact Memory.wfFrom_mono (by omega) (ih _ w.2)

/-- Clearing bytes by a condition on their entries keeps the canonical form. -/
theorem Memory.filter_wf (p : Host.Cell → Bool) (m : List Host.Cell) (h : Memory.wf m = true) :
    Memory.wf (m.filter p) = true :=
  Memory.filter_wfFrom p m 0 h

/-- Below the bound of the canonical form, memory reads as zero. -/
theorem Memory.get_below {m : List Host.Cell} : ∀ {lo k : Nat}, Memory.wfFrom lo m = true → k < lo → Memory.get m k = 0 := by
  induction m with
  | nil => intros; rfl
  | cons e m ih =>
    obtain ⟨a, b⟩ := e
    intro lo k w h
    simp only [Memory.wfFrom, Bool.and_eq_true, decide_eq_true_eq] at w
    simp only [Memory.get]
    rw [if_neg (by omega), if_pos (by omega)]

theorem Memory.get_putFrom (m : List Host.Cell) (k : Nat) (v : Byte) :
    ∀ lo, Memory.wfFrom lo m = true ∨ v ≠ 0 → ∀ j, Memory.get (Memory.put m k v) j = if j = k then v else Memory.get m j := by
  induction m with
  | nil =>
    intro lo _ j
    simp only [Memory.put]
    split
    · rename_i hv; subst hv; simp [Memory.get]
    · simp [Memory.get]
  | cons e m ih =>
    obtain ⟨a, b⟩ := e
    intro lo w j
    have w' : Memory.wfFrom (a + 1) m = true ∨ v ≠ 0 := by
      refine w.imp (fun w => ?_) id
      simp only [Memory.wfFrom, Bool.and_eq_true, decide_eq_true_eq] at w
      exact w.2
    simp only [Memory.put]
    split
    · rename_i hk
      split
      · rename_i hv; subst hv
        simp only [Memory.get]
        by_cases h : j = k
        · subst h; simp [Nat.ne_of_lt hk, hk]
        · simp [h]
      · by_cases h : j = k
        · simp [Memory.get, h]
        · by_cases h2 : j < k
          · have h3 : j ≠ a := by omega
            have h4 : j < a := by omega
            simp [Memory.get, h, h2, h3, h4]
          · simp [Memory.get, h, h2]
    · split
      · rename_i hka; subst hka
        split
        · rename_i hv; subst hv
          have w2 := w'.resolve_right (fun h => h rfl)
          by_cases h : j = k
          · subst h; simp [Memory.get_below w2 (Nat.lt_succ_self _)]
          · by_cases h2 : j < k
            · simp [Memory.get, h, h2, Memory.get_below w2 (Nat.lt_succ_of_lt h2)]
            · simp [Memory.get, h, h2]
        · by_cases h : j = k <;> simp [Memory.get, h]
      · rename_i h1 h2
        by_cases h : j = k
        · subst h; simp [Memory.get, h1, h2, ih _ w']
        · simp [Memory.get, h, ih _ w']

/-- Reading after a write: the byte written, and every other byte as before. -/
theorem Memory.get_put (m : List Host.Cell) (k : Nat) (v : Byte) (h : Memory.wf m = true) (j : Nat) :
    Memory.get (Memory.put m k v) j = if j = k then v else Memory.get m j :=
  Memory.get_putFrom m k v 0 (.inl h) j

/-- Reading after a write of a byte that is not zero, whatever the form of the list. -/
theorem Memory.get_put_ne (m : List Host.Cell) (k : Nat) (v : Byte) (h : v ≠ 0) (j : Nat) :
    Memory.get (Memory.put m k v) j = if j = k then v else Memory.get m j :=
  Memory.get_putFrom m k v 0 (.inr h) j

end Sys2Proof.Machine
end

