-- ==== Sys2Proof/Laws/Meanings.lean ====
section
/-! SUPPORT. The form of a meaning, taken apart: what a computation answers, step by step. -/

namespace Sys2Proof.Machine

variable {α β : Type}

/-- A sequence goes through when its parts do. -/
theorem M.bind_ok {m : M α} {f : α → M β} {s u : State} {b : β} :
    (m >>= f) s = .ok b u ↔ ∃ a t, m s = .ok a t ∧ f a t = .ok b u := by
  show EStateM.bind m f s = _ ↔ _
  unfold EStateM.bind
  cases h : m s with
  | ok a t => simp
  | error e t => simp

theorem M.pure_ok {a b : α} {s u : State} : (pure a : M α) s = .ok b u ↔ a = b ∧ s = u := by
  show EStateM.Result.ok a s = _ ↔ _
  simp

theorem M.get_ok {a s u : State} : (get : M State) s = .ok a u ↔ s = a ∧ s = u := by
  show EStateM.Result.ok s s = _ ↔ _
  simp

theorem M.set_ok {t s u : State} {x : PUnit} : (set t : M PUnit) s = .ok x u ↔ t = u := by
  show EStateM.Result.ok _ t = _ ↔ _
  simp

theorem M.modify_ok {f : State → State} {s u : State} {x : PUnit} : (modify f : M PUnit) s = .ok x u ↔ f s = u := by
  show EStateM.Result.ok _ (f s) = _ ↔ _
  simp

theorem M.throw_ok {e : Stop} {a : α} {s u : State} : (throw e : M α) s = .ok a u ↔ False := by
  show EStateM.Result.error e s = _ ↔ _
  simp

theorem M.trapIf_ok {c : Bool} {t : Trap} {s u : State} {x : Unit} : M.trapIf c t s = .ok x u ↔ c = false ∧ s = u := by
  unfold M.trapIf
  cases c
  · exact M.pure_ok.trans (by simp)
  · exact M.throw_ok.trans (by simp)

theorem M.blockIf_ok {c : Bool} {w : Wait} {s u : State} {x : Unit} : M.blockIf c w s = .ok x u ↔ c = false ∧ s = u := by
  unfold M.blockIf
  cases c
  · exact M.pure_ok.trans (by simp)
  · exact M.throw_ok.trans (by simp)

theorem M.check_ok {e : Except Trap α} {a : α} {s u : State} : M.check e s = .ok a u ↔ e = .ok a ∧ s = u := by
  cases e with
  | ok b => exact M.pure_ok.trans (by simp)
  | error t => exact M.throw_ok.trans (by simp)

/-- A meaning that goes through. -/
theorem M.run_ok {m : M Unit} {s t : State} (h : m s = .ok () t) : M.run m s = .next t := by
  unfold M.run; rw [h]

/-- A meaning that traps has had no effect but the trap (R94). -/
theorem M.run_trap {m : M Unit} {s t : State} {e : Trap} (h : m s = .error (.trap e) t) :
    M.run m s = .next (s.takeTrap e) := by
  unfold M.run; rw [h]

/-- A meaning that waits. -/
theorem M.run_block {m : M Unit} {s t : State} {w : Wait} (h : m s = .error (.block w) t) :
    M.run m s = .next (t.block w) := by
  unfold M.run; rw [h]

/-- Every meaning written as a computation answers a next state. -/
theorem M.run_goes (m : M Unit) (s : State) : ∃ t, M.run m s = .next t := by
  unfold M.run
  split <;> exact ⟨_, rfl⟩

end Sys2Proof.Machine
end

