-- ==== Sys2Proof/Laws/Numbers.lean ====
section
/-! SUPPORT. The integer helpers of the model as bit-vector operations. -/

namespace Sys2Proof.Machine

theorem bits_pos (t : Ty) : 0 < t.bits := by cases t <;> decide

theorem bits_le (t : Ty) : t.bits ≤ 64 := by cases t <;> decide

theorem asInt_true (n w : Nat) (h : 0 < n) : asInt true n w = (BitVec.ofNat n w).toInt := by
  obtain ⟨k, rfl⟩ : ∃ k, n = k + 1 := ⟨n - 1, by omega⟩
  have h2 : 2 ^ (k + 1) = 2 * 2 ^ k := by rw [Nat.pow_succ]; omega
  simp only [asInt, BitVec.toInt, BitVec.toNat_ofNat, Bool.true_and, Nat.add_sub_cancel, decide_eq_true_eq]
  split <;> split <;> omega

theorem asInt_false (n w : Nat) : asInt false n w = ((BitVec.ofNat n w).toNat : Int) := by
  simp [asInt]

theorem wrap_eq (n : Nat) (v : Int) : wrap n v = (BitVec.ofInt n v).toNat := by
  simp [wrap, BitVec.toNat_ofInt]

theorem ofNat_wrap (n : Nat) (v : Int) : BitVec.ofNat n (wrap n v) = BitVec.ofInt n v := by
  rw [wrap_eq, BitVec.ofNat_toNat, BitVec.setWidth_eq]

theorem ext_wide (t : Ty) (r : Nat) :
    ext t r = if t.signed then (BitVec.ofNat t.bits r).signExtend 64 else (BitVec.ofNat t.bits r).setWidth 64 := by
  unfold ext
  cases h : t.signed
  · rw [asInt_false, ofNat_wrap]
    rw [BitVec.ofInt_natCast, BitVec.ofNat_toNat]; rfl
  · rw [asInt_true _ _ (bits_pos t), ofNat_wrap]
    rfl

theorem low_eq (t : Ty) (w : W64) : low t w = (w.setWidth t.bits).toNat := by
  simp [low]

end Sys2Proof.Machine
end

