-- ==== Sys2Proof/Laws/Registers.lean ====
section
/-! SUPPORT. Reading a register after a write, and what the shared endings of the scalar meanings do. -/

namespace Sys2Proof.Machine

theorem Vector.get_set_fin {α : Type} {n : Nat} (v : Vector α n) (i j : Fin n) (a : α) :
    (v.set i.val a i.isLt).get j = if j = i then a else v.get j := by
  obtain ⟨i, hi⟩ := i
  obtain ⟨j, hj⟩ := j
  show (v.set i a hi)[j] = if (⟨j, hj⟩ : Fin n) = ⟨i, hi⟩ then a else v[j]
  rw [Vector.getElem_set]
  by_cases h : i = j
  · subst h; simp
  · simp [h, Ne.symm h]

theorem Strand.getX_setX (c : Strand) (d : Reg) (v : W64) (r : Reg) :
    (c.setX d v).getX r = if r = 0 then 0 else if r = d then v else c.getX r := by
  unfold Strand.getX Strand.setX
  by_cases hr : r = 0
  · simp [hr]
  · by_cases hd : d = 0
    · subst hd; simp only [if_true, hr, if_false]
    · simp only [hr, hd, if_false]
      rw [show (c.x.set d.toNat v d.isLt).get r.toFin = _ from Vector.get_set_fin c.x d.toFin r.toFin v]
      by_cases h : r = d
      · subst h; simp only [if_true]
      · rw [if_neg (fun e => h (BitVec.eq_of_toFin_eq e)), if_neg h]

theorem Strand.getV_setV (c : Strand) (d : Reg) (v : V128) (r : Reg) :
    (c.setV d v).getV r = if r = d then v else c.getV r := by
  unfold Strand.getV Strand.setV
  rw [show (c.v.set d.toNat v d.isLt).get r.toFin = _ from Vector.get_set_fin c.v d.toFin r.toFin v]
  by_cases h : r = d
  · subst h; simp only [if_true]
  · rw [if_neg (fun e => h (BitVec.eq_of_toFin_eq e)), if_neg h]

theorem Strand.getM_setM (c : Strand) (d : Reg3) (v : BitVec 16) (r : Reg3) :
    (c.setM d v).getM r = if r = 0 then 0xFFFF else if r = d then v else c.getM r := by
  unfold Strand.getM Strand.setM
  by_cases hr : r = 0
  · simp [hr]
  · by_cases hd : d = 0
    · subst hd; simp only [if_true, hr, if_false]
    · simp only [hr, hd, if_false]
      rw [show (c.m.set d.toNat v d.isLt).get r.toFin = _ from Vector.get_set_fin c.m d.toFin r.toFin v]
      by_cases h : r = d
      · subst h; simp only [if_true]
      · rw [if_neg (fun e => h (BitVec.eq_of_toFin_eq e)), if_neg h]

end Sys2Proof.Machine

namespace Sys2Proof.Safety

open Sys2Proof.Machine

theorem retire_retires (s : State) (n : Nat) : RetiresAs s s.me n (s.retire n) :=
  ⟨rfl, rfl, rfl, fun _ => rfl, fun _ => rfl⟩

theorem advanceCheckpoint_locks (s : State) (g : Nat) : ∃ l, s.advanceCheckpoint g = { s with locks := l } := by
  unfold State.advanceCheckpoint State.modLock
  split
  · exact ⟨_, rfl⟩
  · exact ⟨s.locks, rfl⟩

/-- What the last step of the longer meanings answers: the instruction retires, and a released effect moves the checkpoint. -/
theorem done_ok (s : State) (n : Nat) : M.done n s = .ok () (if s.me.released = true
    then ((s.retire n).modMe (fun c => { c with released := false })).advanceCheckpoint s.me.place.gcore else s.retire n) := by
  unfold M.done M.passed
  rw [M.bind_ok]
  refine ⟨(), s.retire n, rfl, ?_⟩
  generalize hr : s.retire n = r
  have h1 : r.me.released = s.me.released := by rw [← hr]; rfl
  have h2 : r.me.place = s.me.place := by rw [← hr]; rfl
  rw [M.bind_ok]
  refine ⟨r, r, rfl, ?_⟩
  rw [M.bind_ok]
  refine ⟨r, r, rfl, ?_⟩
  rw [h1, h2]
  split
  · exact M.set_ok.2 rfl
  · exact M.pure_ok.2 ⟨rfl, rfl⟩

/-- The last step of the longer meanings: the instruction retires, and a released effect moves the checkpoint. -/
theorem done_retires (s : State) (n : Nat) : ∃ t, M.done n s = .ok () t ∧ RetiresAs s s.me n t := by
  rw [done_ok]
  by_cases h : s.me.released = true
  · rw [if_pos h]
    obtain ⟨l, hl⟩ := advanceCheckpoint_locks ((s.retire n).modMe (fun c => { c with released := false })) s.me.place.gcore
    refine ⟨_, rfl, ?_⟩
    rw [hl]
    refine ⟨rfl, ?_, ⟨?_, fun h' => ?_, fun k => ?_⟩⟩
    · simp only [State.retire, State.modMe, Strand.dropPend]
    · simp only [State.retire, State.modMe]
    · rw [h] at h'; cases h'
    · simp only [State.retire, State.modMe]
  · rw [if_neg h]
    exact ⟨_, rfl, retire_retires s n⟩

theorem setX_retire_writes (s : State) (d : Reg) (v : W64) (n : Nat) : WritesX s d v n ((s.setX d v).retire n) := by
  refine ⟨fun r => Strand.getX_setX s.me d v r, ?_, ?_, ⟨rfl, fun _ => rfl, fun k => rfl⟩⟩ <;>
    simp only [State.retire, State.setX, State.modMe, Strand.dropPend, Strand.setX] <;> split <;> rfl

theorem putX_writes (s : State) (d : Reg) (v : W64) (n : Nat) : ∃ t, putX s d v n = .next t ∧ WritesX s d v n t :=
  ⟨_, rfl, setX_retire_writes s d v n⟩

end Sys2Proof.Safety
end

