-- ==== Sys2Proof/Laws/Access.lean ====
section
/-! SUPPORT. An access to the strand's own private window, checked and performed. -/

namespace Sys2Proof.Safety

open Sys2Proof.Machine

/-- The access that offset `o` of the private window names. -/
def privAcc (s : State) (o n : Nat) : Acc := spotAcc (privAddr o) n (.sp s.me.place.gcore (0x5_0000 + s.me.place.slot * 0x4000 + o))

theorem privAddr_toNat {o : Nat} (h : o < 0x4000) : (privAddr o).toNat = 0xF000_0000_0000_0000 + o := by
  unfold privAddr
  rw [BitVec.toNat_add, BitVec.toNat_ofNat]
  simp only [BitVec.reduceToNat]
  omega

theorem spot_private (s : State) {o : Nat} (h : o < 0x4000) (eng : Bool) :
    s.spot (privAddr o) eng = .ok (.sp s.me.place.gcore (0x5_0000 + s.me.place.slot * 0x4000 + o)) := by
  have ht := privAddr_toNat h
  have h1 : wbits (privAddr o) 63 56 = 0xF0 := by unfold wbits bits; rw [ht, Nat.shiftRight_eq_div_pow]; omega
  have h2 : wbits (privAddr o) 55 14 = 0 := by unfold wbits bits; rw [ht, Nat.shiftRight_eq_div_pow]; omega
  have h3 : wbits (privAddr o) 13 0 = o := by unfold wbits bits; rw [ht, Nat.shiftRight_eq_div_pow]; omega
  unfold State.spot
  simp only [h1, h2, h3, ne_eq, not_true_eq_false, if_false]

/-- An access to the private window is made by its own core. -/
theorem near_private (s : State) {o n : Nat} (h : o < 0x4000) :
    s.near (privAddr o) (spotAcc (privAddr o) n (.sp s.me.place.gcore (0x5_0000 + s.me.place.slot * 0x4000 + o))) = .mem (privAcc s o n) := by
  have h1 : wbits (privAddr o) 63 56 = 0xF0 := by unfold wbits bits; rw [privAddr_toNat h, Nat.shiftRight_eq_div_pow]; omega
  unfold State.near gangVa
  rw [h1]
  rfl

/-- The checks of an aligned access to the private window pass, whatever its need. -/
theorem resolve_private (s : State) {o n : Nat} (h : o < 0x4000) (hn : (0xF000_0000_0000_0000 + o) % n = 0)
    (hs : s.shadows = []) (need : Need) : M.resolve (privAddr o) n need s = .ok (.mem (privAcc s o n)) s := by
  unfold M.resolve
  rw [M.bind_ok]
  refine ⟨s, s, rfl, ?_⟩
  rw [M.bind_ok]
  refine ⟨_, s, M.check_ok.2 ⟨spot_private s h false, rfl⟩, ?_⟩
  dsimp only
  rw [M.bind_ok]
  refine ⟨(), s, M.trapIf_ok.2 ⟨by unfold State.behindShadow; rw [hs]; rfl, rfl⟩, ?_⟩
  rw [M.bind_ok]
  refine ⟨(), s, M.trapIf_ok.2 ⟨by rw [privAddr_toNat h, hn]; rfl, rfl⟩, ?_⟩
  rw [M.bind_ok]
  refine ⟨(), s, ?_, M.pure_ok.2 ⟨near_private s h, rfl⟩⟩
  unfold M.held
  rw [M.bind_ok]
  refine ⟨s, s, rfl, ?_⟩
  have h1 : wbits (privAddr o) 63 56 = 0xF0 := by unfold wbits bits; rw [privAddr_toNat h, Nat.shiftRight_eq_div_pow]; omega
  rw [if_neg]
  · rfl
  · unfold State.checksHold; rw [h1]; simp

theorem activeKey_quiet {s : State} (h : s.shadows = []) (k : Nat) : s.activeKey k = k := by
  unfold State.activeKey; rw [h]; rfl

/-- Nothing holds up an access of a quiet state. -/
theorem ready_quiet {s : State} (h : Quiet s) (as : List Acc) (reads : Bool) : M.ready as reads s = .ok () s := by
  unfold M.ready
  have hp : ∀ k n, s.poisoned k n = false := fun k n => by unfold State.poisoned; rw [h.poison]; rfl
  have hl : ∀ k n, s.loggedElsewhere k n = false := fun k n => by
    unfold State.loggedElsewhere State.logged State.lockAt; rw [h.locks]; rfl
  rw [M.bind_ok]
  refine ⟨s, s, rfl, ?_⟩
  rw [M.bind_ok]
  refine ⟨s, s, rfl, ?_⟩
  rw [M.bind_ok]
  refine ⟨(), s, M.blockIf_ok.2 ⟨h.stamps, rfl⟩, ?_⟩
  rw [M.bind_ok]
  refine ⟨s, s, rfl, ?_⟩
  rw [M.bind_ok]
  refine ⟨(), s, M.blockIf_ok.2 ⟨h.amops, rfl⟩, ?_⟩
  rw [M.bind_ok]
  refine ⟨(), s, ?_, ?_⟩
  · unfold M.race
    rw [M.bind_ok]
    refine ⟨s, s, rfl, ?_⟩
    have ht : s.raceTrap as = none := by unfold State.raceTrap; rw [h.detector]; rfl
    rw [ht]; rfl
  rw [M.bind_ok]
  refine ⟨s, s, rfl, ?_⟩
  have hf : as.find? (fun a => reads && s.poisoned (s.activeKey a.key) a.n) = none := by
    rw [List.find?_eq_none]; intro a _; simp [hp]
  rw [hf]
  dsimp only
  rw [M.bind_ok]
  refine ⟨(), s, M.blockIf_ok.2 ⟨?_, rfl⟩, ?_⟩
  · rw [List.any_eq_false]; intro a _; simp [hl]
  · split
    · unfold M.outgoing
      rw [M.bind_ok]
      refine ⟨s, s, rfl, ?_⟩
      rw [h.locks]; rfl
    · rfl

/-- The access of an instruction that has kept none, when its own core makes it, is the one that it checks. -/
theorem kept_mem {s : State} (hp : s.me.pendOf = none) {m : M Target} {a : Acc} (h : m s = .ok (.mem a) s) :
    M.kept m s = .ok (.mem a) s := by
  have hs : s.plan = [] := by unfold State.plan State.myPend; rw [hp]; rfl
  unfold M.kept
  rw [M.bind_ok]
  refine ⟨s, s, rfl, ?_⟩
  simp only [hs]
  rw [M.bind_ok]
  refine ⟨_, s, h, ?_⟩
  rw [M.bind_ok]
  exact ⟨(), s, rfl, M.pure_ok.2 ⟨rfl, rfl⟩⟩

/-- A load from the private window: the bytes of memory, the timestamps of its line, and the log of the strand's own stores emptied. -/
theorem load_private {s : State} (h : Quiet s) {o n : Nat} (ho : o < 0x4000) (hn : (0xF000_0000_0000_0000 + o) % n = 0) :
    M.load (privAddr o) n s =
      .ok (bytesAt s (privKey s o) n) ((s.leaseLoad (privAcc s o n)).modMe Strand.loaded) := by
  unfold M.load
  rw [M.bind_ok]
  refine ⟨_, s, kept_mem h.plan (resolve_private s ho hn h.shadows .load), ?_⟩
  rw [M.bind_ok]
  refine ⟨[bytesAt s (privKey s o) n], (s.leaseLoad (privAcc s o n)).modMe Strand.loaded, ?_, M.pure_ok.2 ⟨rfl, rfl⟩⟩
  show (do
    M.ready [privAcc s o n] true
    [privAcc s o n].mapM M.loadAcc : M (List (List Byte))) s = _
  rw [M.bind_ok]
  refine ⟨(), s, ready_quiet h _ _, ?_⟩
  rw [List.mapM_cons, M.bind_ok]
  refine ⟨bytesAt s (privKey s o) n, (s.leaseLoad (privAcc s o n)).modMe Strand.loaded, ?_, rfl⟩
  unfold M.loadAcc
  rw [M.bind_ok]
  refine ⟨s, s, rfl, ?_⟩
  rw [M.bind_ok]
  refine ⟨(), _, rfl, M.pure_ok.2 ⟨?_, ?_⟩⟩
  · unfold State.peek bytesAt
    simp only [activeKey_quiet h.shadows]
    rfl
  · have hr : s.raceOf (privAcc s o n) = none := by
      unfold State.raceOf; rw [h.detector]; rfl
    unfold State.loadAcc
    rw [hr]
    rfl

end Sys2Proof.Safety
end

