-- ==== Sys2Proof/Laws/Dispatch.lean ====
section
/-! SUPPORT. What `exec` calls, by constructor: a proof rewrites with the lemma of its instruction and never unfolds the
dispatch. -/

namespace Sys2Proof.Machine

theorem exec_add (t d a b s) : exec (.add t d a b) s = execAdd t d a b s := rfl
theorem exec_sub (t d a b s) : exec (.sub t d a b) s = execSub t d a b s := rfl
theorem exec_mul (t d a b s) : exec (.mul t d a b) s = execMul t d a b s := rfl
theorem exec_mulh (t d a b s) : exec (.mulh t d a b) s = execMulh t d a b s := rfl
theorem exec_mulhn (t d a b s) : exec (.mulhn t d a b) s = execMulhn t d a b s := rfl
theorem exec_div (t d a b s) : exec (.div t d a b) s = execDiv t d a b s := rfl
theorem exec_divn (t d a b s) : exec (.divn t d a b) s = execDivn t d a b s := rfl
theorem exec_rem (t d a b s) : exec (.rem t d a b) s = execRem t d a b s := rfl
theorem exec_remn (t d a b s) : exec (.remn t d a b) s = execRemn t d a b s := rfl
theorem exec_and (t d a b s) : exec (.and t d a b) s = execAnd t d a b s := rfl
theorem exec_or (t d a b s) : exec (.or t d a b) s = execOr t d a b s := rfl
theorem exec_xor (t d a b s) : exec (.xor t d a b) s = execXor t d a b s := rfl
theorem exec_andn (t d a b s) : exec (.andn t d a b) s = execAndn t d a b s := rfl
theorem exec_shl (t d a b s) : exec (.shl t d a b) s = execShl t d a b s := rfl
theorem exec_shr (t d a b s) : exec (.shr t d a b) s = execShr t d a b s := rfl
theorem exec_shra (t d a b s) : exec (.shra t d a b) s = execShra t d a b s := rfl
theorem exec_rotl (t d a b s) : exec (.rotl t d a b) s = execRotl t d a b s := rfl
theorem exec_min (t d a b s) : exec (.min t d a b) s = execMin t d a b s := rfl
theorem exec_max (t d a b s) : exec (.max t d a b) s = execMax t d a b s := rfl
theorem exec_minn (t d a b s) : exec (.minn t d a b) s = execMinn t d a b s := rfl
theorem exec_maxn (t d a b s) : exec (.maxn t d a b) s = execMaxn t d a b s := rfl
theorem exec_slt (t d a b s) : exec (.slt t d a b) s = execSlt t d a b s := rfl
theorem exec_sltn (t d a b s) : exec (.sltn t d a b) s = execSltn t d a b s := rfl
theorem exec_seq (t d a b s) : exec (.seq t d a b) s = execSeq t d a b s := rfl
theorem exec_clz (t d a s) : exec (.clz t d a) s = execClz t d a s := rfl
theorem exec_ctz (t d a s) : exec (.ctz t d a) s = execCtz t d a s := rfl
theorem exec_popc (t d a s) : exec (.popc t d a) s = execPopc t d a s := rfl
theorem exec_sext (t d a s) : exec (.sext t d a) s = execSext t d a s := rfl
theorem exec_zext (t d a s) : exec (.zext t d a) s = execZext t d a s := rfl
theorem exec_bfx (t d a b s) : exec (.bfx t d a b) s = execBfx t d a b s := rfl
theorem exec_bfi (t d a b s) : exec (.bfi t d a b) s = execBfi t d a b s := rfl
theorem exec_sel (t d c a b s) : exec (.sel t d c a b) s = execSel t d c a b s := rfl
theorem exec_li (d imm s) : exec (.li d imm) s = execLi d imm s := rfl
theorem exec_liLit (d v s) : exec (.liLit d v) s = execLiLit d v s := rfl
theorem exec_lih (d imm s) : exec (.lih d imm) s = execLih d imm s := rfl
theorem exec_lk (d idx s) : exec (.lk d idx) s = execLk d idx s := rfl
theorem exec_addpc (d imm s) : exec (.addpc d imm) s = execAddpc d imm s := rfl
theorem exec_fli (d imm s) : exec (.fli d imm) s = execFli d imm s := rfl
theorem exec_fadd (t d a b s) : exec (.fadd t d a b) s = execFadd t d a b s := rfl
theorem exec_fsub (t d a b s) : exec (.fsub t d a b) s = execFsub t d a b s := rfl
theorem exec_fmul (t d a b s) : exec (.fmul t d a b) s = execFmul t d a b s := rfl
theorem exec_fdiv (t d a b s) : exec (.fdiv t d a b) s = execFdiv t d a b s := rfl
theorem exec_fmin (t d a b s) : exec (.fmin t d a b) s = execFmin t d a b s := rfl
theorem exec_fmax (t d a b s) : exec (.fmax t d a b) s = execFmax t d a b s := rfl
theorem exec_fsqrt (t d a s) : exec (.fsqrt t d a) s = execFsqrt t d a s := rfl
theorem exec_feq (t d a b s) : exec (.feq t d a b) s = execFeq t d a b s := rfl
theorem exec_flt (t d a b s) : exec (.flt t d a b) s = execFlt t d a b s := rfl
theorem exec_fle (t d a b s) : exec (.fle t d a b) s = execFle t d a b s := rfl
theorem exec_fclass (t d a s) : exec (.fclass t d a) s = execFclass t d a s := rfl
theorem exec_fcvt (dst src d a s) : exec (.fcvt dst src d a) s = execFcvt dst src d a s := rfl
theorem exec_fma (t d a c b s) : exec (.fma t d a c b) s = execFma t d a c b s := rfl
theorem exec_beq (a b disp s) : exec (.beq a b disp) s = execBeq a b disp s := rfl
theorem exec_bne (a b disp s) : exec (.bne a b disp) s = execBne a b disp s := rfl
theorem exec_blt (a b disp s) : exec (.blt a b disp) s = execBlt a b disp s := rfl
theorem exec_bge (a b disp s) : exec (.bge a b disp) s = execBge a b disp s := rfl
theorem exec_bltn (a b disp s) : exec (.bltn a b disp) s = execBltn a b disp s := rfl
theorem exec_bgen (a b disp s) : exec (.bgen a b disp) s = execBgen a b disp s := rfl
theorem exec_bz (a disp s) : exec (.bz a disp) s = execBz a disp s := rfl
theorem exec_bnz (a disp s) : exec (.bnz a disp) s = execBnz a disp s := rfl
theorem exec_bltz (a disp s) : exec (.bltz a disp) s = execBltz a disp s := rfl
theorem exec_bgez (a disp s) : exec (.bgez a disp) s = execBgez a disp s := rfl
theorem exec_bgtz (a disp s) : exec (.bgtz a disp) s = execBgtz a disp s := rfl
theorem exec_blez (a disp s) : exec (.blez a disp) s = execBlez a disp s := rfl
theorem exec_j (imm s) : exec (.j imm) s = execJ imm s := rfl
theorem exec_jal (imm s) : exec (.jal imm) s = execJal imm s := rfl
theorem exec_jalr (d a imm s) : exec (.jalr d a imm) s = execJalr d a imm s := rfl
theorem exec_loop (a imm s) : exec (.loop a imm) s = execLoop a imm s := rfl
theorem exec_trap (n s) : exec (.trap n) s = execTrap n s := rfl
theorem exec_mfs (d reg s) : exec (.mfs d reg) s = execMfs d reg s := rfl
theorem exec_mfsFstat (d s) : exec (.mfsFstat d) s = execMfsFstat d s := rfl
theorem exec_mts (reg a s) : exec (.mts reg a) s = execMts reg a s := rfl
theorem exec_mtsFcr (a s) : exec (.mtsFcr a) s = execMtsFcr a s := rfl
theorem exec_mtsFstat (a s) : exec (.mtsFstat a) s = execMtsFstat a s := rfl
theorem exec_mtsSqcap (a s) : exec (.mtsSqcap a) s = execMtsSqcap a s := rfl
theorem exec_mtsTvec (a s) : exec (.mtsTvec a) s = execMtsTvec a s := rfl
theorem exec_mtsHmask (a s) : exec (.mtsHmask a) s = execMtsHmask a s := rfl
theorem exec_mtsHacc (a s) : exec (.mtsHacc a) s = execMtsHacc a s := rfl
theorem exec_mtsSlotw (a s) : exec (.mtsSlotw a) s = execMtsSlotw a s := rfl
theorem exec_mtsL2mask (a s) : exec (.mtsL2mask a) s = execMtsL2mask a s := rfl
theorem exec_bkpt (n s) : exec (.bkpt n) s = execBkpt n s := rfl
theorem exec_ld (t d a off s) : exec (.ld t d a off) s = execLd t d a off s := rfl
theorem exec_st (t d a off s) : exec (.st t d a off) s = execSt t d a off s := rfl
theorem exec_ldq (q a s) : exec (.ldq q a) s = execLdq q a s := rfl
theorem exec_stq (a q s) : exec (.stq a q) s = execStq a q s := rfl
theorem exec_sptest (d a s) : exec (.sptest d a) s = execSptest d a s := rfl
theorem exec_spcast (w d a s) : exec (.spcast w d a) s = execSpcast w d a s := rfl
theorem exec_spmake (w d a s) : exec (.spmake w d a) s = execSpmake w d a s := rfl
theorem exec_fence (kind scope s) : exec (.fence kind scope) s = execFence kind scope s := rfl
theorem exec_pref (l2 a s) : exec (.pref l2 a) s = execPref l2 a s := rfl
theorem exec_amoAdd (t d a b s) : exec (.amoAdd t d a b) s = execAmoAdd t d a b s := rfl
theorem exec_amoAnd (t d a b s) : exec (.amoAnd t d a b) s = execAmoAnd t d a b s := rfl
theorem exec_amoOr (t d a b s) : exec (.amoOr t d a b) s = execAmoOr t d a b s := rfl
theorem exec_amoXor (t d a b s) : exec (.amoXor t d a b) s = execAmoXor t d a b s := rfl
theorem exec_amoMin (t d a b s) : exec (.amoMin t d a b) s = execAmoMin t d a b s := rfl
theorem exec_amoMax (t d a b s) : exec (.amoMax t d a b) s = execAmoMax t d a b s := rfl
theorem exec_amoMinn (t d a b s) : exec (.amoMinn t d a b) s = execAmoMinn t d a b s := rfl
theorem exec_amoMaxn (t d a b s) : exec (.amoMaxn t d a b) s = execAmoMaxn t d a b s := rfl
theorem exec_amoSwap (t d a b s) : exec (.amoSwap t d a b) s = execAmoSwap t d a b s := rfl
theorem exec_amoFadd (t d a b s) : exec (.amoFadd t d a b) s = execAmoFadd t d a b s := rfl
theorem exec_amopAdd (t a b s) : exec (.amopAdd t a b) s = execAmopAdd t a b s := rfl
theorem exec_amopAnd (t a b s) : exec (.amopAnd t a b) s = execAmopAnd t a b s := rfl
theorem exec_amopOr (t a b s) : exec (.amopOr t a b) s = execAmopOr t a b s := rfl
theorem exec_amopXor (t a b s) : exec (.amopXor t a b) s = execAmopXor t a b s := rfl
theorem exec_amopMin (t a b s) : exec (.amopMin t a b) s = execAmopMin t a b s := rfl
theorem exec_amopMax (t a b s) : exec (.amopMax t a b) s = execAmopMax t a b s := rfl
theorem exec_amopMinn (t a b s) : exec (.amopMinn t a b) s = execAmopMinn t a b s := rfl
theorem exec_amopMaxn (t a b s) : exec (.amopMaxn t a b) s = execAmopMaxn t a b s := rfl
theorem exec_amopSwap (t a b s) : exec (.amopSwap t a b) s = execAmopSwap t a b s := rfl
theorem exec_amopFadd (t a b s) : exec (.amopFadd t a b) s = execAmopFadd t a b s := rfl
theorem exec_cas (t d a b c s) : exec (.cas t d a b c) s = execCas t d a b c s := rfl
theorem exec_vld (cf d a off s) : exec (.vld cf d a off) s = execVld cf d a off s := rfl
theorem exec_vst (cf d a off s) : exec (.vst cf d a off) s = execVst cf d a off s := rfl
theorem exec_vldX (t cf q d a imm s) : exec (.vldX t cf q d a imm) s = execVldX t cf q d a imm s := rfl
theorem exec_vstX (t cf q d a imm s) : exec (.vstX t cf q d a imm) s = execVstX t cf q d a imm s := rfl
theorem exec_vlds (t cf q d a b s) : exec (.vlds t cf q d a b) s = execVlds t cf q d a b s := rfl
theorem exec_vsts (t cf q d a b s) : exec (.vsts t cf q d a b) s = execVsts t cf q d a b s := rfl
theorem exec_vgath (t cf q d a b s) : exec (.vgath t cf q d a b) s = execVgath t cf q d a b s := rfl
theorem exec_vscat (t cf q d a b s) : exec (.vscat t cf q d a b) s = execVscat t cf q d a b s := rfl
theorem exec_vldb (t cf q d a view s) : exec (.vldb t cf q d a view) s = execVldb t cf q d a view s := rfl
theorem exec_vstb (t cf q d a view s) : exec (.vstb t cf q d a view) s = execVstb t cf q d a view s := rfl
theorem exec_nack (a s) : exec (.nack a) s = execNack a s := rfl
theorem exec_barinit (a b s) : exec (.barinit a b) s = execBarinit a b s := rfl
theorem exec_bararv (d a s) : exec (.bararv d a) s = execBararv d a s := rfl
theorem exec_barexp (a b s) : exec (.barexp a b) s = execBarexp a b s := rfl
theorem exec_barwait (a b s) : exec (.barwait a b) s = execBarwait a b s := rfl
theorem exec_bartry (d a b s) : exec (.bartry d a b) s = execBartry d a b s := rfl
theorem exec_copy (rlx ch a b c d s) : exec (.copy rlx ch a b c d) s = execCopy rlx ch a b c d s := rfl
theorem exec_copyb (rlx ch a view d s) : exec (.copyb rlx ch a view d) s = execCopyb rlx ch a view d s := rfl
theorem exec_notice (rlx ch a b c d s) : exec (.notice rlx ch a b c d) s = execNotice rlx ch a b c d s := rfl
theorem exec_tidwait (ch a s) : exec (.tidwait ch a) s = execTidwait ch a s := rfl
theorem exec_tidget (d ch s) : exec (.tidget d ch) s = execTidget d ch s := rfl
theorem exec_publish (idx s) : exec (.publish idx) s = execPublish idx s := rfl
theorem exec_vadd (t d a b s) : exec (.vadd t d a b) s = execVadd t d a b s := rfl
theorem exec_vsub (t d a b s) : exec (.vsub t d a b) s = execVsub t d a b s := rfl
theorem exec_vmul (t d a b s) : exec (.vmul t d a b) s = execVmul t d a b s := rfl
theorem exec_vmulh (t d a b s) : exec (.vmulh t d a b) s = execVmulh t d a b s := rfl
theorem exec_vmin (t d a b s) : exec (.vmin t d a b) s = execVmin t d a b s := rfl
theorem exec_vmax (t d a b s) : exec (.vmax t d a b) s = execVmax t d a b s := rfl
theorem exec_vabs (t d a s) : exec (.vabs t d a) s = execVabs t d a s := rfl
theorem exec_vneg (t d a s) : exec (.vneg t d a) s = execVneg t d a s := rfl
theorem exec_vand (t d a b s) : exec (.vand t d a b) s = execVand t d a b s := rfl
theorem exec_vor (t d a b s) : exec (.vor t d a b) s = execVor t d a b s := rfl
theorem exec_vxor (t d a b s) : exec (.vxor t d a b) s = execVxor t d a b s := rfl
theorem exec_vshl (t d a b s) : exec (.vshl t d a b) s = execVshl t d a b s := rfl
theorem exec_vshr (t d a b s) : exec (.vshr t d a b) s = execVshr t d a b s := rfl
theorem exec_vshra (t d a b s) : exec (.vshra t d a b) s = execVshra t d a b s := rfl
theorem exec_vsplat (t d a s) : exec (.vsplat t d a) s = execVsplat t d a s := rfl
theorem exec_vins (t d a b s) : exec (.vins t d a b) s = execVins t d a b s := rfl
theorem exec_vext (t d a b s) : exec (.vext t d a b) s = execVext t d a b s := rfl
theorem exec_vperm (t d a b s) : exec (.vperm t d a b) s = execVperm t d a b s := rfl
theorem exec_vzip (t d a b s) : exec (.vzip t d a b) s = execVzip t d a b s := rfl
theorem exec_vredadd (t d a s) : exec (.vredadd t d a) s = execVredadd t d a s := rfl
theorem exec_vredmax (t d a s) : exec (.vredmax t d a) s = execVredmax t d a s := rfl
theorem exec_vredmin (t d a s) : exec (.vredmin t d a) s = execVredmin t d a s := rfl
theorem exec_vdot (t d a b s) : exec (.vdot t d a b) s = execVdot t d a b s := rfl
theorem exec_vcvt (dst src d a s) : exec (.vcvt dst src d a) s = execVcvt dst src d a s := rfl
theorem exec_vnarrow (t d a s) : exec (.vnarrow t d a) s = execVnarrow t d a s := rfl
theorem exec_vwiden (t d a s) : exec (.vwiden t d a) s = execVwiden t d a s := rfl
theorem exec_vlut (t d a b s) : exec (.vlut t d a b) s = execVlut t d a b s := rfl
theorem exec_vcomp (t d a b s) : exec (.vcomp t d a b) s = execVcomp t d a b s := rfl
theorem exec_vexpnd (t d a b s) : exec (.vexpnd t d a b) s = execVexpnd t d a b s := rfl
theorem exec_vtopk (t d a b s) : exec (.vtopk t d a b) s = execVtopk t d a b s := rfl
theorem exec_mand (d a b s) : exec (.mand d a b) s = execMand d a b s := rfl
theorem exec_mor (d a b s) : exec (.mor d a b) s = execMor d a b s := rfl
theorem exec_mnot (d a s) : exec (.mnot d a) s = execMnot d a s := rfl
theorem exec_mpopc (d a s) : exec (.mpopc d a) s = execMpopc d a s := rfl
theorem exec_vaddX (t sat q d a b s) : exec (.vaddX t sat q d a b) s = execVaddX t sat q d a b s := rfl
theorem exec_vsubX (t sat q d a b s) : exec (.vsubX t sat q d a b) s = execVsubX t sat q d a b s := rfl
theorem exec_vmulX (t sat q d a b s) : exec (.vmulX t sat q d a b) s = execVmulX t sat q d a b s := rfl
theorem exec_vmulhX (t q d a b s) : exec (.vmulhX t q d a b) s = execVmulhX t q d a b s := rfl
theorem exec_vminX (t q d a b s) : exec (.vminX t q d a b) s = execVminX t q d a b s := rfl
theorem exec_vmaxX (t q d a b s) : exec (.vmaxX t q d a b) s = execVmaxX t q d a b s := rfl
theorem exec_vabsX (t q d a s) : exec (.vabsX t q d a) s = execVabsX t q d a s := rfl
theorem exec_vnegX (t q d a s) : exec (.vnegX t q d a) s = execVnegX t q d a s := rfl
theorem exec_vandX (t q d a b s) : exec (.vandX t q d a b) s = execVandX t q d a b s := rfl
theorem exec_vorX (t q d a b s) : exec (.vorX t q d a b) s = execVorX t q d a b s := rfl
theorem exec_vxorX (t q d a b s) : exec (.vxorX t q d a b) s = execVxorX t q d a b s := rfl
theorem exec_vshlX (t sat q d a b s) : exec (.vshlX t sat q d a b) s = execVshlX t sat q d a b s := rfl
theorem exec_vshrX (t q d a b s) : exec (.vshrX t q d a b) s = execVshrX t q d a b s := rfl
theorem exec_vshraX (t q d a b s) : exec (.vshraX t q d a b) s = execVshraX t q d a b s := rfl
theorem exec_vfma (t q d a c b s) : exec (.vfma t q d a c b) s = execVfma t q d a c b s := rfl
theorem exec_vcmp (cc t q d a b s) : exec (.vcmp cc t q d a b) s = execVcmp cc t q d a b s := rfl
theorem exec_vsel (t mask d a b s) : exec (.vsel t mask d a b) s = execVsel t mask d a b s := rfl
theorem exec_vsplatX (t q d a s) : exec (.vsplatX t q d a) s = execVsplatX t q d a s := rfl
theorem exec_vinsX (t q d a b s) : exec (.vinsX t q d a b) s = execVinsX t q d a b s := rfl
theorem exec_vextX (t mask d a b s) : exec (.vextX t mask d a b) s = execVextX t mask d a b s := rfl
theorem exec_vpermX (t q d a b s) : exec (.vpermX t q d a b) s = execVpermX t q d a b s := rfl
theorem exec_vzipX (h t q d a b s) : exec (.vzipX h t q d a b) s = execVzipX h t q d a b s := rfl
theorem exec_vredaddX (t mask d a s) : exec (.vredaddX t mask d a) s = execVredaddX t mask d a s := rfl
theorem exec_vredmaxX (t mask d a s) : exec (.vredmaxX t mask d a) s = execVredmaxX t mask d a s := rfl
theorem exec_vredminX (t mask d a s) : exec (.vredminX t mask d a) s = execVredminX t mask d a s := rfl
theorem exec_vdotX (t q d a b s) : exec (.vdotX t q d a b) s = execVdotX t q d a b s := rfl
theorem exec_vcvtX (dst src q d a s) : exec (.vcvtX dst src q d a) s = execVcvtX dst src q d a s := rfl
theorem exec_vnarrowX (t sat hi q d a s) : exec (.vnarrowX t sat hi q d a) s = execVnarrowX t sat hi q d a s := rfl
theorem exec_vwidenX (t hi q d a s) : exec (.vwidenX t hi q d a) s = execVwidenX t hi q d a s := rfl
theorem exec_vlutX (t g q d a b s) : exec (.vlutX t g q d a b) s = execVlutX t g q d a b s := rfl
theorem exec_vcompX (t mask d a b e s) : exec (.vcompX t mask d a b e) s = execVcompX t mask d a b e s := rfl
theorem exec_vexpndX (t mask d a b e s) : exec (.vexpndX t mask d a b e) s = execVexpndX t mask d a b e s := rfl
theorem exec_vtopkX (t list mask d a b e s) : exec (.vtopkX t list mask d a b e) s = execVtopkX t list mask d a b e s := rfl
theorem exec_mandX (q d a b s) : exec (.mandX q d a b) s = execMandX q d a b s := rfl
theorem exec_morX (q d a b s) : exec (.morX q d a b) s = execMorX q d a b s := rfl
theorem exec_mnotX (q d a s) : exec (.mnotX q d a) s = execMnotX q d a s := rfl
theorem exec_mpopcX (mask d a s) : exec (.mpopcX mask d a) s = execMpopcX mask d a s := rfl
theorem exec_vaccs (t q d ch s) : exec (.vaccs t q d ch) s = execVaccs t q d ch s := rfl
theorem exec_acq (d n s) : exec (.acq d n) s = execAcq d n s := rfl
theorem exec_rel (a n s) : exec (.rel a n) s = execRel a n s := rfl
theorem exec_mshape (a slot_ s) : exec (.mshape a slot_) s = execMshape a slot_ s := rfl
theorem exec_mzero (a n s) : exec (.mzero a n) s = execMzero a n s := rfl
theorem exec_mcbl (view s) : exec (.mcbl view) s = execMcbl view s := rfl
theorem exec_mwld (fmt rlx view s) : exec (.mwld fmt rlx view) s = execMwld fmt rlx view s := rfl
theorem exec_mcfg (f s) : exec (.mcfg f) s = execMcfg f s := rfl
theorem exec_mmul (rlx a src s) : exec (.mmul rlx a src) s = execMmul rlx a src s := rfl
theorem exec_mmuls (a ch m s) : exec (.mmuls a ch m) s = execMmuls a ch m s := rfl
theorem exec_mdrain (t rlx a view d c s) : exec (.mdrain t rlx a view d c) s = execMdrain t rlx a view d c s := rfl
theorem exec_mrd (d a g s) : exec (.mrd d a g) s = execMrd d a g s := rfl
theorem exec_mwr (a b g s) : exec (.mwr a b g) s = execMwr a b g s := rfl
theorem exec_msplit (t s) : exec (.msplit t) s = execMsplit t s := rfl
theorem exec_fork (a b s) : exec (.fork a b) s = execFork a b s := rfl
theorem exec_qput (x q b s) : exec (.qput x q b) s = execQput x q b s := rfl
theorem exec_qget (x d q s) : exec (.qget x d q) s = execQget x d q s := rfl
theorem exec_qtry (x d q b s) : exec (.qtry x d q b) s = execQtry x d q b s := rfl
theorem exec_msgrd (x d a s) : exec (.msgrd x d a) s = execMsgrd x d a s := rfl
theorem exec_migrate (a s) : exec (.migrate a) s = execMigrate a s := rfl
theorem exec_send (rlx ch a b s) : exec (.send rlx ch a b) s = execSend rlx ch a b s := rfl
theorem exec_sendb (rlx ch a b c s) : exec (.sendb rlx ch a b c) s = execSendb rlx ch a b c s := rfl
theorem exec_hset (ch a f s) : exec (.hset ch a f) s = execHset ch a f s := rfl
theorem exec_join (d idx s) : exec (.join d idx) s = execJoin d idx s := rfl
theorem exec_leave (idx s) : exec (.leave idx) s = execLeave idx s := rfl
theorem exec_gbar (idx s) : exec (.gbar idx) s = execGbar idx s := rfl
theorem exec_put (d idx a s) : exec (.put d idx a) s = execPut d idx a s := rfl
theorem exec_get (d e idx s) : exec (.get d e idx) s = execGet d e idx s := rfl
theorem exec_putnb (idx a s) : exec (.putnb idx a) s = execPutnb idx a s := rfl
theorem exec_getnb (idx s) : exec (.getnb idx) s = execGetnb idx s := rfl
theorem exec_pwait (d e idx s) : exec (.pwait d e idx) s = execPwait d e idx s := rfl
theorem exec_pwdraw (d idx s) : exec (.pwdraw d idx) s = execPwdraw d idx s := rfl
theorem exec_emit (idx a s) : exec (.emit idx a) s = execEmit idx a s := rfl
theorem exec_sigtst (d idx s) : exec (.sigtst d idx) s = execSigtst d idx s := rfl
theorem exec_bsig (abs idx disp s) : exec (.bsig abs idx disp) s = execBsig abs idx disp s := rfl
theorem exec_retract (idx s) : exec (.retract idx) s = execRetract idx s := rfl
theorem exec_zrd (d a s) : exec (.zrd d a) s = execZrd d a s := rfl
theorem exec_zwr (d a s) : exec (.zwr d a) s = execZwr d a s := rfl
theorem exec_sigpre (d idx s) : exec (.sigpre d idx) s = execSigpre d idx s := rfl
theorem exec_gwopen (d a b s) : exec (.gwopen d a b) s = execGwopen d a b s := rfl
theorem exec_gwstat (d s) : exec (.gwstat d) s = execGwstat d s := rfl
theorem exec_tqpush (a s) : exec (.tqpush a) s = execTqpush a s := rfl
theorem exec_tqtake (d e s) : exec (.tqtake d e) s = execTqtake d e s := rfl
theorem exec_tqsteal (d e a s) : exec (.tqsteal d e a) s = execTqsteal d e a s := rfl
theorem exec_tqdone (a s) : exec (.tqdone a) s = execTqdone a s := rfl
theorem exec_stragrd (d a f s) : exec (.stragrd d a f) s = execStragrd d a f s := rfl
theorem exec_eret (s) : exec .eret s = execEret s := rfl
theorem exec_synci (s) : exec .synci s = execSynci s := rfl
theorem exec_rdv (s) : exec .rdv s = execRdv s := rfl
theorem exec_endHelper (s) : exec .endHelper s = execEndHelper s := rfl
theorem exec_msgdone (s) : exec .msgdone s = execMsgdone s := rfl
theorem exec_yieldSlot (s) : exec .yieldSlot s = execYieldSlot s := rfl
theorem exec_exit (s) : exec .exit s = execExit s := rfl
theorem exec_waitdep (s) : exec .waitdep s = execWaitdep s := rfl
theorem exec_trigger (s) : exec .trigger s = execTrigger s := rfl
theorem exec_pause (s) : exec .pause s = execPause s := rfl
theorem exec_gwdetach (s) : exec .gwdetach s = execGwdetach s := rfl
theorem exec_blockConditionMet (k s) : exec (.blockConditionMet k) s = execBlockConditionMet k s := rfl
theorem exec_helperTrapDelivery (k s) : exec (.helperTrapDelivery k) s = execHelperTrapDelivery k s := rfl
theorem exec_slotwTableBoundary (key s) : exec (.slotwTableBoundary key) s = execSlotwTableBoundary key s := rfl
theorem exec_messageAdmit (core k s) : exec (.messageAdmit core k) s = execMessageAdmit core k s := rfl
theorem exec_pressureNotice (k s) : exec (.pressureNotice k) s = execPressureNotice k s := rfl
theorem exec_handlerSelect (key s) : exec (.handlerSelect key) s = execHandlerSelect key s := rfl
theorem exec_noticeArrival (k s) : exec (.noticeArrival k) s = execNoticeArrival k s := rfl
theorem exec_noticeRetry (k s) : exec (.noticeRetry k) s = execNoticeRetry k s := rfl
theorem exec_nackArrival (k s) : exec (.nackArrival k) s = execNackArrival k s := rfl
theorem exec_streamerSegment (k s) : exec (.streamerSegment k) s = execStreamerSegment k s := rfl
theorem exec_sectorWrite (k s) : exec (.sectorWrite k) s = execSectorWrite k s := rfl
theorem exec_segmentComplete (k s) : exec (.segmentComplete k) s = execSegmentComplete k s := rfl
theorem exec_completionDecrement (k s) : exec (.completionDecrement k) s = execCompletionDecrement k s := rfl
theorem exec_publishSwap (k s) : exec (.publishSwap k) s = execPublishSwap k s := rfl
theorem exec_matrixOpStart (core tenant s) : exec (.matrixOpStart core tenant) s = execMatrixOpStart core tenant s := rfl
theorem exec_matrixRowEntry (core tenant s) : exec (.matrixRowEntry core tenant) s = execMatrixRowEntry core tenant s := rfl
theorem exec_matrixStallYield (core tenant s) : exec (.matrixStallYield core tenant) s = execMatrixStallYield core tenant s := rfl
theorem exec_matrixOpComplete (core tenant s) : exec (.matrixOpComplete core tenant) s = execMatrixOpComplete core tenant s := rfl
theorem exec_bankClearDone (core bank s) : exec (.bankClearDone core bank) s = execBankClearDone core bank s := rfl
theorem exec_tileFetchRead (core tenant s) : exec (.tileFetchRead core tenant) s = execTileFetchRead core tenant s := rfl
theorem exec_pageWalk (core vf va s) : exec (.pageWalk core vf va) s = execPageWalk core vf va s := rfl
theorem exec_peerAccessRequest (k s) : exec (.peerAccessRequest k) s = execPeerAccessRequest k s := rfl
theorem exec_keepWaitingSend (k s) : exec (.keepWaitingSend k) s = execKeepWaitingSend k s := rfl
theorem exec_keepWaitingArrival (k s) : exec (.keepWaitingArrival k) s = execKeepWaitingArrival k s := rfl
theorem exec_faultQueueRetry (k s) : exec (.faultQueueRetry k) s = execFaultQueueRetry k s := rfl
theorem exec_remoteTimeout (k s) : exec (.remoteTimeout k) s = execRemoteTimeout k s := rfl
theorem exec_parkRefusal (k s) : exec (.parkRefusal k) s = execParkRefusal k s := rfl
theorem exec_remoteCancel (k s) : exec (.remoteCancel k) s = execRemoteCancel k s := rfl
theorem exec_remoteReply (k s) : exec (.remoteReply k) s = execRemoteReply k s := rfl
theorem exec_apertureProbe (pkg vf aper ops fmts rev ok s) : exec (.apertureProbe pkg vf aper ops fmts rev ok) s = execApertureProbe pkg vf aper ops fmts rev ok s := rfl
theorem exec_amopNotsup (k s) : exec (.amopNotsup k) s = execAmopNotsup k s := rfl
theorem exec_timestampRebase (pkg s) : exec (.timestampRebase pkg) s = execTimestampRebase pkg s := rfl
theorem exec_scrubPkg (pkg s) : exec (.scrubPkg pkg) s = execScrubPkg pkg s := rfl
theorem exec_uncorrectableError (where_ unit s) : exec (.uncorrectableError where_ unit) s = execUncorrectableError where_ unit s := rfl
theorem exec_gbarArrival (k s) : exec (.gbarArrival k) s = execGbarArrival k s := rfl
theorem exec_gbarRelease (k s) : exec (.gbarRelease k) s = execGbarRelease k s := rfl
theorem exec_windowOpen (k s) : exec (.windowOpen k) s = execWindowOpen k s := rfl
theorem exec_memberDepart (k s) : exec (.memberDepart k) s = execMemberDepart k s := rfl
theorem exec_stealDecision (k s) : exec (.stealDecision k) s = execStealDecision k s := rfl
theorem exec_stealReply (k s) : exec (.stealReply k) s = execStealReply k s := rfl
theorem exec_tqdoneArrival (k s) : exec (.tqdoneArrival k) s = execTqdoneArrival k s := rfl
theorem exec_stragrdReply (k s) : exec (.stragrdReply k) s = execStragrdReply k s := rfl
theorem exec_migrateArrival (k s) : exec (.migrateArrival k) s = execMigrateArrival k s := rfl
theorem exec_offerArrival (k s) : exec (.offerArrival k) s = execOfferArrival k s := rfl
theorem exec_withdrawalArrival (k s) : exec (.withdrawalArrival k) s = execWithdrawalArrival k s := rfl
theorem exec_connectorEvaluation (pillow conn s) : exec (.connectorEvaluation pillow conn) s = execConnectorEvaluation pillow conn s := rfl
theorem exec_clockedEvaluation (pillow conn s) : exec (.clockedEvaluation pillow conn) s = execClockedEvaluation pillow conn s := rfl
theorem exec_portResultArrival (k s) : exec (.portResultArrival k) s = execPortResultArrival k s := rfl
theorem exec_emitReport (k s) : exec (.emitReport k) s = execEmitReport k s := rfl
theorem exec_retractReport (k s) : exec (.retractReport k) s = execRetractReport k s := rfl
theorem exec_pauseReport (k s) : exec (.pauseReport k) s = execPauseReport k s := rfl
theorem exec_leaveReport (k s) : exec (.leaveReport k) s = execLeaveReport k s := rfl
theorem exec_blockReport (k s) : exec (.blockReport k) s = execBlockReport k s := rfl
theorem exec_unblockReport (k s) : exec (.unblockReport k) s = execUnblockReport k s := rfl
theorem exec_resolutionArrival (k s) : exec (.resolutionArrival k) s = execResolutionArrival k s := rfl
theorem exec_causalityCycle (key s) : exec (.causalityCycle key) s = execCausalityCycle key s := rfl
theorem exec_causeArrival (k s) : exec (.causeArrival k) s = execCauseArrival k s := rfl
theorem exec_instantEnd (key s) : exec (.instantEnd key) s = execInstantEnd key s := rfl
theorem exec_resumptionArrival (k s) : exec (.resumptionArrival k) s = execResumptionArrival k s := rfl
theorem exec_launchSelect (pkg s) : exec (.launchSelect pkg) s = execLaunchSelect pkg s := rfl
theorem exec_strandPlace (core slot s) : exec (.strandPlace core slot) s = execStrandPlace core slot s := rfl
theorem exec_graphNodeTest (graph node s) : exec (.graphNodeTest graph node) s = execGraphNodeTest graph node s := rfl
theorem exec_launchComplete (uid s) : exec (.launchComplete uid) s = execLaunchComplete uid s := rfl
theorem exec_eventRetransmit (k s) : exec (.eventRetransmit k) s = execEventRetransmit k s := rfl
theorem exec_eventAck (tag s) : exec (.eventAck tag) s = execEventAck tag s := rfl
theorem exec_eviction (key s) : exec (.eviction key) s = execEviction key s := rfl
theorem exec_restore (key s) : exec (.restore key) s = execRestore key s := rfl
theorem exec_quarantine (core unit s) : exec (.quarantine core unit) s = execQuarantine core unit s := rfl
theorem exec_rollback (core s) : exec (.rollback core) s = execRollback core s := rfl
theorem exec_egressRelease (core s) : exec (.egressRelease core) s = execEgressRelease core s := rfl
theorem exec_checkpointAdvance (core s) : exec (.checkpointAdvance core) s = execCheckpointAdvance core s := rfl
theorem exec_linkReplay (link s) : exec (.linkReplay link) s = execLinkReplay link s := rfl
theorem exec_creditOnlyFlit (link s) : exec (.creditOnlyFlit link) s = execCreditOnlyFlit link s := rfl
theorem exec_syncFlit (link s) : exec (.syncFlit link) s = execSyncFlit link s := rfl
theorem exec_linkRetrain (link s) : exec (.linkRetrain link) s = execLinkRetrain link s := rfl
theorem exec_torusFlitArrival (pkg s) : exec (.torusFlitArrival pkg) s = execTorusFlitArrival pkg s := rfl
theorem exec_slotTableSwitch (conn s) : exec (.slotTableSwitch conn) s = execSlotTableSwitch conn s := rfl
theorem exec_streamIngress (graph data s) : exec (.streamIngress graph data) s = execStreamIngress graph data s := rfl
theorem exec_reduceMsg (graph node s) : exec (.reduceMsg graph node) s = execReduceMsg graph node s := rfl
theorem exec_convert (graph node s) : exec (.convert graph node) s = execConvert graph node s := rfl
theorem exec_compress (graph node s) : exec (.compress graph node) s = execCompress graph node s := rfl
theorem exec_inflate (graph node s) : exec (.inflate graph node) s = execInflate graph node s := rfl
theorem exec_transcode (graph node s) : exec (.transcode graph node) s = execTranscode graph node s := rfl
theorem exec_tokenise (graph node s) : exec (.tokenise graph node) s = execTokenise graph node s := rfl
theorem exec_filterMsg (graph node s) : exec (.filterMsg graph node) s = execFilterMsg graph node s := rfl
theorem exec_splitMsg (graph node s) : exec (.splitMsg graph node) s = execSplitMsg graph node s := rfl
theorem exec_seqjoin (graph node s) : exec (.seqjoin graph node) s = execSeqjoin graph node s := rfl
theorem exec_replicate (graph node s) : exec (.replicate graph node) s = execReplicate graph node s := rfl
theorem exec_checksum (graph node s) : exec (.checksum graph node) s = execChecksum graph node s := rfl
theorem exec_repack (graph node s) : exec (.repack graph node) s = execRepack graph node s := rfl
theorem exec_sinkCommit (graph node s) : exec (.sinkCommit graph node) s = execSinkCommit graph node s := rfl
theorem exec_powerOn (pkg s) : exec (.powerOn pkg) s = execPowerOn pkg s := rfl
theorem exec_fwload (dg s) : exec (.fwload dg) s = execFwload dg s := rfl
theorem exec_imageLoad (dg s) : exec (.imageLoad dg) s = execImageLoad dg s := rfl
theorem exec_submit (dg s) : exec (.submit dg) s = execSubmit dg s := rfl
theorem exec_attest (dg s) : exec (.attest dg) s = execAttest dg s := rfl
theorem exec_partrpt (dg s) : exec (.partrpt dg) s = execPartrpt dg s := rfl
theorem exec_resetvf (dg s) : exec (.resetvf dg) s = execResetvf dg s := rfl
theorem exec_qos (dg s) : exec (.qos dg) s = execQos dg s := rfl
theorem exec_slotCmd (dg s) : exec (.slotCmd dg) s = execSlotCmd dg s := rfl
theorem exec_aperWrite (dg s) : exec (.aperWrite dg) s = execAperWrite dg s := rfl
theorem exec_ptbase (dg s) : exec (.ptbase dg) s = execPtbase dg s := rfl
theorem exec_invalidOp (dg s) : exec (.invalidOp dg) s = execInvalidOp dg s := rfl
theorem exec_thermalThrottle (pkg rate s) : exec (.thermalThrottle pkg rate) s = execThermalThrottle pkg rate s := rfl
theorem exec_thermalShutdown (pkg s) : exec (.thermalShutdown pkg) s = execThermalShutdown pkg s := rfl
theorem exec_illop (pos w0 unmarked s) : exec (.illop pos w0 unmarked) s = execIllop pos w0 unmarked s := rfl
theorem exec_fetchFailure (code eaddr einfo s) : exec (.fetchFailure code eaddr einfo) s = execFetchFailure code eaddr einfo s := rfl
theorem exec_malformedDatagram (dg s) : exec (.malformedDatagram dg) s = execMalformedDatagram dg s := rfl
theorem exec_rdmaWrite (conn va data s) : exec (.rdmaWrite conn va data) s = execRdmaWrite conn va data s := rfl
theorem exec_rdmaRead (conn va len s) : exec (.rdmaRead conn va len) s = execRdmaRead conn va len s := rfl
theorem exec_streamGraphLoad (vf data s) : exec (.streamGraphLoad vf data) s = execStreamGraphLoad vf data s := rfl
theorem exec_apertureInvalidate (target s) : exec (.apertureInvalidate target) s = execApertureInvalidate target s := rfl

end Sys2Proof.Machine
end

