-- ==== Sys2Proof/Laws/Fetch.lean ====
section
/-! SUPPORT. A translation and the check of a branch target change no more than a leaf's marks and an aperture's record. -/

namespace Sys2Proof.Safety

open Sys2Proof.Machine

theorem aperture_keeps {pkg vf aper : Nat} {va : W64} {s u : State} {e : BitVec 128}
    (h : M.aperture pkg vf aper va s = .ok e u) : u = { s with vfs := u.vfs } := by
  unfold M.aperture at h
  obtain ⟨a, t, h1, h⟩ := M.bind_ok.1 h
  obtain ⟨rfl, rfl⟩ := M.get_ok.1 h1
  simp only [] at h
  split at h
  · exact absurd h (fun h => (M.throw_ok.1 h))
  · split at h
    · rw [(M.pure_ok.1 h).2]
    · split at h
      · obtain ⟨_, t, h1, h⟩ := M.bind_ok.1 h
        rw [← (M.pure_ok.1 h).2, ← M.modify_ok.1 h1]; rfl
      · split at h
        · obtain ⟨_, t, h1, h⟩ := M.bind_ok.1 h
          rw [← (M.pure_ok.1 h).2, ← M.modify_ok.1 h1]; rfl
        · exact absurd h (fun h => (M.throw_ok.1 h))

/-- A byte of memory after a leaf's marks are set. -/
theorem markLeaf_mem (s : State) (pkg : Nat) (f : Leaf) (w : Bool) (k : Nat) :
    Memory.get (s.markLeaf pkg f w).mem k = Memory.get s.mem k ∨ (k = dramKey pkg f.pa ∧
      (Memory.get (s.markLeaf pkg f w).mem k = Memory.get s.mem k ||| 0x20 ∨ Memory.get (s.markLeaf pkg f w).mem k = Memory.get s.mem k ||| 0x60)) := by
  have hv : Memory.get s.mem (dramKey pkg f.pa) ||| 0x20 ||| (if w then 0x40 else 0) ≠ 0 := by
    intro h
    have := congrArg (fun b : Byte => b.getLsbD 5) h
    cases w <;> simp at this
  show Memory.get (Memory.put s.mem _ _) k = _ ∨ _ ∧ (Memory.get (Memory.put s.mem _ _) k = _ ∨ Memory.get (Memory.put s.mem _ _) k = _)
  rw [Memory.get_put_ne _ _ _ hv]
  split
  · rename_i h
    subst h
    refine .inr ⟨rfl, ?_⟩
    cases w
    · exact .inl BitVec.or_zero
    · exact .inr (BitVec.or_assoc _ 0x20#8 0x40#8)
  · exact .inl rfl

theorem useLeaf_walks (s : State) (va : Nat) (f : Leaf) (w : Bool) (vfs)
    (hw : s.walkAt s.me.place.gcore s.myLaunch.vf va = .ok f) :
    WalkOnly s { s.useLeaf s.me.place.gcore s.myLaunch.vf va f w with vfs := vfs } := by
  unfold State.useLeaf
  split
  · exact ⟨rfl, fun _ => .inl rfl⟩
  · refine ⟨rfl, fun k => ?_⟩
    rcases markLeaf_mem s (s.me.place.gcore / 2048) f w k with h | ⟨hk, h⟩
    · exact .inl h
    · exact .inr ⟨va, f, hw, hk, h⟩

theorem translateAt_walk {s : State} {g vf va : Nat} {lv : Level} {n : Need} {f : Leaf}
    (h : s.translateAt g vf lv va n = .ok f) : s.walkAt g vf va = .ok f := by
  unfold State.translateAt at h
  split at h
  · cases h
  · rename_i x hx
    split at h
    · cases h
    · split at h
      · cases h
      · cases h; exact hx

theorem global_walks {lv : Level} {va n : Nat} {need : Need} {s u : State} {t : Target}
    (h : M.global lv va n need s = .ok t u) : WalkOnly s u := by
  unfold M.global at h
  obtain ⟨a, s', h1, h⟩ := M.bind_ok.1 h
  obtain ⟨rfl, rfl⟩ := M.get_ok.1 h1
  obtain ⟨f, s', h1, h⟩ := M.bind_ok.1 h
  obtain ⟨hf, rfl⟩ := M.check_ok.1 h1
  obtain ⟨_, s', h1, h⟩ := M.bind_ok.1 h
  have hs := M.set_ok.1 h1
  subst hs
  have hw := translateAt_walk hf
  have he : (s.useLeaf s.me.place.gcore s.myLaunch.vf va f need.w).vfs = s.vfs := by unfold State.useLeaf; split <;> rfl
  split at h
  · rw [← (M.pure_ok.1 h).2]
    have hu := useLeaf_walks s va f need.w s.vfs hw
    rwa [← he] at hu
  · obtain ⟨e, s', h1, h⟩ := M.bind_ok.1 h
    rw [← (M.pure_ok.1 h).2, aperture_keeps h1]
    exact useLeaf_walks s va f need.w _ hw

/-- A request that goes through has been answered before: nothing changes. -/
theorem request_ok {i : Nat} {w : Wait} {posts : Nat → State → State} {s u : State} {ws : List W64}
    (h : M.request i w posts s = .ok ws u) : u = s := by
  unfold M.request at h
  obtain ⟨a, s', h1, h⟩ := M.bind_ok.1 h
  obtain ⟨rfl, rfl⟩ := M.get_ok.1 h1
  cases hg : s.myPend.got[i]? with
  | some a =>
    simp only [hg] at h
    cases a with
    | ok v => exact (M.pure_ok.1 h).2.symm
    | trap c a e => exact (M.throw_ok.1 h).elim
    | cancelled => exact (M.pure_ok.1 h).2.symm
    | place k ls => exact (M.pure_ok.1 h).2.symm
  | none =>
    simp only [hg] at h
    split at h
    · exact (M.throw_ok.1 h).elim
    · unfold M.post at h
      obtain ⟨_, _, _, h⟩ := M.bind_ok.1 h
      obtain ⟨_, _, _, h⟩ := M.bind_ok.1 h
      exact (M.throw_ok.1 h).elim

theorem atPc_request_ok {p : W64} {i : Nat} {w : Wait} {posts : Nat → State → State} {s u : State} {ws : List W64}
    (h : M.atPc p (M.request i w posts) s = .ok ws u) : u = s := by
  unfold M.atPc at h
  cases hr : M.request i w posts (s.setPc p) with
  | ok a t =>
    rw [hr] at h
    cases h
    rw [request_ok hr]
    rfl
  | error e t => rw [hr] at h; cases h

theorem fetchBytes_walks {va n what : Nat} {need : Need} {s u : State} {bs : List Byte}
    (h : M.fetchBytes va n need what s = .ok bs u) : WalkOnly s u := by
  unfold M.fetchBytes at h
  obtain ⟨a, s', h1, h⟩ := M.bind_ok.1 h
  obtain ⟨rfl, rfl⟩ := M.get_ok.1 h1
  obtain ⟨t, s1, h1, h⟩ := M.bind_ok.1 h
  have hw := global_walks h1
  have near (t : Target) (h : (do
      let s ← get
      let k := (t.acc?.map (·.key)).getD 0
      M.trapIf (s.poisoned k n) (Trap.poison (BitVec.ofNat 64 va) (s.poisonUnit k n))
      pure (s.codeBytes k n what) : M (List Byte)) s1 = .ok bs u) : WalkOnly s u := by
    obtain ⟨a, s', h2, h⟩ := M.bind_ok.1 h
    obtain ⟨rfl, rfl⟩ := M.get_ok.1 h2
    obtain ⟨_, s', h2, h⟩ := M.bind_ok.1 h
    obtain ⟨-, rfl⟩ := M.trapIf_ok.1 h2
    rw [← (M.pure_ok.1 h).2]; exact hw
  cases t with
  | mem a => exact near _ h
  | gang a => exact near _ h
  | far f =>
    obtain ⟨_, s', h2, h⟩ := M.bind_ok.1 h
    rw [← (M.pure_ok.1 h).2, atPc_request_ok h2]; exact hw

theorem bitmapBit_walks {pc : W64} {s u : State} {b : Bool} (h : M.bitmapBit pc s = .ok b u) : WalkOnly s u := by
  unfold M.bitmapBit at h
  obtain ⟨a, s', h1, h⟩ := M.bind_ok.1 h
  obtain ⟨rfl, rfl⟩ := M.get_ok.1 h1
  cases hf : M.fetchBytes (bitmapVa pc) 1 .load (2 ^ 80 + pc.toNat) s with
  | ok bs t =>
    rw [hf] at h
    obtain ⟨_, s', h2, h⟩ := M.bind_ok.1 h
    have := M.set_ok.1 h2; subst this
    rw [← (M.pure_ok.1 h).2]
    exact fetchBytes_walks hf
  | error e t =>
    rw [hf] at h
    cases e with
    | trap t => dsimp only at h; split at h <;> exact absurd h (fun h => (M.throw_ok.1 h))
    | block w =>
      obtain ⟨_, s', h2, h⟩ := M.bind_ok.1 h
      exact absurd h (fun h => (M.throw_ok.1 h))

theorem target_ok {T : W64} {s u : State} (h : Gives (M.target T) s () u) :
    T.toNat % 4 = 0 ∧ T.toNat < 2 ^ 54 ∧ Gives (M.bitmapBit T) s true u := by
  unfold Gives M.target at h
  obtain ⟨_, s', h1, h⟩ := M.bind_ok.1 h
  obtain ⟨hc, rfl⟩ := M.trapIf_ok.1 h1
  obtain ⟨b, s', h1, h⟩ := M.bind_ok.1 h
  obtain ⟨hb, rfl⟩ := M.trapIf_ok.1 h
  rw [Bool.or_eq_false_iff] at hc
  unfold codeAddr at hc
  cases b
  · cases hb
  · exact ⟨by simpa using hc.1, by simpa using hc.2, h1⟩

theorem target_walks {T : W64} {s u : State} (h : Gives (M.target T) s () u) : WalkOnly s u :=
  bitmapBit_walks (target_ok h).2.2

end Sys2Proof.Safety
end

