-- ==== Sys2Proof/Laws/Keep.lean ====
section
/-! SUPPORT. Every operation that writes memory keeps its canonical form, and what a write of bytes leaves elsewhere. -/

namespace Sys2Proof.Machine

/-- The machine's memory after reset is in the canonical form. -/
theorem reset_mem_wf : Memory.wf State.reset.mem = true := rfl

theorem State.markLeaf_wf (s : State) (pkg : Nat) (f : Leaf) (w : Bool) (h : Memory.wf s.mem = true) : Memory.wf (s.markLeaf pkg f w).mem = true :=
  Memory.put_wf _ _ _ h

theorem State.poke_wf (s : State) (k : Nat) (bs : List Byte) (h : Memory.wf s.mem = true) : Memory.wf (s.poke k bs).mem = true :=
  Memory.foldl_wf _ (fun _ _ => Memory.put_wf _ _ _) _ _ h

theorem State.clearRange_wf (s : State) (k n : Nat) (h : Memory.wf s.mem = true) : Memory.wf (s.clearRange k n).mem = true :=
  Memory.filter_wf _ _ h

theorem State.clearAll_wf (s : State) (pkg : Nat) (h : Memory.wf s.mem = true) : Memory.wf (s.clearAll pkg).mem = true :=
  Memory.filter_wf _ _ h

theorem State.modLock_mem (s : State) (g : Nat) (f : LockStep → LockStep) : (s.modLock g f).mem = s.mem := by
  unfold State.modLock
  split <;> rfl

theorem State.rollTo_wf (s : State) (g : Nat) (l : LockStep) (h : Memory.wf s.mem = true) : Memory.wf (s.rollTo g l).mem = true := by
  unfold State.rollTo
  rw [State.modLock_mem]
  exact Memory.foldl_wf _ (fun _ _ => Memory.put_wf _ _ _) _ _ h

theorem State.sendPacket_mem (s : State) (p : Packet) : (s.sendPacket p).mem = s.mem := by
  rfl

theorem State.send_mem (s : State) (vn : VNet) (src dst : Nat) (b : Body) : (s.send vn src dst b).mem = s.mem := State.sendPacket_mem _ _

theorem State.sendAfter_mem (s : State) (vn : VNet) (src dst : Nat) (i : Sid) (b : Body) : (s.sendAfter vn src dst i b).mem = s.mem :=
  State.sendPacket_mem _ _

theorem State.foldl_mem {α : Type} (f : State → α → State) (hf : ∀ s a, (f s a).mem = s.mem) (l : List α) : ∀ s, (l.foldl f s).mem = s.mem := by
  induction l with
  | nil => exact fun _ => rfl
  | cons a l ih => exact fun s => (ih _).trans (hf s a)

theorem State.modRq_mem (s : State) (g : Nat) (f : List RqEntry → List RqEntry) : (s.modRq g f).mem = s.mem := by
  unfold State.modRq
  dsimp only
  split <;> split
  all_goals first | rfl | exact State.foldl_mem _ (fun _ _ => State.send_mem ..) _ _

theorem State.dropTlb_mem (s : State) (k n : Nat) : (s.dropTlb k n).mem = s.mem := rfl

theorem State.cleanse_mem (s : State) (k n : Nat) : (s.cleanse k n).mem = s.mem := by
  unfold State.cleanse
  split <;> rfl

theorem State.learn_mem (s : State) (g : Nat) : (s.learn g).mem = s.mem := by
  unfold State.learn
  dsimp only
  split <;> rfl

theorem State.mark_mem (s : State) (x : Nat) (l2 : Bool) : (s.mark x l2).mem = s.mem := rfl

theorem State.writeSector_wf (s : State) (bs : List Bit8) (p : Bool) (h : Memory.wf s.mem = true) : Memory.wf (s.writeSector bs p).mem = true := by
  unfold State.writeSector
  generalize bs.map (fun b => { b with key := s.inactiveKey b.key }) = l
  have k : ∀ m : List Host.Cell, Memory.wf m = true → Memory.wf (l.foldl (fun m (b : Bit8) => b.into m) m) = true := fun m hm =>
    Memory.foldl_wf _ (fun _ _ => Memory.put_wf _ _ _) _ _ hm
  dsimp only
  split <;> split
  all_goals first
    | exact k _ h
    | (split <;> first | (rw [State.cleanse_mem]; exact k _ h) | exact k _ h)

theorem State.loadCore_wf (s : State) (u vc g : Nat) (h : Memory.wf s.mem = true) : Memory.wf (s.loadCore u vc g).mem = true := by
  unfold State.loadCore
  split
  · dsimp only
    rw [State.learn_mem, State.modRq_mem]
    exact Memory.foldl_wf _ (fun _ _ => Memory.put_wf _ _ _) _ _ (s.clearRange_wf _ _ h)
  · exact h

theorem State.saveCore_wf (s : State) (u vc g : Nat) (h : Memory.wf s.mem = true) : Memory.wf (s.saveCore u vc g).mem = true := by
  refine State.clearRange_wf _ _ _ ?_
  rw [State.modRq_mem]
  exact h

theorem State.advanceCheckpoint_mem (s : State) (g : Nat) : (s.advanceCheckpoint g).mem = s.mem := by
  obtain ⟨l, e⟩ := Sys2Proof.Safety.advanceCheckpoint_locks s g
  rw [e]

theorem State.freshSlice_wf (s : State) (g slot : Nat) (h : Memory.wf s.mem = true) : Memory.wf (s.freshSlice g slot).mem = true :=
  State.clearRange_wf _ _ _ h

theorem State.settleIn_wf (s : State) (g slot : Nat) (a : Cargo) (h : Memory.wf s.mem = true) : Memory.wf (s.settleIn g slot a).mem = true := by
  have k : Memory.wf ((s.freshSlice g slot).learn g).mem = true := by
    rw [State.learn_mem]
    exact s.freshSlice_wf g slot h
  unfold State.settleIn
  dsimp only
  rw [State.advanceCheckpoint_mem]
  dsimp only [State.modCore]
  exact Memory.foldl_wf _ (fun _ _ => Memory.put_wf _ _ _) _ _ k

theorem State.withFetchWord_wf (s : State) (nbits w : Nat) (h : Memory.wf s.mem = true) : Memory.wf (s.withFetchWord nbits w).mem = true := by
  unfold State.withFetchWord
  generalize slotBytes nbits w = l
  exact Memory.foldl_wf _ (fun _ _ => Memory.putN_wf _ _ _) _ _ h

end Sys2Proof.Machine
end

