-- ==== Sys2Proof/Laws/State.lean ====
section
/-! SUPPORT. What each update of the state does to each field of it, so that no proof unfolds a record update. -/

namespace Sys2Proof.Machine

/-! ### modMe -/

@[simp] theorem State.modMe_me (s : State) (f : Strand → Strand) : (s.modMe f).me = f s.me := rfl
@[simp] theorem State.modMe_rest (s : State) (f : Strand → Strand) : (s.modMe f).rest = s.rest := rfl
@[simp] theorem State.modMe_sched (s : State) (f : Strand → Strand) : (s.modMe f).sched = s.sched := rfl
@[simp] theorem State.modMe_tick (s : State) (f : Strand → Strand) : (s.modMe f).tick = s.tick := rfl
@[simp] theorem State.modMe_queues (s : State) (f : Strand → Strand) : (s.modMe f).queues = s.queues := rfl
@[simp] theorem State.modMe_cores (s : State) (f : Strand → Strand) : (s.modMe f).cores = s.cores := rfl
@[simp] theorem State.modMe_locks (s : State) (f : Strand → Strand) : (s.modMe f).locks = s.locks := rfl
@[simp] theorem State.modMe_mem (s : State) (f : Strand → Strand) : (s.modMe f).mem = s.mem := rfl
@[simp] theorem State.modMe_poison (s : State) (f : Strand → Strand) : (s.modMe f).poison = s.poison := rfl
@[simp] theorem State.modMe_l2Poison (s : State) (f : Strand → Strand) : (s.modMe f).l2Poison = s.l2Poison := rfl
@[simp] theorem State.modMe_races (s : State) (f : Strand → Strand) : (s.modMe f).races = s.races := rfl
@[simp] theorem State.modMe_stamps (s : State) (f : Strand → Strand) : (s.modMe f).stamps = s.stamps := rfl
@[simp] theorem State.modMe_codeLog (s : State) (f : Strand → Strand) : (s.modMe f).codeLog = s.codeLog := rfl
@[simp] theorem State.modMe_tlb (s : State) (f : Strand → Strand) : (s.modMe f).tlb = s.tlb := rfl
@[simp] theorem State.modMe_shadows (s : State) (f : Strand → Strand) : (s.modMe f).shadows = s.shadows := rfl
@[simp] theorem State.modMe_ops (s : State) (f : Strand → Strand) : (s.modMe f).ops = s.ops := rfl
@[simp] theorem State.modMe_streamers (s : State) (f : Strand → Strand) : (s.modMe f).streamers = s.streamers := rfl
@[simp] theorem State.modMe_next (s : State) (f : Strand → Strand) : (s.modMe f).next = s.next := rfl
@[simp] theorem State.modMe_asked (s : State) (f : Strand → Strand) : (s.modMe f).asked = s.asked := rfl
@[simp] theorem State.modMe_parked (s : State) (f : Strand → Strand) : (s.modMe f).parked = s.parked := rfl
@[simp] theorem State.modMe_net (s : State) (f : Strand → Strand) : (s.modMe f).net = s.net := rfl
@[simp] theorem State.modMe_launches (s : State) (f : Strand → Strand) : (s.modMe f).launches = s.launches := rfl
@[simp] theorem State.modMe_images (s : State) (f : Strand → Strand) : (s.modMe f).images = s.images := rfl
@[simp] theorem State.modMe_graphs (s : State) (f : Strand → Strand) : (s.modMe f).graphs = s.graphs := rfl
@[simp] theorem State.modMe_groups (s : State) (f : Strand → Strand) : (s.modMe f).groups = s.groups := rfl
@[simp] theorem State.modMe_exports (s : State) (f : Strand → Strand) : (s.modMe f).exports = s.exports := rfl
@[simp] theorem State.modMe_connectors (s : State) (f : Strand → Strand) : (s.modMe f).connectors = s.connectors := rfl
@[simp] theorem State.modMe_pillowTurn (s : State) (f : Strand → Strand) : (s.modMe f).pillowTurn = s.pillowTurn := rfl
@[simp] theorem State.modMe_savedCores (s : State) (f : Strand → Strand) : (s.modMe f).savedCores = s.savedCores := rfl
@[simp] theorem State.modMe_savedMem (s : State) (f : Strand → Strand) : (s.modMe f).savedMem = s.savedMem := rfl
@[simp] theorem State.modMe_vfs (s : State) (f : Strand → Strand) : (s.modMe f).vfs = s.vfs := rfl
@[simp] theorem State.modMe_pkgs (s : State) (f : Strand → Strand) : (s.modMe f).pkgs = s.pkgs := rfl
@[simp] theorem State.modMe_links (s : State) (f : Strand → Strand) : (s.modMe f).links = s.links := rfl
@[simp] theorem State.modMe_torus (s : State) (f : Strand → Strand) : (s.modMe f).torus = s.torus := rfl
@[simp] theorem State.modMe_conns (s : State) (f : Strand → Strand) : (s.modMe f).conns = s.conns := rfl
@[simp] theorem State.modMe_streams (s : State) (f : Strand → Strand) : (s.modMe f).streams = s.streams := rfl
@[simp] theorem State.modMe_pauses (s : State) (f : Strand → Strand) : (s.modMe f).pauses = s.pauses := rfl
@[simp] theorem State.modMe_toHost (s : State) (f : Strand → Strand) : (s.modMe f).toHost = s.toHost := rfl
@[simp] theorem State.modMe_unacked (s : State) (f : Strand → Strand) : (s.modMe f).unacked = s.unacked := rfl
@[simp] theorem State.modMe_nextTag (s : State) (f : Strand → Strand) : (s.modMe f).nextTag = s.nextTag := rfl

/-! ### setX -/

@[simp] theorem State.setX_me (s : State) (r : Reg) (v : W64) : (s.setX r v).me = s.me.setX r v := rfl
@[simp] theorem State.setX_rest (s : State) (r : Reg) (v : W64) : (s.setX r v).rest = s.rest := rfl
@[simp] theorem State.setX_sched (s : State) (r : Reg) (v : W64) : (s.setX r v).sched = s.sched := rfl
@[simp] theorem State.setX_tick (s : State) (r : Reg) (v : W64) : (s.setX r v).tick = s.tick := rfl
@[simp] theorem State.setX_queues (s : State) (r : Reg) (v : W64) : (s.setX r v).queues = s.queues := rfl
@[simp] theorem State.setX_cores (s : State) (r : Reg) (v : W64) : (s.setX r v).cores = s.cores := rfl
@[simp] theorem State.setX_locks (s : State) (r : Reg) (v : W64) : (s.setX r v).locks = s.locks := rfl
@[simp] theorem State.setX_mem (s : State) (r : Reg) (v : W64) : (s.setX r v).mem = s.mem := rfl
@[simp] theorem State.setX_poison (s : State) (r : Reg) (v : W64) : (s.setX r v).poison = s.poison := rfl
@[simp] theorem State.setX_l2Poison (s : State) (r : Reg) (v : W64) : (s.setX r v).l2Poison = s.l2Poison := rfl
@[simp] theorem State.setX_races (s : State) (r : Reg) (v : W64) : (s.setX r v).races = s.races := rfl
@[simp] theorem State.setX_stamps (s : State) (r : Reg) (v : W64) : (s.setX r v).stamps = s.stamps := rfl
@[simp] theorem State.setX_codeLog (s : State) (r : Reg) (v : W64) : (s.setX r v).codeLog = s.codeLog := rfl
@[simp] theorem State.setX_tlb (s : State) (r : Reg) (v : W64) : (s.setX r v).tlb = s.tlb := rfl
@[simp] theorem State.setX_shadows (s : State) (r : Reg) (v : W64) : (s.setX r v).shadows = s.shadows := rfl
@[simp] theorem State.setX_ops (s : State) (r : Reg) (v : W64) : (s.setX r v).ops = s.ops := rfl
@[simp] theorem State.setX_streamers (s : State) (r : Reg) (v : W64) : (s.setX r v).streamers = s.streamers := rfl
@[simp] theorem State.setX_next (s : State) (r : Reg) (v : W64) : (s.setX r v).next = s.next := rfl
@[simp] theorem State.setX_asked (s : State) (r : Reg) (v : W64) : (s.setX r v).asked = s.asked := rfl
@[simp] theorem State.setX_parked (s : State) (r : Reg) (v : W64) : (s.setX r v).parked = s.parked := rfl
@[simp] theorem State.setX_net (s : State) (r : Reg) (v : W64) : (s.setX r v).net = s.net := rfl
@[simp] theorem State.setX_launches (s : State) (r : Reg) (v : W64) : (s.setX r v).launches = s.launches := rfl
@[simp] theorem State.setX_images (s : State) (r : Reg) (v : W64) : (s.setX r v).images = s.images := rfl
@[simp] theorem State.setX_graphs (s : State) (r : Reg) (v : W64) : (s.setX r v).graphs = s.graphs := rfl
@[simp] theorem State.setX_groups (s : State) (r : Reg) (v : W64) : (s.setX r v).groups = s.groups := rfl
@[simp] theorem State.setX_exports (s : State) (r : Reg) (v : W64) : (s.setX r v).exports = s.exports := rfl
@[simp] theorem State.setX_connectors (s : State) (r : Reg) (v : W64) : (s.setX r v).connectors = s.connectors := rfl
@[simp] theorem State.setX_pillowTurn (s : State) (r : Reg) (v : W64) : (s.setX r v).pillowTurn = s.pillowTurn := rfl
@[simp] theorem State.setX_savedCores (s : State) (r : Reg) (v : W64) : (s.setX r v).savedCores = s.savedCores := rfl
@[simp] theorem State.setX_savedMem (s : State) (r : Reg) (v : W64) : (s.setX r v).savedMem = s.savedMem := rfl
@[simp] theorem State.setX_vfs (s : State) (r : Reg) (v : W64) : (s.setX r v).vfs = s.vfs := rfl
@[simp] theorem State.setX_pkgs (s : State) (r : Reg) (v : W64) : (s.setX r v).pkgs = s.pkgs := rfl
@[simp] theorem State.setX_links (s : State) (r : Reg) (v : W64) : (s.setX r v).links = s.links := rfl
@[simp] theorem State.setX_torus (s : State) (r : Reg) (v : W64) : (s.setX r v).torus = s.torus := rfl
@[simp] theorem State.setX_conns (s : State) (r : Reg) (v : W64) : (s.setX r v).conns = s.conns := rfl
@[simp] theorem State.setX_streams (s : State) (r : Reg) (v : W64) : (s.setX r v).streams = s.streams := rfl
@[simp] theorem State.setX_pauses (s : State) (r : Reg) (v : W64) : (s.setX r v).pauses = s.pauses := rfl
@[simp] theorem State.setX_toHost (s : State) (r : Reg) (v : W64) : (s.setX r v).toHost = s.toHost := rfl
@[simp] theorem State.setX_unacked (s : State) (r : Reg) (v : W64) : (s.setX r v).unacked = s.unacked := rfl
@[simp] theorem State.setX_nextTag (s : State) (r : Reg) (v : W64) : (s.setX r v).nextTag = s.nextTag := rfl

/-! ### setV -/

@[simp] theorem State.setV_me (s : State) (r : Reg) (v : V128) : (s.setV r v).me = s.me.setV r v := rfl
@[simp] theorem State.setV_rest (s : State) (r : Reg) (v : V128) : (s.setV r v).rest = s.rest := rfl
@[simp] theorem State.setV_sched (s : State) (r : Reg) (v : V128) : (s.setV r v).sched = s.sched := rfl
@[simp] theorem State.setV_tick (s : State) (r : Reg) (v : V128) : (s.setV r v).tick = s.tick := rfl
@[simp] theorem State.setV_queues (s : State) (r : Reg) (v : V128) : (s.setV r v).queues = s.queues := rfl
@[simp] theorem State.setV_cores (s : State) (r : Reg) (v : V128) : (s.setV r v).cores = s.cores := rfl
@[simp] theorem State.setV_locks (s : State) (r : Reg) (v : V128) : (s.setV r v).locks = s.locks := rfl
@[simp] theorem State.setV_mem (s : State) (r : Reg) (v : V128) : (s.setV r v).mem = s.mem := rfl
@[simp] theorem State.setV_poison (s : State) (r : Reg) (v : V128) : (s.setV r v).poison = s.poison := rfl
@[simp] theorem State.setV_l2Poison (s : State) (r : Reg) (v : V128) : (s.setV r v).l2Poison = s.l2Poison := rfl
@[simp] theorem State.setV_races (s : State) (r : Reg) (v : V128) : (s.setV r v).races = s.races := rfl
@[simp] theorem State.setV_stamps (s : State) (r : Reg) (v : V128) : (s.setV r v).stamps = s.stamps := rfl
@[simp] theorem State.setV_codeLog (s : State) (r : Reg) (v : V128) : (s.setV r v).codeLog = s.codeLog := rfl
@[simp] theorem State.setV_tlb (s : State) (r : Reg) (v : V128) : (s.setV r v).tlb = s.tlb := rfl
@[simp] theorem State.setV_shadows (s : State) (r : Reg) (v : V128) : (s.setV r v).shadows = s.shadows := rfl
@[simp] theorem State.setV_ops (s : State) (r : Reg) (v : V128) : (s.setV r v).ops = s.ops := rfl
@[simp] theorem State.setV_streamers (s : State) (r : Reg) (v : V128) : (s.setV r v).streamers = s.streamers := rfl
@[simp] theorem State.setV_next (s : State) (r : Reg) (v : V128) : (s.setV r v).next = s.next := rfl
@[simp] theorem State.setV_asked (s : State) (r : Reg) (v : V128) : (s.setV r v).asked = s.asked := rfl
@[simp] theorem State.setV_parked (s : State) (r : Reg) (v : V128) : (s.setV r v).parked = s.parked := rfl
@[simp] theorem State.setV_net (s : State) (r : Reg) (v : V128) : (s.setV r v).net = s.net := rfl
@[simp] theorem State.setV_launches (s : State) (r : Reg) (v : V128) : (s.setV r v).launches = s.launches := rfl
@[simp] theorem State.setV_images (s : State) (r : Reg) (v : V128) : (s.setV r v).images = s.images := rfl
@[simp] theorem State.setV_graphs (s : State) (r : Reg) (v : V128) : (s.setV r v).graphs = s.graphs := rfl
@[simp] theorem State.setV_groups (s : State) (r : Reg) (v : V128) : (s.setV r v).groups = s.groups := rfl
@[simp] theorem State.setV_exports (s : State) (r : Reg) (v : V128) : (s.setV r v).exports = s.exports := rfl
@[simp] theorem State.setV_connectors (s : State) (r : Reg) (v : V128) : (s.setV r v).connectors = s.connectors := rfl
@[simp] theorem State.setV_pillowTurn (s : State) (r : Reg) (v : V128) : (s.setV r v).pillowTurn = s.pillowTurn := rfl
@[simp] theorem State.setV_savedCores (s : State) (r : Reg) (v : V128) : (s.setV r v).savedCores = s.savedCores := rfl
@[simp] theorem State.setV_savedMem (s : State) (r : Reg) (v : V128) : (s.setV r v).savedMem = s.savedMem := rfl
@[simp] theorem State.setV_vfs (s : State) (r : Reg) (v : V128) : (s.setV r v).vfs = s.vfs := rfl
@[simp] theorem State.setV_pkgs (s : State) (r : Reg) (v : V128) : (s.setV r v).pkgs = s.pkgs := rfl
@[simp] theorem State.setV_links (s : State) (r : Reg) (v : V128) : (s.setV r v).links = s.links := rfl
@[simp] theorem State.setV_torus (s : State) (r : Reg) (v : V128) : (s.setV r v).torus = s.torus := rfl
@[simp] theorem State.setV_conns (s : State) (r : Reg) (v : V128) : (s.setV r v).conns = s.conns := rfl
@[simp] theorem State.setV_streams (s : State) (r : Reg) (v : V128) : (s.setV r v).streams = s.streams := rfl
@[simp] theorem State.setV_pauses (s : State) (r : Reg) (v : V128) : (s.setV r v).pauses = s.pauses := rfl
@[simp] theorem State.setV_toHost (s : State) (r : Reg) (v : V128) : (s.setV r v).toHost = s.toHost := rfl
@[simp] theorem State.setV_unacked (s : State) (r : Reg) (v : V128) : (s.setV r v).unacked = s.unacked := rfl
@[simp] theorem State.setV_nextTag (s : State) (r : Reg) (v : V128) : (s.setV r v).nextTag = s.nextTag := rfl

/-! ### setM -/

@[simp] theorem State.setM_me (s : State) (r : Reg3) (v : BitVec 16) : (s.setM r v).me = s.me.setM r v := rfl
@[simp] theorem State.setM_rest (s : State) (r : Reg3) (v : BitVec 16) : (s.setM r v).rest = s.rest := rfl
@[simp] theorem State.setM_sched (s : State) (r : Reg3) (v : BitVec 16) : (s.setM r v).sched = s.sched := rfl
@[simp] theorem State.setM_tick (s : State) (r : Reg3) (v : BitVec 16) : (s.setM r v).tick = s.tick := rfl
@[simp] theorem State.setM_queues (s : State) (r : Reg3) (v : BitVec 16) : (s.setM r v).queues = s.queues := rfl
@[simp] theorem State.setM_cores (s : State) (r : Reg3) (v : BitVec 16) : (s.setM r v).cores = s.cores := rfl
@[simp] theorem State.setM_locks (s : State) (r : Reg3) (v : BitVec 16) : (s.setM r v).locks = s.locks := rfl
@[simp] theorem State.setM_mem (s : State) (r : Reg3) (v : BitVec 16) : (s.setM r v).mem = s.mem := rfl
@[simp] theorem State.setM_poison (s : State) (r : Reg3) (v : BitVec 16) : (s.setM r v).poison = s.poison := rfl
@[simp] theorem State.setM_l2Poison (s : State) (r : Reg3) (v : BitVec 16) : (s.setM r v).l2Poison = s.l2Poison := rfl
@[simp] theorem State.setM_races (s : State) (r : Reg3) (v : BitVec 16) : (s.setM r v).races = s.races := rfl
@[simp] theorem State.setM_stamps (s : State) (r : Reg3) (v : BitVec 16) : (s.setM r v).stamps = s.stamps := rfl
@[simp] theorem State.setM_codeLog (s : State) (r : Reg3) (v : BitVec 16) : (s.setM r v).codeLog = s.codeLog := rfl
@[simp] theorem State.setM_tlb (s : State) (r : Reg3) (v : BitVec 16) : (s.setM r v).tlb = s.tlb := rfl
@[simp] theorem State.setM_shadows (s : State) (r : Reg3) (v : BitVec 16) : (s.setM r v).shadows = s.shadows := rfl
@[simp] theorem State.setM_ops (s : State) (r : Reg3) (v : BitVec 16) : (s.setM r v).ops = s.ops := rfl
@[simp] theorem State.setM_streamers (s : State) (r : Reg3) (v : BitVec 16) : (s.setM r v).streamers = s.streamers := rfl
@[simp] theorem State.setM_next (s : State) (r : Reg3) (v : BitVec 16) : (s.setM r v).next = s.next := rfl
@[simp] theorem State.setM_asked (s : State) (r : Reg3) (v : BitVec 16) : (s.setM r v).asked = s.asked := rfl
@[simp] theorem State.setM_parked (s : State) (r : Reg3) (v : BitVec 16) : (s.setM r v).parked = s.parked := rfl
@[simp] theorem State.setM_net (s : State) (r : Reg3) (v : BitVec 16) : (s.setM r v).net = s.net := rfl
@[simp] theorem State.setM_launches (s : State) (r : Reg3) (v : BitVec 16) : (s.setM r v).launches = s.launches := rfl
@[simp] theorem State.setM_images (s : State) (r : Reg3) (v : BitVec 16) : (s.setM r v).images = s.images := rfl
@[simp] theorem State.setM_graphs (s : State) (r : Reg3) (v : BitVec 16) : (s.setM r v).graphs = s.graphs := rfl
@[simp] theorem State.setM_groups (s : State) (r : Reg3) (v : BitVec 16) : (s.setM r v).groups = s.groups := rfl
@[simp] theorem State.setM_exports (s : State) (r : Reg3) (v : BitVec 16) : (s.setM r v).exports = s.exports := rfl
@[simp] theorem State.setM_connectors (s : State) (r : Reg3) (v : BitVec 16) : (s.setM r v).connectors = s.connectors := rfl
@[simp] theorem State.setM_pillowTurn (s : State) (r : Reg3) (v : BitVec 16) : (s.setM r v).pillowTurn = s.pillowTurn := rfl
@[simp] theorem State.setM_savedCores (s : State) (r : Reg3) (v : BitVec 16) : (s.setM r v).savedCores = s.savedCores := rfl
@[simp] theorem State.setM_savedMem (s : State) (r : Reg3) (v : BitVec 16) : (s.setM r v).savedMem = s.savedMem := rfl
@[simp] theorem State.setM_vfs (s : State) (r : Reg3) (v : BitVec 16) : (s.setM r v).vfs = s.vfs := rfl
@[simp] theorem State.setM_pkgs (s : State) (r : Reg3) (v : BitVec 16) : (s.setM r v).pkgs = s.pkgs := rfl
@[simp] theorem State.setM_links (s : State) (r : Reg3) (v : BitVec 16) : (s.setM r v).links = s.links := rfl
@[simp] theorem State.setM_torus (s : State) (r : Reg3) (v : BitVec 16) : (s.setM r v).torus = s.torus := rfl
@[simp] theorem State.setM_conns (s : State) (r : Reg3) (v : BitVec 16) : (s.setM r v).conns = s.conns := rfl
@[simp] theorem State.setM_streams (s : State) (r : Reg3) (v : BitVec 16) : (s.setM r v).streams = s.streams := rfl
@[simp] theorem State.setM_pauses (s : State) (r : Reg3) (v : BitVec 16) : (s.setM r v).pauses = s.pauses := rfl
@[simp] theorem State.setM_toHost (s : State) (r : Reg3) (v : BitVec 16) : (s.setM r v).toHost = s.toHost := rfl
@[simp] theorem State.setM_unacked (s : State) (r : Reg3) (v : BitVec 16) : (s.setM r v).unacked = s.unacked := rfl
@[simp] theorem State.setM_nextTag (s : State) (r : Reg3) (v : BitVec 16) : (s.setM r v).nextTag = s.nextTag := rfl

/-! ### setPc -/

@[simp] theorem State.setPc_me (s : State) (p : W64) : (s.setPc p).me = { s.me with pc := p } := rfl
@[simp] theorem State.setPc_rest (s : State) (p : W64) : (s.setPc p).rest = s.rest := rfl
@[simp] theorem State.setPc_sched (s : State) (p : W64) : (s.setPc p).sched = s.sched := rfl
@[simp] theorem State.setPc_tick (s : State) (p : W64) : (s.setPc p).tick = s.tick := rfl
@[simp] theorem State.setPc_queues (s : State) (p : W64) : (s.setPc p).queues = s.queues := rfl
@[simp] theorem State.setPc_cores (s : State) (p : W64) : (s.setPc p).cores = s.cores := rfl
@[simp] theorem State.setPc_locks (s : State) (p : W64) : (s.setPc p).locks = s.locks := rfl
@[simp] theorem State.setPc_mem (s : State) (p : W64) : (s.setPc p).mem = s.mem := rfl
@[simp] theorem State.setPc_poison (s : State) (p : W64) : (s.setPc p).poison = s.poison := rfl
@[simp] theorem State.setPc_l2Poison (s : State) (p : W64) : (s.setPc p).l2Poison = s.l2Poison := rfl
@[simp] theorem State.setPc_races (s : State) (p : W64) : (s.setPc p).races = s.races := rfl
@[simp] theorem State.setPc_stamps (s : State) (p : W64) : (s.setPc p).stamps = s.stamps := rfl
@[simp] theorem State.setPc_codeLog (s : State) (p : W64) : (s.setPc p).codeLog = s.codeLog := rfl
@[simp] theorem State.setPc_tlb (s : State) (p : W64) : (s.setPc p).tlb = s.tlb := rfl
@[simp] theorem State.setPc_shadows (s : State) (p : W64) : (s.setPc p).shadows = s.shadows := rfl
@[simp] theorem State.setPc_ops (s : State) (p : W64) : (s.setPc p).ops = s.ops := rfl
@[simp] theorem State.setPc_streamers (s : State) (p : W64) : (s.setPc p).streamers = s.streamers := rfl
@[simp] theorem State.setPc_next (s : State) (p : W64) : (s.setPc p).next = s.next := rfl
@[simp] theorem State.setPc_asked (s : State) (p : W64) : (s.setPc p).asked = s.asked := rfl
@[simp] theorem State.setPc_parked (s : State) (p : W64) : (s.setPc p).parked = s.parked := rfl
@[simp] theorem State.setPc_net (s : State) (p : W64) : (s.setPc p).net = s.net := rfl
@[simp] theorem State.setPc_launches (s : State) (p : W64) : (s.setPc p).launches = s.launches := rfl
@[simp] theorem State.setPc_images (s : State) (p : W64) : (s.setPc p).images = s.images := rfl
@[simp] theorem State.setPc_graphs (s : State) (p : W64) : (s.setPc p).graphs = s.graphs := rfl
@[simp] theorem State.setPc_groups (s : State) (p : W64) : (s.setPc p).groups = s.groups := rfl
@[simp] theorem State.setPc_exports (s : State) (p : W64) : (s.setPc p).exports = s.exports := rfl
@[simp] theorem State.setPc_connectors (s : State) (p : W64) : (s.setPc p).connectors = s.connectors := rfl
@[simp] theorem State.setPc_pillowTurn (s : State) (p : W64) : (s.setPc p).pillowTurn = s.pillowTurn := rfl
@[simp] theorem State.setPc_savedCores (s : State) (p : W64) : (s.setPc p).savedCores = s.savedCores := rfl
@[simp] theorem State.setPc_savedMem (s : State) (p : W64) : (s.setPc p).savedMem = s.savedMem := rfl
@[simp] theorem State.setPc_vfs (s : State) (p : W64) : (s.setPc p).vfs = s.vfs := rfl
@[simp] theorem State.setPc_pkgs (s : State) (p : W64) : (s.setPc p).pkgs = s.pkgs := rfl
@[simp] theorem State.setPc_links (s : State) (p : W64) : (s.setPc p).links = s.links := rfl
@[simp] theorem State.setPc_torus (s : State) (p : W64) : (s.setPc p).torus = s.torus := rfl
@[simp] theorem State.setPc_conns (s : State) (p : W64) : (s.setPc p).conns = s.conns := rfl
@[simp] theorem State.setPc_streams (s : State) (p : W64) : (s.setPc p).streams = s.streams := rfl
@[simp] theorem State.setPc_pauses (s : State) (p : W64) : (s.setPc p).pauses = s.pauses := rfl
@[simp] theorem State.setPc_toHost (s : State) (p : W64) : (s.setPc p).toHost = s.toHost := rfl
@[simp] theorem State.setPc_unacked (s : State) (p : W64) : (s.setPc p).unacked = s.unacked := rfl
@[simp] theorem State.setPc_nextTag (s : State) (p : W64) : (s.setPc p).nextTag = s.nextTag := rfl

/-! ### retire -/

@[simp] theorem State.retire_me (s : State) (n : Nat) : (s.retire n).me = { s.me.dropPend with pc := s.me.dropPend.pc + BitVec.ofNat 64 n, wait := none } := rfl
@[simp] theorem State.retire_rest (s : State) (n : Nat) : (s.retire n).rest = s.rest := rfl
@[simp] theorem State.retire_sched (s : State) (n : Nat) : (s.retire n).sched = s.sched := rfl
@[simp] theorem State.retire_tick (s : State) (n : Nat) : (s.retire n).tick = s.tick := rfl
@[simp] theorem State.retire_queues (s : State) (n : Nat) : (s.retire n).queues = s.queues := rfl
@[simp] theorem State.retire_cores (s : State) (n : Nat) : (s.retire n).cores = s.cores := rfl
@[simp] theorem State.retire_locks (s : State) (n : Nat) : (s.retire n).locks = s.locks := rfl
@[simp] theorem State.retire_mem (s : State) (n : Nat) : (s.retire n).mem = s.mem := rfl
@[simp] theorem State.retire_poison (s : State) (n : Nat) : (s.retire n).poison = s.poison := rfl
@[simp] theorem State.retire_l2Poison (s : State) (n : Nat) : (s.retire n).l2Poison = s.l2Poison := rfl
@[simp] theorem State.retire_races (s : State) (n : Nat) : (s.retire n).races = s.races := rfl
@[simp] theorem State.retire_stamps (s : State) (n : Nat) : (s.retire n).stamps = s.stamps := rfl
@[simp] theorem State.retire_codeLog (s : State) (n : Nat) : (s.retire n).codeLog = s.codeLog := rfl
@[simp] theorem State.retire_tlb (s : State) (n : Nat) : (s.retire n).tlb = s.tlb := rfl
@[simp] theorem State.retire_shadows (s : State) (n : Nat) : (s.retire n).shadows = s.shadows := rfl
@[simp] theorem State.retire_ops (s : State) (n : Nat) : (s.retire n).ops = s.ops := rfl
@[simp] theorem State.retire_streamers (s : State) (n : Nat) : (s.retire n).streamers = s.streamers := rfl
@[simp] theorem State.retire_next (s : State) (n : Nat) : (s.retire n).next = s.next := rfl
@[simp] theorem State.retire_asked (s : State) (n : Nat) : (s.retire n).asked = s.asked := rfl
@[simp] theorem State.retire_parked (s : State) (n : Nat) : (s.retire n).parked = s.parked := rfl
@[simp] theorem State.retire_net (s : State) (n : Nat) : (s.retire n).net = s.net := rfl
@[simp] theorem State.retire_launches (s : State) (n : Nat) : (s.retire n).launches = s.launches := rfl
@[simp] theorem State.retire_images (s : State) (n : Nat) : (s.retire n).images = s.images := rfl
@[simp] theorem State.retire_graphs (s : State) (n : Nat) : (s.retire n).graphs = s.graphs := rfl
@[simp] theorem State.retire_groups (s : State) (n : Nat) : (s.retire n).groups = s.groups := rfl
@[simp] theorem State.retire_exports (s : State) (n : Nat) : (s.retire n).exports = s.exports := rfl
@[simp] theorem State.retire_connectors (s : State) (n : Nat) : (s.retire n).connectors = s.connectors := rfl
@[simp] theorem State.retire_pillowTurn (s : State) (n : Nat) : (s.retire n).pillowTurn = s.pillowTurn := rfl
@[simp] theorem State.retire_savedCores (s : State) (n : Nat) : (s.retire n).savedCores = s.savedCores := rfl
@[simp] theorem State.retire_savedMem (s : State) (n : Nat) : (s.retire n).savedMem = s.savedMem := rfl
@[simp] theorem State.retire_vfs (s : State) (n : Nat) : (s.retire n).vfs = s.vfs := rfl
@[simp] theorem State.retire_pkgs (s : State) (n : Nat) : (s.retire n).pkgs = s.pkgs := rfl
@[simp] theorem State.retire_links (s : State) (n : Nat) : (s.retire n).links = s.links := rfl
@[simp] theorem State.retire_torus (s : State) (n : Nat) : (s.retire n).torus = s.torus := rfl
@[simp] theorem State.retire_conns (s : State) (n : Nat) : (s.retire n).conns = s.conns := rfl
@[simp] theorem State.retire_streams (s : State) (n : Nat) : (s.retire n).streams = s.streams := rfl
@[simp] theorem State.retire_pauses (s : State) (n : Nat) : (s.retire n).pauses = s.pauses := rfl
@[simp] theorem State.retire_toHost (s : State) (n : Nat) : (s.retire n).toHost = s.toHost := rfl
@[simp] theorem State.retire_unacked (s : State) (n : Nat) : (s.retire n).unacked = s.unacked := rfl
@[simp] theorem State.retire_nextTag (s : State) (n : Nat) : (s.retire n).nextTag = s.nextTag := rfl

/-! ### retireTo -/

@[simp] theorem State.retireTo_me (s : State) (p : W64) : (s.retireTo p).me = { s.me.dropPend with pc := p, wait := none } := rfl
@[simp] theorem State.retireTo_rest (s : State) (p : W64) : (s.retireTo p).rest = s.rest := rfl
@[simp] theorem State.retireTo_sched (s : State) (p : W64) : (s.retireTo p).sched = s.sched := rfl
@[simp] theorem State.retireTo_tick (s : State) (p : W64) : (s.retireTo p).tick = s.tick := rfl
@[simp] theorem State.retireTo_queues (s : State) (p : W64) : (s.retireTo p).queues = s.queues := rfl
@[simp] theorem State.retireTo_cores (s : State) (p : W64) : (s.retireTo p).cores = s.cores := rfl
@[simp] theorem State.retireTo_locks (s : State) (p : W64) : (s.retireTo p).locks = s.locks := rfl
@[simp] theorem State.retireTo_mem (s : State) (p : W64) : (s.retireTo p).mem = s.mem := rfl
@[simp] theorem State.retireTo_poison (s : State) (p : W64) : (s.retireTo p).poison = s.poison := rfl
@[simp] theorem State.retireTo_l2Poison (s : State) (p : W64) : (s.retireTo p).l2Poison = s.l2Poison := rfl
@[simp] theorem State.retireTo_races (s : State) (p : W64) : (s.retireTo p).races = s.races := rfl
@[simp] theorem State.retireTo_stamps (s : State) (p : W64) : (s.retireTo p).stamps = s.stamps := rfl
@[simp] theorem State.retireTo_codeLog (s : State) (p : W64) : (s.retireTo p).codeLog = s.codeLog := rfl
@[simp] theorem State.retireTo_tlb (s : State) (p : W64) : (s.retireTo p).tlb = s.tlb := rfl
@[simp] theorem State.retireTo_shadows (s : State) (p : W64) : (s.retireTo p).shadows = s.shadows := rfl
@[simp] theorem State.retireTo_ops (s : State) (p : W64) : (s.retireTo p).ops = s.ops := rfl
@[simp] theorem State.retireTo_streamers (s : State) (p : W64) : (s.retireTo p).streamers = s.streamers := rfl
@[simp] theorem State.retireTo_next (s : State) (p : W64) : (s.retireTo p).next = s.next := rfl
@[simp] theorem State.retireTo_asked (s : State) (p : W64) : (s.retireTo p).asked = s.asked := rfl
@[simp] theorem State.retireTo_parked (s : State) (p : W64) : (s.retireTo p).parked = s.parked := rfl
@[simp] theorem State.retireTo_net (s : State) (p : W64) : (s.retireTo p).net = s.net := rfl
@[simp] theorem State.retireTo_launches (s : State) (p : W64) : (s.retireTo p).launches = s.launches := rfl
@[simp] theorem State.retireTo_images (s : State) (p : W64) : (s.retireTo p).images = s.images := rfl
@[simp] theorem State.retireTo_graphs (s : State) (p : W64) : (s.retireTo p).graphs = s.graphs := rfl
@[simp] theorem State.retireTo_groups (s : State) (p : W64) : (s.retireTo p).groups = s.groups := rfl
@[simp] theorem State.retireTo_exports (s : State) (p : W64) : (s.retireTo p).exports = s.exports := rfl
@[simp] theorem State.retireTo_connectors (s : State) (p : W64) : (s.retireTo p).connectors = s.connectors := rfl
@[simp] theorem State.retireTo_pillowTurn (s : State) (p : W64) : (s.retireTo p).pillowTurn = s.pillowTurn := rfl
@[simp] theorem State.retireTo_savedCores (s : State) (p : W64) : (s.retireTo p).savedCores = s.savedCores := rfl
@[simp] theorem State.retireTo_savedMem (s : State) (p : W64) : (s.retireTo p).savedMem = s.savedMem := rfl
@[simp] theorem State.retireTo_vfs (s : State) (p : W64) : (s.retireTo p).vfs = s.vfs := rfl
@[simp] theorem State.retireTo_pkgs (s : State) (p : W64) : (s.retireTo p).pkgs = s.pkgs := rfl
@[simp] theorem State.retireTo_links (s : State) (p : W64) : (s.retireTo p).links = s.links := rfl
@[simp] theorem State.retireTo_torus (s : State) (p : W64) : (s.retireTo p).torus = s.torus := rfl
@[simp] theorem State.retireTo_conns (s : State) (p : W64) : (s.retireTo p).conns = s.conns := rfl
@[simp] theorem State.retireTo_streams (s : State) (p : W64) : (s.retireTo p).streams = s.streams := rfl
@[simp] theorem State.retireTo_pauses (s : State) (p : W64) : (s.retireTo p).pauses = s.pauses := rfl
@[simp] theorem State.retireTo_toHost (s : State) (p : W64) : (s.retireTo p).toHost = s.toHost := rfl
@[simp] theorem State.retireTo_unacked (s : State) (p : W64) : (s.retireTo p).unacked = s.unacked := rfl
@[simp] theorem State.retireTo_nextTag (s : State) (p : W64) : (s.retireTo p).nextTag = s.nextTag := rfl

/-! ### block -/

@[simp] theorem State.block_me (s : State) (w : Wait) : (s.block w).me = { s.me with wait := some w } := rfl
@[simp] theorem State.block_rest (s : State) (w : Wait) : (s.block w).rest = s.rest := rfl
@[simp] theorem State.block_sched (s : State) (w : Wait) : (s.block w).sched = s.sched := rfl
@[simp] theorem State.block_tick (s : State) (w : Wait) : (s.block w).tick = s.tick := rfl
@[simp] theorem State.block_queues (s : State) (w : Wait) : (s.block w).queues = s.queues := rfl
@[simp] theorem State.block_cores (s : State) (w : Wait) : (s.block w).cores = s.cores := rfl
@[simp] theorem State.block_locks (s : State) (w : Wait) : (s.block w).locks = s.locks := rfl
@[simp] theorem State.block_mem (s : State) (w : Wait) : (s.block w).mem = s.mem := rfl
@[simp] theorem State.block_poison (s : State) (w : Wait) : (s.block w).poison = s.poison := rfl
@[simp] theorem State.block_l2Poison (s : State) (w : Wait) : (s.block w).l2Poison = s.l2Poison := rfl
@[simp] theorem State.block_races (s : State) (w : Wait) : (s.block w).races = s.races := rfl
@[simp] theorem State.block_stamps (s : State) (w : Wait) : (s.block w).stamps = s.stamps := rfl
@[simp] theorem State.block_codeLog (s : State) (w : Wait) : (s.block w).codeLog = s.codeLog := rfl
@[simp] theorem State.block_tlb (s : State) (w : Wait) : (s.block w).tlb = s.tlb := rfl
@[simp] theorem State.block_shadows (s : State) (w : Wait) : (s.block w).shadows = s.shadows := rfl
@[simp] theorem State.block_ops (s : State) (w : Wait) : (s.block w).ops = s.ops := rfl
@[simp] theorem State.block_streamers (s : State) (w : Wait) : (s.block w).streamers = s.streamers := rfl
@[simp] theorem State.block_next (s : State) (w : Wait) : (s.block w).next = s.next := rfl
@[simp] theorem State.block_asked (s : State) (w : Wait) : (s.block w).asked = s.asked := rfl
@[simp] theorem State.block_parked (s : State) (w : Wait) : (s.block w).parked = s.parked := rfl
@[simp] theorem State.block_net (s : State) (w : Wait) : (s.block w).net = s.net := rfl
@[simp] theorem State.block_launches (s : State) (w : Wait) : (s.block w).launches = s.launches := rfl
@[simp] theorem State.block_images (s : State) (w : Wait) : (s.block w).images = s.images := rfl
@[simp] theorem State.block_graphs (s : State) (w : Wait) : (s.block w).graphs = s.graphs := rfl
@[simp] theorem State.block_groups (s : State) (w : Wait) : (s.block w).groups = s.groups := rfl
@[simp] theorem State.block_exports (s : State) (w : Wait) : (s.block w).exports = s.exports := rfl
@[simp] theorem State.block_connectors (s : State) (w : Wait) : (s.block w).connectors = s.connectors := rfl
@[simp] theorem State.block_pillowTurn (s : State) (w : Wait) : (s.block w).pillowTurn = s.pillowTurn := rfl
@[simp] theorem State.block_savedCores (s : State) (w : Wait) : (s.block w).savedCores = s.savedCores := rfl
@[simp] theorem State.block_savedMem (s : State) (w : Wait) : (s.block w).savedMem = s.savedMem := rfl
@[simp] theorem State.block_vfs (s : State) (w : Wait) : (s.block w).vfs = s.vfs := rfl
@[simp] theorem State.block_pkgs (s : State) (w : Wait) : (s.block w).pkgs = s.pkgs := rfl
@[simp] theorem State.block_links (s : State) (w : Wait) : (s.block w).links = s.links := rfl
@[simp] theorem State.block_torus (s : State) (w : Wait) : (s.block w).torus = s.torus := rfl
@[simp] theorem State.block_conns (s : State) (w : Wait) : (s.block w).conns = s.conns := rfl
@[simp] theorem State.block_streams (s : State) (w : Wait) : (s.block w).streams = s.streams := rfl
@[simp] theorem State.block_pauses (s : State) (w : Wait) : (s.block w).pauses = s.pauses := rfl
@[simp] theorem State.block_toHost (s : State) (w : Wait) : (s.block w).toHost = s.toHost := rfl
@[simp] theorem State.block_unacked (s : State) (w : Wait) : (s.block w).unacked = s.unacked := rfl
@[simp] theorem State.block_nextTag (s : State) (w : Wait) : (s.block w).nextTag = s.nextTag := rfl

/-! ### leaveTrap -/

@[simp] theorem State.leaveTrap_me (s : State) : (s.leaveTrap).me = { s.me with level := if s.me.ecause.getLsbD 8 then .k else .s, pc := s.me.epc, hheld := false, entering := false, wait := none } := rfl
@[simp] theorem State.leaveTrap_rest (s : State) : (s.leaveTrap).rest = s.rest := rfl
@[simp] theorem State.leaveTrap_sched (s : State) : (s.leaveTrap).sched = s.sched := rfl
@[simp] theorem State.leaveTrap_tick (s : State) : (s.leaveTrap).tick = s.tick := rfl
@[simp] theorem State.leaveTrap_queues (s : State) : (s.leaveTrap).queues = s.queues := rfl
@[simp] theorem State.leaveTrap_cores (s : State) : (s.leaveTrap).cores = s.cores := rfl
@[simp] theorem State.leaveTrap_locks (s : State) : (s.leaveTrap).locks = s.locks := rfl
@[simp] theorem State.leaveTrap_mem (s : State) : (s.leaveTrap).mem = s.mem := rfl
@[simp] theorem State.leaveTrap_poison (s : State) : (s.leaveTrap).poison = s.poison := rfl
@[simp] theorem State.leaveTrap_l2Poison (s : State) : (s.leaveTrap).l2Poison = s.l2Poison := rfl
@[simp] theorem State.leaveTrap_races (s : State) : (s.leaveTrap).races = s.races := rfl
@[simp] theorem State.leaveTrap_stamps (s : State) : (s.leaveTrap).stamps = s.stamps := rfl
@[simp] theorem State.leaveTrap_codeLog (s : State) : (s.leaveTrap).codeLog = s.codeLog := rfl
@[simp] theorem State.leaveTrap_tlb (s : State) : (s.leaveTrap).tlb = s.tlb := rfl
@[simp] theorem State.leaveTrap_shadows (s : State) : (s.leaveTrap).shadows = s.shadows := rfl
@[simp] theorem State.leaveTrap_ops (s : State) : (s.leaveTrap).ops = s.ops := rfl
@[simp] theorem State.leaveTrap_streamers (s : State) : (s.leaveTrap).streamers = s.streamers := rfl
@[simp] theorem State.leaveTrap_next (s : State) : (s.leaveTrap).next = s.next := rfl
@[simp] theorem State.leaveTrap_asked (s : State) : (s.leaveTrap).asked = s.asked := rfl
@[simp] theorem State.leaveTrap_parked (s : State) : (s.leaveTrap).parked = s.parked := rfl
@[simp] theorem State.leaveTrap_net (s : State) : (s.leaveTrap).net = s.net := rfl
@[simp] theorem State.leaveTrap_launches (s : State) : (s.leaveTrap).launches = s.launches := rfl
@[simp] theorem State.leaveTrap_images (s : State) : (s.leaveTrap).images = s.images := rfl
@[simp] theorem State.leaveTrap_graphs (s : State) : (s.leaveTrap).graphs = s.graphs := rfl
@[simp] theorem State.leaveTrap_groups (s : State) : (s.leaveTrap).groups = s.groups := rfl
@[simp] theorem State.leaveTrap_exports (s : State) : (s.leaveTrap).exports = s.exports := rfl
@[simp] theorem State.leaveTrap_connectors (s : State) : (s.leaveTrap).connectors = s.connectors := rfl
@[simp] theorem State.leaveTrap_pillowTurn (s : State) : (s.leaveTrap).pillowTurn = s.pillowTurn := rfl
@[simp] theorem State.leaveTrap_savedCores (s : State) : (s.leaveTrap).savedCores = s.savedCores := rfl
@[simp] theorem State.leaveTrap_savedMem (s : State) : (s.leaveTrap).savedMem = s.savedMem := rfl
@[simp] theorem State.leaveTrap_vfs (s : State) : (s.leaveTrap).vfs = s.vfs := rfl
@[simp] theorem State.leaveTrap_pkgs (s : State) : (s.leaveTrap).pkgs = s.pkgs := rfl
@[simp] theorem State.leaveTrap_links (s : State) : (s.leaveTrap).links = s.links := rfl
@[simp] theorem State.leaveTrap_torus (s : State) : (s.leaveTrap).torus = s.torus := rfl
@[simp] theorem State.leaveTrap_conns (s : State) : (s.leaveTrap).conns = s.conns := rfl
@[simp] theorem State.leaveTrap_streams (s : State) : (s.leaveTrap).streams = s.streams := rfl
@[simp] theorem State.leaveTrap_pauses (s : State) : (s.leaveTrap).pauses = s.pauses := rfl
@[simp] theorem State.leaveTrap_toHost (s : State) : (s.leaveTrap).toHost = s.toHost := rfl
@[simp] theorem State.leaveTrap_unacked (s : State) : (s.leaveTrap).unacked = s.unacked := rfl
@[simp] theorem State.leaveTrap_nextTag (s : State) : (s.leaveTrap).nextTag = s.nextTag := rfl

/-! ### modCore -/

@[simp] theorem State.modCore_me (s : State) (g : Nat) (f : Core → Core) : (s.modCore g f).me = s.me := rfl
@[simp] theorem State.modCore_rest (s : State) (g : Nat) (f : Core → Core) : (s.modCore g f).rest = s.rest := rfl
@[simp] theorem State.modCore_sched (s : State) (g : Nat) (f : Core → Core) : (s.modCore g f).sched = s.sched := rfl
@[simp] theorem State.modCore_tick (s : State) (g : Nat) (f : Core → Core) : (s.modCore g f).tick = s.tick := rfl
@[simp] theorem State.modCore_queues (s : State) (g : Nat) (f : Core → Core) : (s.modCore g f).queues = s.queues := rfl
@[simp] theorem State.modCore_locks (s : State) (g : Nat) (f : Core → Core) : (s.modCore g f).locks = s.locks := rfl
@[simp] theorem State.modCore_mem (s : State) (g : Nat) (f : Core → Core) : (s.modCore g f).mem = s.mem := rfl
@[simp] theorem State.modCore_poison (s : State) (g : Nat) (f : Core → Core) : (s.modCore g f).poison = s.poison := rfl
@[simp] theorem State.modCore_l2Poison (s : State) (g : Nat) (f : Core → Core) : (s.modCore g f).l2Poison = s.l2Poison := rfl
@[simp] theorem State.modCore_races (s : State) (g : Nat) (f : Core → Core) : (s.modCore g f).races = s.races := rfl
@[simp] theorem State.modCore_stamps (s : State) (g : Nat) (f : Core → Core) : (s.modCore g f).stamps = s.stamps := rfl
@[simp] theorem State.modCore_codeLog (s : State) (g : Nat) (f : Core → Core) : (s.modCore g f).codeLog = s.codeLog := rfl
@[simp] theorem State.modCore_tlb (s : State) (g : Nat) (f : Core → Core) : (s.modCore g f).tlb = s.tlb := rfl
@[simp] theorem State.modCore_shadows (s : State) (g : Nat) (f : Core → Core) : (s.modCore g f).shadows = s.shadows := rfl
@[simp] theorem State.modCore_ops (s : State) (g : Nat) (f : Core → Core) : (s.modCore g f).ops = s.ops := rfl
@[simp] theorem State.modCore_streamers (s : State) (g : Nat) (f : Core → Core) : (s.modCore g f).streamers = s.streamers := rfl
@[simp] theorem State.modCore_next (s : State) (g : Nat) (f : Core → Core) : (s.modCore g f).next = s.next := rfl
@[simp] theorem State.modCore_asked (s : State) (g : Nat) (f : Core → Core) : (s.modCore g f).asked = s.asked := rfl
@[simp] theorem State.modCore_parked (s : State) (g : Nat) (f : Core → Core) : (s.modCore g f).parked = s.parked := rfl
@[simp] theorem State.modCore_net (s : State) (g : Nat) (f : Core → Core) : (s.modCore g f).net = s.net := rfl
@[simp] theorem State.modCore_launches (s : State) (g : Nat) (f : Core → Core) : (s.modCore g f).launches = s.launches := rfl
@[simp] theorem State.modCore_images (s : State) (g : Nat) (f : Core → Core) : (s.modCore g f).images = s.images := rfl
@[simp] theorem State.modCore_graphs (s : State) (g : Nat) (f : Core → Core) : (s.modCore g f).graphs = s.graphs := rfl
@[simp] theorem State.modCore_groups (s : State) (g : Nat) (f : Core → Core) : (s.modCore g f).groups = s.groups := rfl
@[simp] theorem State.modCore_exports (s : State) (g : Nat) (f : Core → Core) : (s.modCore g f).exports = s.exports := rfl
@[simp] theorem State.modCore_connectors (s : State) (g : Nat) (f : Core → Core) : (s.modCore g f).connectors = s.connectors := rfl
@[simp] theorem State.modCore_pillowTurn (s : State) (g : Nat) (f : Core → Core) : (s.modCore g f).pillowTurn = s.pillowTurn := rfl
@[simp] theorem State.modCore_savedCores (s : State) (g : Nat) (f : Core → Core) : (s.modCore g f).savedCores = s.savedCores := rfl
@[simp] theorem State.modCore_savedMem (s : State) (g : Nat) (f : Core → Core) : (s.modCore g f).savedMem = s.savedMem := rfl
@[simp] theorem State.modCore_vfs (s : State) (g : Nat) (f : Core → Core) : (s.modCore g f).vfs = s.vfs := rfl
@[simp] theorem State.modCore_pkgs (s : State) (g : Nat) (f : Core → Core) : (s.modCore g f).pkgs = s.pkgs := rfl
@[simp] theorem State.modCore_links (s : State) (g : Nat) (f : Core → Core) : (s.modCore g f).links = s.links := rfl
@[simp] theorem State.modCore_torus (s : State) (g : Nat) (f : Core → Core) : (s.modCore g f).torus = s.torus := rfl
@[simp] theorem State.modCore_conns (s : State) (g : Nat) (f : Core → Core) : (s.modCore g f).conns = s.conns := rfl
@[simp] theorem State.modCore_streams (s : State) (g : Nat) (f : Core → Core) : (s.modCore g f).streams = s.streams := rfl
@[simp] theorem State.modCore_pauses (s : State) (g : Nat) (f : Core → Core) : (s.modCore g f).pauses = s.pauses := rfl
@[simp] theorem State.modCore_toHost (s : State) (g : Nat) (f : Core → Core) : (s.modCore g f).toHost = s.toHost := rfl
@[simp] theorem State.modCore_unacked (s : State) (g : Nat) (f : Core → Core) : (s.modCore g f).unacked = s.unacked := rfl
@[simp] theorem State.modCore_nextTag (s : State) (g : Nat) (f : Core → Core) : (s.modCore g f).nextTag = s.nextTag := rfl

/-! ### modLaunch -/

@[simp] theorem State.modLaunch_me (s : State) (u : Nat) (f : Launch → Launch) : (s.modLaunch u f).me = s.me := rfl
@[simp] theorem State.modLaunch_rest (s : State) (u : Nat) (f : Launch → Launch) : (s.modLaunch u f).rest = s.rest := rfl
@[simp] theorem State.modLaunch_sched (s : State) (u : Nat) (f : Launch → Launch) : (s.modLaunch u f).sched = s.sched := rfl
@[simp] theorem State.modLaunch_tick (s : State) (u : Nat) (f : Launch → Launch) : (s.modLaunch u f).tick = s.tick := rfl
@[simp] theorem State.modLaunch_queues (s : State) (u : Nat) (f : Launch → Launch) : (s.modLaunch u f).queues = s.queues := rfl
@[simp] theorem State.modLaunch_cores (s : State) (u : Nat) (f : Launch → Launch) : (s.modLaunch u f).cores = s.cores := rfl
@[simp] theorem State.modLaunch_locks (s : State) (u : Nat) (f : Launch → Launch) : (s.modLaunch u f).locks = s.locks := rfl
@[simp] theorem State.modLaunch_mem (s : State) (u : Nat) (f : Launch → Launch) : (s.modLaunch u f).mem = s.mem := rfl
@[simp] theorem State.modLaunch_poison (s : State) (u : Nat) (f : Launch → Launch) : (s.modLaunch u f).poison = s.poison := rfl
@[simp] theorem State.modLaunch_l2Poison (s : State) (u : Nat) (f : Launch → Launch) : (s.modLaunch u f).l2Poison = s.l2Poison := rfl
@[simp] theorem State.modLaunch_races (s : State) (u : Nat) (f : Launch → Launch) : (s.modLaunch u f).races = s.races := rfl
@[simp] theorem State.modLaunch_stamps (s : State) (u : Nat) (f : Launch → Launch) : (s.modLaunch u f).stamps = s.stamps := rfl
@[simp] theorem State.modLaunch_codeLog (s : State) (u : Nat) (f : Launch → Launch) : (s.modLaunch u f).codeLog = s.codeLog := rfl
@[simp] theorem State.modLaunch_tlb (s : State) (u : Nat) (f : Launch → Launch) : (s.modLaunch u f).tlb = s.tlb := rfl
@[simp] theorem State.modLaunch_shadows (s : State) (u : Nat) (f : Launch → Launch) : (s.modLaunch u f).shadows = s.shadows := rfl
@[simp] theorem State.modLaunch_ops (s : State) (u : Nat) (f : Launch → Launch) : (s.modLaunch u f).ops = s.ops := rfl
@[simp] theorem State.modLaunch_streamers (s : State) (u : Nat) (f : Launch → Launch) : (s.modLaunch u f).streamers = s.streamers := rfl
@[simp] theorem State.modLaunch_next (s : State) (u : Nat) (f : Launch → Launch) : (s.modLaunch u f).next = s.next := rfl
@[simp] theorem State.modLaunch_asked (s : State) (u : Nat) (f : Launch → Launch) : (s.modLaunch u f).asked = s.asked := rfl
@[simp] theorem State.modLaunch_parked (s : State) (u : Nat) (f : Launch → Launch) : (s.modLaunch u f).parked = s.parked := rfl
@[simp] theorem State.modLaunch_net (s : State) (u : Nat) (f : Launch → Launch) : (s.modLaunch u f).net = s.net := rfl
@[simp] theorem State.modLaunch_images (s : State) (u : Nat) (f : Launch → Launch) : (s.modLaunch u f).images = s.images := rfl
@[simp] theorem State.modLaunch_graphs (s : State) (u : Nat) (f : Launch → Launch) : (s.modLaunch u f).graphs = s.graphs := rfl
@[simp] theorem State.modLaunch_groups (s : State) (u : Nat) (f : Launch → Launch) : (s.modLaunch u f).groups = s.groups := rfl
@[simp] theorem State.modLaunch_exports (s : State) (u : Nat) (f : Launch → Launch) : (s.modLaunch u f).exports = s.exports := rfl
@[simp] theorem State.modLaunch_connectors (s : State) (u : Nat) (f : Launch → Launch) : (s.modLaunch u f).connectors = s.connectors := rfl
@[simp] theorem State.modLaunch_pillowTurn (s : State) (u : Nat) (f : Launch → Launch) : (s.modLaunch u f).pillowTurn = s.pillowTurn := rfl
@[simp] theorem State.modLaunch_savedCores (s : State) (u : Nat) (f : Launch → Launch) : (s.modLaunch u f).savedCores = s.savedCores := rfl
@[simp] theorem State.modLaunch_savedMem (s : State) (u : Nat) (f : Launch → Launch) : (s.modLaunch u f).savedMem = s.savedMem := rfl
@[simp] theorem State.modLaunch_vfs (s : State) (u : Nat) (f : Launch → Launch) : (s.modLaunch u f).vfs = s.vfs := rfl
@[simp] theorem State.modLaunch_pkgs (s : State) (u : Nat) (f : Launch → Launch) : (s.modLaunch u f).pkgs = s.pkgs := rfl
@[simp] theorem State.modLaunch_links (s : State) (u : Nat) (f : Launch → Launch) : (s.modLaunch u f).links = s.links := rfl
@[simp] theorem State.modLaunch_torus (s : State) (u : Nat) (f : Launch → Launch) : (s.modLaunch u f).torus = s.torus := rfl
@[simp] theorem State.modLaunch_conns (s : State) (u : Nat) (f : Launch → Launch) : (s.modLaunch u f).conns = s.conns := rfl
@[simp] theorem State.modLaunch_streams (s : State) (u : Nat) (f : Launch → Launch) : (s.modLaunch u f).streams = s.streams := rfl
@[simp] theorem State.modLaunch_pauses (s : State) (u : Nat) (f : Launch → Launch) : (s.modLaunch u f).pauses = s.pauses := rfl
@[simp] theorem State.modLaunch_toHost (s : State) (u : Nat) (f : Launch → Launch) : (s.modLaunch u f).toHost = s.toHost := rfl
@[simp] theorem State.modLaunch_unacked (s : State) (u : Nat) (f : Launch → Launch) : (s.modLaunch u f).unacked = s.unacked := rfl
@[simp] theorem State.modLaunch_nextTag (s : State) (u : Nat) (f : Launch → Launch) : (s.modLaunch u f).nextTag = s.nextTag := rfl

/-! ### modVfun -/

@[simp] theorem State.modVfun_me (s : State) (p v : Nat) (f : VFun → VFun) : (s.modVfun p v f).me = s.me := rfl
@[simp] theorem State.modVfun_rest (s : State) (p v : Nat) (f : VFun → VFun) : (s.modVfun p v f).rest = s.rest := rfl
@[simp] theorem State.modVfun_sched (s : State) (p v : Nat) (f : VFun → VFun) : (s.modVfun p v f).sched = s.sched := rfl
@[simp] theorem State.modVfun_tick (s : State) (p v : Nat) (f : VFun → VFun) : (s.modVfun p v f).tick = s.tick := rfl
@[simp] theorem State.modVfun_queues (s : State) (p v : Nat) (f : VFun → VFun) : (s.modVfun p v f).queues = s.queues := rfl
@[simp] theorem State.modVfun_cores (s : State) (p v : Nat) (f : VFun → VFun) : (s.modVfun p v f).cores = s.cores := rfl
@[simp] theorem State.modVfun_locks (s : State) (p v : Nat) (f : VFun → VFun) : (s.modVfun p v f).locks = s.locks := rfl
@[simp] theorem State.modVfun_mem (s : State) (p v : Nat) (f : VFun → VFun) : (s.modVfun p v f).mem = s.mem := rfl
@[simp] theorem State.modVfun_poison (s : State) (p v : Nat) (f : VFun → VFun) : (s.modVfun p v f).poison = s.poison := rfl
@[simp] theorem State.modVfun_l2Poison (s : State) (p v : Nat) (f : VFun → VFun) : (s.modVfun p v f).l2Poison = s.l2Poison := rfl
@[simp] theorem State.modVfun_races (s : State) (p v : Nat) (f : VFun → VFun) : (s.modVfun p v f).races = s.races := rfl
@[simp] theorem State.modVfun_stamps (s : State) (p v : Nat) (f : VFun → VFun) : (s.modVfun p v f).stamps = s.stamps := rfl
@[simp] theorem State.modVfun_codeLog (s : State) (p v : Nat) (f : VFun → VFun) : (s.modVfun p v f).codeLog = s.codeLog := rfl
@[simp] theorem State.modVfun_tlb (s : State) (p v : Nat) (f : VFun → VFun) : (s.modVfun p v f).tlb = s.tlb := rfl
@[simp] theorem State.modVfun_shadows (s : State) (p v : Nat) (f : VFun → VFun) : (s.modVfun p v f).shadows = s.shadows := rfl
@[simp] theorem State.modVfun_ops (s : State) (p v : Nat) (f : VFun → VFun) : (s.modVfun p v f).ops = s.ops := rfl
@[simp] theorem State.modVfun_streamers (s : State) (p v : Nat) (f : VFun → VFun) : (s.modVfun p v f).streamers = s.streamers := rfl
@[simp] theorem State.modVfun_next (s : State) (p v : Nat) (f : VFun → VFun) : (s.modVfun p v f).next = s.next := rfl
@[simp] theorem State.modVfun_asked (s : State) (p v : Nat) (f : VFun → VFun) : (s.modVfun p v f).asked = s.asked := rfl
@[simp] theorem State.modVfun_parked (s : State) (p v : Nat) (f : VFun → VFun) : (s.modVfun p v f).parked = s.parked := rfl
@[simp] theorem State.modVfun_net (s : State) (p v : Nat) (f : VFun → VFun) : (s.modVfun p v f).net = s.net := rfl
@[simp] theorem State.modVfun_launches (s : State) (p v : Nat) (f : VFun → VFun) : (s.modVfun p v f).launches = s.launches := rfl
@[simp] theorem State.modVfun_images (s : State) (p v : Nat) (f : VFun → VFun) : (s.modVfun p v f).images = s.images := rfl
@[simp] theorem State.modVfun_graphs (s : State) (p v : Nat) (f : VFun → VFun) : (s.modVfun p v f).graphs = s.graphs := rfl
@[simp] theorem State.modVfun_groups (s : State) (p v : Nat) (f : VFun → VFun) : (s.modVfun p v f).groups = s.groups := rfl
@[simp] theorem State.modVfun_exports (s : State) (p v : Nat) (f : VFun → VFun) : (s.modVfun p v f).exports = s.exports := rfl
@[simp] theorem State.modVfun_connectors (s : State) (p v : Nat) (f : VFun → VFun) : (s.modVfun p v f).connectors = s.connectors := rfl
@[simp] theorem State.modVfun_pillowTurn (s : State) (p v : Nat) (f : VFun → VFun) : (s.modVfun p v f).pillowTurn = s.pillowTurn := rfl
@[simp] theorem State.modVfun_savedCores (s : State) (p v : Nat) (f : VFun → VFun) : (s.modVfun p v f).savedCores = s.savedCores := rfl
@[simp] theorem State.modVfun_savedMem (s : State) (p v : Nat) (f : VFun → VFun) : (s.modVfun p v f).savedMem = s.savedMem := rfl
@[simp] theorem State.modVfun_pkgs (s : State) (p v : Nat) (f : VFun → VFun) : (s.modVfun p v f).pkgs = s.pkgs := rfl
@[simp] theorem State.modVfun_links (s : State) (p v : Nat) (f : VFun → VFun) : (s.modVfun p v f).links = s.links := rfl
@[simp] theorem State.modVfun_torus (s : State) (p v : Nat) (f : VFun → VFun) : (s.modVfun p v f).torus = s.torus := rfl
@[simp] theorem State.modVfun_conns (s : State) (p v : Nat) (f : VFun → VFun) : (s.modVfun p v f).conns = s.conns := rfl
@[simp] theorem State.modVfun_streams (s : State) (p v : Nat) (f : VFun → VFun) : (s.modVfun p v f).streams = s.streams := rfl
@[simp] theorem State.modVfun_pauses (s : State) (p v : Nat) (f : VFun → VFun) : (s.modVfun p v f).pauses = s.pauses := rfl
@[simp] theorem State.modVfun_toHost (s : State) (p v : Nat) (f : VFun → VFun) : (s.modVfun p v f).toHost = s.toHost := rfl
@[simp] theorem State.modVfun_unacked (s : State) (p v : Nat) (f : VFun → VFun) : (s.modVfun p v f).unacked = s.unacked := rfl
@[simp] theorem State.modVfun_nextTag (s : State) (p v : Nat) (f : VFun → VFun) : (s.modVfun p v f).nextTag = s.nextTag := rfl

/-! ### modPkg -/

@[simp] theorem State.modPkg_me (s : State) (p : Nat) (f : Package → Package) : (s.modPkg p f).me = s.me := rfl
@[simp] theorem State.modPkg_rest (s : State) (p : Nat) (f : Package → Package) : (s.modPkg p f).rest = s.rest := rfl
@[simp] theorem State.modPkg_sched (s : State) (p : Nat) (f : Package → Package) : (s.modPkg p f).sched = s.sched := rfl
@[simp] theorem State.modPkg_tick (s : State) (p : Nat) (f : Package → Package) : (s.modPkg p f).tick = s.tick := rfl
@[simp] theorem State.modPkg_queues (s : State) (p : Nat) (f : Package → Package) : (s.modPkg p f).queues = s.queues := rfl
@[simp] theorem State.modPkg_cores (s : State) (p : Nat) (f : Package → Package) : (s.modPkg p f).cores = s.cores := rfl
@[simp] theorem State.modPkg_locks (s : State) (p : Nat) (f : Package → Package) : (s.modPkg p f).locks = s.locks := rfl
@[simp] theorem State.modPkg_mem (s : State) (p : Nat) (f : Package → Package) : (s.modPkg p f).mem = s.mem := rfl
@[simp] theorem State.modPkg_poison (s : State) (p : Nat) (f : Package → Package) : (s.modPkg p f).poison = s.poison := rfl
@[simp] theorem State.modPkg_l2Poison (s : State) (p : Nat) (f : Package → Package) : (s.modPkg p f).l2Poison = s.l2Poison := rfl
@[simp] theorem State.modPkg_races (s : State) (p : Nat) (f : Package → Package) : (s.modPkg p f).races = s.races := rfl
@[simp] theorem State.modPkg_stamps (s : State) (p : Nat) (f : Package → Package) : (s.modPkg p f).stamps = s.stamps := rfl
@[simp] theorem State.modPkg_codeLog (s : State) (p : Nat) (f : Package → Package) : (s.modPkg p f).codeLog = s.codeLog := rfl
@[simp] theorem State.modPkg_tlb (s : State) (p : Nat) (f : Package → Package) : (s.modPkg p f).tlb = s.tlb := rfl
@[simp] theorem State.modPkg_shadows (s : State) (p : Nat) (f : Package → Package) : (s.modPkg p f).shadows = s.shadows := rfl
@[simp] theorem State.modPkg_ops (s : State) (p : Nat) (f : Package → Package) : (s.modPkg p f).ops = s.ops := rfl
@[simp] theorem State.modPkg_streamers (s : State) (p : Nat) (f : Package → Package) : (s.modPkg p f).streamers = s.streamers := rfl
@[simp] theorem State.modPkg_next (s : State) (p : Nat) (f : Package → Package) : (s.modPkg p f).next = s.next := rfl
@[simp] theorem State.modPkg_asked (s : State) (p : Nat) (f : Package → Package) : (s.modPkg p f).asked = s.asked := rfl
@[simp] theorem State.modPkg_parked (s : State) (p : Nat) (f : Package → Package) : (s.modPkg p f).parked = s.parked := rfl
@[simp] theorem State.modPkg_net (s : State) (p : Nat) (f : Package → Package) : (s.modPkg p f).net = s.net := rfl
@[simp] theorem State.modPkg_launches (s : State) (p : Nat) (f : Package → Package) : (s.modPkg p f).launches = s.launches := rfl
@[simp] theorem State.modPkg_images (s : State) (p : Nat) (f : Package → Package) : (s.modPkg p f).images = s.images := rfl
@[simp] theorem State.modPkg_graphs (s : State) (p : Nat) (f : Package → Package) : (s.modPkg p f).graphs = s.graphs := rfl
@[simp] theorem State.modPkg_groups (s : State) (p : Nat) (f : Package → Package) : (s.modPkg p f).groups = s.groups := rfl
@[simp] theorem State.modPkg_exports (s : State) (p : Nat) (f : Package → Package) : (s.modPkg p f).exports = s.exports := rfl
@[simp] theorem State.modPkg_connectors (s : State) (p : Nat) (f : Package → Package) : (s.modPkg p f).connectors = s.connectors := rfl
@[simp] theorem State.modPkg_pillowTurn (s : State) (p : Nat) (f : Package → Package) : (s.modPkg p f).pillowTurn = s.pillowTurn := rfl
@[simp] theorem State.modPkg_savedCores (s : State) (p : Nat) (f : Package → Package) : (s.modPkg p f).savedCores = s.savedCores := rfl
@[simp] theorem State.modPkg_savedMem (s : State) (p : Nat) (f : Package → Package) : (s.modPkg p f).savedMem = s.savedMem := rfl
@[simp] theorem State.modPkg_vfs (s : State) (p : Nat) (f : Package → Package) : (s.modPkg p f).vfs = s.vfs := rfl
@[simp] theorem State.modPkg_links (s : State) (p : Nat) (f : Package → Package) : (s.modPkg p f).links = s.links := rfl
@[simp] theorem State.modPkg_torus (s : State) (p : Nat) (f : Package → Package) : (s.modPkg p f).torus = s.torus := rfl
@[simp] theorem State.modPkg_conns (s : State) (p : Nat) (f : Package → Package) : (s.modPkg p f).conns = s.conns := rfl
@[simp] theorem State.modPkg_streams (s : State) (p : Nat) (f : Package → Package) : (s.modPkg p f).streams = s.streams := rfl
@[simp] theorem State.modPkg_pauses (s : State) (p : Nat) (f : Package → Package) : (s.modPkg p f).pauses = s.pauses := rfl
@[simp] theorem State.modPkg_toHost (s : State) (p : Nat) (f : Package → Package) : (s.modPkg p f).toHost = s.toHost := rfl
@[simp] theorem State.modPkg_unacked (s : State) (p : Nat) (f : Package → Package) : (s.modPkg p f).unacked = s.unacked := rfl
@[simp] theorem State.modPkg_nextTag (s : State) (p : Nat) (f : Package → Package) : (s.modPkg p f).nextTag = s.nextTag := rfl

/-! ### modStrand -/

@[simp] theorem State.modStrand_sched (s : State) (i : Sid) (f : Strand → Strand) : (s.modStrand i f).sched = s.sched := rfl
@[simp] theorem State.modStrand_tick (s : State) (i : Sid) (f : Strand → Strand) : (s.modStrand i f).tick = s.tick := rfl
@[simp] theorem State.modStrand_queues (s : State) (i : Sid) (f : Strand → Strand) : (s.modStrand i f).queues = s.queues := rfl
@[simp] theorem State.modStrand_cores (s : State) (i : Sid) (f : Strand → Strand) : (s.modStrand i f).cores = s.cores := rfl
@[simp] theorem State.modStrand_locks (s : State) (i : Sid) (f : Strand → Strand) : (s.modStrand i f).locks = s.locks := rfl
@[simp] theorem State.modStrand_mem (s : State) (i : Sid) (f : Strand → Strand) : (s.modStrand i f).mem = s.mem := rfl
@[simp] theorem State.modStrand_poison (s : State) (i : Sid) (f : Strand → Strand) : (s.modStrand i f).poison = s.poison := rfl
@[simp] theorem State.modStrand_l2Poison (s : State) (i : Sid) (f : Strand → Strand) : (s.modStrand i f).l2Poison = s.l2Poison := rfl
@[simp] theorem State.modStrand_races (s : State) (i : Sid) (f : Strand → Strand) : (s.modStrand i f).races = s.races := rfl
@[simp] theorem State.modStrand_stamps (s : State) (i : Sid) (f : Strand → Strand) : (s.modStrand i f).stamps = s.stamps := rfl
@[simp] theorem State.modStrand_codeLog (s : State) (i : Sid) (f : Strand → Strand) : (s.modStrand i f).codeLog = s.codeLog := rfl
@[simp] theorem State.modStrand_tlb (s : State) (i : Sid) (f : Strand → Strand) : (s.modStrand i f).tlb = s.tlb := rfl
@[simp] theorem State.modStrand_shadows (s : State) (i : Sid) (f : Strand → Strand) : (s.modStrand i f).shadows = s.shadows := rfl
@[simp] theorem State.modStrand_ops (s : State) (i : Sid) (f : Strand → Strand) : (s.modStrand i f).ops = s.ops := rfl
@[simp] theorem State.modStrand_streamers (s : State) (i : Sid) (f : Strand → Strand) : (s.modStrand i f).streamers = s.streamers := rfl
@[simp] theorem State.modStrand_next (s : State) (i : Sid) (f : Strand → Strand) : (s.modStrand i f).next = s.next := rfl
@[simp] theorem State.modStrand_asked (s : State) (i : Sid) (f : Strand → Strand) : (s.modStrand i f).asked = s.asked := rfl
@[simp] theorem State.modStrand_parked (s : State) (i : Sid) (f : Strand → Strand) : (s.modStrand i f).parked = s.parked := rfl
@[simp] theorem State.modStrand_net (s : State) (i : Sid) (f : Strand → Strand) : (s.modStrand i f).net = s.net := rfl
@[simp] theorem State.modStrand_launches (s : State) (i : Sid) (f : Strand → Strand) : (s.modStrand i f).launches = s.launches := rfl
@[simp] theorem State.modStrand_images (s : State) (i : Sid) (f : Strand → Strand) : (s.modStrand i f).images = s.images := rfl
@[simp] theorem State.modStrand_graphs (s : State) (i : Sid) (f : Strand → Strand) : (s.modStrand i f).graphs = s.graphs := rfl
@[simp] theorem State.modStrand_groups (s : State) (i : Sid) (f : Strand → Strand) : (s.modStrand i f).groups = s.groups := rfl
@[simp] theorem State.modStrand_exports (s : State) (i : Sid) (f : Strand → Strand) : (s.modStrand i f).exports = s.exports := rfl
@[simp] theorem State.modStrand_connectors (s : State) (i : Sid) (f : Strand → Strand) : (s.modStrand i f).connectors = s.connectors := rfl
@[simp] theorem State.modStrand_pillowTurn (s : State) (i : Sid) (f : Strand → Strand) : (s.modStrand i f).pillowTurn = s.pillowTurn := rfl
@[simp] theorem State.modStrand_savedCores (s : State) (i : Sid) (f : Strand → Strand) : (s.modStrand i f).savedCores = s.savedCores := rfl
@[simp] theorem State.modStrand_savedMem (s : State) (i : Sid) (f : Strand → Strand) : (s.modStrand i f).savedMem = s.savedMem := rfl
@[simp] theorem State.modStrand_vfs (s : State) (i : Sid) (f : Strand → Strand) : (s.modStrand i f).vfs = s.vfs := rfl
@[simp] theorem State.modStrand_pkgs (s : State) (i : Sid) (f : Strand → Strand) : (s.modStrand i f).pkgs = s.pkgs := rfl
@[simp] theorem State.modStrand_links (s : State) (i : Sid) (f : Strand → Strand) : (s.modStrand i f).links = s.links := rfl
@[simp] theorem State.modStrand_torus (s : State) (i : Sid) (f : Strand → Strand) : (s.modStrand i f).torus = s.torus := rfl
@[simp] theorem State.modStrand_conns (s : State) (i : Sid) (f : Strand → Strand) : (s.modStrand i f).conns = s.conns := rfl
@[simp] theorem State.modStrand_streams (s : State) (i : Sid) (f : Strand → Strand) : (s.modStrand i f).streams = s.streams := rfl
@[simp] theorem State.modStrand_pauses (s : State) (i : Sid) (f : Strand → Strand) : (s.modStrand i f).pauses = s.pauses := rfl
@[simp] theorem State.modStrand_toHost (s : State) (i : Sid) (f : Strand → Strand) : (s.modStrand i f).toHost = s.toHost := rfl
@[simp] theorem State.modStrand_unacked (s : State) (i : Sid) (f : Strand → Strand) : (s.modStrand i f).unacked = s.unacked := rfl
@[simp] theorem State.modStrand_nextTag (s : State) (i : Sid) (f : Strand → Strand) : (s.modStrand i f).nextTag = s.nextTag := rfl

/-! ### modSlotq -/

@[simp] theorem State.modSlotq_me (s : State) (l : Nat) (t : Seat) (f : SlotQueues → SlotQueues) : (s.modSlotq l t f).me = s.me := rfl
@[simp] theorem State.modSlotq_rest (s : State) (l : Nat) (t : Seat) (f : SlotQueues → SlotQueues) : (s.modSlotq l t f).rest = s.rest := rfl
@[simp] theorem State.modSlotq_sched (s : State) (l : Nat) (t : Seat) (f : SlotQueues → SlotQueues) : (s.modSlotq l t f).sched = s.sched := rfl
@[simp] theorem State.modSlotq_tick (s : State) (l : Nat) (t : Seat) (f : SlotQueues → SlotQueues) : (s.modSlotq l t f).tick = s.tick := rfl
@[simp] theorem State.modSlotq_cores (s : State) (l : Nat) (t : Seat) (f : SlotQueues → SlotQueues) : (s.modSlotq l t f).cores = s.cores := rfl
@[simp] theorem State.modSlotq_locks (s : State) (l : Nat) (t : Seat) (f : SlotQueues → SlotQueues) : (s.modSlotq l t f).locks = s.locks := rfl
@[simp] theorem State.modSlotq_mem (s : State) (l : Nat) (t : Seat) (f : SlotQueues → SlotQueues) : (s.modSlotq l t f).mem = s.mem := rfl
@[simp] theorem State.modSlotq_poison (s : State) (l : Nat) (t : Seat) (f : SlotQueues → SlotQueues) : (s.modSlotq l t f).poison = s.poison := rfl
@[simp] theorem State.modSlotq_l2Poison (s : State) (l : Nat) (t : Seat) (f : SlotQueues → SlotQueues) : (s.modSlotq l t f).l2Poison = s.l2Poison := rfl
@[simp] theorem State.modSlotq_races (s : State) (l : Nat) (t : Seat) (f : SlotQueues → SlotQueues) : (s.modSlotq l t f).races = s.races := rfl
@[simp] theorem State.modSlotq_stamps (s : State) (l : Nat) (t : Seat) (f : SlotQueues → SlotQueues) : (s.modSlotq l t f).stamps = s.stamps := rfl
@[simp] theorem State.modSlotq_codeLog (s : State) (l : Nat) (t : Seat) (f : SlotQueues → SlotQueues) : (s.modSlotq l t f).codeLog = s.codeLog := rfl
@[simp] theorem State.modSlotq_tlb (s : State) (l : Nat) (t : Seat) (f : SlotQueues → SlotQueues) : (s.modSlotq l t f).tlb = s.tlb := rfl
@[simp] theorem State.modSlotq_shadows (s : State) (l : Nat) (t : Seat) (f : SlotQueues → SlotQueues) : (s.modSlotq l t f).shadows = s.shadows := rfl
@[simp] theorem State.modSlotq_ops (s : State) (l : Nat) (t : Seat) (f : SlotQueues → SlotQueues) : (s.modSlotq l t f).ops = s.ops := rfl
@[simp] theorem State.modSlotq_streamers (s : State) (l : Nat) (t : Seat) (f : SlotQueues → SlotQueues) : (s.modSlotq l t f).streamers = s.streamers := rfl
@[simp] theorem State.modSlotq_next (s : State) (l : Nat) (t : Seat) (f : SlotQueues → SlotQueues) : (s.modSlotq l t f).next = s.next := rfl
@[simp] theorem State.modSlotq_asked (s : State) (l : Nat) (t : Seat) (f : SlotQueues → SlotQueues) : (s.modSlotq l t f).asked = s.asked := rfl
@[simp] theorem State.modSlotq_parked (s : State) (l : Nat) (t : Seat) (f : SlotQueues → SlotQueues) : (s.modSlotq l t f).parked = s.parked := rfl
@[simp] theorem State.modSlotq_net (s : State) (l : Nat) (t : Seat) (f : SlotQueues → SlotQueues) : (s.modSlotq l t f).net = s.net := rfl
@[simp] theorem State.modSlotq_launches (s : State) (l : Nat) (t : Seat) (f : SlotQueues → SlotQueues) : (s.modSlotq l t f).launches = s.launches := rfl
@[simp] theorem State.modSlotq_images (s : State) (l : Nat) (t : Seat) (f : SlotQueues → SlotQueues) : (s.modSlotq l t f).images = s.images := rfl
@[simp] theorem State.modSlotq_graphs (s : State) (l : Nat) (t : Seat) (f : SlotQueues → SlotQueues) : (s.modSlotq l t f).graphs = s.graphs := rfl
@[simp] theorem State.modSlotq_groups (s : State) (l : Nat) (t : Seat) (f : SlotQueues → SlotQueues) : (s.modSlotq l t f).groups = s.groups := rfl
@[simp] theorem State.modSlotq_exports (s : State) (l : Nat) (t : Seat) (f : SlotQueues → SlotQueues) : (s.modSlotq l t f).exports = s.exports := rfl
@[simp] theorem State.modSlotq_connectors (s : State) (l : Nat) (t : Seat) (f : SlotQueues → SlotQueues) : (s.modSlotq l t f).connectors = s.connectors := rfl
@[simp] theorem State.modSlotq_pillowTurn (s : State) (l : Nat) (t : Seat) (f : SlotQueues → SlotQueues) : (s.modSlotq l t f).pillowTurn = s.pillowTurn := rfl
@[simp] theorem State.modSlotq_savedCores (s : State) (l : Nat) (t : Seat) (f : SlotQueues → SlotQueues) : (s.modSlotq l t f).savedCores = s.savedCores := rfl
@[simp] theorem State.modSlotq_savedMem (s : State) (l : Nat) (t : Seat) (f : SlotQueues → SlotQueues) : (s.modSlotq l t f).savedMem = s.savedMem := rfl
@[simp] theorem State.modSlotq_vfs (s : State) (l : Nat) (t : Seat) (f : SlotQueues → SlotQueues) : (s.modSlotq l t f).vfs = s.vfs := rfl
@[simp] theorem State.modSlotq_pkgs (s : State) (l : Nat) (t : Seat) (f : SlotQueues → SlotQueues) : (s.modSlotq l t f).pkgs = s.pkgs := rfl
@[simp] theorem State.modSlotq_links (s : State) (l : Nat) (t : Seat) (f : SlotQueues → SlotQueues) : (s.modSlotq l t f).links = s.links := rfl
@[simp] theorem State.modSlotq_torus (s : State) (l : Nat) (t : Seat) (f : SlotQueues → SlotQueues) : (s.modSlotq l t f).torus = s.torus := rfl
@[simp] theorem State.modSlotq_conns (s : State) (l : Nat) (t : Seat) (f : SlotQueues → SlotQueues) : (s.modSlotq l t f).conns = s.conns := rfl
@[simp] theorem State.modSlotq_streams (s : State) (l : Nat) (t : Seat) (f : SlotQueues → SlotQueues) : (s.modSlotq l t f).streams = s.streams := rfl
@[simp] theorem State.modSlotq_pauses (s : State) (l : Nat) (t : Seat) (f : SlotQueues → SlotQueues) : (s.modSlotq l t f).pauses = s.pauses := rfl
@[simp] theorem State.modSlotq_toHost (s : State) (l : Nat) (t : Seat) (f : SlotQueues → SlotQueues) : (s.modSlotq l t f).toHost = s.toHost := rfl
@[simp] theorem State.modSlotq_unacked (s : State) (l : Nat) (t : Seat) (f : SlotQueues → SlotQueues) : (s.modSlotq l t f).unacked = s.unacked := rfl
@[simp] theorem State.modSlotq_nextTag (s : State) (l : Nat) (t : Seat) (f : SlotQueues → SlotQueues) : (s.modSlotq l t f).nextTag = s.nextTag := rfl

/-! ### modGroup -/

@[simp] theorem State.modGroup_me (s : State) (l g : Nat) (f : Group → Group) : (s.modGroup l g f).me = s.me := rfl
@[simp] theorem State.modGroup_rest (s : State) (l g : Nat) (f : Group → Group) : (s.modGroup l g f).rest = s.rest := rfl
@[simp] theorem State.modGroup_sched (s : State) (l g : Nat) (f : Group → Group) : (s.modGroup l g f).sched = s.sched := rfl
@[simp] theorem State.modGroup_tick (s : State) (l g : Nat) (f : Group → Group) : (s.modGroup l g f).tick = s.tick := rfl
@[simp] theorem State.modGroup_queues (s : State) (l g : Nat) (f : Group → Group) : (s.modGroup l g f).queues = s.queues := rfl
@[simp] theorem State.modGroup_cores (s : State) (l g : Nat) (f : Group → Group) : (s.modGroup l g f).cores = s.cores := rfl
@[simp] theorem State.modGroup_locks (s : State) (l g : Nat) (f : Group → Group) : (s.modGroup l g f).locks = s.locks := rfl
@[simp] theorem State.modGroup_mem (s : State) (l g : Nat) (f : Group → Group) : (s.modGroup l g f).mem = s.mem := rfl
@[simp] theorem State.modGroup_poison (s : State) (l g : Nat) (f : Group → Group) : (s.modGroup l g f).poison = s.poison := rfl
@[simp] theorem State.modGroup_l2Poison (s : State) (l g : Nat) (f : Group → Group) : (s.modGroup l g f).l2Poison = s.l2Poison := rfl
@[simp] theorem State.modGroup_races (s : State) (l g : Nat) (f : Group → Group) : (s.modGroup l g f).races = s.races := rfl
@[simp] theorem State.modGroup_stamps (s : State) (l g : Nat) (f : Group → Group) : (s.modGroup l g f).stamps = s.stamps := rfl
@[simp] theorem State.modGroup_codeLog (s : State) (l g : Nat) (f : Group → Group) : (s.modGroup l g f).codeLog = s.codeLog := rfl
@[simp] theorem State.modGroup_tlb (s : State) (l g : Nat) (f : Group → Group) : (s.modGroup l g f).tlb = s.tlb := rfl
@[simp] theorem State.modGroup_shadows (s : State) (l g : Nat) (f : Group → Group) : (s.modGroup l g f).shadows = s.shadows := rfl
@[simp] theorem State.modGroup_ops (s : State) (l g : Nat) (f : Group → Group) : (s.modGroup l g f).ops = s.ops := rfl
@[simp] theorem State.modGroup_streamers (s : State) (l g : Nat) (f : Group → Group) : (s.modGroup l g f).streamers = s.streamers := rfl
@[simp] theorem State.modGroup_next (s : State) (l g : Nat) (f : Group → Group) : (s.modGroup l g f).next = s.next := rfl
@[simp] theorem State.modGroup_asked (s : State) (l g : Nat) (f : Group → Group) : (s.modGroup l g f).asked = s.asked := rfl
@[simp] theorem State.modGroup_parked (s : State) (l g : Nat) (f : Group → Group) : (s.modGroup l g f).parked = s.parked := rfl
@[simp] theorem State.modGroup_net (s : State) (l g : Nat) (f : Group → Group) : (s.modGroup l g f).net = s.net := rfl
@[simp] theorem State.modGroup_launches (s : State) (l g : Nat) (f : Group → Group) : (s.modGroup l g f).launches = s.launches := rfl
@[simp] theorem State.modGroup_images (s : State) (l g : Nat) (f : Group → Group) : (s.modGroup l g f).images = s.images := rfl
@[simp] theorem State.modGroup_graphs (s : State) (l g : Nat) (f : Group → Group) : (s.modGroup l g f).graphs = s.graphs := rfl
@[simp] theorem State.modGroup_exports (s : State) (l g : Nat) (f : Group → Group) : (s.modGroup l g f).exports = s.exports := rfl
@[simp] theorem State.modGroup_connectors (s : State) (l g : Nat) (f : Group → Group) : (s.modGroup l g f).connectors = s.connectors := rfl
@[simp] theorem State.modGroup_pillowTurn (s : State) (l g : Nat) (f : Group → Group) : (s.modGroup l g f).pillowTurn = s.pillowTurn := rfl
@[simp] theorem State.modGroup_savedCores (s : State) (l g : Nat) (f : Group → Group) : (s.modGroup l g f).savedCores = s.savedCores := rfl
@[simp] theorem State.modGroup_savedMem (s : State) (l g : Nat) (f : Group → Group) : (s.modGroup l g f).savedMem = s.savedMem := rfl
@[simp] theorem State.modGroup_vfs (s : State) (l g : Nat) (f : Group → Group) : (s.modGroup l g f).vfs = s.vfs := rfl
@[simp] theorem State.modGroup_pkgs (s : State) (l g : Nat) (f : Group → Group) : (s.modGroup l g f).pkgs = s.pkgs := rfl
@[simp] theorem State.modGroup_links (s : State) (l g : Nat) (f : Group → Group) : (s.modGroup l g f).links = s.links := rfl
@[simp] theorem State.modGroup_torus (s : State) (l g : Nat) (f : Group → Group) : (s.modGroup l g f).torus = s.torus := rfl
@[simp] theorem State.modGroup_conns (s : State) (l g : Nat) (f : Group → Group) : (s.modGroup l g f).conns = s.conns := rfl
@[simp] theorem State.modGroup_streams (s : State) (l g : Nat) (f : Group → Group) : (s.modGroup l g f).streams = s.streams := rfl
@[simp] theorem State.modGroup_pauses (s : State) (l g : Nat) (f : Group → Group) : (s.modGroup l g f).pauses = s.pauses := rfl
@[simp] theorem State.modGroup_toHost (s : State) (l g : Nat) (f : Group → Group) : (s.modGroup l g f).toHost = s.toHost := rfl
@[simp] theorem State.modGroup_unacked (s : State) (l g : Nat) (f : Group → Group) : (s.modGroup l g f).unacked = s.unacked := rfl
@[simp] theorem State.modGroup_nextTag (s : State) (l g : Nat) (f : Group → Group) : (s.modGroup l g f).nextTag = s.nextTag := rfl

/-! ### modTorus -/

@[simp] theorem State.modTorus_me (s : State) (p : Nat) (f : TorusNode → TorusNode) : (s.modTorus p f).me = s.me := rfl
@[simp] theorem State.modTorus_rest (s : State) (p : Nat) (f : TorusNode → TorusNode) : (s.modTorus p f).rest = s.rest := rfl
@[simp] theorem State.modTorus_sched (s : State) (p : Nat) (f : TorusNode → TorusNode) : (s.modTorus p f).sched = s.sched := rfl
@[simp] theorem State.modTorus_tick (s : State) (p : Nat) (f : TorusNode → TorusNode) : (s.modTorus p f).tick = s.tick := rfl
@[simp] theorem State.modTorus_queues (s : State) (p : Nat) (f : TorusNode → TorusNode) : (s.modTorus p f).queues = s.queues := rfl
@[simp] theorem State.modTorus_cores (s : State) (p : Nat) (f : TorusNode → TorusNode) : (s.modTorus p f).cores = s.cores := rfl
@[simp] theorem State.modTorus_locks (s : State) (p : Nat) (f : TorusNode → TorusNode) : (s.modTorus p f).locks = s.locks := rfl
@[simp] theorem State.modTorus_mem (s : State) (p : Nat) (f : TorusNode → TorusNode) : (s.modTorus p f).mem = s.mem := rfl
@[simp] theorem State.modTorus_poison (s : State) (p : Nat) (f : TorusNode → TorusNode) : (s.modTorus p f).poison = s.poison := rfl
@[simp] theorem State.modTorus_l2Poison (s : State) (p : Nat) (f : TorusNode → TorusNode) : (s.modTorus p f).l2Poison = s.l2Poison := rfl
@[simp] theorem State.modTorus_races (s : State) (p : Nat) (f : TorusNode → TorusNode) : (s.modTorus p f).races = s.races := rfl
@[simp] theorem State.modTorus_stamps (s : State) (p : Nat) (f : TorusNode → TorusNode) : (s.modTorus p f).stamps = s.stamps := rfl
@[simp] theorem State.modTorus_codeLog (s : State) (p : Nat) (f : TorusNode → TorusNode) : (s.modTorus p f).codeLog = s.codeLog := rfl
@[simp] theorem State.modTorus_tlb (s : State) (p : Nat) (f : TorusNode → TorusNode) : (s.modTorus p f).tlb = s.tlb := rfl
@[simp] theorem State.modTorus_shadows (s : State) (p : Nat) (f : TorusNode → TorusNode) : (s.modTorus p f).shadows = s.shadows := rfl
@[simp] theorem State.modTorus_ops (s : State) (p : Nat) (f : TorusNode → TorusNode) : (s.modTorus p f).ops = s.ops := rfl
@[simp] theorem State.modTorus_streamers (s : State) (p : Nat) (f : TorusNode → TorusNode) : (s.modTorus p f).streamers = s.streamers := rfl
@[simp] theorem State.modTorus_next (s : State) (p : Nat) (f : TorusNode → TorusNode) : (s.modTorus p f).next = s.next := rfl
@[simp] theorem State.modTorus_asked (s : State) (p : Nat) (f : TorusNode → TorusNode) : (s.modTorus p f).asked = s.asked := rfl
@[simp] theorem State.modTorus_parked (s : State) (p : Nat) (f : TorusNode → TorusNode) : (s.modTorus p f).parked = s.parked := rfl
@[simp] theorem State.modTorus_net (s : State) (p : Nat) (f : TorusNode → TorusNode) : (s.modTorus p f).net = s.net := rfl
@[simp] theorem State.modTorus_launches (s : State) (p : Nat) (f : TorusNode → TorusNode) : (s.modTorus p f).launches = s.launches := rfl
@[simp] theorem State.modTorus_images (s : State) (p : Nat) (f : TorusNode → TorusNode) : (s.modTorus p f).images = s.images := rfl
@[simp] theorem State.modTorus_graphs (s : State) (p : Nat) (f : TorusNode → TorusNode) : (s.modTorus p f).graphs = s.graphs := rfl
@[simp] theorem State.modTorus_groups (s : State) (p : Nat) (f : TorusNode → TorusNode) : (s.modTorus p f).groups = s.groups := rfl
@[simp] theorem State.modTorus_exports (s : State) (p : Nat) (f : TorusNode → TorusNode) : (s.modTorus p f).exports = s.exports := rfl
@[simp] theorem State.modTorus_connectors (s : State) (p : Nat) (f : TorusNode → TorusNode) : (s.modTorus p f).connectors = s.connectors := rfl
@[simp] theorem State.modTorus_pillowTurn (s : State) (p : Nat) (f : TorusNode → TorusNode) : (s.modTorus p f).pillowTurn = s.pillowTurn := rfl
@[simp] theorem State.modTorus_savedCores (s : State) (p : Nat) (f : TorusNode → TorusNode) : (s.modTorus p f).savedCores = s.savedCores := rfl
@[simp] theorem State.modTorus_savedMem (s : State) (p : Nat) (f : TorusNode → TorusNode) : (s.modTorus p f).savedMem = s.savedMem := rfl
@[simp] theorem State.modTorus_vfs (s : State) (p : Nat) (f : TorusNode → TorusNode) : (s.modTorus p f).vfs = s.vfs := rfl
@[simp] theorem State.modTorus_pkgs (s : State) (p : Nat) (f : TorusNode → TorusNode) : (s.modTorus p f).pkgs = s.pkgs := rfl
@[simp] theorem State.modTorus_links (s : State) (p : Nat) (f : TorusNode → TorusNode) : (s.modTorus p f).links = s.links := rfl
@[simp] theorem State.modTorus_conns (s : State) (p : Nat) (f : TorusNode → TorusNode) : (s.modTorus p f).conns = s.conns := rfl
@[simp] theorem State.modTorus_streams (s : State) (p : Nat) (f : TorusNode → TorusNode) : (s.modTorus p f).streams = s.streams := rfl
@[simp] theorem State.modTorus_pauses (s : State) (p : Nat) (f : TorusNode → TorusNode) : (s.modTorus p f).pauses = s.pauses := rfl
@[simp] theorem State.modTorus_toHost (s : State) (p : Nat) (f : TorusNode → TorusNode) : (s.modTorus p f).toHost = s.toHost := rfl
@[simp] theorem State.modTorus_unacked (s : State) (p : Nat) (f : TorusNode → TorusNode) : (s.modTorus p f).unacked = s.unacked := rfl
@[simp] theorem State.modTorus_nextTag (s : State) (p : Nat) (f : TorusNode → TorusNode) : (s.modTorus p f).nextTag = s.nextTag := rfl

/-! ### modLink -/

@[simp] theorem State.modLink_me (s : State) (k : Nat) (f : Link → Link) : (s.modLink k f).me = s.me := rfl
@[simp] theorem State.modLink_rest (s : State) (k : Nat) (f : Link → Link) : (s.modLink k f).rest = s.rest := rfl
@[simp] theorem State.modLink_sched (s : State) (k : Nat) (f : Link → Link) : (s.modLink k f).sched = s.sched := rfl
@[simp] theorem State.modLink_tick (s : State) (k : Nat) (f : Link → Link) : (s.modLink k f).tick = s.tick := rfl
@[simp] theorem State.modLink_queues (s : State) (k : Nat) (f : Link → Link) : (s.modLink k f).queues = s.queues := rfl
@[simp] theorem State.modLink_cores (s : State) (k : Nat) (f : Link → Link) : (s.modLink k f).cores = s.cores := rfl
@[simp] theorem State.modLink_locks (s : State) (k : Nat) (f : Link → Link) : (s.modLink k f).locks = s.locks := rfl
@[simp] theorem State.modLink_mem (s : State) (k : Nat) (f : Link → Link) : (s.modLink k f).mem = s.mem := rfl
@[simp] theorem State.modLink_poison (s : State) (k : Nat) (f : Link → Link) : (s.modLink k f).poison = s.poison := rfl
@[simp] theorem State.modLink_l2Poison (s : State) (k : Nat) (f : Link → Link) : (s.modLink k f).l2Poison = s.l2Poison := rfl
@[simp] theorem State.modLink_races (s : State) (k : Nat) (f : Link → Link) : (s.modLink k f).races = s.races := rfl
@[simp] theorem State.modLink_stamps (s : State) (k : Nat) (f : Link → Link) : (s.modLink k f).stamps = s.stamps := rfl
@[simp] theorem State.modLink_codeLog (s : State) (k : Nat) (f : Link → Link) : (s.modLink k f).codeLog = s.codeLog := rfl
@[simp] theorem State.modLink_tlb (s : State) (k : Nat) (f : Link → Link) : (s.modLink k f).tlb = s.tlb := rfl
@[simp] theorem State.modLink_shadows (s : State) (k : Nat) (f : Link → Link) : (s.modLink k f).shadows = s.shadows := rfl
@[simp] theorem State.modLink_ops (s : State) (k : Nat) (f : Link → Link) : (s.modLink k f).ops = s.ops := rfl
@[simp] theorem State.modLink_streamers (s : State) (k : Nat) (f : Link → Link) : (s.modLink k f).streamers = s.streamers := rfl
@[simp] theorem State.modLink_next (s : State) (k : Nat) (f : Link → Link) : (s.modLink k f).next = s.next := rfl
@[simp] theorem State.modLink_asked (s : State) (k : Nat) (f : Link → Link) : (s.modLink k f).asked = s.asked := rfl
@[simp] theorem State.modLink_parked (s : State) (k : Nat) (f : Link → Link) : (s.modLink k f).parked = s.parked := rfl
@[simp] theorem State.modLink_net (s : State) (k : Nat) (f : Link → Link) : (s.modLink k f).net = s.net := rfl
@[simp] theorem State.modLink_launches (s : State) (k : Nat) (f : Link → Link) : (s.modLink k f).launches = s.launches := rfl
@[simp] theorem State.modLink_images (s : State) (k : Nat) (f : Link → Link) : (s.modLink k f).images = s.images := rfl
@[simp] theorem State.modLink_graphs (s : State) (k : Nat) (f : Link → Link) : (s.modLink k f).graphs = s.graphs := rfl
@[simp] theorem State.modLink_groups (s : State) (k : Nat) (f : Link → Link) : (s.modLink k f).groups = s.groups := rfl
@[simp] theorem State.modLink_exports (s : State) (k : Nat) (f : Link → Link) : (s.modLink k f).exports = s.exports := rfl
@[simp] theorem State.modLink_connectors (s : State) (k : Nat) (f : Link → Link) : (s.modLink k f).connectors = s.connectors := rfl
@[simp] theorem State.modLink_pillowTurn (s : State) (k : Nat) (f : Link → Link) : (s.modLink k f).pillowTurn = s.pillowTurn := rfl
@[simp] theorem State.modLink_savedCores (s : State) (k : Nat) (f : Link → Link) : (s.modLink k f).savedCores = s.savedCores := rfl
@[simp] theorem State.modLink_savedMem (s : State) (k : Nat) (f : Link → Link) : (s.modLink k f).savedMem = s.savedMem := rfl
@[simp] theorem State.modLink_vfs (s : State) (k : Nat) (f : Link → Link) : (s.modLink k f).vfs = s.vfs := rfl
@[simp] theorem State.modLink_pkgs (s : State) (k : Nat) (f : Link → Link) : (s.modLink k f).pkgs = s.pkgs := rfl
@[simp] theorem State.modLink_torus (s : State) (k : Nat) (f : Link → Link) : (s.modLink k f).torus = s.torus := rfl
@[simp] theorem State.modLink_conns (s : State) (k : Nat) (f : Link → Link) : (s.modLink k f).conns = s.conns := rfl
@[simp] theorem State.modLink_streams (s : State) (k : Nat) (f : Link → Link) : (s.modLink k f).streams = s.streams := rfl
@[simp] theorem State.modLink_pauses (s : State) (k : Nat) (f : Link → Link) : (s.modLink k f).pauses = s.pauses := rfl
@[simp] theorem State.modLink_toHost (s : State) (k : Nat) (f : Link → Link) : (s.modLink k f).toHost = s.toHost := rfl
@[simp] theorem State.modLink_unacked (s : State) (k : Nat) (f : Link → Link) : (s.modLink k f).unacked = s.unacked := rfl
@[simp] theorem State.modLink_nextTag (s : State) (k : Nat) (f : Link → Link) : (s.modLink k f).nextTag = s.nextTag := rfl

/-! ### modStreamer -/

@[simp] theorem State.modStreamer_me (s : State) (n : Nat) (f : Streamer → Streamer) : (s.modStreamer n f).me = s.me := rfl
@[simp] theorem State.modStreamer_rest (s : State) (n : Nat) (f : Streamer → Streamer) : (s.modStreamer n f).rest = s.rest := rfl
@[simp] theorem State.modStreamer_sched (s : State) (n : Nat) (f : Streamer → Streamer) : (s.modStreamer n f).sched = s.sched := rfl
@[simp] theorem State.modStreamer_tick (s : State) (n : Nat) (f : Streamer → Streamer) : (s.modStreamer n f).tick = s.tick := rfl
@[simp] theorem State.modStreamer_queues (s : State) (n : Nat) (f : Streamer → Streamer) : (s.modStreamer n f).queues = s.queues := rfl
@[simp] theorem State.modStreamer_cores (s : State) (n : Nat) (f : Streamer → Streamer) : (s.modStreamer n f).cores = s.cores := rfl
@[simp] theorem State.modStreamer_locks (s : State) (n : Nat) (f : Streamer → Streamer) : (s.modStreamer n f).locks = s.locks := rfl
@[simp] theorem State.modStreamer_mem (s : State) (n : Nat) (f : Streamer → Streamer) : (s.modStreamer n f).mem = s.mem := rfl
@[simp] theorem State.modStreamer_poison (s : State) (n : Nat) (f : Streamer → Streamer) : (s.modStreamer n f).poison = s.poison := rfl
@[simp] theorem State.modStreamer_l2Poison (s : State) (n : Nat) (f : Streamer → Streamer) : (s.modStreamer n f).l2Poison = s.l2Poison := rfl
@[simp] theorem State.modStreamer_races (s : State) (n : Nat) (f : Streamer → Streamer) : (s.modStreamer n f).races = s.races := rfl
@[simp] theorem State.modStreamer_stamps (s : State) (n : Nat) (f : Streamer → Streamer) : (s.modStreamer n f).stamps = s.stamps := rfl
@[simp] theorem State.modStreamer_codeLog (s : State) (n : Nat) (f : Streamer → Streamer) : (s.modStreamer n f).codeLog = s.codeLog := rfl
@[simp] theorem State.modStreamer_tlb (s : State) (n : Nat) (f : Streamer → Streamer) : (s.modStreamer n f).tlb = s.tlb := rfl
@[simp] theorem State.modStreamer_shadows (s : State) (n : Nat) (f : Streamer → Streamer) : (s.modStreamer n f).shadows = s.shadows := rfl
@[simp] theorem State.modStreamer_ops (s : State) (n : Nat) (f : Streamer → Streamer) : (s.modStreamer n f).ops = s.ops := rfl
@[simp] theorem State.modStreamer_next (s : State) (n : Nat) (f : Streamer → Streamer) : (s.modStreamer n f).next = s.next := rfl
@[simp] theorem State.modStreamer_asked (s : State) (n : Nat) (f : Streamer → Streamer) : (s.modStreamer n f).asked = s.asked := rfl
@[simp] theorem State.modStreamer_parked (s : State) (n : Nat) (f : Streamer → Streamer) : (s.modStreamer n f).parked = s.parked := rfl
@[simp] theorem State.modStreamer_net (s : State) (n : Nat) (f : Streamer → Streamer) : (s.modStreamer n f).net = s.net := rfl
@[simp] theorem State.modStreamer_launches (s : State) (n : Nat) (f : Streamer → Streamer) : (s.modStreamer n f).launches = s.launches := rfl
@[simp] theorem State.modStreamer_images (s : State) (n : Nat) (f : Streamer → Streamer) : (s.modStreamer n f).images = s.images := rfl
@[simp] theorem State.modStreamer_graphs (s : State) (n : Nat) (f : Streamer → Streamer) : (s.modStreamer n f).graphs = s.graphs := rfl
@[simp] theorem State.modStreamer_groups (s : State) (n : Nat) (f : Streamer → Streamer) : (s.modStreamer n f).groups = s.groups := rfl
@[simp] theorem State.modStreamer_exports (s : State) (n : Nat) (f : Streamer → Streamer) : (s.modStreamer n f).exports = s.exports := rfl
@[simp] theorem State.modStreamer_connectors (s : State) (n : Nat) (f : Streamer → Streamer) : (s.modStreamer n f).connectors = s.connectors := rfl
@[simp] theorem State.modStreamer_pillowTurn (s : State) (n : Nat) (f : Streamer → Streamer) : (s.modStreamer n f).pillowTurn = s.pillowTurn := rfl
@[simp] theorem State.modStreamer_savedCores (s : State) (n : Nat) (f : Streamer → Streamer) : (s.modStreamer n f).savedCores = s.savedCores := rfl
@[simp] theorem State.modStreamer_savedMem (s : State) (n : Nat) (f : Streamer → Streamer) : (s.modStreamer n f).savedMem = s.savedMem := rfl
@[simp] theorem State.modStreamer_vfs (s : State) (n : Nat) (f : Streamer → Streamer) : (s.modStreamer n f).vfs = s.vfs := rfl
@[simp] theorem State.modStreamer_pkgs (s : State) (n : Nat) (f : Streamer → Streamer) : (s.modStreamer n f).pkgs = s.pkgs := rfl
@[simp] theorem State.modStreamer_links (s : State) (n : Nat) (f : Streamer → Streamer) : (s.modStreamer n f).links = s.links := rfl
@[simp] theorem State.modStreamer_torus (s : State) (n : Nat) (f : Streamer → Streamer) : (s.modStreamer n f).torus = s.torus := rfl
@[simp] theorem State.modStreamer_conns (s : State) (n : Nat) (f : Streamer → Streamer) : (s.modStreamer n f).conns = s.conns := rfl
@[simp] theorem State.modStreamer_streams (s : State) (n : Nat) (f : Streamer → Streamer) : (s.modStreamer n f).streams = s.streams := rfl
@[simp] theorem State.modStreamer_pauses (s : State) (n : Nat) (f : Streamer → Streamer) : (s.modStreamer n f).pauses = s.pauses := rfl
@[simp] theorem State.modStreamer_toHost (s : State) (n : Nat) (f : Streamer → Streamer) : (s.modStreamer n f).toHost = s.toHost := rfl
@[simp] theorem State.modStreamer_unacked (s : State) (n : Nat) (f : Streamer → Streamer) : (s.modStreamer n f).unacked = s.unacked := rfl
@[simp] theorem State.modStreamer_nextTag (s : State) (n : Nat) (f : Streamer → Streamer) : (s.modStreamer n f).nextTag = s.nextTag := rfl

end Sys2Proof.Machine
end

