-- ==== Sys2Proof/Laws/Tables.lean ====
section
/-! SUPPORT. Tables keyed by plain data: reading after a write. -/

namespace Sys2Proof.Machine

variable {κ ν : Type} [DecidableEq κ]

theorem AMap.get_put (m : AMap κ ν) (k j : κ) (v : ν) :
    AMap.get (AMap.put m k v) j = if k = j then some v else AMap.get m j := by
  induction m with
  | nil => simp only [AMap.put, AMap.get]
  | cons e m ih =>
    obtain ⟨a, b⟩ := e
    simp only [AMap.put]
    by_cases h : a = k
    · subst h; simp only [if_true, AMap.get]; split <;> rfl
    · simp only [h, if_false, AMap.get, ih]
      by_cases h2 : a = j
      · subst h2; simp only [if_true, if_neg (Ne.symm h)]
      · simp only [if_neg h2]

theorem AMap.get_drop (m : AMap κ ν) (k j : κ) : AMap.get (AMap.drop m k) j = if k = j then none else AMap.get m j := by
  induction m with
  | nil => simp [AMap.drop, AMap.get]
  | cons e m ih =>
    obtain ⟨a, b⟩ := e
    unfold AMap.drop at ih ⊢
    by_cases h : a = k
    · subst h
      simp only [List.filter_cons, decide_true, Bool.not_true, if_neg Bool.false_ne_true, ih, AMap.get]
      by_cases h2 : a = j <;> simp [h2]
    · simp only [List.filter_cons, h, decide_false, Bool.not_false, if_true, AMap.get, ih]
      by_cases h2 : a = j
      · subst h2; simp [Ne.symm h]
      · simp [h2]

theorem State.core_modCore (s : State) (g h : Nat) (f : Core → Core) :
    (s.modCore g f).core h = if h = g then f (s.core g) else s.core h := by
  simp only [State.core, State.modCore, AMap.get_put]
  by_cases e : g = h
  · subst e; simp
  · simp [e, Ne.symm e]

theorem State.slotq_modSlotq (s : State) (l k : Nat) (a b : Seat) (f : SlotQueues → SlotQueues) :
    (s.modSlotq l a f).slotq k b = if k = l ∧ b = a then f (s.slotq l a) else s.slotq k b := by
  simp only [State.slotq, State.modSlotq, AMap.get_put, Prod.mk.injEq]
  by_cases e : l = k ∧ a = b
  · obtain ⟨rfl, rfl⟩ := e; simp
  · rw [if_neg e, if_neg (fun h => e ⟨h.1.symm, h.2.symm⟩)]

theorem State.vfun_modVfun (s : State) (p q f g : Nat) (h : VFun → VFun) (hf : f < 256) (hg : g < 256) :
    (s.modVfun p f h).vfun q g = if q = p ∧ g = f then h (s.vfun p f) else s.vfun q g := by
  simp only [State.vfun, State.modVfun, AMap.get_put]
  by_cases e : q = p ∧ g = f
  · obtain ⟨rfl, rfl⟩ := e; simp
  · rw [if_neg (by omega), if_neg e]

end Sys2Proof.Machine
end

