-- ==== Sys2Proof/Laws/Traps.lean ====
section
/-! SUPPORT. What giving up an instruction's reservations and taking a trap do. -/

namespace Sys2Proof.Machine

theorem State.unhold_cases (s : State) (i : Sid) : ∃ (u : State) (g : Nat),
    (u = s ∨ u = s.modSlotq i.launch i.seat
      (fun q => { q with holds := q.holds.filter (fun h => !decide (h.1 = i.unit)) })) ∧
    (s.unhold i = u ∨ s.unhold i = u.modCore g
      (fun c => { c with chHolds := c.chHolds.filter (fun h => !decide (h.1 = i)) })) := by
  exact ⟨if (AMap.get s.queues (i.launch, i.seat)).isSome then s.modSlotq i.launch i.seat
      (fun q => { q with holds := q.holds.filter (fun h => !decide (h.1 = i.unit)) }) else s, _,
    (ite_eq_or_eq _ _ _).symm, ite_eq_or_eq _ _ _⟩

theorem State.unhold_shape (s : State) (i : Sid) :
    s.unhold i = { s with queues := (s.unhold i).queues, cores := (s.unhold i).cores } := by
  obtain ⟨u, g, hu, hs⟩ := s.unhold_cases i
  rcases hu with rfl | rfl <;> rcases hs with h | h <;> rw [h] <;> rfl

theorem State.unhold_me (s : State) (i : Sid) : (s.unhold i).me = s.me := by
  rw [State.unhold_shape]

theorem State.unhold_entries (s : State) (i : Sid) (l : Nat) (seat : Seat) :
    ((s.unhold i).slotq l seat).q = (s.slotq l seat).q := by
  have hc : ∀ (u : State) g f, (u.modCore g f).slotq l seat = u.slotq l seat := fun _ _ _ => rfl
  obtain ⟨u, g, hu, hs⟩ := s.unhold_cases i
  have e : (s.unhold i).slotq l seat = u.slotq l seat := by
    rcases hs with h | h <;> rw [h]
    exact hc ..
  rw [e]
  rcases hu with rfl | rfl
  · rfl
  · rw [State.slotq_modSlotq]
    split
    · rename_i h; obtain ⟨rfl, rfl⟩ := h; rfl
    · rfl

theorem State.unhold_core (s : State) (i : Sid) (g : Nat) :
    (s.unhold i).core g = { s.core g with chHolds := ((s.unhold i).core g).chHolds } := by
  obtain ⟨u, k, hu, hs⟩ := s.unhold_cases i
  have e : u.core g = s.core g := by rcases hu with rfl | rfl <;> rfl
  rcases hs with h | h <;> rw [h]
  · rw [e]
  · rw [State.core_modCore]
    split
    · rename_i h; subst h; rw [e]
    · rw [e]

end Sys2Proof.Machine

namespace Sys2Proof.Safety

open Sys2Proof.Machine

theorem takeTrap_takes (s : State) (t : Trap) (h : s.me.id.unit = .compute) (hc : t.clear = none) (h8 : t.code < 256) :
    TakesTrap s t.code t.eaddr t.einfo (s.takeTrap t) := by
  have e : s.takeTrap t = (s.unhold s.me.id).modMe (fun c => c.enter t 0) := by
    unfold State.takeTrap
    rw [hc]
    simp only [State.unhold_me, h, if_true]
  rw [e]
  have hm := State.unhold_me s s.me.id
  refine ⟨?_, ?_, ?_, ?_, ?_, ?_, ?_, ?_, State.unhold_entries s _, State.unhold_core s _, ?_⟩
  all_goals simp only [State.modMe, hm, Strand.enter, ecauseOf, bne_self_eq_false, Bool.false_or]
  · rw [Nat.mod_eq_of_lt h8, Nat.zero_mul, Nat.add_zero]
  · rw [State.unhold_shape]
  · intro k
    rw [State.unhold_shape]

end Sys2Proof.Safety
end

