-- ==== Sys2Proof/Tests/Slice0.lean ====
section
/-! SUPPORT. Checks of the model against the spec's own words: ill-formed terms, words written out from the encoding tables of
03_encoding.md, the spec's worked numbers, and for the hypotheses of each statement a state and operands that meet them. -/

namespace Sys2Proof.Tests

open Sys2Proof.Machine Sys2Proof.Safety

set_option Elab.async false

/-! ## States -/

/-- A compute strand in slot 0 of core 0 that is about to fetch `TRAP #7` (R99) at 0x1_0000. -/
def base : State := State.reset.withFetchWord 32 0x000E0038

/-- `base` with its strand changed. -/
def me (f : Strand → Strand) : State := base.modMe f

/-- `base` at a level. -/
def level (l : Level) : State := me (fun c => { c with level := l })

/-- Registers set. -/
def x (l : List (Reg × W64)) (s : State) : State := l.foldl (fun s p => s.setX p.1 p.2) s

/-- Vector registers set. -/
def v (l : List (Reg × V128)) (s : State) : State := l.foldl (fun s p => s.setV p.1 p.2) s

/-- `base` with its launch changed. -/
def launch (f : Launch → Launch) : State := base.modLaunch base.me.id.launch f

/-- `base` with a pool of words of one kind. -/
def pool (ws : List W64) (k : BitVec 4) : State := launch (fun l => { l with pool := ws, kinds := ws.map (fun _ => k) })

/-- `base` with its core changed. -/
def core (f : Core → Core) : State := base.modCore 0 f

/-- `base` with the strand's queue register 1 holding entries. -/
def queue (l : List V128) : State := base.modMyQueues (fun q => { q with q := q.q.set 1 l })

/-- The loader of the slot, its compute strand beside it. -/
def helper : State := { base with me := { base.me with id := { base.me.id with unit := .loader } }, rest := [base.me] }

/-- An atomic of the strand that its target has not performed yet. -/
def outstanding (ref : Nat) : AmopOut := { ref, home := ⟨none, none, none⟩, va := 0, lines := [], away := true, gang := false }

/-- A message on channel 2 that the strand has sent to its own core. -/
def sentMsg : InjEntry :=
  { sender := some base.me.id, launch := base.me.id.launch, vc := 0, after := 0, born := 0,
    msg := { ch := 2, rpy := false, vc := 0, tid := 0, bytes := 16, data := List.replicate 16 7 } }

/-- What an instruction leaves, read from its next state. -/
noncomputable def after {α : Type} (i : Instr) (s : State) (d : α) (f : State → α) : α :=
  match Sys2Proof.Machine.exec i s with
  | .next t => f t
  | _ => d

/-- A check or access that goes through: some answer and some state meet `Gives`. -/
def ok {α : Type} (m : M α) (s : State) : Bool :=
  match m s with
  | .ok _ _ => true
  | .error _ _ => false

/-- What it answers. -/
def answers {α : Type} [DecidableEq α] (m : M α) (s : State) (a : α) : Bool :=
  match m s with
  | .ok b _ => decide (b = a)
  | .error _ _ => false

/-- Words that decode to an instruction and are what it encodes to. -/
noncomputable def reads (l : List (List W32 × Instr)) : Bool :=
  l.all (fun p => decide (decode p.1 = .ok p.2) && decide (encode p.2 = p.1))

/-! ## Ill-formed terms, one for each check -/

theorem test_illformed_integer : [Instr.add .bf16 1 2 (.reg 3), .clz .c4 1 2, .sel .f32 1 2 3 (.reg 4), .vmulh .f32 1 2 3].all
    (fun i => !WellFormed i) = true := by decide +kernel
theorem test_illformed_float : [Instr.fadd .i32 1 2 (.reg 3), .fadd .bf16 1 2 (.lit 0), .fma .f32 1 2 3 (.lit (2 ^ 32)), .fsqrt .n8 1 2,
    .fcvt .i8 .n32 1 2, .fcvt .c4 .f32 1 2].all (fun i => !WellFormed i) = true := by decide +kernel
theorem test_illformed_system : [Instr.loop 0 1, .mfs 1 0x007, .mfs 1 0x009, .mts 0x008 1, .mts 0x0FF 1, .fence 0 .sys].all
    (fun i => !WellFormed i) = true := by decide +kernel
theorem test_illformed_memory : [Instr.ld .c4 1 2 0, .amoAdd .i8 1 2 (.reg 3), .cas .f32 1 2 (.reg 3) 4, .amoFadd .i32 1 2 (.reg 3),
    .amopFadd .n32 2 (.reg 3), .vldX .c4 false ⟨0, false⟩ 1 2 0, .vldX .i8 false ⟨0, true⟩ 1 2 0, .vgath .f32 false ⟨0, false⟩ 1 2 3,
    .copy false 1 2 3 4 5].all (fun i => !WellFormed i) = true := by decide +kernel
theorem test_illformed_vector : [Instr.vadd .c4 1 2 3, .vdot .i32 1 2 3, .vcvt .i8 .i16 1 2, .vnarrow .i8 1 2, .vwiden .i64 1 2,
    .vlut .i8 1 2 4, .vlut .c4 1 2 3].all (fun i => !WellFormed i) = true := by decide +kernel
theorem test_illformed_vectorX : [Instr.vaddX .f32 true ⟨1, false⟩ 1 (.reg 2) (.reg 3), .vaddX .i8 false ⟨0, true⟩ 1 (.reg 2) (.reg 3),
    .vaddX .i8 false ⟨1, false⟩ 1 (.lit 0 0) (.reg 3), .vaddX .i8 false ⟨1, false⟩ 1 (.chan 1) (.reg 3),
    .vaddX .i8 false ⟨1, false⟩ 1 (.reg 2) (.lit 1 0), .vaddX .i8 false ⟨1, false⟩ 1 (.chan 2) (.chan 2),
    .vaddX .i8 false ⟨1, false⟩ 1 (.pool 2) (.pool 2), .vfma .i32 ⟨1, false⟩ 1 (.reg 2) 3 (.reg 4),
    .vcmp .unord .i8 ⟨1, false⟩ 1 (.reg 2) (.reg 3), .vpermX .i8 ⟨1, false⟩ 1 (.reg 2) (.lit 0 0),
    .vlutX .n8 1 ⟨1, false⟩ 1 (.reg 2) (.reg 4), .vlutX .c4 1 ⟨1, false⟩ 1 (.reg 2) (.reg 3),
    .vtopkX .i8 false 1 1 (.reg 2) (.reg 3) 4, .vaccs .c4 ⟨1, false⟩ 1 2, .mandX ⟨0, true⟩ 1 2 (.reg 3)].all (fun i => !WellFormed i) = true := by
  decide +kernel
theorem test_illformed_message : [Instr.mmuls 1 1 2, .send false 1 2 (.reg 3), .send false 2 2 (.chan 3), .send false 2 2 (.lit 0 0),
    .sendb false 0 1 2 3].all (fun i => !WellFormed i) = true := by decide +kernel

/-! ## Words (R46-R75): each decodes to its instruction and is what it encodes to -/

/-- R61. -/
theorem test_decode_int1 : reads [
    ([0x008E6284], .add .i32 5 6 (.reg 7)),
    ([0x048E6284], .sub .i32 5 6 (.reg 7)),
    ([0x088E6284], .mul .i32 5 6 (.reg 7)),
    ([0x0C8E6284], .mulh .i32 5 6 (.reg 7)),
    ([0x108E6284], .mulhn .i32 5 6 (.reg 7)),
    ([0x148E6284], .div .i32 5 6 (.reg 7)),
    ([0x188E6284], .divn .i32 5 6 (.reg 7)),
    ([0x1C8E6284], .rem .i32 5 6 (.reg 7)),
    ([0x208E6284], .remn .i32 5 6 (.reg 7)),
    ([0x248E6284], .and .i32 5 6 (.reg 7)),
    ([0x288E6284], .or .i32 5 6 (.reg 7)),
    ([0x2C8E6284], .xor .i32 5 6 (.reg 7)),
    ([0x308E6284], .andn .i32 5 6 (.reg 7)),
    ([0x348E6284], .shl .i32 5 6 (.reg 7))] = true := by decide +kernel

/-- R61. -/
theorem test_decode_int2 : reads [
    ([0x388E6284], .shr .i32 5 6 (.reg 7)),
    ([0x3C8E6284], .shra .i32 5 6 (.reg 7)),
    ([0x408E6284], .rotl .i32 5 6 (.reg 7)),
    ([0x448E6284], .min .i32 5 6 (.reg 7)),
    ([0x488E6284], .max .i32 5 6 (.reg 7)),
    ([0x4C8E6284], .minn .i32 5 6 (.reg 7)),
    ([0x508E6284], .maxn .i32 5 6 (.reg 7)),
    ([0x548E6284], .slt .i32 5 6 (.reg 7)),
    ([0x588E6284], .sltn .i32 5 6 (.reg 7)),
    ([0x5C8E6284], .seq .i32 5 6 (.reg 7)),
    ([0x61806284], .clz .n32 5 6),
    ([0x65806284], .ctz .n32 5 6),
    ([0x69806284], .popc .n32 5 6),
    ([0x6D806284], .sext .n32 5 6)] = true := by decide +kernel

/-- R61. -/
theorem test_decode_int3 : reads [
    ([0x71806284], .zext .n32 5 6),
    ([0x74C06285, 0x00000408, 0x00000000], .bfx .i64 5 6 (.lit 0x408)),
    ([0x79CE6284], .bfi .n64 5 6 (.reg 7)),
    ([0x00C06285, 0x000003E8, 0x00000000], .add .i64 5 6 (.lit 1000))] = true := by decide +kernel

/-- R85. -/
theorem test_decode_immediate : reads [
    ([0xFFFFD288], .li 5 0xFFFFD),
    ([0x00000289, 0x9ABCDEF0, 0x12345678], .liLit 5 0x1234_5678_9ABC_DEF0),
    ([0x1234528C], .lih 5 0x12345),
    ([0x0012C390], .lk 7 300),
    ([0x00008294], .addpc 5 8),
    ([0x4020031C], .fli 6 0x40200)] = true := by decide +kernel

/-- R62, R72. -/
theorem test_decode_float : reads [
    ([0x024E6298], .fadd .f32 5 6 (.reg 7)),
    ([0x064E6298], .fsub .f32 5 6 (.reg 7)),
    ([0x0A4E6298], .fmul .f32 5 6 (.reg 7)),
    ([0x0E4E6298], .fdiv .f32 5 6 (.reg 7)),
    ([0x124E6298], .fmin .f32 5 6 (.reg 7)),
    ([0x164E6298], .fmax .f32 5 6 (.reg 7)),
    ([0x1A006298], .fsqrt .bf16 5 6),
    ([0x1E0E6298], .feq .bf16 5 6 (.reg 7)),
    ([0x220E6298], .flt .bf16 5 6 (.reg 7)),
    ([0x260E6298], .fle .bf16 5 6 (.reg 7)),
    ([0x2A406298], .fclass .f32 5 6),
    ([0x2E126298], .fcvt .bf16 .f32 5 6),
    ([0x02426299, 0x3F8CCCCD, 0x00000000], .fadd .f32 5 6 (.lit 0x3F8C_CCCD)),
    ([0x04106286, 0x38000090, 0x00000000], .fma .f32 5 6 7 (.reg 8))] = true := by decide +kernel

/-- R63. -/
theorem test_decode_branch : reads [
    ([0x014E6020], .beq 6 7 5),
    ([0x014E60A0], .bne 6 7 5),
    ([0x014E6120], .blt 6 7 5),
    ([0x014E61A0], .bge 6 7 5),
    ([0x014E6220], .bltn 6 7 5),
    ([0x014E62A0], .bgen 6 7 5),
    ([0xFFF89024], .bz 9 0x7FFC),
    ([0xFFF890A4], .bnz 9 0x7FFC),
    ([0xFFF89124], .bltz 9 0x7FFC),
    ([0xFFF891A4], .bgez 9 0x7FFC),
    ([0xFFF89224], .bgtz 9 0x7FFC),
    ([0xFFF892A4], .blez 9 0x7FFC)] = true := by decide +kernel

/-- R63. -/
theorem test_decode_jump : reads [
    ([0x00008028], .j 256),
    ([0x0000802C], .jal 256),
    ([0x00001030], .jalr 0 1 0),
    ([0xFFFA5034], .loop 5 0x7FFD)] = true := by decide +kernel

/-- R64. -/
theorem test_decode_system1 : reads [
    ([0x000E0038], .trap 7),
    ([0x20000038], .eret),
    ([0x404202B8], .mfs 5 0x021),
    ([0x402201B8], .mfs 3 0x011),
    ([0x401202B8], .mfsFstat 5),
    ([0x60223038], .mts 0x011 3),
    ([0x60106038], .mtsFcr 6),
    ([0x60126038], .mtsFstat 6),
    ([0x60146038], .mtsSqcap 6),
    ([0x60286038], .mtsTvec 6),
    ([0x60306038], .mtsHmask 6),
    ([0x60326038], .mtsHacc 6),
    ([0x60606038], .mtsSlotw 6),
    ([0x61E06038], .mtsL2mask 6)] = true := by decide +kernel

/-- R64. -/
theorem test_decode_system2 : reads [
    ([0x80000038], .bkpt 0),
    ([0xA0000038], .synci)] = true := by decide +kernel

/-- R65, R66. -/
theorem test_decode_memory : reads [
    ([0x00CA72BC], .ld .n16 5 7 6),
    ([0xFFE622C0], .st .i64 5 2 0x7FF),
    ([0x004271CC], .vld true 3 7 2),
    ([0x004071D0], .vst false 3 7 2),
    ([0x000060C4], .ldq 1 6),
    ([0x04026044], .stq 6 1),
    ([0x080062C4], .sptest 5 6),
    ([0x0CC062C4], .spcast .clus 5 6),
    ([0x114062C4], .spmake .gang 5 6),
    ([0x14C000C4], .fence 1 .pkg),
    ([0x150001C4], .fence 3 .sys),
    ([0x18406044], .pref true 6)] = true := by decide +kernel

/-- R67, R72. -/
theorem test_decode_atomic1 : reads [
    ([0x00CE62C8], .amoAdd .i64 5 6 (.reg 7)),
    ([0x40CE6048], .amopAdd .i64 6 (.reg 7)),
    ([0x04CE62C8], .amoAnd .i64 5 6 (.reg 7)),
    ([0x44CE6048], .amopAnd .i64 6 (.reg 7)),
    ([0x08CE62C8], .amoOr .i64 5 6 (.reg 7)),
    ([0x48CE6048], .amopOr .i64 6 (.reg 7)),
    ([0x0CCE62C8], .amoXor .i64 5 6 (.reg 7)),
    ([0x4CCE6048], .amopXor .i64 6 (.reg 7)),
    ([0x10CE62C8], .amoMin .i64 5 6 (.reg 7)),
    ([0x50CE6048], .amopMin .i64 6 (.reg 7)),
    ([0x14CE62C8], .amoMax .i64 5 6 (.reg 7)),
    ([0x54CE6048], .amopMax .i64 6 (.reg 7)),
    ([0x18CE62C8], .amoMinn .i64 5 6 (.reg 7)),
    ([0x58CE6048], .amopMinn .i64 6 (.reg 7))] = true := by decide +kernel

/-- R67, R72. -/
theorem test_decode_atomic2 : reads [
    ([0x1CCE62C8], .amoMaxn .i64 5 6 (.reg 7)),
    ([0x5CCE6048], .amopMaxn .i64 6 (.reg 7)),
    ([0x20CE62C8], .amoSwap .i64 5 6 (.reg 7)),
    ([0x60CE6048], .amopSwap .i64 6 (.reg 7)),
    ([0x264E62C8], .amoFadd .f32 5 6 (.reg 7)),
    ([0x664E6048], .amopFadd .f32 6 (.reg 7)),
    ([0x008062C9, 0x00000009, 0x00000000], .amoAdd .i32 5 6 (.lit 9)),
    ([0x080E6286, 0x40000030, 0x00000000], .cas .i64 5 6 (.reg 7) 8)] = true := by decide +kernel

/-- R68. -/
theorem test_decode_engine : reads [
    ([0x00006054], .nack 6),
    ([0x040E6054], .barinit 6 7),
    ([0x080062D4], .bararv 5 6),
    ([0x0C0E6054], .barexp 6 7),
    ([0x100E6054], .barwait 6 7),
    ([0x140E62D4], .bartry 5 6 7)] = true := by decide +kernel

/-- R72. -/
theorem test_decode_scalarX : reads [
    ([0x000E6286, 0x40000030, 0x00000000], .sel .i64 5 8 6 (.reg 7))] = true := by decide +kernel

/-- R72. -/
theorem test_decode_memoryX : reads [
    ([0x0040718A, 0x00140010, 0x00000020], .vldX .i16 true ⟨2, true⟩ 3 7 0x20),
    ([0x0440718A, 0x00140010, 0x00000020], .vstX .i16 true ⟨2, true⟩ 3 7 0x20),
    ([0x0810718A, 0x00140020, 0x00000000], .vlds .i32 false ⟨2, true⟩ 3 7 8),
    ([0x0C10718A, 0x00140020, 0x00000000], .vsts .i32 false ⟨2, true⟩ 3 7 8),
    ([0x1010718A, 0x00140020, 0x00000000], .vgath .i32 false ⟨2, true⟩ 3 7 8),
    ([0x1410718A, 0x00140020, 0x00000000], .vscat .i32 false ⟨2, true⟩ 3 7 8),
    ([0x1800718A, 0x00140088, 0x00280402], .vldb .bf16 false ⟨2, true⟩ 3 7 ⟨40, 4, 2⟩),
    ([0x1C00718A, 0x00140088, 0x00280402], .vstb .bf16 false ⟨2, true⟩ 3 7 ⟨40, 4, 2⟩)] = true := by decide +kernel

/-- R72. -/
theorem test_decode_engineX : reads [
    ([0x0016A68E, 0x60005000, 0x00000000], .copy false 5 10 11 12 13),
    ([0x0056A68E, 0x60005000, 0x00000000], .copy true 5 10 11 12 13),
    ([0x0400A68E, 0x00005008, 0x00280402], .copyb false 5 10 ⟨40, 4, 2⟩ 13),
    ([0x0856A68E, 0x60005000, 0x00000000], .notice true 5 10 11 12 13),
    ([0x0C00A00E, 0x00005000, 0x00000000], .tidwait 5 10),
    ([0x1000030E, 0x00005000, 0x00000000], .tidget 6 5),
    ([0x1400000E, 0x00000008, 0x00280000], .publish 40)] = true := by decide +kernel

/-- R69. -/
theorem test_decode_vector1 : reads [
    ([0x004A41D8], .vadd .i16 3 4 5),
    ([0x044A41D8], .vsub .i16 3 4 5),
    ([0x084A41D8], .vmul .i16 3 4 5),
    ([0x0C4A41D8], .vmulh .i16 3 4 5),
    ([0x104A41D8], .vmin .i16 3 4 5),
    ([0x144A41D8], .vmax .i16 3 4 5),
    ([0x204A41D8], .vand .i16 3 4 5),
    ([0x244A41D8], .vor .i16 3 4 5),
    ([0x284A41D8], .vxor .i16 3 4 5),
    ([0x2C4A41D8], .vshl .i16 3 4 5),
    ([0x304A41D8], .vshr .i16 3 4 5),
    ([0x344A41D8], .vshra .i16 3 4 5),
    ([0x484A41D8], .vins .i16 3 4 5),
    ([0x4C4A41D8], .vext .i16 3 4 5)] = true := by decide +kernel

/-- R69. -/
theorem test_decode_vector2 : reads [
    ([0x504A41D8], .vperm .i16 3 4 5),
    ([0x544A41D8], .vzip .i16 3 4 5),
    ([0x184041D8], .vabs .i16 3 4),
    ([0x1C4041D8], .vneg .i16 3 4),
    ([0x444041D8], .vsplat .i16 3 4),
    ([0x584041D8], .vredadd .i16 3 4),
    ([0x5C4041D8], .vredmax .i16 3 4),
    ([0x604041D8], .vredmin .i16 3 4),
    ([0x6C4041D8], .vnarrow .i16 3 4),
    ([0x704041D8], .vwiden .i16 3 4),
    ([0x650A41D8], .vdot .n8 3 4 5),
    ([0x6A1241D8], .vcvt .bf16 .f32 3 4),
    ([0x768820D8], .vlut .c4 1 2 4),
    ([0x788241D8], .vcomp .i32 3 4 1)] = true := by decide +kernel

/-- R69. -/
theorem test_decode_vector3 : reads [
    ([0x7C8241D8], .vexpnd .i32 3 4 1),
    ([0x825283D8], .vtopk .f32 7 8 9),
    ([0x840620D8], .mand 1 2 3),
    ([0x880620D8], .mor 1 2 3),
    ([0x8C0020D8], .mnot 1 2),
    ([0x900022D8], .mpopc 5 2)] = true := by decide +kernel

/-- R69, R73. -/
theorem test_decode_vectorX1 : reads [
    ([0x004A4192, 0x00140010, 0x00000000], .vaddX .i16 true ⟨2, true⟩ 3 (.reg 4) (.reg 5)),
    ([0x044A4192, 0x00140010, 0x00000000], .vsubX .i16 true ⟨2, true⟩ 3 (.reg 4) (.reg 5)),
    ([0x084A4192, 0x00140010, 0x00000000], .vmulX .i16 true ⟨2, true⟩ 3 (.reg 4) (.reg 5)),
    ([0x2C4A4192, 0x00140010, 0x00000000], .vshlX .i16 true ⟨2, true⟩ 3 (.reg 4) (.reg 5)),
    ([0x0C0A4192, 0x00140410, 0x00000000], .vmulhX .i16 ⟨2, true⟩ 3 (.queue 4) (.reg 5)),
    ([0x100A4192, 0x00140410, 0x00000000], .vminX .i16 ⟨2, true⟩ 3 (.queue 4) (.reg 5)),
    ([0x140A4192, 0x00140410, 0x00000000], .vmaxX .i16 ⟨2, true⟩ 3 (.queue 4) (.reg 5)),
    ([0x200A4192, 0x00140410, 0x00000000], .vandX .i16 ⟨2, true⟩ 3 (.queue 4) (.reg 5)),
    ([0x240A4192, 0x00140410, 0x00000000], .vorX .i16 ⟨2, true⟩ 3 (.queue 4) (.reg 5)),
    ([0x280A4192, 0x00140410, 0x00000000], .vxorX .i16 ⟨2, true⟩ 3 (.queue 4) (.reg 5)),
    ([0x300A4192, 0x00140410, 0x00000000], .vshrX .i16 ⟨2, true⟩ 3 (.queue 4) (.reg 5)),
    ([0x340A4192, 0x00140410, 0x00000000], .vshraX .i16 ⟨2, true⟩ 3 (.queue 4) (.reg 5)),
    ([0x18000192, 0x00149810, 0x00000000], .vabsX .i16 ⟨2, true⟩ 3 (.chan 9)),
    ([0x1C000192, 0x00149810, 0x00000000], .vnegX .i16 ⟨2, true⟩ 3 (.chan 9))] = true := by decide +kernel

/-- R69, R73. -/
theorem test_decode_vectorX2 : reads [
    ([0x38021093, 0x00000090, 0x00000000, 0x40200000, 0x00000000], .vfma .f32 ⟨0, false⟩ 1 (.reg 1) 0 (.lit 1 0x4020_0000)),
    ([0x3D062092, 0x00000090, 0x00000000], .vcmp .lt .f32 ⟨0, false⟩ 1 (.reg 2) (.reg 3)),
    ([0x40004192, 0x00100318, 0x00280000], .vsel .i16 2 3 (.reg 4) (.pool 40)),
    ([0x44004192, 0x00140010, 0x00000000], .vsplatX .i16 ⟨2, true⟩ 3 4),
    ([0x480A4192, 0x00140010, 0x00000000], .vinsX .i16 ⟨2, true⟩ 3 4 (.reg 5)),
    ([0x4C0A4192, 0x00100010, 0x00000000], .vextX .i16 2 3 (.reg 4) (.reg 5)),
    ([0x50064193, 0x00140040, 0x00000000, 0x03020100, 0x07060504], .vpermX .n8 ⟨2, true⟩ 3 (.reg 4) (.lit 3 0x0706050403020100)),
    ([0x558A4192, 0x00140010, 0x00000000], .vzipX 3 .i16 ⟨2, true⟩ 3 (.reg 4) (.reg 5)),
    ([0x58004192, 0x00100010, 0x00000000], .vredaddX .i16 2 3 (.reg 4)),
    ([0x5C004192, 0x00100010, 0x00000000], .vredmaxX .i16 2 3 (.reg 4)),
    ([0x60004192, 0x00100010, 0x00000000], .vredminX .i16 2 3 (.reg 4)),
    ([0x640A4192, 0x00140040, 0x00000000], .vdotX .n8 ⟨2, true⟩ 3 (.reg 4) (.reg 5)),
    ([0x68124192, 0x00140080, 0x00000000], .vcvtX .bf16 .f32 ⟨2, true⟩ 3 (.reg 4)),
    ([0x6CC04192, 0x00140010, 0x00000000], .vnarrowX .i16 true true ⟨2, true⟩ 3 (.reg 4))] = true := by decide +kernel

/-- R69, R73. -/
theorem test_decode_vectorX3 : reads [
    ([0x70804192, 0x00140010, 0x00000000], .vwidenX .i16 true ⟨2, true⟩ 3 (.reg 4)),
    ([0x750C4192, 0x001400A0, 0x00000000], .vlutX .c4 2 ⟨2, true⟩ 3 (.reg 4) (.reg 6)),
    ([0x78023112, 0x01400020, 0x00000000], .vcompX .i32 0 2 (.reg 3) (.reg 1) 5),
    ([0x7C023112, 0x01400020, 0x00000000], .vexpndX .i32 0 2 (.reg 3) (.reg 1) 5),
    ([0x80928392, 0x01900090, 0x00000000], .vtopkX .f32 true 2 7 (.reg 8) (.reg 9) 6),
    ([0x84062092, 0x00140000, 0x00000000], .mandX ⟨2, true⟩ 1 2 (.reg 3)),
    ([0x88062092, 0x00140000, 0x00000000], .morX ⟨2, true⟩ 1 2 (.reg 3)),
    ([0x8C002092, 0x00140000, 0x00000000], .mnotX ⟨2, true⟩ 1 2),
    ([0x90003292, 0x00100000, 0x00000000], .mpopcX 2 5 3),
    ([0x94000312, 0x00009890, 0x00000000], .vaccs .f32 ⟨0, false⟩ 6 9)] = true := by decide +kernel

/-- R74. -/
theorem test_decode_matrix1 : reads [
    ([0x00000296, 0x00000000, 0x00000004], .acq 5 4),
    ([0x04005016, 0x00000000, 0x00000001], .rel 5 1),
    ([0x08005016, 0x00000000, 0x00000201], .mshape 5 0x201),
    ([0x0C005016, 0x00000000, 0x00000004], .mzero 5 4),
    ([0x10000016, 0x00000008, 0x000B0000], .mcbl ⟨11, 0, 0⟩),
    ([0x14000016, 0x00000088, 0x000C0000], .mwld .bf16 false ⟨12, 0, 0⟩),
    ([0x18000016, 0x00000000, 0x00000000], .mcfg 0),
    ([0x1C0C5016, 0x38000000, 0x00000002], .mmul false 5 (.mem 6 7 2)),
    ([0x1C025016, 0x00000100, 0x00000004], .mmul false 5 (.queue 1 4)),
    ([0x1C005016, 0x00000308, 0x000E0000], .mmul false 5 (.buf ⟨14, 0, 0⟩)),
    ([0x20005016, 0x00009200, 0x00000040], .mmuls 5 9 64),
    ([0x24005416, 0x00000088, 0x000D0000], .mdrain .bf16 false 5 ⟨13, 0, 0⟩ 8 0),
    ([0x28005116, 0x00000000, 0x00000008], .mrd 2 5 8),
    ([0x2C065016, 0x00000000, 0x00000008], .mwr 5 3 8)] = true := by decide +kernel

/-- R74. -/
theorem test_decode_matrix2 : reads [
    ([0x30000016, 0x00000000, 0x00000021], .msplit 0x21)] = true := by decide +kernel

/-- R70. -/
theorem test_decode_strand1 : reads [
    ([0x000C505C], .fork 5 6),
    ([0x0400005C], .rdv),
    ([0x0800005C], .endHelper),
    ([0x0C06105C], .qput false 1 3),
    ([0x0C4A105C], .qput true 1 5),
    ([0x1000125C], .qget false 4 1),
    ([0x145023DC], .qtry true 7 2 8),
    ([0x1800A15C], .msgrd false 2 10),
    ([0x1840A2DC], .msgrd true 5 10),
    ([0x1C00005C], .msgdone),
    ([0x2000005C], .yieldSlot),
    ([0x2400005C], .exit),
    ([0x2800005C], .waitdep),
    ([0x2C00005C], .trigger)] = true := by decide +kernel

/-- R70. -/
theorem test_decode_strand2 : reads [
    ([0x3000505C], .migrate 5)] = true := by decide +kernel

/-- R75. -/
theorem test_decode_message : reads [
    ([0x000C501A, 0x00002000, 0x00000000], .send false 2 5 (.reg 6)),
    ([0x004C501A, 0x00002000, 0x00000000], .send true 2 5 (.reg 6)),
    ([0x0008501A, 0x00002100, 0x00000000], .send false 2 5 (.queue 4)),
    ([0x040C501A, 0x38003000, 0x00000000], .sendb false 3 5 6 7),
    ([0x0800501A, 0x00002000, 0x0000001D], .hset 2 5 0x1D),
    ([0x0C00029A, 0x00000008, 0x00030000], .join 5 3),
    ([0x1000001A, 0x00000008, 0x00030000], .leave 3),
    ([0x1400001A, 0x00000008, 0x00030000], .gbar 3)] = true := by decide +kernel

/-- R75. -/
theorem test_decode_port : reads [
    ([0x0000329E, 0x00000008, 0x00140000], .put 5 20 3),
    ([0x0400021E, 0x01800008, 0x00150000], .get 4 6 21),
    ([0x0800301E, 0x00000008, 0x00140000], .putnb 20 3),
    ([0x0C00001E, 0x00000008, 0x00150000], .getnb 21),
    ([0x1000039E, 0x02000008, 0x00150000], .pwait 7 8 21),
    ([0x1400049E, 0x00000008, 0x00140000], .pwdraw 9 20)] = true := by decide +kernel

/-- R75. -/
theorem test_decode_reactive : reads [
    ([0x00005022, 0x00000008, 0x00030000], .emit 3 5),
    ([0x04000322, 0x00000008, 0x00030000], .sigtst 6 3),
    ([0x080000A2, 0x00000008, 0x0003FFFB], .bsig true 3 0xFFFB),
    ([0x0C000022, 0x00000008, 0x00030000], .retract 3),
    ([0x10000022, 0x00000000, 0x00000000], .pause),
    ([0x140022A2, 0x00000000, 0x00000000], .zrd 5 2),
    ([0x18005122, 0x00000000, 0x00000000], .zwr 2 5),
    ([0x1C0003A2, 0x00000008, 0x00030000], .sigpre 7 3)] = true := by decide +kernel

/-- R75. -/
theorem test_decode_gang : reads [
    ([0x000E62A6, 0x00000000, 0x00000000], .gwopen 5 6 7),
    ([0x04000026, 0x00000000, 0x00000000], .gwdetach),
    ([0x080002A6, 0x00000000, 0x00000000], .gwstat 5),
    ([0x0C005026, 0x00000000, 0x00000000], .tqpush 5),
    ([0x100002A6, 0x01800000, 0x00000000], .tqtake 5 6),
    ([0x140072A6, 0x01800000, 0x00000000], .tqsteal 5 6 7),
    ([0x18006026, 0x00000000, 0x00000000], .tqdone 6),
    ([0x1C0072A6, 0x00000000, 0x00000003], .stragrd 5 7 3)] = true := by decide +kernel

/-- R46, R52, R59-R75, R77: words that stand for no instruction, and what is wrong with each: an unassigned major and op, a type
out of range, a reserved field, a missing word, a register above its class, a literal where none may stand, Z under m0. -/
theorem test_refused_words :
    [([(0x00000000 : W32)], DecErr.mk 0 .major), ([0x00000060], ⟨0, .major⟩), ([0xFC000004], ⟨0, .op⟩), ([0x02400004], ⟨0, .type⟩),
     ([0x62020304], ⟨0, .type⟩), ([0x00C03185, 4], ⟨0, .framing⟩), ([0x000004C4], ⟨0, .reg⟩), ([0xC0000038], ⟨0, .sub⟩)].all
      (fun p => decide (decode p.1 = .error p.2)) = true := by decide +kernel

/-! ## Worked numbers of the spec (R30, R82-R85, R88, R117, R142, R152, R154, R155) -/

theorem test_add_wraps : after (.add .i32 5 6 (.reg 7)) (x [(6, 0x7FFF_FFFF), (7, 1)] base) 0 (·.x 5) = 0xFFFF_FFFF_8000_0000 := by decide +kernel
theorem test_add_natural : after (.add .n32 5 6 (.reg 7)) (x [(6, 0x7FFF_FFFF), (7, 1)] base) 0 (·.x 5) = 0x8000_0000 := by decide +kernel
theorem test_div_truncates : after (.div .i64 5 6 (.lit 2)) (x [(6, -7)] base) 0 (fun t => (t.x 5, t.me.pc)) = (-3, 0x1_000C) := by decide +kernel
theorem test_rem_sign : after (.rem .i64 5 6 (.lit 2)) (x [(6, -7)] base) 0 (·.x 5) = -1 := by decide +kernel
theorem test_divn_zero : after (.divn .i64 5 6 (.reg 0)) (x [(6, 7)] base) 0 (·.x 5) = 0xFFFF_FFFF_FFFF_FFFF := by decide +kernel
theorem test_shra : after (.shra .i8 5 6 (.reg 7)) (x [(6, 0x80), (7, 9)] base) 0 (·.x 5) = 0xFFFF_FFFF_FFFF_FFC0 := by decide +kernel
theorem test_clz : after (.clz .n32 5 6) (x [(6, 0x1_0000)] base) 0 (·.x 5) = 15 := by decide +kernel
theorem test_mulh : after (.mulh .i64 5 6 (.reg 7)) (x [(6, -1), (7, 1)] base) 0 (·.x 5) = 0xFFFF_FFFF_FFFF_FFFF := by decide +kernel
theorem test_mulhn : after (.mulhn .i64 5 6 (.reg 7)) (x [(6, -1), (7, 2)] base) 0 (·.x 5) = 1 := by decide +kernel
theorem test_bfx_signed : after (.bfx .i64 5 6 (.lit 0x0408)) (x [(6, 0xF30)] base) 0 (·.x 5) = 0xFFFF_FFFF_FFFF_FFF3 := by decide +kernel
theorem test_bfx_natural : after (.bfx .n64 5 6 (.lit 0x0408)) (x [(6, 0xF30)] base) 0 (·.x 5) = 0xF3 := by decide +kernel
theorem test_x0_discards : after (.add .i64 0 6 (.lit 2)) (x [(6, 7)] base) 1 (·.x 0) = 0 := by decide +kernel
theorem test_fcvt_bound : after (.fcvt .i32 .f32 5 6) (x [(6, 0x4F00_0000)] base) (0, 0) (fun t => (t.x 5, t.me.fstat)) = (0x7FFF_FFFF, 1) := by decide +kernel
theorem test_fcvt_natural : after (.fcvt .n32 .f32 5 6) (x [(6, 0xBECC_CCCD)] base) (0, 0) (fun t => (t.x 5, t.me.fstat)) = (0, 0x10) := by decide +kernel
theorem test_fcvt_even : after (.fcvt .bf16 .i32 5 6) (x [(6, 257)] base) (0, 0) (fun t => (t.x 5, t.me.fstat)) = (0x4380, 0x10) := by decide +kernel
theorem test_spmake_local : after (.spmake .loc 5 6) ((x [(6, 0x1_2340)] base).modMe (fun c => { c with place := { c.place with core := 1234 } })) 0 (·.x 5) =
    0xF100_4D20_0001_2340 := by decide +kernel
theorem test_vadd_sat : after (.vaddX .i8 true ⟨0, false⟩ 3 (.reg 4) (.reg 5)) (v [(4, 0x70), (5, 0x20)] base) 0 (·.v 3) = 0x7F := by decide +kernel
theorem test_vadd_wrap : after (.vadd .i8 3 4 5) (v [(4, 0x70), (5, 0x20)] base) 0 (·.v 3) = 0x90 := by decide +kernel
theorem test_vsub_sat : after (.vsubX .n8 true ⟨0, false⟩ 3 (.reg 4) (.reg 5)) (v [(4, 0x10), (5, 0x20)] base) 1 (·.v 3) = 0 := by decide +kernel
theorem test_vmul_bf16 : after (.vmul .bf16 3 4 5) (v [(4, 0x3F8D), (5, 0x4040)] base) (0, 0) (fun t => (t.v 3, t.me.fstat)) = (0x4054, 0x10) := by decide +kernel
theorem test_vredadd_order : after (.vredadd .bf16 5 4) (v [(4, 0x3F80_3F80_4380)] base) 0 (·.x 5) = 0x4380 := by decide +kernel
theorem test_vcvt : after (.vcvt .bf16 .f32 3 4) (v [(4, 0x4080_0000_4040_0000_4000_0000_3F8C_CCCD)] base) (0, 0) (fun t => (t.v 3, t.me.fstat)) =
    (0x4080_4040_4000_3F8D, 0x10) := by decide +kernel
theorem test_vnarrow_sat : after (.vnarrowX .i16 true false ⟨0, false⟩ 3 (.reg 4)) (v [(4, 0x8000_007F_FF00_0100)] base) 0 (·.v 3) = 0x807F_807F := by decide +kernel
theorem test_vlut : after (.vlut .c4 1 2 4) (v [(2, 0x3A), (4, 0x4040_0000_0000_0000), (5, 0xBF00_0000_0000)] base) 0 (fun t => (t.v 1).extractLsb' 0 32) = 0x4040_BF00 := by decide +kernel
theorem test_vcomp : after (.vcompX .i32 0 2 (.reg 3) (.reg 1) 5) ((v [(3, 0x28_0000_001E_0000_0014_0000_000A)] base).modMe (fun c => c.setM 1 0xF0F0)) (0, 0)
    (fun t => (t.v 2, t.x 5)) = (0x28_0000_0014, 2) := by decide +kernel
theorem test_vexpnd : after (.vexpndX .i32 0 2 (.reg 3) (.reg 1) 5) ((v [(3, 0x28_0000_001E_0000_0014_0000_000A)] base).modMe (fun c => c.setM 1 0xF0F0)) (0, 0)
    (fun t => (t.v 2, t.x 5)) = (0x14_0000_0000_0000_000A_0000_0000, 2) := by decide +kernel
theorem test_vtopk : after (.vtopkX .f32 true 0 7 (.reg 8) (.reg 9) 6) (v [(8, 0x0000_0000_8000_0000_7FC0_0000_4000_0000)] (x [(9, 2)] base)) (0, 0)
    (fun t => (t.v 7, t.v 6)) = (0x8000_0000_4000_0000, 0xFFFF_FFFF_FFFF_FFFF_FFFF_FFFF_FFFF_0200) := by decide +kernel
theorem test_trap_step : (match step base with | .next t => (t.me.ecause, t.me.epc, t.me.einfo, t.me.level) | _ => (0, 0, 0, .h)) = (21, 0x1_0000, 7, .k) := by
  decide +kernel
theorem test_table_word : decodeTableWord 32 0x000E0038 = some (.trap 7) ∧ decodeTableWord 96 0x4_00C03185 = some (.add .i64 3 3 (.lit 4)) := by decide +kernel

/-! ## Hypotheses of the statements: states and operands that meet them -/

theorem test_hyp_immediates : (pool [5] 1).myLaunch.pool[0]? = some 5 ∧ (pool [5] 1).myLaunch.kinds[0]? = some 1 ∧
    (pool [5] 2).me.id.unit = .compute ∧ (pool [5] 2).myLaunch.kinds[0]? ≠ some 1 := by decide +kernel
theorem test_lk : after (.lk 5 0) (pool [7] 1) 0 (·.x 5) = 7 ∧ after (.lk 5 0) (pool [7] 2) 0 (·.me.ecause) = 1 := by decide +kernel

/-- No flag that is enabled; an enabled flag; a quiet and a signalling NaN (R37-R39). -/
theorem test_hyp_float : fpeOf base.me.fcr (fAdd (fctxOf base.me.fcr) .f32 0x3F80_0000 0x3F80_0000).2 = false ∧
    fpeOf 0x100 (fAdd (fctxOf 0x100) .f32 0x3F80_0000 0x3080_0000).2 = true ∧ base.me.id.unit = .compute ∧
    base.me.fcr.getLsbD 2 = false ∧ isNanF .f32 0x7FC0_0000 = true ∧ isSnan .f32 0x7FC0_0000 = false ∧ isSnan .bf16 0x7F81 = true := by
  decide +kernel
theorem test_hyp_floatValues : FiniteVal .f32 0x3F80_0000 ∧ FiniteVal .bf16 0x3F80 ∧ InRange .f32 (floatVal .f32 0x3F80_0000 + floatVal .f32 0x3F80_0000) ∧
    InRange .f32 (floatVal .f32 0x3F80_0000 - floatVal .f32 0x4000_0000) ∧ InRange .bf16 (floatVal .bf16 0x3F80 * floatVal .bf16 0x4000) ∧
    InRange .f32 (floatVal .f32 0x3F80_0000 / floatVal .f32 0x4040_0000) ∧ floatVal .f32 0x4040_0000 = 3 ∧
    InRange .f32 (floatVal .f32 0x7F7F_FFFF) ∧ InRange .f32 (floatVal .f32 0x0080_0000) ∧ 0 < floatVal .f32 1 ∧ floatVal .bf16 0x8000 = 0 ∧
    floatVal .f32 0x8000_0001 < 0 ∧ isNanF .f32 0x8000_0001 = false ∧ isNanF .f32 (finf .f32 false) = false := by
  unfold FiniteVal InRange; and_intros <;> decide +kernel
theorem test_hyp_floatConvert : isNanF .bf16 0x3F80 = false ∧ isNanF .f32 0x3F8C_CCCD = false ∧ (1 : W64).toNat % 4 = 1 ∧
    (fpeOf 0 (fCvt (fctxOf 0) .i32 .f32 0x3F80_0000).2 = false) ∧ fpeOf 0x10 (fCvt (fctxOf 0x10) .i32 .f32 0x7FC0_0000).2 = true := by
  decide +kernel
theorem test_fadd_fpe : after (.fadd .f32 5 6 (.reg 7)) ((x [(6, 0x3F80_0000), (7, 0x3080_0000)] base).modMe (fun c => { c with fcr := 0x100 })) (0, 0, 0)
    (fun t => (t.x 5, t.me.fstat, t.me.einfo)) = (0, 0, 0x10) := by decide +kernel

/-- A target that passes R57, and three that fail it: a misaligned one, one at 2^54, one whose bitmap bit is 0. -/
theorem test_hyp_branches : ok (M.target 0x1_0000) base = true ∧ (0x1_0002 : W64).toNat % 4 ≠ 0 ∧ 2 ^ 54 ≤ (0x0040_0000_0000_0000 : W64).toNat ∧
    answers (M.bitmapBit 0x1_0004) base false = true ∧ base.x 0 = base.x 0 ∧ (x [(6, 1)] base).x 6 ≠ base.x 0 := by decide +kernel
theorem test_beq : after (.beq 0 0 0) base (0, 0) (fun t => (t.me.pc, t.me.ecause)) = (0x1_0000, 0) ∧
    after (.beq 0 0 1) base (0, 0, 0) (fun t => (t.me.ecause, t.me.eaddr, t.me.epc)) = (2, 0x1_0004, 0x1_0000) := by decide +kernel
theorem test_jalr_self : after (.jalr 5 5 0) (x [(5, 0x1_0000)] base) (0, 0) (fun t => (t.x 5, t.me.pc)) = (0x1_0004, 0x1_0000) := by decide +kernel
theorem test_loop : after (.loop 5 0) (x [(5, 1)] base) (9, 0) (fun t => (t.x 5, t.me.pc)) = (0, 0x1_0004) ∧
    after (.loop 5 0) base (9, 0) (fun t => (t.x 5, t.me.pc)) = (0xFFFF_FFFF_FFFF_FFFF, 0x1_0000) := by decide +kernel

theorem test_hyp_eret : (level .k).me.level ≠ .s ∧ ok (M.target ((level .k).modMe (fun c => { c with epc := 0x1_0000 })).me.epc) (level .k) = true ∧
    base.me.level = .s ∧ (2 : W64).toNat % 4 ≠ 0 := by decide +kernel
theorem test_eret : after .eret ((level .k).modMe (fun c => { c with epc := 0x1_0000, ecause := 21 })) (0, .h, 0) (fun t => (t.me.pc, t.me.level, t.me.ecause)) =
    (0x1_0000, .s, 21) ∧ after .eret base 0 (·.me.ecause) = 7 := by decide +kernel

/-- Registers that level S reads, registers it does not, and one that helpers do not read. -/
theorem test_hyp_mfs : base.me.level = .s ∧ base.me.id.unit = .compute ∧ noHelper 0x008 = true ∧ noHelper 0x001 = false ∧ (level .k).me.level = .k := by
  decide +kernel
theorem test_hyp_mts : (level .k).me.level ≠ .s ∧ (511 : W64).toNat < 512 ∧ (16 : W64).toNat ≤ 16 ∧ (0xDFF : W64).getLsbD 9 = false ∧
    (0xDFF : W64).extractLsb' 10 2 = 3 ∧ (0x5FF : W64).extractLsb' 10 2 ≠ 3 ∧ (0x5FF : W64).getLsbD 9 = false ∧ (0x3 : W64).extractLsb' 2 4 = 0 ∧ base.myCore.streamClash 0 = none ∧
    (level .h).me.level = .h ∧ (level .h).myLaunch.vf < 16 ∧ writeLevel 0x021 = none ∧ base.me.level = .s := by decide +kernel
theorem test_mts_perm : after (.mts 0x021 6) base (0, 0) (fun t => (t.me.ecause, t.me.eaddr)) = (7, 0x021) ∧
    after (.mtsFcr 6) (x [(6, 512)] base) 0 (·.me.ecause) = 1 := by decide +kernel

theorem test_hyp_synci : base.me.farAmop = false ∧ (me (fun c => { c with amops := [outstanding 5] })).me.farAmop = true ∧
    base.engineBusy .sys = false ∧ base.amopBusy .sys = false ∧ (me (fun c => { c with amops := [outstanding 5] })).amopBusy .sys = true ∧
    (core (fun c => { c with inj := [sentMsg] })).engineBusy .core = true := by decide +kernel

/-- The private window from its first to its last byte; the launch's page, mapped for reading at level S. -/
theorem test_hyp_loads : Quiet base ∧ MemoryOk base ∧ privAddr 0x3FF8 = 0xF000_0000_0000_3FF8 ∧ ok (M.load (privAddr 0x3FF8) 8) base = true ∧
    ok (M.store (privAddr 0) (wordBytes 8 (5 : W64))) base = true := by
  refine ⟨⟨?_, ?_, ?_, ?_, ?_, ?_, ?_, ?_⟩, ?_, ?_, ?_, ?_⟩ <;> first | decide +kernel | exact (by decide +kernel : Memory.wf base.mem = true)

/-- `base` with its page writable as well (R241). -/
def writable : State := { base with mem := Memory.putN base.mem (dramKey 0 slotL2) (leBytes 8 (slotPage / 65536 * 2 ^ 28 + 0x1F)) }

/-- A leaf of the package's own DRAM with the rights to load, and one with the rights to store (R241, R242). -/
theorem test_hyp_loadsGlobal : Memory.wf writable.mem = true ∧ writable.raceOn = false ∧
    (match writable.translate 0 0 .s 0x1_8000 .load with | .ok f => f.aper == 0 | .error _ => false) = true ∧
    (match writable.translate 0 0 .s 0x1_8000 .store with | .ok f => f.aper == 0 | .error _ => false) = true ∧
    (match base.translate 0 0 .s 0x1_8000 .store with | .ok _ => 0 | .error t => t.code) = 7 := by decide +kernel
theorem test_ld_st_global : after (.st .i32 5 6 0) (x [(5, 0x8899_AABB), (6, 0x1_8000)] writable) 0
    (fun t => after (.ld .n16 7 6 1) t 0 (·.x 7)) = 0x8899 := by decide +kernel

theorem test_hyp_anyWindow : ok (M.load (privAddr 16) 16) base = true ∧ ok (M.store (privAddr 16) (wordBytes 16 (base.v 1))) base = true ∧
    (base.me.getM 0).getLsbD 0 = true ∧ (base.me.getM 1).getLsbD 0 = false ∧
    (queue [1]).myQueues.full .compute 1 = false ∧ (queue [1]).myQueues.heldByOthers .compute 1 = false ∧ (queue [1]).myQueues.q.get 1 = 1 :: [] ∧
    ok (M.load (privAddr 16) 16) ((queue [1]).modMyQueues (·.hold .compute 1 16)) = true := by decide +kernel
theorem test_stq : after (.stq 6 1) (x [(6, privAddr 32)] (queue [0x55, 0x66])) (0, []) (fun t => (Memory.get t.mem (privKey t 32), t.myQueues.q.get 1)) = (0x55, [0x66]) := by
  decide +kernel

/-- The race detector off, or on in a mode that keeps no log; a window other than the global one; a store that goes through. -/
theorem test_hyp_storeFrame : base.raceOn = false ∧ (privAddr 0x3FF8).extractLsb' 56 8 ≠ 0 ∧ Memory.wf base.mem = true ∧
    after (.st .i64 5 6 0) (x [(6, privAddr 0x3FF8)] base) false (fun _ => true) = true ∧
    after (.vstX .i64 false ⟨0, false⟩ 5 6 0) (x [(6, privAddr 0x3FF0)] base) false (fun _ => true) = true := by decide +kernel
theorem test_hyp_addressChecks : base.me.id.unit = .compute ∧ base.shadows = [] ∧ (3 : W64).toNat < 2 ^ 55 ∧ (3 : W64).toNat % 4 ≠ 0 ∧ 0x3FFF < 0x4000 ∧
    (privAddr 0x3FFF).toNat % 16 ≠ 0 ∧ ((0x0100_0000_0000_0000 : W64).extractLsb' 56 8).toNat = 1 ∧
    ((0xEF00_0000_0000_0000 : W64).extractLsb' 56 8).toNat < 0xF0 ∧ 0xF4 < ((0xF500_0000_0000_0000 : W64).extractLsb' 56 8).toNat ∧
    (0x0080_0000_0000_0000 : W64).getLsbD 55 = true ∧ (0xF000_0000_0000_4000 : W64).extractLsb' 14 42 ≠ 0 ∧
    (0xF100_0000_0008_0000 : W64).extractLsb' 19 17 ≠ 0 ∧ (0xF200_0000_0200_0000 : W64).extractLsb' 25 31 ≠ 0 ∧
    (0xF300_0000_1000_0000 : W64).extractLsb' 28 28 ≠ 0 ∧ base.flaggedOf base.me.id = none ∧
    (0xF100_0010_0000_0000 : W64).extractLsb' 47 9 = 0 ∧ (0xF100_0010_0000_0000 : W64).extractLsb' 19 17 = 0 ∧
    ((0xF100_0010_0000_0000 : W64).extractLsb' 36 11).toNat ≠ base.me.place.core ∧ (base.pkg 0).gradeB = false := by decide +kernel
theorem test_foreign : after (.ld .i8 5 6 0) (x [(6, 0xF100_0010_0000_0000)] base) (0, 0) (fun t => (t.me.ecause, t.me.einfo)) = (5, 1) ∧
    after (.ld .i32 5 6 0) (x [(6, privAddr 2)] base) (0, 0) (fun t => (t.me.ecause, t.me.einfo)) = (3, 4) := by decide +kernel
theorem test_hyp_pointers : base.me.place.core < 2048 ∧ base.me.place.slot < 4 ∧ 0x3FFF < 0x4000 ∧ 0xF4 < (0xF500_0000_0000_0000 : W64).toNat / 2 ^ 56 ∧
    (x [(6, 0x3FFF)] base).x 6 = BitVec.ofNat 64 0x3FFF ∧ 0x4000 ≤ (0x4000 : W64).toNat ∧ (0x1FF_FFFF : W64).toNat < 0x200_0000 ∧
    (0xF100_0000_0006_0000 : W64) = BitVec.ofNat 64 (0xF1 * 2 ^ 56 + 0 * 2 ^ 36 + 0x6_0000) ∧ 0 / 256 = base.me.place.core / 256 ∧ 256 / 256 ≠ base.me.place.core / 256 ∧
    (0xF200_0000_01FF_FFFF : W64) = BitVec.ofNat 64 (0xF2 * 2 ^ 56 + 255 * 2 ^ 17 + 0x1_FFFF) ∧ base.flaggedOf base.me.id.comp = none ∧
    (0xF400_0000_0000_0008 : W64) = BitVec.ofNat 64 (0xF4 * 2 ^ 56 + 0 * 2 ^ 18 + 8) ∧ 2 ^ 55 ≤ (0x0080_0000_0000_0000 : W64).toNat ∧
    (match base.spot 0xF400_0000_0000_0008 false with | .ok _ => false | .error _ => true) = true := by decide +kernel
theorem test_spcast : after (.spcast .loc 5 6) (x [(6, privAddr 8)] base) 0 (·.x 5) = 0xF100_0000_0005_0008 ∧
    after (.spcast .loc 5 6) (x [(6, 8)] base) (0, 0) (fun t => (t.me.ecause, t.me.einfo)) = (4, 2) := by decide +kernel
/-- R116's example, on die 4. -/
theorem test_spcast_clus : (match ({ base with me := { base.me with place := { base.me.place with core := 1234 } } } : State).cast .clus 0xF100_4D20_0006_2340 with
    | some p => p | none => 0) = 0xF200_0000_01A4_2340 := by decide +kernel

theorem test_hyp_atomics : base.raceOn = false ∧ base.poison = [] ∧ base.locks = [] ∧ base.races = [] ∧ 0x3FF8 % 8 = 0 ∧ Ty.notC4 .n64 = true ∧
    (x [(6, privAddr 0x3FF8)] base).x 6 = privAddr 0x3FF8 := by decide +kernel
theorem test_amo : after (.amoAdd .i32 5 6 (.lit 3)) (x [(6, privAddr 8)] (base.modMe (·.setX 5 9))) (9, 0) (fun t => (t.x 5, Memory.get t.mem (privKey t 8))) = (0, 3) ∧
    after (.amopSwap .i32 6 (.lit 4)) (x [(6, privAddr 8)] base) (0, 0) (fun t => (Memory.get t.mem (privKey t 8), t.me.unack)) = (4, 1) := by decide +kernel
theorem test_cas : after (.cas .i64 5 6 (.reg 7) 8) (x [(6, privAddr 8), (8, 2)] base) (9, 0) (fun t => (t.x 5, Memory.get t.mem (privKey t 8))) = (0, 2) ∧
    after (.cas .i64 5 6 (.reg 7) 8) (x [(6, privAddr 8), (7, 1), (8, 2)] base) (9, 0) (fun t => (t.x 5, Memory.get t.mem (privKey t 8))) = (0, 0) := by decide +kernel

/-- Four active elements that go through, strided and indexed; a record of eight .i16 elements in the private window. -/
theorem test_hyp_vectorMemory : answers (M.lanes false 4 .load ((List.range 4).map (fun i => (i, privAddr (4 * i))))) base
      ((List.range 4).map (fun i => (i, Target.mem { va := privAddr (4 * i), key := privKey base (4 * i), n := 4, home := .ofCore 0, chk := true, lease := 0, lines := [] }))) = true ∧
    ok (M.lanes false 4 .store ((List.range 4).map (fun i => (i, privAddr (4 * i))))) base = true := by decide +kernel
theorem test_vlds : after (.vlds .i32 false ⟨0, false⟩ 1 6 7) (x [(6, privAddr 0), (7, 512)] { base with mem := Memory.put base.mem (privKey base 0x600) 5 }) 0 (·.v 1) =
    0x5_0000_0000_0000_0000_0000_0000 := by decide +kernel

theorem test_hyp_barriers : 0x3FF8 % 8 = 0 ∧ (4095 : W64).toNat ≤ 4095 ∧ (1 : BitVec 12) ≠ 0 ∧ (0x7F_FFFF : W64).toNat < 2 ^ 23 ∧ (0 : BitVec 16) ≠ (1 : W64).setWidth 16 ∧
    (0 : BitVec 16) = (0x1_0000 : W64).setWidth 16 ∧ 4095 < (4096 : W64).toNat := by decide +kernel
theorem test_bararv_last : after (.barinit 6 7) (x [(6, privAddr 8), (7, 1)] base) (9, 0)
    (fun t => after (.bararv 5 6) t (9, 0) (fun u => (u.x 5, BitVec.ofNat 64 (leNat (bytesAt u (privKey u 8) 8))))) = (0, 0x0001_0000_0000_1001) := by decide +kernel

/-- A chunk of a channel's stream waits in the core's receive queue (R139). -/
def stream (ch : Nat) (bs : List Byte) : State :=
  core (fun c => { c with rq := [{ idx := 0, msg := { ch, rpy := false, vc := 0, tid := 0, bytes := bs.length, data := bs }, taken := 0, active := false }] })

/-- The four words of a buffer record of two dimensions (R23). -/
def bufWords (base : W64) (t : Ty) (shadow : Bool) (len e0 e1 s1 : Nat) : List W64 :=
  [base, BitVec.ofNat 64 (t.code.toNat * 2 ^ 56 + (if shadow then 2 ^ 61 else 0) + len), BitVec.ofNat 64 (e0 + e1 * 2 ^ 16 + 2 ^ 32 + 2 ^ 48),
    BitVec.ofNat 64 s1]

theorem test_hyp_vectorSources : (pool [1, 2] 1).myLaunch.pool[(0 : BitVec 16).toNat]? = some 1 ∧
    (pool [1, 2] 1).myLaunch.kinds[(0 : BitVec 16).toNat + 1]? = some 1 ∧ (pool [1, 2] 1).myLaunch.pool[(0 : BitVec 16).toNat + 1]? = some 2 ∧
    (queue [7, 8]).myQueues.heldByOthers .compute 1 = false ∧ (queue [7, 8]).myQueues.q.get 1 = 7 :: 8 :: [] ∧
    (stream 63 (List.replicate 16 3)).myCore.chHolds = [] ∧ (streamOf (stream 63 (List.replicate 16 3)).myCore.rq 63).length = 16 ∧
    ((stream 63 (List.replicate 16 3)).myCore.htab.get 63).enable = false ∧ Ty.notC4 .i8 = true := by decide +kernel
theorem test_vadd_queues : after (.vaddX .n64 false ⟨0, false⟩ 3 (.queue 1) (.queue 1)) (queue [7, 8]) (0, [1]) (fun t => (t.v 3, t.myQueues.q.get 1)) =
    (15, []) := by decide +kernel
theorem test_vadd_stream : after (.vaddX .i8 false ⟨0, false⟩ 3 (.chan 63) (.lit 0 1)) (stream 63 (List.replicate 32 3)) (0, 0)
    (fun t => (t.v 3, (streamOf t.myCore.rq 63).length)) = (0x04040404040404040404040404040404, 16) := by decide +kernel

/-- Integer, float and other types; sources that give values; masks with every and with no lane. -/
theorem test_hyp_vectorIntegers : Ty.isInt .n8 = true ∧ Ty.isInt .i64 = true ∧ Ty.notC4 .f32 = true ∧ Gives (M.vsrcs .n8 (.reg 4) (.reg 5)) base (base.v 4, base.v 5) base ∧
    Gives (M.vsrcs .f32 (.lit 1 9) (.reg 0)) base (literal .f32 1 9, base.v 0) base := by
  and_intros <;> first | decide +kernel | rfl
theorem test_hyp_vectorFloats : Ty.isFlt .bf16 = true ∧ Gives (M.vsrcs .f32 (.reg 4) (.reg 5)) base (base.v 4, base.v 5) base ∧
    ok (M.source .i8 (.chan 2)) (stream 2 (List.replicate 16 3)) = true ∧ answers (M.source .i8 (.chan 2)) (stream 2 (List.replicate 8 0 ++ [0xDE, 0xC0, 0xC1, 0xFF, 0xDE, 0xC0, 0xC1, 0xFF]))
      0xFFC1_C0DE_FFC1_C0DE_0000_0000_0000_0000 = true ∧ Ty.notC4 .i8 = true := by
  and_intros <;> first | decide +kernel | rfl
theorem test_vaccs : after (.vaccs .i8 ⟨0, false⟩ 1 2) (stream 2 (List.replicate 16 3)) (0, 0) (fun t => (t.v 1, t.me.pc)) = (0x03030303030303030303030303030303, 0x1_0000) ∧
    after (.vaccs .i8 ⟨0, false⟩ 1 2) (stream 2 (List.replicate 8 1 ++ [0xDE, 0xC0, 0xC1, 0xFF, 0xDE, 0xC0, 0xC1, 0xFF])) (1, 0, 9)
      (fun t => (t.v 1, t.me.pc, t.myCore.rq.length)) = (0, 0x1_000C, 0) := by decide +kernel

theorem test_hyp_vectorMasks : Ty.isInt .i8 = true ∧ Ty.isFlt .f32 = true ∧ Ty.notC4 .bf16 = true ∧ Gives (M.vsrcs .i8 (.reg 4) (.reg 5)) base (base.v 4, base.v 5) base ∧
    fpeOf 0 (fCmp (fctxOf 0) .f32 .lt 0x7FC0_0000 0).2 = false ∧ fpeOf 0x10 (fCmp (fctxOf 0x10) .f32 .lt 0x7FC0_0000 0).2 = true := by
  and_intros <;> first | decide +kernel | rfl
theorem test_vcmp : after (.vcmp .lt .i32 ⟨0, false⟩ 2 (.reg 4) (.reg 5)) (v [(4, 0xFFFF_FFFF), (5, 0x1_0000_0000)] base) 0 (fun t => t.me.getM 2) = 0x00FF := by
  decide +kernel
theorem test_mpopc : after (.mpopc 5 0) base 0 (·.x 5) = 16 ∧ after (.mand 0 1 1) base 0 (fun t => t.me.getM 0) = 0xFFFF := by decide +kernel

theorem test_hyp_vectorMoves : (15 : W64).toNat < 128 / Ty.bits .i8 ∧ 128 / Ty.bits .i8 ≤ (16 : W64).toNat ∧
    Gives (M.source .i8 (.reg 4)) base (base.v 4) base ∧ Gives (M.poolOk [.reg 4]) base () base ∧ (base.me.getM 0).getLsbD 15 = true ∧
    (base.me.getM 1).getLsbD 15 = false ∧ Gives (M.vsrcs .i8 (.reg 4) (.reg 0)) base (base.v 4, base.v 0) base ∧ base.me.id.unit = .compute ∧
    Gives (M.poolOk [.pool 0]) (pool [1, 2] 1) () (pool [1, 2] 1) := by
  and_intros <;> first | decide +kernel | rfl
theorem test_vext : after (.vext .i8 5 4 6) (v [(4, 0x80 <<< 120)] (x [(6, 15)] base)) 0 (·.x 5) = 0xFFFF_FFFF_FFFF_FF80 ∧
    after (.vext .i8 5 4 6) (x [(6, 16)] base) (0, 0) (fun t => (t.me.ecause, t.me.einfo)) = (1, 0x4000_0006_0000_0010) := by decide +kernel
theorem test_vzip : after (.vzipX 3 .i32 ⟨0, false⟩ 1 (.reg 4) (.reg 5)) (v [(4, 0x4_0000_0003_0000_0002_0000_0001), (5, 0x8_0000_0007_0000_0006_0000_0005)] base) 0
    (·.v 1) = 0x8_0000_0006_0000_0004_0000_0002 := by decide +kernel

theorem test_hyp_vectorReduce : Ty.isInt .n8 = true ∧ Ty.isFlt .f32 = true ∧ Ty.notC4 .n8 = true ∧ base.me.getM 1 = 0 ∧
    fpeOf 0 (foldRun .add (fctxOf 0) .f32 [0x7F80_0000, 0xFF80_0000]).2 = false ∧
    fpeOf 0x10 (foldRun .add (fctxOf 0x10) .f32 [0x7F80_0000, 0xFF80_0000]).2 = true ∧
    Gives (M.vsrcs .bf16 (.reg 4) (.reg 5)) base (base.v 4, base.v 5) base := by
  and_intros <;> first | decide +kernel | rfl
theorem test_vredmax : after (.vredmaxX .i8 1 5 (.reg 4)) base 0 (·.x 5) = 0xFFFF_FFFF_FFFF_FF80 ∧
    after (.vredmin .n8 5 4) (v [(4, BitVec.allOnes 128)] base) 0 (·.x 5) = 0xFF := by decide +kernel
theorem test_vdot : after (.vdot .i8 1 4 5) (v [(1, 1), (4, 0x80FF_0102), (5, 0x80FF_0304)] base) 0 (·.v 1) = 0x400D := by decide +kernel
theorem test_hyp_vectorConvert : Ty.notC4 .i8 = true ∧ Ty.isFlt .f32 = true ∧ Ty.isInt .i16 = true ∧ 16 ≤ Ty.bits .i16 ∧ Ty.bits .n32 ≤ 32 ∧
    fpeOf 0 (fCvt (fctxOf 0) .i8 .f32 0x3F80_0000).2 = false ∧ fpeOf 0x10 (fCvt (fctxOf 0x10) .i8 .f32 0x7FC0_0000).2 = true ∧
    Gives (M.vsrcs .c4 (.reg 4) (.reg 0)) base (base.v 4, base.v 0) base := by
  and_intros <;> first | decide +kernel | rfl
theorem test_vwiden : after (.vwidenX .i32 true ⟨0, false⟩ 1 (.reg 4)) (v [(4, 0x8000_0000 <<< 96)] base) 0 (·.v 1) = 0xFFFF_FFFF_8000_0000_0000_0000_0000_0000 := by decide +kernel

/-- A strand that has its answer, or waits for one. -/
def waiting (w : Wait) (sent waiting : Bool) (s : State) : State :=
  s.modMe (fun c => { c with pend := [{ pc := c.pc, on := w, ref := 0, got := if waiting then [] else [.ok []], waiting, sent, cancel := false, plan := [] }] })

/-- A run of the private window. -/
def run (o n : Nat) : Run := { key := privKey base o, len := n, va := (privAddr o).toNat, leaf := none }

/-- A copy of the strand into some bytes, with no segment left to send. -/
def copyTo (s : State) (dst : Runs) : EngOp :=
  { owner := s.me.id, slot := 0, gen := 0, ch := 2, id := 1, notice := false, src := [], dst, homes := [], unsent := [], sent := [], part := [],
    serial := false, bar := none, stamp := none, olds := [], rlx := false }

/-- A shadowed buffer of the private window (R23, R133). -/
def shadowed : State := pool (bufWords (privAddr 0) .i8 true 64 64 1 64) 2

/-- The record, spot and home that PUBLISH checks. -/
def publishable (s : State) : Bool :=
  match s.myLaunch.buf 0 with
  | .ok r => r.shadow && (match s.spot r.base true with
    | .ok sp => (match s.engineHold r.base 1 sp with | .ok _ => true | _ => false) && !s.publishBusy sp.key r.len &&
        s.nodePkg s.me.place.gcore == s.nodePkg (unitOf sp.key)
    | _ => false)
  | _ => false

theorem test_hyp_copies : base.locks = [] ∧ base.me.released = false ∧ (base.copiesBy base.me.id).length < 32 ∧ 0 < 64 ∧
    Gives (M.range .store 0 (privAddr 0) 64) base ([run 0 64], 0) base ∧
    Gives (M.range .load 0 (privAddr 0x3FC0) 64) base ([run 0x3FC0 64], 0) base ∧
    Gives (M.barOperand 0) base none base ∧ Gives (M.barOperand 9) (x [(9, privAddr 8)] base) (some (privKey base 8)) (x [(9, privAddr 8)] base) ∧
    (match (pool (bufWords (privAddr 0) .i8 false 64 32 2 32) 2).myLaunch.view ⟨0, 1, 1⟩ with
      | .ok w => !w.ragged && w.packed == 32 && ok (M.ranges .load 0 w.ranges) (pool (bufWords (privAddr 0) .i8 false 64 32 2 32) 2)
      | .error _ => false) = true ∧
    (match (pool (bufWords (privAddr 0) .c4 false 64 3 2 2) 2).myLaunch.view ⟨0, 0, 0⟩ with
      | .ok w => w.ragged && w.packed == 3 && w.count == 6 && (match M.ranges .load 0 w.ranges (pool (bufWords (privAddr 0) .c4 false 64 3 2 2) 2) with
        | .ok (rows, _) _ => rows.length == w.allRows && rows.all (fun r => (r.map (·.len)).sum == w.rowBytes)
        | _ => false)
      | .error _ => false) = true ∧
    (base.me.chwm.get 2 - (0 : W32)).toNat < 2 ^ 31 ∧ 2 ^ 31 ≤ (base.me.chwm.get 2 - (1 : W32)).toNat := by
  and_intros <;> first | decide +kernel | rfl
theorem test_copy : after (.copy false 3 6 7 8 0) (x [(6, privAddr 0), (7, privAddr 64), (8, 64)] base) (0, 0, 0)
    (fun t => (t.me.tcnt.get 3, t.me.pc, t.ops.length)) = (1, 0x1_000C, 1) ∧
    after (.tidwait 3 6) (x [(6, 1)] base) none (·.me.wait) = some (.transfer 3) := by decide +kernel
theorem test_hyp_notices : base.asking = false ∧ Placed base ∧ base.myLaunch.coreOf 0 = some 0 ∧ base.me.farAmop = false ∧
    ok (M.range .load 0 (privAddr 0) 64) base = true ∧
    (waiting .notice true false base).me.pendOf.any (fun p => !p.waiting && p.sent && decide (p.got = [.ok []])) = true ∧
    publishable shadowed = true ∧ shadowed.me.pendOf = none ∧
    (waiting .publish false false shadowed).me.pendOf.any (fun p => !p.waiting && !p.sent && decide (p.got = [.ok []])) = true ∧
    { shadowed with ops := [(9, copyTo shadowed [run 0 8])] }.publishBusy (privKey base 0) 64 = true := by
  refine ⟨?_, ⟨?_, ?_⟩, ?_, ?_, ?_, ?_, ?_, ?_, ?_, ?_⟩ <;> decide +kernel
theorem test_publish : after (.publish 0) shadowed none (·.me.wait) = some .publish ∧
    after (.publish 0) (waiting .publish false false shadowed) (0, 0) (fun t => (t.me.pc, t.me.ivals.get 0)) = (0x1_000C, 1) := by decide +kernel

/-- Bank `b` held by the strand, in an allocation of one bank, with a weight tile latched. -/
def banked (b : Nat) : State :=
  (launch (fun l => { l with words := l.words.set 2 (BitVec.ofNat 64 (128 * 2 ^ 32)) })).modMe (fun c =>
    { c with allocs := [{ base := b, n := 1, int := false, w := 1 }],
             mctx := { c.mctx with tile := some { fmt := .bf16, k := 32, rows := [], poison := false } } })
    |>.modMyCore (fun c => c.setBanks b 1 (.held base.me.id))

theorem test_hyp_matrixBanks : (banked 127).myCore.bankState 126 = .free ∧ (banked 127).banksHeld + 1 ≤ (banked 127).myLaunch.accum ∧ base.myLaunch.accum < base.banksHeld + 1 ∧
    (match (banked 127).tenant with | .ok t => !t | .error _ => false) = true ∧ ((banked 127).myCore.mq false).length < 16 ∧
    (match (banked 127).allocAt 6 with | .ok _ => true | .error _ => false) = false ∧
    (match (x [(6, 127)] (banked 127)).allocAt 6 with | .ok l => decide (l = ⟨127, 1, false, 1⟩) | .error _ => false) = true ∧
    (0x201 : W32).extractLsb' 12 20 = 0 ∧ (0x201 : W32).extractLsb' 8 4 = 2 ∧ (0x901 : W32).extractLsb' 8 4 = 9 ∧ ((0x201 : W32).extractLsb' 0 8).toNat = 1 ∧
    (x [(6, 127)] (banked 127)).x 6 = 127 ∧ (banked 127).myCore.bankState 127 = .held (banked 127).me.id ∧ (banked 127).matrixBy (banked 127).me.id = [] ∧ (banked 127).myCore.cellPoison = [] ∧
    (level .k).me.level ≠ .s ∧ (0x21 : W32).extractLsb' 0 4 &&& (0x21 : W32).extractLsb' 4 4 = 0 ∧ base.myCore.mq0 = [] ∧ base.me.level = .s := by decide +kernel
theorem test_acq : after (.acq 5 2) (banked 1) (9, 0) (fun t => (t.x 5, t.banksHeld)) = (2, 3) ∧ after (.acq 5 128) (banked 1) 0 (·.x 5) = BitVec.allOnes 64 := by decide +kernel
theorem test_rel : after (.rel 6 1) (x [(6, 127)] (banked 127)) (.free, []) (fun t => (t.myCore.bankState 127, t.me.allocs)) = (.leaving base.me.id, []) := by decide +kernel

/-- The record of a matrix operand in the private window. -/
def matrix (t : Ty) (cols rows : Nat) : State :=
  (banked 0).modLaunch base.me.id.launch (fun l => { l with pool := bufWords (privAddr 0) t false 0x4000 cols rows (cols * t.bits / 8), kinds := [2, 2, 2, 2] })

/-- Its view goes through. -/
def viewGoes (need : Need) (s : State) : Bool :=
  match s.myLaunch.buf 0 with
  | .ok b => ok (M.rowsOf need 0 (windowOf b ⟨0, 0, 0⟩)) s && decide ((windowOf b ⟨0, 0, 0⟩).bad = false)
  | .error _ => false

theorem test_hyp_matrixWork : viewGoes .load (matrix .bf16 16 1) = true ∧ viewGoes .load (matrix .bf16 32 32) = true ∧ viewGoes .store (matrix .f32 32 16) = true ∧
    viewGoes .load (matrix .bf16 32 1) = true ∧ (banked 0).locks = [] ∧ (banked 0).myCore.kOf .bf16 = 32 ∧
    (match (banked 0).mShape 0 with | .ok (f, t) => decide (f = .bf16) && !t | .error _ => false) = true ∧ base.weights = none ∧
    ((banked 0).myCore.htab.get 2).enable = false ∧ (banked 0).me.mctx.intStream = false ∧
    (match M.rowsAt 0x1_8000 64 64 0 2 writable with
      | .ok r _ => decide (r.1 = (List.range 2).map (fun i => (List.range 64).map (fun j => dramKey 0 (slotPage + 0x1_8000 + 64 * i + j))))
      | .error _ _ => false) = true := by decide +kernel
theorem test_mmul : after (.mmul false 0 (.queue 1 16)) (banked 0) none (fun t => t.myCore.mq0.head?.map (·.kind)) = some (.mmulQueue false 1 16) ∧
    after (.mmul false 0 (.queue 1 16)) base (0, 0) (fun t => (t.me.ecause, t.me.einfo)) = (1, 0x4000_0000_0000_0000) := by decide +kernel
theorem test_mwld : after (.mwld .bf16 false ⟨0, 0, 0⟩) (matrix .bf16 32 32) 0 (fun t => t.myCore.mq0.length) = 1 ∧
    after (.mwld .bf16 false ⟨0, 0, 0⟩) (matrix .bf16 32 31) 0 (·.me.einfo) = 0x2000_0100_0000_0000 ∧
    after (.mdrain .f32 false 0 ⟨0, 0, 0⟩ 0 0) (matrix .f32 32 16) 0 (fun t => t.myCore.mq0.length) = 1 := by decide +kernel

theorem test_hyp_helpers : base.me.id.unit = .compute ∧ base.me.id.isHandler = false ∧ base.helpersIdle = true ∧
    Gives (M.helperEntry (base.x 0) 1) base () base ∧ helper.me.id.unit ≠ .compute ∧ helper.helpersIdle = false ∧
    ok (M.helperEntry 0x1_0000 1) (launch (fun l => { l with helper := some (0x1_0000, List.replicate 8 0) })) = true ∧
    (0x40_0000_0000_0000 : W64).toNat ≥ 2 ^ 54 ∧ (queue (List.replicate 64 0)).myQueues.full .compute 1 = true ∧ (queue []).myQueues.full .compute 1 = false ∧
    (queue [3]).myQueues.heldByOthers .compute 1 = false ∧ (queue [3]).myQueues.q.get 1 = 3 :: [] ∧ (queue []).myQueues.q.get 1 = [] ∧
    ((queue [3]).modMyQueues (·.hold .loader 1 1)).myQueues.heldByOthers .compute 1 = true := by
  and_intros <;> first | decide +kernel | rfl
theorem test_qtry : after (.qtry true 5 1 6) (queue [3]) (0, 0, [1]) (fun t => (t.x 5, t.x 6, t.myQueues.q.get 1)) = (3, 1, []) ∧
    after (.qtry true 5 1 6) (x [(6, 9)] (queue [])) 9 (·.x 6) = 0 := by decide +kernel
theorem test_fork : after (.fork 5 0) (x [(5, 0x1_0000), (10, 7), (20, 8)] (launch (fun l => { l with helper := some (0x1_0000, List.replicate 8 0) }))) none
    (fun t => (t.strand? { base.me.id with unit := .loader }).map (fun c => (c.pc, c.getX 10, c.getX 20))) = some (0x1_0000, 7, 0) := by decide +kernel

/-- A core that sends: a place for one more message, and a target that has told of its pressure (R184, R287). -/
theorem test_hyp_sending : base.myLaunch.coreOf 0 = some 0 ∧ (base.sentBy base.me.id).length < base.me.sqcap.toNat ∧ base.myCore.told.contains 0 = false ∧
    base.myCore.inj.length < 16 ∧ base.locks = [] ∧ Gives (M.poolOk [.reg 4]) base () base ∧ Gives (M.source .n8 (.reg 4)) base (base.v 4) base ∧
    0x3F00 + 256 ≤ 0x4000 ∧ base.me.wlog = [] ∧ base.poison = [] ∧ Gives (M.sendRequests 0 []) base [] base ∧
    ok (M.sendSource false (privAddr 0) 256) base = true ∧ 0x4000 < 0x3F01 + 256 ∧
    (me (fun c => { c with sqcap := 0 })).me.sqcap.toNat ≤ ((me (fun c => { c with sqcap := 0 })).sentBy base.me.id).length ∧
    base.myLaunch.coreOf 16 = none ∧ (core (fun c => { c with told := [0] })).myCore.told.contains 0 = true ∧
    (0x18 : W32).extractLsb' 5 27 = 0 ∧ (0x18 : W32).getLsbD 4 = true ∧ base.myCore.streams 2 = false := by
  and_intros <;> first | decide +kernel | rfl
theorem test_send : after (.send false 2 0 (.reg 4)) (v [(4, 0x11)] base) none (fun t => t.myCore.inj.head?.map (fun e => (e.msg.ch, e.msg.bytes, e.msg.data.take 2))) =
    some (2, 16, [0x11, 0]) := by decide +kernel
theorem test_sqfull : after (.send false 2 0 (.reg 4)) (me (fun c => { c with sqcap := 0 })) (0, 0) (fun t => (t.me.ecause, t.me.einfo)) = (15, 0x200) := by decide +kernel

/-- A message of 20 bytes on channel 2 is the current one of an activation. -/
def reading (handler : Bool) : State :=
  (stream 2 ((List.range 32).map (BitVec.ofNat 8))).modMyCore (fun c =>
      { c with rq := c.rq.map (fun e => { e with active := true, msg := { e.msg with bytes := 20 } }) })
    |>.modMe (fun c => { c with current := some (2, 0), id := if handler then { c.id with seat := .handler 0 0 } else c.id })

theorem test_hyp_current : (reading true).curMsg.any (fun m => decide (m.bytes = 20 ∧ m.vc < 2 ^ 24 ∧ m.tid < 2 ^ 24 ∧ m.ch < 64)) = true ∧ 8 * 2 < 20 ∧ 20 ≤ 8 * 3 ∧
    (reading true).me.current = some (2, 0) ∧ (reading true).me.id.isHandler = true ∧ (reading true).me.id.unit = .compute ∧ base.me.current = none ∧
    base.me.id.isHandler = false ∧ base.x 0 ≠ BitVec.allOnes 64 := by decide +kernel
theorem test_msgrd : after (.msgrd true 5 6) (x [(6, 2)] (reading true)) 0 (·.x 5) = 0x17161514_13121110 ∧
    after (.msgrd true 5 6) (x [(6, 3)] (reading true)) 0 (·.me.ecause) = 1 ∧ after (.msgrd true 5 6) (x [(6, -1)] (reading true)) 0 (·.x 5) = 0x414 := by
  decide +kernel
theorem test_yield : after .yieldSlot (reading true) (true, 9, 0) (fun t => (t.me.live, t.myCore.rq.length, t.me.pc)) = (false, 0, 0x1_0004) := by decide +kernel

/-- A packet in flight. -/
def flying (vn : VNet) (b : Body) (s : State) : State := { s with net := [{ vn, src := 0, dst := 0, body := b, after := none, sent := 0 }] }

/-- A notice of the strand to its own core, and a state in which it waits for the answer. -/
def kick : Kick := { launch := base.me.id.launch, handle := 5, bytes := 8, buf := privAddr 0, vc := 0, tid := 0, pending := false, since := 0 }
def noticed (s : State) : State := { s with ops := [(9, { copyTo s [] with notice := true, gen := 3, bar := none })] }

/-- A handler context of the core, idle, and a message on a channel whose entry is enabled. -/
def handled : State :=
  { (stream 2 (List.replicate 16 1)).modMyCore (fun c => { c with htab := c.htab.set 2 { pc := 0x1_0000, prio := 0, enable := true, accept := true } }) with
    rest := [{ base.me with id := { base.me.id with seat := .handler 0 0 }, live := false }] }

theorem test_hyp_messageEvents : (core (fun c => { c with inj := [{ sentMsg with msg := { sentMsg.msg with ch := 1 } }] })).sentEarlier 0 0 sentMsg = false ∧
    (core (fun c => { c with htab := c.htab.set 2 { pc := 0, prio := 0, enable := false, accept := true } })).admissible sentMsg = some 0 ∧ base.admissible sentMsg = none ∧
    (flying .ctl (.pressure 0 true 1) base).arriving 0 = some (.pressure 0 true 1) ∧
    (flying .req (.notice 9 0 kick) base).arriving 0 = some (.notice 9 0 kick) ∧ base.evictedAt base.me.id.launch 0 = false ∧ base.myCore.kick.get 7 = none ∧
    handled.candidate 0 = some (2, 0) ∧ ((handled.handlersOf 0).filter (fun x => !x.live)).map (·.id) = [{ base.me.id with seat := .handler 0 0 }] ∧
    (flying .rpy (.nack base.me.id.launch (handleOf 0 0 3)) (noticed base)).arriving 0 = some (.nack base.me.id.launch (handleOf 0 0 3)) ∧
    ((noticed base).ops.find? (fun o => o.2.notice && o.2.owner.launch == base.me.id.launch && handleOf o.2.owner.tid o.2.slot o.2.gen == handleOf 0 0 3)).isSome = true := by
  decide +kernel
theorem test_hyp_handlerSelect : ((handled.handlersOf 0).filter (fun x => !x.live))[handled.choose 5 ((handled.handlersOf 0).filter (fun x => !x.live)).length]? =
    handled.strand? { base.me.id with seat := .handler 0 0 } := by
  have h : ((handled.handlersOf 0).filter (fun x => !x.live)).length = 1 := by decide +kernel
  rw [h, State.choose, Nat.mod_one]
  decide +kernel
theorem test_noticeArrival : after (.noticeArrival 0) (flying .req (.notice 9 0 kick) (noticed base)) false (·.net.isEmpty) = true := by decide +kernel

/-- A pool that holds a group record (R324) of group 1, from thread 0 on. -/
def grouped (gang reactive strag : Bool) (size tqcap : Nat) : State :=
  (base.modLaunch base.me.id.launch (fun l =>
    { l with words := l.words.set 1 (BitVec.ofNat 64 (16 + 2 ^ 32)),
             pool := [BitVec.ofNat 64 (2 ^ 48 + (if gang then 2 ^ 47 else 0) + (if reactive then 2 ^ 46 else 0) + (if strag then 2 ^ 45 else 0) + size * 2 ^ 32),
               BitVec.ofNat 64 (tqcap * 2 ^ 29), BitVec.ofNat 64 (2 ^ 60 + 1), 0, BitVec.ofNat 64 (2 ^ 60), 0],
             kinds := List.replicate 6 5 }))

/-- The same with the group formed: the strand is member 0, and thread 1 of its core member 1. -/
def member (gang reactive strag : Bool) (tqcap : Nat) (f : Group → Group) (h : Member → Member) : State :=
  let s := grouped gang reactive strag 2 tqcap
  match s.myLaunch.group 0 with
  | .ok r => { s with
      groups := [f { Group.new s.me.id.launch r 0 with
        formed := true, nextIdx := 2, members := [h (Member.new s.myLaunch r s.me.id 0 0), Member.new s.myLaunch r { s.me.id with seat := .placed 1 } 1 0] }],
      me := { s.me with groups := [(1, 0)], grp := 1 } }
  | .error _ => s

/-- Facts about the group of a member. -/
def inGroup (p : Group → Member → Bool) (s : State) : Bool :=
  match s.flaggedOf s.me.id with
  | some (g, m) => p g m && decide (g.memberOf s.me.id = some m)
  | none => false

/-- The group without its members, as JOIN and LEAVE of an unflagged one meet it. -/
def unflagged (joined : Bool) (next : Nat) : State :=
  let s := member false false false 0 (fun g => { g with nextIdx := next, members := if joined then g.members else [] }) id
  if joined then s else { s with me := { s.me with groups := [] } }

theorem test_hyp_groups : (match (unflagged true 2).myLaunch.group 0 with | .ok r => r.gid == 1 && !r.flagged | .error _ => false) = true ∧
    ((unflagged true 2).group? base.me.id.launch 1).any (fun g => g.formed && (g.memberOf base.me.id).isSome) = true ∧
    (grouped false false false 2 0).group? base.me.id.launch 1 = none ∧ (grouped false false false 2 0).me.groups.length < 8 ∧
    ((unflagged false 1).group? base.me.id.launch 1).any (fun g => decide (g.memberOf base.me.id = none) && decide (g.nextIdx < g.size) && !g.joining.contains base.me.id) = true ∧
    ((unflagged false 2).group? base.me.id.launch 1).any (fun g => decide (g.size ≤ g.nextIdx)) = true ∧
    (match (grouped true false false 2 0).myLaunch.group 0 with | .ok r => r.flagged && !(grouped true false false 2 0).mayNotJoin r | .error _ => false) = true ∧
    (unflagged true 2).groups.filter (fun x => x.launch == base.me.id.launch && x.gid == 1) = (unflagged true 2).groups ∧
    inGroup (fun g m => !g.winOpen && decide (m.queue = none) && g.home == 0) (member true false false 0 id id) = true ∧
    inGroup (fun g _ => g.reactive) (waiting .instant true false (member false true false 0 id id)) = true ∧
    ((unflagged false 1).group? base.me.id.launch 1).any (fun g => !(unflagged false 1).joinsAfter g) = true ∧
    ((unflagged false 2).group? base.me.id.launch 1).any (fun g => !(unflagged false 2).joinsAfter g) = true ∧
    (unflagged true 2).me.stolen = [] ∧ (unflagged true 2).asking = false ∧ Placed (unflagged true 2) := by
  refine ⟨?_, ?_, ?_, ?_, ?_, ?_, ?_, ?_, ?_, ?_, ?_, ?_, ?_, ?_, ⟨?_, ?_⟩⟩ <;> decide +kernel
theorem test_join : after (.join 5 0) (grouped false false false 2 0) (9, []) (fun t => (t.x 5, t.me.groups)) = (0, [(1, 0)]) ∧
    after (.join 5 0) (unflagged false 2) 0 (·.x 5) = BitVec.allOnes 64 ∧
    after (.join 5 0) (grouped true false false 1 0) (9, 0) (fun t => (t.x 5, t.me.grp)) = (0, 0x1000_0001) := by decide +kernel
theorem test_gbar : after (.gbar 0) (unflagged true 2) (none, 0) (fun t => (t.me.wait, t.net.length)) = (some (.barrier 1), 1) ∧
    after (.gbar 0) (waiting (.barrier 1) true false (unflagged true 2)) 0 (·.me.pc) = 0x1_000C := by decide +kernel

/-- A strand that holds nothing may end; one that holds a bank, a stolen tile, a live helper or unacknowledged work may not. -/
theorem test_hyp_strandLife : base.me.id.unit = .compute ∧ base.me.id.isHandler = false ∧ base.lowestBank = none ∧ base.me.stolen = [] ∧ base.me.ports = [] ∧
    base.helpersIdle = true ∧ base.working = false ∧ base.me.groups = [] ∧ (banked 5).myCore.holds 5 (banked 5).me.id = true ∧
    (List.range 5).all (fun k => !(banked 5).myCore.holds k (banked 5).me.id) = true ∧ (me (fun c => { c with unack := 1 })).working = true ∧
    { base with rest := [{ base.me with id := { base.me.id with unit := .loader } }] }.helpersIdle = false ∧
    base.depsMet = true ∧ base.locks = [] ∧ base.me.unack = 0 ∧ base.pinned = false ∧ base.matrixBegun = false ∧ base.me.released = false ∧
    base.myLaunch.coreOf 15 = some 15 ∧ base.me.place.vc = 0 ∧ base.myLaunch.coreOf 16 = none ∧ (member true false false 0 id id).pinned = true ∧
    (match M.leaveAll (unflagged true 2).me.groups (unflagged true 2) with | .ok _ w => decide (w.me.id = (unflagged true 2).me.id) && w.locks.isEmpty | _ => false) = true := by decide +kernel
theorem test_exit : after .exit base ([], false) (fun t => ((t.launch base.me.id.launch).ended, t.me.live)) = ([0], false) ∧
    after .exit (banked 5) (0, 0) (fun t => (t.me.ecause, t.me.einfo)) = (11, 5) ∧
    after .exit (me (fun c => { c with stolen := [(9, 8)] })) (0, 0) (fun t => (t.me.ecause, t.me.einfo)) = (12, 9) := by decide +kernel
theorem test_migrate : after (.migrate 6) (x [(6, 15)] base) (.resident, 0) (fun t => (t.me.res, t.me.place.core)) = (.moving, 15) := by decide +kernel

/-- Port word 0 of the strand (R202), a source or a sink, in a state. -/
def portWord (owner : Nat) (sink : Bool) : W64 := BitVec.ofNat 64 (owner * 2 ^ 32 + 4 * 2 ^ 20 + (if sink then 2 ^ 19 else 0))
def ported (owner : Nat) (sink : Bool) (ps : AMap Nat PortState) : State := (pool [portWord owner sink] 3).modMe (fun c => { c with ports := ps })

theorem test_hyp_ports : (match (ported 0 false []).myLaunch.word 3 0 with | .ok w => w == portWord 0 false | .error _ => false) = true ∧
    ((portWord 0 false).extractLsb' 32 24).toNat = base.me.id.tid ∧ ((portWord 1 false).extractLsb' 32 24).toNat ≠ base.me.id.tid ∧
    (PortRec.ofWord (portWord 0 false)).sink = false ∧ (PortRec.ofWord (portWord 0 true)).sink = true ∧ (ported 0 false []).portState 0 = none ∧
    (ported 0 false []).portDomain (PortRec.ofWord (portWord 0 false)) = none ∧
    base.nodePkg (2 ^ 46 + base.me.id.launch * 2 ^ 24) = base.nodePkg (2 ^ 45 + base.me.id.launch * 128) ∧
    (ported 0 true [(0, .decided 3 7 (some 0x1_0000))]).portState 0 = some (.decided 3 7 (some 0x1_0000)) ∧
    (ported 0 true [(0, .offered (some 0x1_0000) false)]).portState 0 = some (.offered (some 0x1_0000) false) ∧
    (ported 0 true [(0, .offered none false)]).me.unreported = true ∧ (waiting (.port 0) false true (ported 0 true [(0, .offered none false)])).me.unreported = false ∧
    (match (pool [1] 4).myLaunch.word 3 0 with | .ok _ => false | .error _ => true) = true ∧
    8 ≤ (ported 0 false ((List.range 8).map (fun i => (i, .offered none false)))).me.ports.length := by decide +kernel
theorem test_put : after (.put 5 0 4) (v [(4, 0x1_8877_6655)] (ported 0 false [])) (none, none) (fun t => (t.me.wait,
      t.net.head?.map (fun p => match p.body with | .offer _ _ o => o.data | _ => 0))) = (some (.port 0), some 0x8877_6655) ∧
    after (.put 5 0 4) (ported 0 false [(0, .decided 0 0 (some 0x1_0000))]) (9, 9) (fun t => (t.x 5, t.me.ports.length)) = (0, 0) := by decide +kernel
theorem test_portbad : after (.putnb 0 4) (ported 1 false []) (0, 0) (fun t => (t.me.ecause, t.me.einfo)) = (16, 0x2_0000) ∧
    after (.pwait 5 6 0) (ported 0 false []) 0 (·.me.einfo) = 0x5_0000 := by decide +kernel

/-- A member of a reactive domain whose pool also declares signal 3 at index 6 (R312). -/
def domain (may : BitVec 256) (sees : List (Nat × Bool)) : State :=
  (member false true false 0 (fun g => { g with signals := [{ num := 3, comb := 0, status := .unknown, value := 0, prevVal := 9, prevPresent := true }] })
      (fun m => { m with may, mine := may, sees })).modLaunch base.me.id.launch
    (fun l => { l with pool := l.pool ++ [0x0001_0300_0000_0000], kinds := l.kinds ++ [6] })

theorem test_hyp_reactive : (match (domain 8 []).myLaunch.word 6 6 with | .ok w => (w.extractLsb' 40 8).toNat == 3 && (w.extractLsb' 48 16).toNat == 1 | .error _ => false) = true ∧
    inGroup (fun g m => g.reactive && g.gid == 1 && g.home == 0 && m.mine.getLsbD 3 && decide (m.sees.find? (fun y => y.1 == 3) = none) && (g.signal? 3).isSome) (domain 8 []) = true ∧
    inGroup (fun _ m => !m.mine.getLsbD 3 && decide (m.sees.find? (fun y => y.1 == 3) = some (3, true))) (domain 0 [(3, true)]) = true ∧
    (domain 8 []).me.unreported = true ∧ (waiting (.signal 6) false true (domain 8 [])).me.unreported = false ∧ (domain 8 []).asking = false ∧ base.flaggedOf base.me.id = none ∧
    ok (M.target (0x1_0000 + (0 : BitVec 16).signExtend 64 * 4)) (domain 8 []) = true ∧ (waiting .instant true false (domain 8 [])).asking = true := by decide +kernel
theorem test_sigtst : after (.sigtst 5 6) (domain 0 [(3, false)]) 0 (·.x 5) = 2 ∧ after (.sigtst 5 6) (domain 8 []) none (·.me.wait) = some (.signal 6) ∧
    after (.sigpre 5 6) (domain 8 []) 0 (·.x 5) = 0x1_0000_0009 := by decide +kernel
theorem test_emit : after (.emit 6 7) (domain 8 []) 9 (fun t => t.net.length) = 1 ∧ after (.emit 6 7) (domain 0 []) (0, 0) (fun t => (t.me.ecause, t.me.einfo)) =
    (1, 0x4000_0000_0000_0003) ∧ after (.zwr 2 7) (x [(7, 5)] base) 0 (fun t => t.me.zc.get 2) = 5 ∧ after (.zwr 2 7) (x [(7, 5)] (domain 8 [])) 9 (fun t => t.me.zc.get 2) = 0 := by
  decide +kernel

/-- A gang, its window open for the strand or not, and a tile queue with one entry. -/
def gang (open_ : Bool) (win : WinState) : State := member true false false 0 (fun g => { g with winOpen := open_ }) (fun m => { m with win, len := 16 })
def tiles (count : Nat) : State := member false false true 4 id (fun m => { m with queue := m.queue.map (fun q => { q with count }) })

theorem test_hyp_gangs : inGroup (fun g m => g.gang && !g.winOpen && g.home == 0 && decide (m.len < 2 ^ 32) && decide (g.attached m < 2 ^ 16) && decide (m.idx < 2 ^ 12)) (gang false .pending) = true ∧
    inGroup (fun g m => g.winOpen && decide (m.win = .attached)) (gang true .attached) = true ∧
    inGroup (fun g m => g.winOpen && decide (m.win ≠ .attached)) (gang true .detached) = true ∧ (gang true .attached).asking = false ∧ (gang true .attached).gangBusy = false ∧
    ((gang true .attached).modMe (fun c => { c with amops := [{ outstanding 3 with gang := true }] })).gangBusy = true ∧
    (0xF100_0000_0004_0000 : W64).extractLsb' 56 8 = 0xF1 ∧ (0xF100_0000_0004_0000 : W64).extractLsb' 47 9 = 0 ∧ (0xF100_0000_0004_0000 : W64).extractLsb' 19 17 = 0 ∧
    ((0xF100_0000_0004_0000 : W64).extractLsb' 36 11).toNat = base.me.place.core ∧ ((0xF100_0000_0004_0000 : W64).extractLsb' 0 19).toNat + 262144 ≤ 0x8_0000 ∧
    base.x 0 = 0 ∧ (0 : W64).extractLsb' 56 8 ≠ 0xF1 := by decide +kernel
theorem test_hyp_gangPointers : (match (gang true .attached).spot 0xF400_0000_0000_0008 false with | .ok (.sp g _) => g == 0 | _ => false) = true ∧
    ((gang true .attached).flaggedOf base.me.id.comp).any (fun x => x.1.gang && x.1.winOpen && decide (x.2.win = .attached) && decide (8 < x.2.len) && decide (x.2.len ≤ 16)) = true := by
  decide +kernel
theorem test_hyp_tiles : inGroup (fun g m => g.strag && m.queue.any (fun q => decide (q.count + q.out < g.tqcap) && q.count == 1)) (tiles 1) = true ∧
    inGroup (fun g m => m.queue.any (fun q => decide (g.tqcap ≤ q.count + q.out))) (tiles 4) = true ∧ inGroup (fun _ m => m.queue.any (fun q => q.count == 0)) (tiles 0) = true ∧
    inGroup (fun g m => ((tiles 0).myLaunch.neighbours ((tiles 0).myLaunch.recOf g) m.idx).contains 1 && (g.member? 1).isSome && m.idx != 1) (tiles 0) = true ∧
    Memory.wf (tiles 1).mem = true ∧ (tiles 1).me.farAmop = false ∧ (tiles 1).shadows = [] ∧ ((tiles 0).modMe (fun c => { c with stolen := [(7, 8)] })).me.stolen.any (fun t => t.1 == 7) = true ∧
    (waiting .request true false (tiles 0)).asking = true ∧ 1 < 2 := by decide +kernel
theorem test_gwopen : after (.gwopen 5 6 7) (x [(6, 0xF100_0000_0004_0000), (7, 16)] (gang false .pending)) (none, 0) (fun t => (t.me.wait, t.net.length)) = (some .window, 1) ∧
    after (.gwopen 5 6 7) (x [(6, 0xF100_0000_0004_0000), (7, 16)] (gang true .detached)) 0 (·.x 5) = 3 ∧
    after (.gwstat 5) (gang true .attached) 0 (·.x 5) = 0x10_0001_0003 := by decide +kernel
theorem test_tqpush : after (.tqpush 6) (x [(6, 0x1122)] (tiles 0)) (9, 9) (fun t => after (.tqtake 7 8) t (9, 9) (fun u => (u.x 7, u.x 8))) = (0x1122, 1) ∧
    after (.tqpush 6) (tiles 4) 0 (·.me.ecause) = 1 := by decide +kernel

/-- A helper and its compute strand, which has taken none of its traps yet. -/
def trapped : State := me (fun c => { c with helperTraps := [{ unit := .loader, code := Cause.badtgt, eaddr := 0x40_0000_0000_0000, pc := 0x1_0000 }] })

theorem test_hyp_strandEvents : helper.me.id.unit ≠ .compute ∧ 2 ^ 54 ≤ (0x3F_FFFF_FFFF_FFFC + (1 : BitVec 25).signExtend 64 * 4 : W64).toNat ∧
    base.me.entering = false ∧ base.me.groups = [] ∧ base.rest = [] ∧ base.me.id.tid < 2 ^ 24 ∧ (me (fun c => { c with entering := true })).me.entering = true ∧
    trapped.contextAt 0 = some trapped.me.id ∧ (trapped.focus trapped.me.id).helperDue = true ∧ (trapped.focus trapped.me.id).due = true ∧ trapped.me.res = .resident ∧
    (match trapped.settle with | some _ => false | none => true) = true ∧ trapped.me.causeDue = none ∧ trapped.me.nextHelperTrap.isSome = true ∧ trapped.flaggedOf trapped.me.id = none ∧
    ((core (fun c => { c with slotwNew := some 5 })).core 0).slotwNew = some 5 ∧ (base.strand? base.me.id).isSome = true := by decide +kernel
theorem test_helperTrap : after (.helperTrapDelivery 0) trapped (0, 0, 0) (fun t => (t.me.ecause, t.me.einfo, t.me.epc)) = (0x402, 0x1_0000, 0x1_0000) := by decide +kernel
theorem test_illop_entry : after (.illop 0 0x60 true) (me (fun c => { c with entering := true })) ([], false)
    (fun t => ((t.launch base.me.id.launch).ended, (t.launch base.me.id.launch).firstFault.any (·.mchk))) = ([0], true) := by decide +kernel

/-- An instruction of the strand in a matrix queue; a drain whose destination waits for one more acknowledgement. -/
def matOp (kind : MatKind) (started : Bool) : MatOp :=
  { ref := 3, owner := base.me.id, base := 0, banks := 1, kind, started, parked := false, row := 0, buf := [], pins := [], stamp := none,
    homes := [], dst := [], olds := [], laters := [], rlx := false }
def drained : MatOp := { matOp (.mdrain 1 false .f32 0 [] none none) true with row := 1, dst := [run 32 32] }

/-- A copy of 32 bytes whose command waits at streamer 5, and one whose bytes are on their way. -/
def segment : Seg := { n := 0, server := 5, pieces := [.run (privKey base 0) (privKey base 32) 32] }
def copying : State :=
  { base with ops := [(9, { copyTo base [run 32 32] with unsent := [segment] })],
              streamers := [(5, { cmds := [{ op := 9, seg := 0, core := 0 }], last := 0 })] }
def copied (b : Body) : State := { flying .blk b base with ops := [(9, { copyTo base [run 32 32] with sent := [(0, 32)] })] }
def sectorOf (n : Nat) : Body := .sector 9 0 ((List.range n).map (fun j => ⟨privKey base (32 + j), BitVec.ofNat 8 j, 0xFF⟩)) false

theorem test_hyp_engineEvents : copying.streamer 5 = { cmds := [] ++ { op := 9, seg := 0, core := 0 } :: [], last := 0 } ∧
    (copying.segment? { op := 9, seg := 0, core := 0 }).any (fun x => copying.readable x && decide (x.2.pieces = [.run (privKey base 0) (privKey base 32) 32])) = true ∧
    copying.net = [] ∧ privKey base 32 % 32 = 0 ∧ Memory.wf base.mem = true ∧ base.shadows = [] ∧ base.poison = [] ∧ base.locks = [] ∧
    { flying .req (.segCmd 9 0) copying with streamers := [] }.commandAt 0 0 = some (9, 0) ∧
    (copied (sectorOf 32)).arriving 0 = some (sectorOf 32) ∧ wholeSector [run 32 32] (privKey base 32 / 32) ((List.range 32).map (fun j => ⟨privKey base (32 + j), 0, 0xFF⟩)) = true ∧
    wholeSector [run 32 32] (privKey base 32 / 32) ((List.range 31).map (fun j => ⟨privKey base (32 + j), 0, 0xFF⟩)) = false ∧
    base.evictedKey base.me.id.launch (privKey base 0) = false ∧ base.matrix? 9 = none ∧
    ((banked 0).modMyCore (fun c => { c with mq0 := [{ drained with ref := 9 }] }) |>.matrix? 9).isSome = true ∧
    (copied (.segAck 9 0)).arriving 0 = some (.segAck 9 0) ∧ (copied (.segAck 9 1)).arriving 0 = some (.segAck 9 1) ∧
    (flying .ctl (.decrement base.me.id.launch (privKey base 8)) base).arriving 0 = some (.decrement base.me.id.launch (privKey base 8)) ∧
    (launch (fun l => { l with evicted := [0] })).evictedKey base.me.id.launch (privKey base 8) = true ∧
    (flying .ctl (.swap base.me.id (privKey base 0) 7) base).arriving 0 = some (.swap base.me.id (privKey base 0) 7) := by decide +kernel
theorem test_hyp_noCommand : ∀ j, copying.commandAt 5 j = none := by
  intro j
  have h : copying.net = [] := by decide +kernel
  simp [State.commandAt, State.arriving, h]
theorem test_sectorWrite : after (.sectorWrite 0) (copied (sectorOf 32)) (0, []) (fun t => (Memory.get t.mem (privKey base 63), t.net.map (·.body))) = (31, [.segAck 9 0]) ∧
    after (.sectorWrite 0) (copied (sectorOf 31)) (0, 0) (fun t => ((Memory.get t.mem (privKey base 33)).toNat, (t.ops.flatMap (·.2.part)).length)) = (0, 31) ∧
    after (.segmentComplete 0) (copied (.segAck 9 0)) 9 (fun t => t.ops.length) = 0 ∧ after (.streamerSegment 5) copying 0 (fun t => t.net.length) = 1 := by decide +kernel
theorem test_decrement : after (.completionDecrement 0) (flying .ctl (.decrement base.me.id.launch (privKey base 8))
    { base with mem := Memory.putN base.mem (privKey base 8) (leBytes 8 0x0000_0000_0100_0002) }) 0 (fun t => leNat (bytesAt t (privKey base 8) 8)) = 0x0001_0000_0000_2002 := by decide +kernel

def array (kind : MatKind) (started : Bool) (f : MatOp → MatOp) : State := (banked 0).modMyCore (fun c => { c with mq0 := [f (matOp kind started)] })
def pinned : MatOp → MatOp := fun o => { o with pins := [{ line := privKey base 0 / 64, bytes := List.replicate 64 1, poison := false }] }
def rowKeys : List Nat := (List.range 64).map (fun i => privKey base i)
def drainTo : MatKind := .mdrain 1 false .f32 0 [(List.range 128).map (fun i => privKey base i)] none none

/-- It waits, runs, or is done. -/
def waits (s : State) : Bool := decide (running s.myCore.mq0 = none) && decide ((s.nextMatrix 0 s.myCore.mq0 [] []).map (·.ref) = some 3)
def runs (s : State) : Bool := decide ((running s.myCore.mq0).map (·.ref) = some 3)
def done (s : State) : Bool := s.locks.isEmpty && decide ((s.myCore.mq0.find? (·.finishing)).map (·.ref) = some 3)

theorem test_hyp_matrixEvents : [array .mzero false id, array drainTo false id].all waits = true ∧
    [array (.mmulMem false false [rowKeys]) true id, array (.mmulMem false true [rowKeys]) true pinned, array (.mmulQueue false 1 16) true id,
      array (.mmuls false 2 16) true id].all runs = true ∧
    [array .mzero true id, array (.mwr 127 5) true id, array (.mcbl (List.replicate 32 (privKey base 0))) true id, array (.mwld .bf16 32 []) true id, array .rel true id, array .mshape true id,
      array (.mmulMem false true []) true id, array (.mmulQueue false 1 0) true id, array drainTo true id].all done = true ∧
    ((banked 0).mctxOf (matOp .mzero true)).tile.isSome = true ∧
    (array (.mmulMem false true [rowKeys]) true pinned).myCore.mq0.all (fun o => (o.fetched rowKeys).isSome) = true ∧
    (array (.mmulMem false true [rowKeys]) true id).myCore.mq0.all (fun o => decide (o.fetched rowKeys = none) && decide (((rowLines rowKeys).find? (fun x => !o.pins.any (fun p => p.line == x))) =
      some (privKey base 0 / 64))) = true ∧
    (array (.mmulQueue false 1 16) true id).myCore.mq0.all (fun o => decide ((queue [7]).arrayQueue o 1 = [7]) && !(array (.mmulQueue false 1 16) true id).rowPresent 0 o) = true ∧
    (stream 2 (List.replicate 16 1)).myCore.arrayStream 2 = [0x01010101010101010101010101010101] ∧ (core (fun c => c.setBanks 127 1 .clearing)).myCore.bankState 127 = .clearing := by
  decide +kernel
theorem test_matrixComplete : after (.matrixOpComplete 0 0) (array (.mwr 127 5) true id) 0 (fun t => t.myCore.cell 0 508) = 5 ∧
    after (.bankClearDone 0 127) (core (fun c => c.setBanks 127 1 .clearing)) .clearing (fun t => t.myCore.bankState 127) = .free ∧
    after (.tileFetchRead 0 0) (array (.mmulMem false true [rowKeys]) true id) 0 (fun t => (t.myCore.mq0.flatMap (·.pins)).length) = 1 := by decide +kernel

/-- A remote access from package 1 to a page of this package (R248), before and after it is imported; and a parked one. -/
def remote (op : RemoteOp) (va : W64) (posted : Bool) : Remote :=
  { ref := 5, sid := base.me.id, pc := 0, pkg := 0, vf := 0, va, fromPkg := 1, aper := 1, host := false, posted, op, node := 0, accs := [] }
def imported (yes : Bool) : State := writable.modVfun 0 0 (fun v => { v with imports := if yes then [1] else [], pager := none })
def waited : Asked := { ref := 5, sid := base.me.id, va := 0x1_8000, aper := 1, noticed := 0, node := 0, gang := false, lines := [] }
def asked (op : RemoteOp) (va : W64) (yes : Bool) : State := { flying .req (.remote (remote op va false)) (imported yes) with asked := [waited] }
def parked (op : RemoteOp) (va : W64) (yes due : Bool) : State :=
  { imported yes with asked := [waited], parked := [{ req := remote op va false, die := 0, line := dramKey 0 slotL1, queued := true, due }] }

/-- The leaf of the access lies apart from its bytes. -/
def apart (s : State) (r : Remote) : Bool :=
  match s.peerKey r.pkg r.vf r.va.toNat r.op.need with
  | .ok (k, f) => decide (dramKey 0 f.pa < k ∨ k + r.op.size ≤ dramKey 0 f.pa)
  | .error _ => false

/-- The code of the trap that its walk raises. -/
def refusal (s : State) (r : Remote) : Nat :=
  match s.peerKey r.pkg r.vf r.va.toNat r.op.need with
  | .ok _ => 0
  | .error t => t.code

theorem test_hyp_remoteTargets : (match writable.walk 0 0 0x1_8000 with | .ok _ => true | .error _ => false) = true ∧ writable.tlbLeaf 0 0 0x1_8000 = none ∧
    (match writable.walk 0 0 0x4000_0000_0000 with | .ok _ => false | .error t => decide (t.code = 6)) = true ∧ Memory.wf writable.mem = true ∧
    (asked (.load 8) 0x1_8000 true).arriving 0 = some (.remote (remote (.load 8) 0x1_8000 false)) ∧ (AMap.get base.pkgs 0).isSome = true ∧
    (asked (.load 8) 0x1_8000 true).requestWaits (remote (.load 8) 0x1_8000 false) = false ∧
    (asked (.load 8) 0x1_8000 true).wanted (remote (.load 8) 0x1_8000 false) = true ∧ base.wanted (remote (.load 8) 0x1_8000 false) = false ∧
    (asked (.load 8) 0x1_8000 true).raceMet (remote (.load 8) 0x1_8000 false) [] = none ∧ writable.poison = [] ∧ writable.shadows = [] ∧
    [RemoteOp.load 8, .fetch 8, .store (([1, 2] : List Byte).map some), .atomic 0 .n64 1 0 false false, .cas .n64 0 5].all (fun op =>
      apart ((asked op 0x1_8000 true).deliver 0) (remote op 0x1_8000 false) && apart (parked op 0x1_8000 true true) (remote op 0x1_8000 false)) = true ∧
    (((asked (.load 8) 0x1_8000 true).deliver 0).vfun 0 0).imports.contains 1 = true ∧ (((asked (.load 8) 0x1_8000 false).deliver 0).vfun 0 0).imports.contains 1 = false ∧
    ((imported true).vfun 0 0).pager = none ∧ refusal (imported true) (remote (.load 8) 0x4000_0000_0000 false) = Cause.page ∧
    refusal { imported true with mem := base.mem } (remote (.store (([1, 2] : List Byte).map some)) 0x1_8000 false) = Cause.perm := by decide +kernel
theorem test_hyp_known : (flying .req (.remote { remote (.load 8) 0x1_8000 false with accs := [spotAcc (privAddr 0) 8 (.sp 0 0x5_0000)] }) base).arriving 0 =
      some (.remote { remote (.load 8) 0x1_8000 false with accs := [spotAcc (privAddr 0) 8 (.sp 0 0x5_0000)] }) ∧
    base.requestWaits { remote (.load 8) 0x1_8000 false with accs := [spotAcc (privAddr 0) 8 (.sp 0 0x5_0000)] } = false ∧
    (flying .req (.remote { remote (.load 8) 0x1_8000 false with host := true }) base).arriving 0 = some (.remote { remote (.load 8) 0x1_8000 false with host := true }) := by decide +kernel
theorem test_hyp_parked : [true, false].all (fun due => (parked (.load 8) 0x1_8000 true due).parked[0]?.any (fun p => p.queued && p.due == due && p.req == remote (.load 8) 0x1_8000 false)) = true ∧
    (parked (.load 8) 0x1_8000 true true).requestWaits (remote (.load 8) 0x1_8000 false) = false ∧
    (flying .ctl (.cancel 5) (parked (.load 8) 0x1_8000 true true)).arriving 0 = some (.cancel 5) ∧
    (flying .ctl (.cancel 5) (parked (.load 8) 0x1_8000 true true)).parked.any (fun q => q.req.ref == 5) = true := by decide +kernel
theorem test_peerAccess : after (.peerAccessRequest 0) (asked (.store (([1, 2] : List Byte).map some)) 0x1_8000 true) 0 (fun t => leNat (bytesAt t (dramKey 0 (slotPage + 0x1_8000)) 2)) = 0x201 ∧
    after (.peerAccessRequest 0) (asked (.load 8) 0x4000_0000_0000 true) 0 (fun t => t.parked.length) = 1 := by decide +kernel
theorem test_retry : after (.faultQueueRetry 0) (parked (.load 8) 0x1_8000 true true) (9, 9) (fun t => (t.parked.length, t.net.length)) = (0, 1) ∧
    after (.faultQueueRetry 0) (parked (.load 8) 0x1_8000 true false) (9, 9) (fun t => (t.parked.length, t.net.length)) = (1, 0) := by decide +kernel

/-- The strand waits for a remote access under reference 5, and an answer comes. -/
def awaiting (b : Body) : State :=
  { flying .rpy b base with asked := [waited],
                            me := { base.me with pend := [{ pc := base.me.pc, on := .reply, ref := 5, got := [], waiting := true, sent := false, cancel := false, plan := [] }], unack := 1,
                                                 amops := [outstanding 7] } }

theorem test_hyp_remoteRequesters : (awaiting (.keepWaiting 5)).arriving 0 = some (.keepWaiting 5) ∧ (awaiting (.amopAck 7 base.me.id)).arriving 0 = some (.amopAck 7 base.me.id) ∧
    (awaiting (.reply 5 base.me.id (.ok [3]) false)).arriving 0 = some (.reply 5 base.me.id (.ok [3]) false) ∧ (awaiting (.keepWaiting 5)).asked.any (fun a => a.aper < 16 && a.ref == 5 && !a.gang) = true ∧
    (awaiting (.keepWaiting 5)).contexts.all (fun d => d.amops.all (fun y => y.ref == 7 && y.va == 0)) = true ∧ (awaiting (.keepWaiting 5)).contexts.any (fun d => d.amops.any (fun y => y.ref == 7)) = true ∧
    (awaiting (.keepWaiting 5)).replied 5 = false ∧ (awaiting (.reply 5 base.me.id (.ok [3]) false)).replied 5 = true ∧
    (awaiting (.notsup 7 base.me.id 0x1_8000)).arriving 0 = some (.notsup 7 base.me.id 0x1_8000) ∧ (base.launch base.me.id.launch).coreOf base.me.place.vc = some 0 ∧
    aperKind (0 : BitVec 128) = 0 ∧ aperKind (BitVec.ofNat 128 (2 ^ 38)) = 1 ∧ aperState (BitVec.ofNat 128 (2 ^ 38)) = 0 ∧ (base.vfun 0 0).apers.length = 15 ∧
    aperState (BitVec.ofNat 128 (2 ^ 48)) ≠ 0 := by decide +kernel
theorem test_remoteReply : after (.remoteReply 0) (awaiting (.amopAck 7 base.me.id)) (9, []) (fun t => (t.me.unack, t.me.amops)) = (0, []) ∧
    after (.remoteReply 0) (awaiting (.reply 5 base.me.id (.ok [3]) false)) (9, []) (fun t => (t.asked.length, t.me.pend.flatMap (·.got))) = (0, [.ok [3]]) := by decide +kernel

/-- A report of thread 1 that arrives at the home of a group. -/
def reported (gang reactive strag : Bool) (f : Group → Group) (h : Member → Member) (b : Body) : State := flying .ctl b (member gang reactive strag 4 f h)
def launch1 : Nat := base.me.id.launch

theorem test_hyp_groupEvents : (reported false false true id id (.gbarArrive launch1 1 0 2)).arriving 0 = some (.gbarArrive launch1 1 0 2) ∧
    ((reported false false true id id (.gbarArrive launch1 1 0 2)).group? launch1 1).any (fun g => decide (g.undone = []) && g.members.any (fun x => x.inside && x.idx != 0 && decide (x.arrived = none)) && g.members.any (fun x => x.idx == 0)) = true ∧
    ((reported false false true (fun g => { g with members := g.members.map (fun m => { m with arrived := some (0, 1) }) }) id (.gbarArrive launch1 1 0 2)).group? launch1 1).any
      (fun g => g.members.all (fun x => decide (x.arrived ≠ none)) && decide (g.members.map (·.idx)).Nodup) = true ∧
    ((reported true false false id id (.winArrive launch1 1 0 0x4_0000 16)).group? launch1 1).any (fun g => !g.departed && !g.winOpen && g.members.any (fun x => x.idx == 1 && decide (x.opening = none))) = true ∧
    ((reported true false false (fun g => { g with members := g.members.map (fun m => { m with opening := some (0, 16) }) }) id (.winArrive launch1 1 0 0x4_0000 16)).group? launch1 1).any
      (fun g => g.members.all (fun x => decide (x.opening ≠ none))) = true ∧
    ((reported true false false (fun g => { g with winOpen := true }) id (.depart launch1 1 1 0)).group? launch1 1).any (fun g => g.winOpen && decide (g.members.map (·.idx)).Nodup) = true ∧
    (reported false false true id id (.steal launch1 1 0 1 5)).arriving 0 = some (.steal launch1 1 0 1 5) ∧
    ((reported false false true id (fun m => { m with lagCopy := true, queue := m.queue.map (fun q => { q with count := 1 }) }) (.steal launch1 1 1 0 5)).group? launch1 1).any
      (fun g => (g.member? 0).any (fun v => v.lagCopy && v.inside && v.count == 1)) = true ∧
    (reported false false true id id (.stealResult launch1 1 0 1 5 1 9 1)).arriving 0 = some (.stealResult launch1 1 0 1 5 1 9 1) ∧
    [true, false].all (fun home => decide ((reported false false true id id (.tqdone launch1 1 1 1 home)).arriving 0 = some (.tqdone launch1 1 1 1 home))) = true ∧
    (reported false false true id id (.straggler launch1 1 1 0 base.me.id 5)).arriving 0 = some (.straggler launch1 1 1 0 base.me.id 5) := by decide +kernel
theorem test_stealReply : after (.stealReply 0) ({ reported false false true id id (.stealResult launch1 1 0 1 5 1 9 1) with
      me := { (waiting .request true true (member false false true 4 id id)).me with pend := [{ pc := base.me.pc, on := .request, ref := 5, got := [], waiting := true, sent := true, cancel := false, plan := [] }] } })
      ([], []) (fun t => (t.me.pend.flatMap (·.got), t.me.stolen)) = ([.ok [9, 0x1_0001_0001]], [(0x1_0001_0001, 9)]) := by decide +kernel
theorem test_windowOpen : after (.windowOpen 0) (reported true false false (fun g => { g with members := g.members.map (fun m => { m with opening := some (0, 16) }) }) id (.winArrive launch1 1 0 0x4_0000 16))
    [] (fun t => t.groups.flatMap (fun g => g.members.map (fun m => (g.winOpen, m.base, m.len)))) = [(true, 0x4_0000, 16), (true, 0, 16)] := by decide +kernel

/-- A connector of one row: ports 0 (a source) and 1 (a sink) complete together, and the data of port 0 goes to port 1 (R299, R300). -/
def conn (clocked : Bool) (offers : List Offer) (active : Bool) : Connector :=
  { launch := launch1, hvc := 0, num := 0, words := [BitVec.ofNat 64 ((if clocked then 2 ^ 47 + 2 ^ 48 else 0) + 2 * 2 ^ 27 + 16), 0, 3, 0, 0, 1, 1], offers, buffers := [], ptrs := [],
    active, evaluated := false }
def offer (lidx : Nat) (d : V128) : Offer := { lidx, sid := base.me.id, idx := lidx, data := d }
def linked (c : Connector) (s : State) : State := { s with connectors := [(0, c)] }

theorem test_hyp_connectors : (conn false [offer 0 7, offer 1 0] true).pick (fun _ => false) 0 = some (0, 0) ∧ (conn false [offer 0 7] true).pick (fun _ => false) 0 = none ∧
    (conn false [] true).rowsOf 0 = [0] ∧ (conn false [] true).classes = [0] ∧ (linked (conn false [] true) base).served 0 0 = some (conn false [] true) ∧ (linked (conn false [] true) base).turnAt 0 0 = some (conn false [] true) ∧
    (linked (conn true [offer 0 7, offer 1 0] true) (domain 8 [])).turnAt 0 0 = some (conn true [offer 0 7, offer 1 0] true) ∧ (linked (conn false [] true) base).wantsTurn (conn false [] true) = true ∧
    (linked (conn false [] true) base).conn? launch1 0 0 = some (conn false [] true) ∧ base.homeEvicted launch1 0 = false ∧
    (flying .ctl (.offer 0 0 (offer 0 7)) (linked (conn false [] true) base)).arriving 0 = some (.offer 0 0 (offer 0 7)) ∧
    (flying .ctl (.withdraw 0 0 0 base.me.id 0) (linked (conn false [offer 0 7] true) base)).arriving 0 = some (.withdraw 0 0 0 base.me.id 0) ∧
    ((linked (conn true [offer 0 7, offer 1 0] true) (domain 8 [])).clockOf (conn true [offer 0 7, offer 1 0] true)).any
      (fun g => (linked (conn true [offer 0 7, offer 1 0] true) (domain 8 [])).clockReady g (conn true [offer 0 7, offer 1 0] true)) = true ∧
    (flying .ctl (.portResult base.me.id 0 0 7) base).arriving 0 = some (.portResult base.me.id 0 0 7) := by decide +kernel
theorem test_connectorEvaluation : after (.connectorEvaluation 0 0) (linked (conn false [offer 0 7, offer 1 0] true) (pool [portWord 0 false, portWord 0 true + 1] 3)) []
    (fun t => t.net.map (·.body)) = [.portResult base.me.id 0 0 0, .portResult base.me.id 1 0 7] := by decide +kernel

/-- The home of a domain: a report, a stall, the end of an instant. -/
def sigState (st : SigStatus) (reacts : ReactState) (b : Body) : State :=
  flying .ctl b (member false true false 0 (fun g =>
    { g with signals := [{ num := 3, comb := 1, status := st, value := 5, prevVal := 0, prevPresent := false }], members := g.members.map (fun m => { m with react := reacts }) })
    (fun m => { m with may := 8, mine := 8 }))

theorem test_hyp_instants : (sigState .unknown .running (.emit launch1 1 0 3 7)).arriving 0 = some (.emit launch1 1 0 3 7) ∧
    ((sigState .unknown .running (.emit launch1 1 0 3 7)).group? launch1 1).any (fun g => (g.signal? 3).any (fun x => decide (x.status = .unknown)) && decide (g.members.map (·.idx)).Nodup && (g.member? 0).isSome) = true ∧
    (sigState .unknown .running (.emit launch1 1 0 3 7)).evictedAt launch1 0 = false ∧ base.portEvaluated launch1 0 = false ∧
    (sigState .unknown (.blockedSig 3) (.emit launch1 1 0 3 7)).groups.any ({ sigState .unknown (.blockedSig 3) (.emit launch1 1 0 3 7) with net := [] }.stalled) = true ∧
    (sigState .present .paused (.emit launch1 1 0 3 7)).groups.any (sigState .present .paused (.emit launch1 1 0 3 7)).instantOver = true ∧
    (sigState .present .running (.emit launch1 1 0 3 7)).groups.any (fun g => (sigState .present .running (.emit launch1 1 0 3 7)).stalled g || (sigState .present .running (.emit launch1 1 0 3 7)).instantOver g) = false ∧
    (sigState .present .running (.cause launch1 1 0 9)).arriving 0 = some (.cause launch1 1 0 9) ∧ (sigState .present .running (.cause launch1 1 0 9)).ownOffer = none ∧
    (waiting (.signal 3) true false (sigState .present .running (.cause launch1 1 0 9))).me.pendOf.map Pend.on = some (.signal 3) ∧
    (sigState .present .running (.cause launch1 1 0 9)).me.id.unit = .compute ∧ (9 : W64).getLsbD 8 = false := by decide +kernel
theorem test_emitReport : after (.emitReport 0) (sigState .unknown .running (.emit launch1 1 0 3 7)) [] (fun t => t.groups.flatMap (fun g => g.signals.map (fun x => (x.value, x.status)))) = [(12, .present)] ∧
    after (.instantEnd 0) (sigState .present .paused (.emit launch1 1 0 3 7)) [] (fun t => t.groups.flatMap (fun g => g.signals.map (fun x => (x.prevVal, x.prevPresent)))) = [(5, true)] := by decide +kernel

/-- A launch of one virtual cluster and two threads that waits at a queue's head, and one that is bound, its threads not started. -/
def queued : State :=
  let l : Launch := { slotLaunch with words := slotLaunch.words.set 1 0x1_0000_0002, state := .queued, bind := [], started := [], reported := false }
  ({ State.reset with launches := [(1, l)], next := 2 }).modPkg 0 (fun p => { p with queues := [((0, 0), [1])] })
def bound : State := queued.modLaunch 1 (fun l => { l with state := .bound, bind := [0] })

/-- A graph of a conditional node 0 and two launches that follow it (R278). -/
def condition (st : NodeState) : State :=
  { base with graphs := [(7, { vf := 0, pkg := 0, nodes :=
    [{ num := 0, launch := none, words := [BitVec.ofNat 64 (2 ^ 60), 0, 0x2001, 0], st, iter := 0, started := false },
     { num := 1, launch := some 90, words := [], st := .waiting, iter := 0, started := false },
     { num := 2, launch := some 91, words := [], st := .waiting, iter := 0, started := false }] })] }

theorem test_hyp_scheduling : queued.heads 0 = [(1, 0, 0)] ∧ base.heads 0 = [] ∧ (match queued.clusterPlan (queued.launch 1) with | some p => decide (p.gone = [] ∧ p.primary false = [0]) | none => false) = true ∧
    queued.exports = [] ∧ queued.pillowShareOk { queued.launch 1 with bind := [0] } 1 = true ∧ bound.holder 0 = some (1, 0) ∧ (bound.freeSlots 1 0).head? = some 0 ∧
    (bound.launch 1).heldFor 0 = none ∧ (bound.launch 1).stopping.contains 0 = false ∧ (bound.core 0).shifting = false ∧ (bound.freeSlots 1 0).head? ≠ some 1 ∧
    bound.strand? { launch := 1, seat := .placed 0, unit := .compute } = none ∧ (bound.core 0).arrivals = [] ∧ (bound.launch 1).unstarted 0 = [0] ∧ (bound.launch 1).graph = none ∧ bound.locks = [] ∧
    (condition .ready).graphs.any (fun g => g.2.nodes.any (fun n => n.num == 0 && n.kind == 1 && decide (n.st = .ready) && decide (n.successors = [1, 2]) && n.field 11 0 == 1) && decide (g.2.nodes.map (·.num)).Nodup) = true ∧
    (base.vfun 0 0).resetting = false ∧ (bound.modLaunch 1 (fun l => { l with started := [0, 1], ended := [0, 1] })).mayComplete 1 = true ∧ base.mayComplete base.me.id.launch = false ∧
    (base.launch base.me.id.launch).evicted.contains 0 = false ∧ (base.stopSet base.me.id.launch (base.keptSet base.me.id.launch 0)).setSettled base.me.id.launch (base.keptSet base.me.id.launch 0) = true ∧
    ((waiting .reply false true base).stopSet base.me.id.launch [0]).setSettled base.me.id.launch [0] = false ∧ { bound.modLaunch 1 (fun l => { l with evicted := [0] }) with savedCores := [((1, 0), Core.reset)] }.mayRestore 1 0 = true ∧ base.mayRestore base.me.id.launch 0 = false ∧
    (base.contexts.map (·.id)).Nodup := by decide +kernel
theorem test_launchSelect : after (.launchSelect 0) queued ([], .done) (fun t => ((t.launch 1).bind, (t.launch 1).state)) = ([0], .bound) ∧
    after (.strandPlace 0 0) bound none (fun t => (t.strand? { launch := 1, seat := .placed 0, unit := .compute }).map (fun c => (c.place.slot, c.getX 2))) = some (0, 0xF000_0000_0000_4000) := by
  decide +kernel
theorem test_launchComplete : after (.launchComplete 1) (bound.modLaunch 1 (fun l => { l with started := [0, 1], ended := [0, 1] })) (0, .bound) (fun t => (t.toHost.length, (t.launch 1).state)) = (1, .done) := by
  decide +kernel

/-- A lock-step pair of core 0 with core 16 (R366). -/
def locked (held : List Sid) : State :=
  { base with locks := [(0, { check := [base.me], queues := [], core := .reset, log := [(privKey base 0, 9)], poison := [], held, rolls := 0 })] }

theorem test_hyp_hardwareErrors : base.pairAt 0 = none ∧ (base.core 0).split = false ∧ base.holder 1 = none ∧ base.boundTo 1 = [] ∧ (locked []).contexts.all (fun c => decide (c.res ≠ .evicted)) = true ∧ AMap.get (base.pkg 0).quar (rowOf 16).2 = none ∧ base.me.place.gcore ∉ rightOf 16 ∧
    AMap.get (base.modPkg 0 (fun p => { p with quar := [((rowOf 16).2, 0)] })).pkgs 0 ≠ none ∧ (locked []).pairAt 0 = some 0 ∧ (AMap.get (locked []).locks 0).any (fun l => l.rolls < 2) = true ∧
    (AMap.get (locked [base.me.id]).locks 0).any (fun l => decide (l.held = base.me.id :: [])) = true := by decide +kernel
theorem test_rollback : after (.rollback 0) (locked []) (0, 0) (fun t => (Memory.get t.mem (privKey base 0), t.locks.length)) = (9, 1) ∧
    after (.uncorrectableError 5 1) base [] (·.poison) = [5] ∧ after (.quarantine 16 6) base [] (fun t => (t.pkg 0).quarList) = [(16, 6, 1)] := by decide +kernel

/-- A link that keeps a flit, owes credits and is due a sync flit; a flit at a router. -/
def link (wire : List Flit) (retrains : Nat) (down : Bool) : State :=
  { base with links := [(dieLink 0 1, { credits := [(.req, 1)], retry := wire, nextSeq := 1, wire, expect := 0, owed := [(.req, 2)], sinceSync := 4096, retrains, down })] }
def flit (seq : BitVec 12) (bad : Bool) : Flit := { seq, net := .req, credits := some (.rpy, 1), bad, load := .credit }
def torusFlit (dst : Nat) : TorusFlit :=
  { dst, src := 5, born := 0, net := .req, seq := 0, index := 0, count := 1, via := 0,
    packet := some { vn := .req, src := 0, dst := 0, body := .keepWaiting 5, after := none, sent := 0 } }
def two : State := base.modPkg 1 (fun p => p)
def router (dst : Nat) : State := two.modTorus 0 (fun t => { t with arrived := [torusFlit dst] })

theorem test_hyp_fabric : [flit 0 false, flit 0 true, flit 5 false].all (fun f => decide (((link [f] 0 false).link (dieLink 0 1)).wire = [f])) = true ∧
    ((link [flit 0 false] 0 false).link (dieLink 0 1)).expect = (flit 0 false).seq ∧ ((link [flit 0 true, flit 1 false] 0 false).link (dieLink 0 1)).wire.drop 1 = [flit 1 false] ∧
    ((link [] 0 false).link (dieLink 0 1)).owed = [(.req, 2)] ∧ 4096 ≤ ((link [] 0 false).link (dieLink 0 1)).sinceSync ∧ (link [] 0 false).linkDown (reverseLink (dieLink 0 1)) = false ∧ reverseLink (dieLink 0 1) ≠ dieLink 0 1 ∧ torusLink (dieLink 0 1) = false ∧
    torusLink (2 ^ 60) = true ∧ (base.link 5).owed = [] ∧ (link [] 0 true).linkDown (dieLink 0 1) = true ∧ (router 0).ejected 0 0 .req [] < 2048 ∧ AMap.get [(VNet.req, 5)] .req = some 5 ∧
    (base.link (dieLink 0 1)).sinceSync < 4096 ∧ ((link [] 2 false).link (dieLink 0 1)).retrains = 2 ∧ ((link [] 2 false).link (dieLink 0 1)).down = false ∧
    retrains (dieLink 0 1) = true ∧ retrains (dieLink 0 7) = false ∧ ((link [] 0 true).link (dieLink 0 1)).down = true ∧ ((router 0).torusNode 0).arrived = [torusFlit 0] ∧ ((router 0).torusNode 0).inject = [] ∧ ((router 0).torusNode 0).eject = [] ∧
    (AMap.get ((router 0).torusNode 0).taken (5, VNet.req)).getD 0 = (torusFlit 0).seq ∧ torusCloser 0 1 ≠ [] ∧
    (torusCloser 0 1).all (fun o => (router 1).torusUp 0 o && decide (((router 1).link (2 ^ 60 + o)).wire.length ≤ 252)) = true := by decide +kernel
theorem test_torus : after (.torusFlitArrival 0) (router 0) 0 (fun t => t.net.length) = 1 ∧ after (.torusFlitArrival 0) (router 1) 0 (fun t => (((t.land (2 ^ 60)).torusNode 1).arrived).length) = 1 ∧
    after (.linkRetrain (dieLink 0 1)) (link [] 2 false) false (fun t => (t.link (dieLink 0 1)).down && (t.link (dieLink 1 0)).down) = true ∧
    after (.slotTableSwitch 0) { base with conns := [{ vf := 0, die := 0, src := 0, dst := 1, net := .req, slots := [], shadow := some [5], graph := none }] } [] (fun t => t.conns.flatMap (·.slots)) = [5] := by
  decide +kernel

/-- A datagram (R391) to package 0 from source 0. -/
def dgram (op tag vf : Nat) (data : List Byte) : List Byte :=
  leBytes 8 0 ++ leBytes 4 0x3943_4648 ++ leBytes 2 1 ++ leBytes 2 op ++ leBytes 4 tag ++ leBytes 4 data.length ++ leBytes 16 vf ++ data
def hosted : State := (List.range 16).foldl (fun s v => s.modVfun 0 v (fun f => { f with bound := none })) base
def accepted (op vf : Nat) (data : List Byte) : Bool :=
  match Dgram.ofBytes (dgram op 9 vf data) with
  | some d => d.op == op && (hosted.pkg d.pkg).running && (AMap.get hosted.pkgs d.pkg).isSome && hosted.sourceOk d && !(hosted.pkg d.pkg).recovery &&
      decide ((hosted.vfun d.pkg d.vf).tags.find? (fun t => t.1 == d.tag) = none) && !(hosted.vfun d.pkg d.vf).resetting
  | none => false

theorem test_hyp_hostCommands : [(1, 0xFF), (2, 15), (3, 0), (4, 0), (5, 0), (6, 0xFF), (7, 0xFF), (8, 0xFF), (9, 0xFF), (10, 0xFF), (0, 0), (11, 0)].all
      (fun p => accepted p.1 p.2 (leBytes 32 0)) = true ∧ Dgram.ofBytes (dgram 1 9 16 []) = none ∧ Dgram.ofBytes [] = none ∧
    (match (base.modVfun 0 0 (fun v => { v with slotShare := 32 })).allocate 0 0 1 .req 32 none with | some _ => true | none => false) = true ∧
    (match base.allocate 0 0 1 .req 1 none with | some _ => false | none => true) = true ∧ AMap.get base.images 0 = none ∧
    { base with images := [(1, { vf := 0, records := [Vector.replicate 8 0], pool := [], kinds := [], text := [], helper := none, pages := [] })] }.submitOk 0
      { handle := 1, first := 0, count := 1, queue := 15, die := 7, pkgs := [0], nodes := [] } { vf := 0, records := [Vector.replicate 8 0], pool := [], kinds := [], text := [], helper := none, pages := [] } = true ∧
    (match base.image 0 [] with | some _ => false | none => true) = true ∧ base.launchesOf 0 1 = [] ∧ (base.launches.map (·.1)).Nodup := by decide +kernel
theorem test_qos : after (.qos (dgram 7 9 0xFF [3, 32, 64, 5, 0x34, 0x12])) base (0, 0, 0, 0) (fun t =>
      ((t.vfun 0 3).slotShare, (t.vfun 0 3).pillowShare, (t.vfun 0 3).dramWeight, (t.vfun 0 3).l2mask)) = (32, 64, 5, 0x1234) ∧
    after (.qos (dgram 7 9 0xFF [3, 33, 64, 5, 0, 0])) base [] (fun t => t.toHost.flatMap (fun m => m.bytes.drop 32)) = [2, 0, 0, 0] ∧
    after (.qos (dgram 7 9 0 [3, 32, 64, 5, 0, 0])) hosted [] (fun t => t.toHost.flatMap (fun m => m.bytes.drop 32)) = [2, 0, 0, 0] := by decide +kernel
theorem test_ptbase : after (.ptbase (dgram 10 9 0xFF (leBytes 8 2 ++ leBytes 8 0x200_0000))) base 0 (fun t => (t.vfun 0 2).l1) = 0x200_0000 ∧
    after (.malformedDatagram []) base 9 (fun t => t.toHost.length) = 0 := by decide +kernel

theorem test_hyp_hostAndPower : (writable.globalKey 0 0 0x1_8000).isSome = true ∧ base.globalKey 0 0 0x1_8000 = base.globalKey 0 0 0x1_8000 ∧ base.globalKey 1 0 0x1_8000 = none ∧
    (writable.readGlobal 0 0 0x1_8000 8).isSome = true ∧ (base.launches.filter (fun l => l.2.pkgs.contains 0 && (!decide (l.2.state = .done) || !l.2.reported))).length = 1 ∧ writable.alive 0 = true ∧ writable.alive 1 = false ∧
    base.launches.all (fun l => (base.launch l.1).home == 0) = true ∧ base.pkgs.all (fun p => decide (p.2.linksDown = [])) = true ∧
    (bound.launch 1).reported = false ∧ AMap.get bound.launches 1 = some (bound.launch 1) ∧ base.cores.all (fun c => !c.2.remap.getLsbD 7) = true := by decide +kernel
theorem test_thermal : after (.thermalThrottle 0 1200) base 0 (fun t => (t.pkg 0).clock) = 1200 ∧ after (.thermalThrottle 0 1150) base 0 (fun t => (t.pkg 0).clock) = 2500 ∧
    after (.thermalShutdown 0) bound (true, []) (fun t => ((t.pkg 0).running, t.toHost.flatMap (fun m => (m.bytes.drop 32).take 5))) = (false, [0, 0, 0, 0, 5]) := by decide +kernel
theorem test_powerOn : (base.powerLoss 0).rest = [] ∧ base.mem ≠ [] ∧ (base.clearAll 0).mem = [] := by decide +kernel

/-- A stream graph of one operator whose input holds messages and whose output goes to the sink. -/
def streamMsg (seq : W32) (d : List Byte) : StreamMsg := { seq, sub := 0, last := true, gap := false, data := d, fault := none }
def nodeOf_ (kind : Nat) (params : List Nat) (inputs : List (List StreamMsg)) : StreamNode :=
  { kind, site := 0, params, vocab := [], outs := [16], inputs, lastSeq := none, subs := 0 }
def graphOf (n : StreamNode) (sinkIn : List StreamMsg) : StreamGraph :=
  { vf := 0, pkg := 0, num := 0, site := 0, select := 0, nextSeq := 1, nodes := [n], chan := 2, launch := launch1, vc := 0, ring := 0, ringSlots := 64, sinkIn, waiting := [], commitSeq := 1, commitSub := 0 }
def graph (kind : Nat) (params : List Nat) (inputs : List (List StreamMsg)) (sinkIn : List StreamMsg) : State :=
  { base with streams := [(4, graphOf (nodeOf_ kind params inputs) sinkIn)] }
def sunk (i : Instr) (s : State) : List (List Byte) :=
  match Sys2Proof.Machine.exec i s with
  | .next t => t.streams.flatMap (fun g => g.2.sinkIn.map (·.data))
  | _ => []

theorem test_hyp_streams : (AMap.get (graph 9 [] [[streamMsg 1 [5]]] []).streams 4).any (fun g => !g.full 16 && !g.full 0 && 16 / 16 == g.nodes.length &&
      g.nodes[0]?.any (fun n => decide (n.inputs = [[streamMsg 1 [5]]]) && decide (n.outs = [16]) && n.kind == 9)) = true ∧
    (match inflate 100 [1, 2, 0, 0xFD, 0xFF, 7, 8] with | .ok (o, k) => decide (o = [7, 8] ∧ k = 7) | .error _ => false) = true ∧
    (match inflate 100 [7] with | .ok _ => false | .error e => decide (e = (false, 0))) = true ∧ (streamMsg 1 []).before (streamMsg 2 []) = true ∧ (streamMsg 2 []).before (streamMsg 1 []) = false ∧
    (AMap.get (graph 9 [] [[]] [streamMsg 1 [5]]).streams 4).any (fun g => decide ((graph 9 [] [[]] [streamMsg 1 [5]]).sinkCore g = some 0) && decide (g.sinkIn = [streamMsg 1 [5]])) = true ∧
    ringOk 64 = true ∧ ringOk 3 = false := by decide +kernel
theorem test_operators : sunk (.convert 4 0) (graph 1 [2, 4] [[streamMsg 1 [0xFF, 0xFF, 0xFF, 0xFF, 0x2C, 1, 0, 0]]] []) = [[0, 255]] ∧
    sunk (.inflate 4 0) (graph 3 [0, 100] [[streamMsg 1 [1, 2, 0, 0xFD, 0xFF, 7, 8]]] []) = [[7, 8]] ∧ sunk (.replicate 4 0) (graph 9 [] [[streamMsg 1 [5]]] []) = [[5]] ∧
    sunk (.splitMsg 4 0) (graph 7 [0, 2] [[streamMsg 1 [1, 2, 3]]] []) = [[1, 2], [3]] ∧ sunk (.repack 4 0) (graph 11 [4, 2, 0] [[streamMsg 1 [1, 2, 3, 4]]] []) = [[1, 2]] := by decide +kernel
theorem test_checksum : sunk (.checksum 4 0) (graph 10 [0] [[streamMsg 1 [0x31, 0x32, 0x33, 0x34, 0x35, 0x36, 0x37, 0x38, 0x39]]] []) =
    [[0x31, 0x32, 0x33, 0x34, 0x35, 0x36, 0x37, 0x38, 0x39, 0x83, 0x92, 0x06, 0xE3]] := by decide +kernel

/-! ## The step, the encoder, the invariants -/

/-- The turn of the strand of `base`: its words, what they stand for, and that it may run. -/
theorem test_hyp_step : base.sched = .strand base.me.id :: [] ∧ (base.strand? base.me.id).any (·.runnable) = true ∧
    (({ base with tick := base.tick + 1, sched := [] } : State).focus base.me.id).inRuntime = false ∧ (({ base with tick := base.tick + 1, sched := [] } : State).focus base.me.id).due = false ∧
    ok M.fetch base = true ∧ decode [0x000E0038] = .ok (.trap 7) ∧ ok (M.fetchWord base.me.pc) base = true ∧ answers (M.bitmapBit base.me.pc) base true = true ∧
    base.shadows = [] ∧ base.me.synced = base.codeLog.length ∧ (match base.translate 0 0 .s 0x1_0000 .fetch with | .ok f => f.aper == 0 | .error _ => false) = true ∧
    helperMay .eret = false ∧ helperMay (.add .i64 1 2 (.reg 3)) = true := by decide +kernel
theorem test_hyp_encoding : WellFormed (.sel .i64 31 30 29 (.lit (2 ^ 64 - 1))) = true ∧ isEvent (.sel .i64 31 30 29 (.lit 0)) = false ∧ isEvent (.powerOn 0) = true := by decide +kernel
theorem test_hyp_invariants : Memory.wf base.mem = true ∧ (match step base with | .next t => Memory.wf t.mem | _ => false) = true ∧
    after (.trap 7) base (.h, 0) (fun t => (t.me.level, t.me.pc)) = (.k, base.me.tvec) ∧ base.me.level = .s ∧ isEvent (.trap 7) = false := by decide +kernel

end Sys2Proof.Tests
end

/-! Proofs of the statements about a context's boundary (R5, R26, R47, R77, R78, R94, R95, R97). First the laws they rest on:
which record a name finds after one context has changed, after the turn has moved, and after a context is withdrawn. -/

namespace Sys2Proof.Machine

/-! ### Contexts by name -/

@[simp] theorem State.strand?_me (s : State) : s.strand? s.me.id = some s.me := by
  simp [State.strand?, State.contexts]

theorem State.strand?_of_ne {s : State} {i : Sid} (h : i ≠ s.me.id) :
    s.strand? i = s.rest.find? (fun c => decide (c.id = i)) := by
  simp [State.strand?, State.contexts, Ne.symm h]

/-- A context changed under its own name: that name finds the changed record, every other name the old one. -/
theorem State.strand?_modStrand (s : State) (i j : Sid) (f : Strand → Strand) (hf : ∀ c, (f c).id = c.id) :
    (s.modStrand i f).strand? j = if j = i then (s.strand? i).map f else s.strand? j := by
  have key : (s.modStrand i f).strand? j = (s.strand? j).map (fun c => if c.id = i then f c else c) := by
    have hid : ∀ c : Strand, (if c.id = i then f c else c).id = c.id := fun c => by split <;> simp [hf]
    have hctx : (s.modStrand i f).contexts = s.contexts.map (fun c => if c.id = i then f c else c) := rfl
    simp only [State.strand?, hctx, List.find?_map, Function.comp_def, hid]
  rw [key]
  cases hj : s.strand? j with
  | none =>
    split
    · next e => rw [← e, hj]; rfl
    · rfl
  | some c =>
    have hc : c.id = j := by simpa using List.find?_some hj
    by_cases e : j = i
    · subst e; simp [hj, hc]
    · simp [e, hc]

/-- The executing context changed: its name finds the changed record, every other name the old one. -/
theorem State.strand?_modMe (s : State) (j : Sid) (f : Strand → Strand) (hf : (f s.me).id = s.me.id) :
    (s.modMe f).strand? j = if j = s.me.id then some (f s.me) else s.strand? j := by
  by_cases e : j = s.me.id
  · subst e; simp [State.strand?, State.contexts, hf]
  · rw [if_neg e, State.strand?_of_ne e, State.strand?_of_ne (by simpa [hf] using e)]; rfl

theorem State.strand?_unhold (s : State) (i j : Sid) : (s.unhold i).strand? j = s.strand? j := by
  rw [State.unhold_shape]; rfl

/-! ### The turn moved -/

/-- A context that has no record beside the executing one takes no turn from it. -/
theorem State.focus_of_absent {s : State} {i : Sid} (h : ∀ r ∈ s.rest, r.id ≠ i) : s.focus i = s := by
  have hn : s.rest.find? (fun c => decide (c.id = i)) = none := by simpa [List.find?_eq_none] using h
  simp only [State.focus, hn]

theorem State.focus_shape (s : State) (i : Sid) : s.focus i = { s with me := (s.focus i).me, rest := (s.focus i).rest } := by
  unfold State.focus; split <;> rfl

/-- The turn given to a context: its record stands first. -/
theorem State.focus_me {s : State} {i : Sid} {c : Strand} (h : s.strand? i = some c) (alone : ∀ r ∈ s.rest, r.id ≠ s.me.id) :
    (s.focus i).me = c := by
  by_cases e : i = s.me.id
  · subst e
    rw [State.focus_of_absent alone]
    simpa using h
  · rw [State.strand?_of_ne e] at h
    simp only [State.focus, h]

/-- The turn given to a context: every name finds the record it found. -/
theorem State.strand?_focus (s : State) (i j : Sid) (alone : ∀ r ∈ s.rest, r.id ≠ s.me.id) :
    (s.focus i).strand? j = s.strand? j := by
  cases hi : s.rest.find? (fun c => decide (c.id = i)) with
  | none => simp only [State.focus, hi]
  | some c =>
    have hc : c.id = i := by simpa using List.find?_some hi
    have hmem : c ∈ s.rest := List.mem_of_find?_eq_some hi
    have hfocus : s.focus i = { s with me := c, rest := s.rest.map (fun x => if x.id = i then s.me else x) } := by
      simp only [State.focus, hi]
    have hne : i ≠ s.me.id := fun e => alone c hmem (hc.trans e)
    by_cases e : j = i
    · subst e
      rw [State.strand?_of_ne hne, hi]
      simp [hfocus, State.strand?, State.contexts, hc]
    · rw [State.strand?_of_ne (s := s.focus i) (by simpa [hfocus, hc] using e), hfocus, List.find?_map]
      by_cases ej : j = s.me.id
      · -- the record that has lost the turn stands where the other one stood
        subst ej
        have there : ∀ x ∈ s.rest, decide ((if x.id = i then s.me else x).id = s.me.id) = decide (x.id = i) := by
          intro x hx
          by_cases hxi : x.id = i <;> simp [hxi, alone x hx]
        rw [State.strand?_me, List.find?_congr (p₂ := fun x => decide (x.id = i)) there, hi]
        simp [hc]
      · have there : ∀ x ∈ s.rest, decide ((if x.id = i then s.me else x).id = j) = decide (x.id = j) := by
          intro x _
          by_cases hxi : x.id = i <;> simp [hxi, Ne.symm e, Ne.symm ej]
        rw [State.strand?_of_ne ej, List.find?_congr (p₂ := fun x => decide (x.id = j)) there]
        cases hj : s.rest.find? (fun x => decide (x.id = j)) with
        | none => rfl
        | some x =>
          have hx : x.id = j := by simpa using List.find?_some hj
          simp [hx, e]

/-- A context with no record beside the executing one acts as itself where it acts for itself. -/
theorem State.asStrand_me {s : State} (f : State → State) (alone : ∀ r ∈ s.rest, r.id ≠ s.me.id)
    (hrest : (f s).rest = s.rest) : s.asStrand s.me.id f = f s := by
  unfold State.asStrand
  rw [State.focus_of_absent alone]
  exact State.focus_of_absent (by rwa [hrest])

/-! ### A helper that traps (R97) -/

/-- A helper stopped at its instruction. -/
def Strand.stopped (c : Strand) : Strand := { c with live := false, wait := none, pend := [] }

/-- A helper's trap held by its compute strand. -/
def Strand.holdTrap (h : HelperTrap) (c : Strand) : Strand := { c with helperTraps := c.helperTraps ++ [h] }

@[simp] theorem Strand.stopped_id (c : Strand) : c.stopped.id = c.id := rfl
@[simp] theorem Strand.holdTrap_id (h : HelperTrap) (c : Strand) : (c.holdTrap h).id = c.id := rfl

/-- The trap that the executing helper leaves behind. -/
def State.helperTrap (s : State) (t : Trap) : HelperTrap := { unit := s.me.id.unit, code := t.code, eaddr := t.eaddr, pc := s.me.pc }

theorem State.comp_ne_me {s : State} (h : s.me.id.unit ≠ .compute) : s.me.id.comp ≠ s.me.id :=
  fun e => h (congrArg Sid.unit e).symm

/-- A helper's trap stops it, and goes to its compute strand. -/
theorem State.takeTrap_helper {s : State} {t : Trap} (h : s.me.id.unit ≠ .compute) (hc : t.clear = none) :
    s.takeTrap t = ((s.unhold s.me.id).modMe Strand.stopped).modStrand s.me.id.comp (Strand.holdTrap (s.helperTrap t)) := by
  unfold State.takeTrap
  rw [hc]
  simp only [State.modMe_me, State.unhold_me, if_neg h]
  rfl

theorem State.takeTrap_helper_me {s : State} {t : Trap} (h : s.me.id.unit ≠ .compute) (hc : t.clear = none) :
    (s.takeTrap t).me = s.me.stopped := by
  rw [State.takeTrap_helper h hc]
  simp [State.modStrand, State.unhold_me, Strand.stopped, Ne.symm (State.comp_ne_me h)]

theorem State.takeTrap_helper_rest {s : State} {t : Trap} (h : s.me.id.unit ≠ .compute) (hc : t.clear = none) :
    (s.takeTrap t).rest = s.rest.map (fun c => if c.id = s.me.id.comp then c.holdTrap (s.helperTrap t) else c) := by
  rw [State.takeTrap_helper h hc, State.unhold_shape]
  rfl

theorem State.takeTrap_helper_others {s : State} {t : Trap} (h : s.me.id.unit ≠ .compute) (hc : t.clear = none) :
    s.takeTrap t = { s with me := (s.takeTrap t).me, rest := (s.takeTrap t).rest, queues := (s.unhold s.me.id).queues,
                            cores := (s.unhold s.me.id).cores } := by
  rw [State.takeTrap_helper h hc, State.unhold_shape]
  rfl

theorem State.takeTrap_helper_strand? {s : State} {t : Trap} (h : s.me.id.unit ≠ .compute) (hc : t.clear = none) (j : Sid) :
    (s.takeTrap t).strand? j = if j = s.me.id then some s.me.stopped
      else if j = s.me.id.comp then (s.strand? j).map (Strand.holdTrap (s.helperTrap t)) else s.strand? j := by
  have hne := State.comp_ne_me h
  rw [State.takeTrap_helper h hc, State.strand?_modStrand _ _ _ _ (Strand.holdTrap_id _),
    State.strand?_modMe _ _ _ (Strand.stopped_id _), State.strand?_modMe _ _ _ (Strand.stopped_id _), State.unhold_me,
    State.strand?_unhold, State.strand?_unhold,
    if_neg hne]
  by_cases e : j = s.me.id.comp
  · subst e; simp [hne]
  · simp [e]

/-! ### A strand that is lost (R95, R357) -/

/-- The launches, and the messages of the C9 that wait at each core, are as they were. -/
structure SameNews (s t : State) : Prop where
  launches : t.launches = s.launches
  events : ∀ g, (t.core g).sys = (s.core g).sys

theorem SameNews.refl (s : State) : SameNews s s := ⟨rfl, fun _ => rfl⟩

theorem SameNews.trans {s t u : State} (h : SameNews s t) (k : SameNews t u) : SameNews s u :=
  ⟨k.launches.trans h.launches, fun g => (k.events g).trans (h.events g)⟩

theorem SameNews.of_tables {s t : State} (hl : t.launches = s.launches) (hc : t.cores = s.cores) : SameNews s t :=
  ⟨hl, fun g => by simp only [State.core, hc]⟩

theorem State.modCore_sameNews (s : State) (g : Nat) (f : Core → Core) (hf : ∀ c, (f c).sys = c.sys) : SameNews s (s.modCore g f) := by
  refine ⟨State.modCore_launches .., fun k => ?_⟩
  rw [State.core_modCore]
  split
  · next e => rw [hf, e]
  · rfl

theorem State.foldl_sameNews {α : Type} (f : State → α → State) (hf : ∀ s a, SameNews s (f s a)) (l : List α) :
    ∀ s, SameNews s (l.foldl f s) := by
  induction l with
  | nil => exact SameNews.refl
  | cons a l ih => exact fun s => (hf s a).trans (ih _)

theorem State.focus_sameNews (s : State) (i : Sid) : SameNews s (s.focus i) := by
  rw [State.focus_shape]
  exact SameNews.of_tables rfl rfl

theorem State.asStrand_sameNews (s : State) (i : Sid) (f : State → State) (hf : ∀ u, SameNews u (f u)) : SameNews s (s.asStrand i f) :=
  (s.focus_sameNews i).trans ((hf _).trans (State.focus_sameNews _ _))

theorem Core.setMq_sys (c : Core) (t : Bool) (q : List MatOp) : (c.setMq t q).sys = c.sys := by
  unfold Core.setMq; split <;> rfl

theorem Core.setBanks_sys (c : Core) (base n : Nat) (st : BankState) : (c.setBanks base n st).sys = c.sys := by
  simp only [Core.setBanks]

theorem Core.without_sys (c : Core) (i : Sid) : (c.without i).sys = c.sys := by
  simp only [Core.without]

/-- The banks of a killed context are given up at its core alone, and no message of the C9 goes with them. -/
theorem State.giveUpBanks_sameNews (s : State) (c : Strand) : SameNews s (s.giveUpBanks c) := by
  unfold State.giveUpBanks
  dsimp only
  split
  · exact s.modCore_sameNews _ _ (fun k => k.without_sys c.id)
  · refine s.asStrand_sameNews _ _ (State.foldl_sameNews _ (fun u l => ?_) _)
    have numbered : SameNews u { u with next := u.next + 1 } := SameNews.of_tables rfl rfl
    exact numbered.trans (State.modCore_sameNews _ _ _ (fun k => (Core.setBanks_sys ..).trans (k.setMq_sys _ _)))

theorem State.remove_sameNews (s : State) (i : Sid) : SameNews s (s.remove i) := by
  unfold State.remove
  dsimp only
  split
  · split <;> exact SameNews.of_tables rfl rfl
  · exact SameNews.of_tables rfl rfl

theorem State.unheld_sameNews (s : State) (i : Sid) : SameNews s (s.unheld i) := SameNews.of_tables rfl rfl

theorem State.launch_modLaunch (s : State) (u v : Nat) (f : Launch → Launch) :
    (s.modLaunch u f).launch v = if v = u then f (s.launch u) else s.launch v := by
  simp only [State.launch, State.modLaunch, AMap.get_put]
  by_cases e : u = v
  · subst e; simp
  · simp [e, Ne.symm e]

/-- A record under a name, where every record of that name has been replaced by an ended one. -/
theorem Strand.res_ite_ended {p : Prop} [Decidable p] {a b : Strand} {i : Sid} (hid : (if p then a else b).id = i)
    (ha : a.res = .ended) (hb : b.id = i → p) : (if p then a else b).res = .ended := by
  by_cases hp : p
  · rwa [if_pos hp]
  · rw [if_neg hp] at hid
    exact absurd (hb hid) hp

/-- A withdrawn context is in the machine no more, or has ended with its work still to run. -/
theorem State.remove_ended (s : State) (i : Sid) (c : Strand) (h : (s.remove i).strand? i = some c) : c.res = .ended := by
  have hid : c.id = i := by simpa using List.find?_some h
  have hmem : c ∈ (s.remove i).contexts := List.mem_of_find?_eq_some h
  unfold State.remove at hmem
  dsimp only at hmem
  split at hmem
  · split at hmem
    · simp only [State.contexts, List.mem_cons, List.mem_append, List.mem_map, List.not_mem_nil, or_false] at hmem
      rcases hmem with rfl | ⟨x, _, rfl⟩ | rfl
      · rfl
      · exact Strand.res_ite_ended hid rfl id
      · rfl
    · next hme =>
      simp only [State.contexts, List.mem_cons, List.mem_map] at hmem
      rcases hmem with rfl | ⟨x, _, rfl⟩
      · exact absurd hid hme
      · exact Strand.res_ite_ended hid rfl id
  · simp only [State.contexts, List.mem_cons, List.mem_filter] at hmem
    rcases hmem with rfl | ⟨_, hx⟩
    · exact Strand.res_ite_ended hid rfl id
    · simp [hid] at hx

/-- The thread's end and its fault leave the places of the launch's virtual cores as they were. -/
theorem Launch.coreOf_fault_finish (l : Launch) (t : Nat) (f : FaultRec) (vc : Nat) :
    ((l.finish t).fault f).coreOf vc = l.coreOf vc := rfl

theorem Launch.mem_ended_finish (l : Launch) (t : Nat) (f : FaultRec) : t ∈ ((l.finish t).fault f).ended := by
  show t ∈ if l.ended.contains t then l.ended else l.ended ++ [t]
  split
  · next h => simpa using h
  · simp

/-- The first fault of a launch that has lost a strand says so. -/
theorem Launch.firstFault_mchk (l : Launch) (f : FaultRec) (h : f.mchk = true) :
    ∃ g, (l.fault f).firstFault = some g ∧ g.mchk = true := by
  unfold Launch.fault
  cases l.firstFault with
  | none => exact ⟨f, rfl, h⟩
  | some o => exact ⟨_, rfl, by simp [h]⟩

/-- A lone strand: in no group, with no offer, and with no second record. -/
structure State.Lone (s : State) : Prop where
  groups : s.me.groups = []
  ports : s.me.ports = []
  unique : ∀ r ∈ s.rest, r.id ≠ s.me.id

/-- The killing of a lone strand (R357): its record is gone or ended, its thread has ended with the launch's first fault kept, and no
message of the C9 is lost. -/
structure State.Killed (s : State) (f : FaultRec) (t : State) : Prop where
  gone : ∀ c, t.strand? s.me.id = some c → c.res = .ended
  launch : t.launch s.me.id.launch = (s.myLaunch.finish s.me.id.tid).fault f
  events : ∀ g, (t.core g).sys = (s.core g).sys

theorem State.Killed.of_sameNews {s u t : State} {f : FaultRec} (before : SameNews s u)
    (after : SameNews (u.modLaunch s.me.id.launch (fun l => (l.finish s.me.id.tid).fault f)) t)
    (gone : ∀ c, t.strand? s.me.id = some c → c.res = .ended) : s.Killed f t := by
  refine ⟨gone, ?_, fun g => (after.events g).trans (before.events g)⟩
  have same : ∀ l, u.launch l = s.launch l := fun l => by simp only [State.launch, before.launches]
  have told : t.launch s.me.id.launch = (u.modLaunch s.me.id.launch (fun l => (l.finish s.me.id.tid).fault f)).launch s.me.id.launch := by
    simp only [State.launch, after.launches]
  rw [told, State.launch_modLaunch, if_pos rfl, same, State.myLaunch]

theorem State.Lone.withdrawAll {s : State} (h : s.Lone) : s.asStrand s.me.id State.withdrawAll = s := by
  have e : s.withdrawAll = s := by simp [State.withdrawAll, h.ports]
  rw [State.asStrand_me _ h.unique (by rw [e]), e]

theorem State.Lone.killStrand {s : State} (h : s.Lone) (f : FaultRec) : s.Killed f (s.killStrand s.me.id f) := by
  unfold State.killStrand
  rw [State.strand?_me]
  simp only [h.withdrawAll, h.groups, List.foldl_nil]
  apply State.Killed.of_sameNews (gone := State.remove_ended _ _)
  case after =>
    refine SameNews.trans (.trans (.trans ?_ (State.remove_sameNews _ _)) (State.remove_sameNews _ _)) (State.remove_sameNews _ _)
    exact SameNews.of_tables rfl rfl
  case before =>
    refine SameNews.trans ?_ (State.unheld_sameNews _ _)
    refine SameNews.trans ?_ (State.modCore_sameNews _ _ _ ?_)
    · refine SameNews.trans ?_ (State.giveUpBanks_sameNews _ _)
      exact SameNews.of_tables rfl rfl
    · exact fun _ => rfl

/-! ### What the C9 tells a launch (R191, R360) -/

theorem State.systemEvent_strand? (s : State) (launch vc code : Nat) (addr : W64) (i : Sid) :
    (s.systemEvent launch vc code addr).strand? i = s.strand? i := by
  unfold State.systemEvent; split <;> rfl

theorem State.systemEvent_launch (s : State) (launch vc code : Nat) (addr : W64) (u : Nat) :
    (s.systemEvent launch vc code addr).launch u = s.launch u := by
  unfold State.systemEvent; split <;> rfl

/-- A system event waits behind the others at the core of its virtual core. -/
theorem State.systemEvent_sys {s : State} {launch vc g : Nat} (code : Nat) (addr : W64)
    (h : (s.launch launch).coreOf vc = some g) : ∃ x : InjEntry,
    ((s.systemEvent launch vc code addr).core g).sys = (s.core g).sys ++ [x] ∧ x.launch = launch ∧ x.vc = vc ∧ x.msg.ch = 1 ∧
      x.msg.data = leBytes 8 code ++ leBytes 8 addr.toNat := by
  unfold State.systemEvent
  simp only [h, State.core_modCore, if_pos]
  exact ⟨_, rfl, rfl, rfl, rfl, rfl⟩

/-- The loss of a lone compute strand: it is killed with a fault that says MCHK, and its launch is told. -/
theorem State.Lone.lose {s : State} (h : s.Lone) (hc : s.me.id.unit = .compute) (hh : s.me.id.isHandler = false) (reason unit : Nat) :
    ∃ f u, f.mchk = true ∧ s.Killed f u ∧
      s.lose s.me.id reason unit = u.systemEvent s.me.id.launch 0 Cause.mchk (lossInfo s.me.id.tid reason unit) := by
  have hcomp : s.me.id.comp = s.me.id := by rw [Sid.comp, ← hc]
  unfold State.lose
  simp only [State.strand?_me, State.kill, hh, Bool.false_eq_true, if_false, hcomp]
  exact ⟨_, _, rfl, h.killStrand _, rfl⟩

/-! ### A helper's trap taken (R97) -/

theorem Strand.takeHelperTrap_enter {c : Strand} {h : HelperTrap} (hn : c.nextHelperTrap = some h) :
    c.takeHelperTrap = ({ c with helperTraps := c.helperTraps.erase h }).enter h.trap h.src := by
  simp only [Strand.takeHelperTrap, hn]

/-- At a boundary with nothing else to settle or to take, the compute strand takes a helper's trap. -/
theorem State.boundary_helperTrap {s : State} (he : s.me.entryDue = false) (hs : s.settle = none) (hc : s.me.causeDue = none)
    (hf : s.flaggedOf s.me.id = none) : s.boundary = (s.unhold s.me.id).modMe Strand.takeHelperTrap := by
  have hu : s.unblocked = s := by simp only [State.unblocked, hf]
  simp only [State.boundary, he, hs, State.takeDue, hc, hu, Bool.false_eq_true, if_false]

/-- A sequence whose first part stops stops there. -/
theorem M.bind_error {α β : Type} {m : M α} {f : α → M β} {s u : State} {e : Stop} (h : m s = .error e u) :
    (m >>= f) s = .error e u := by
  show EStateM.bind m f s = _
  unfold EStateM.bind
  rw [h]

end Sys2Proof.Machine

namespace Sys2Proof.Safety

open Sys2Proof.Machine

/-! ### Words of the statements -/

theorem leBytes_eq_range (n v : Nat) : leBytes n v = (List.range n).map (fun i => BitVec.ofNat 8 (v >>> (8 * i))) := by
  induction n generalizing v with
  | zero => rfl
  | succ n ih =>
    simp only [leBytes, ih, List.range_succ_eq_map, List.map_cons, List.map_map, Nat.mul_zero, Nat.shiftRight_zero]
    congr 1
    refine List.map_congr_left (fun i _ => ?_)
    have e : (v / 256) >>> (8 * i) = v >>> (8 * (i + 1)) := by
      rw [Nat.shiftRight_eq_div_pow, Nat.shiftRight_eq_div_pow, Nat.div_div_eq_div_mul, Nat.mul_add, Nat.pow_add, Nat.mul_comm]
    simp only [Function.comp_apply, Nat.succ_eq_add_one, e]

theorem leBytes_toNat (n : Nat) {w : Nat} (v : BitVec w) : leBytes n v.toNat = wordBytes n v := by
  rw [leBytes_eq_range]
  refine List.map_congr_left (fun i _ => BitVec.eq_of_toNat_eq ?_)
  simp

theorem lossInfo_eq {tid : Nat} (h : tid < 2 ^ 24) : lossInfo tid 4 9 = BitVec.ofNat 64 tid <<< 24 ||| 0x49 := by
  have apart : tid <<< 24 ||| 0x49 = tid * 2 ^ 24 + 0x49 := by
    rw [← Nat.shiftLeft_add_eq_or_of_lt (by decide), Nat.shiftLeft_eq]
  refine BitVec.eq_of_toNat_eq ?_
  rw [BitVec.toNat_or, BitVec.toNat_shiftLeft, BitVec.toNat_ofNat, Nat.mod_eq_of_lt (by omega : tid < 2 ^ 64),
    Nat.mod_eq_of_lt (by rw [Nat.shiftLeft_eq]; omega : tid <<< 24 < 2 ^ 64)]
  rw [show (0x49 : W64).toNat = 0x49 from rfl, apart, lossInfo, BitVec.toNat_ofNat]
  omega

theorem decodeInfo_eq {pos : Nat} (h : pos < 2 ^ 31) (w0 : W32) :
    decodeInfo pos w0 = 0x8000_0000_0000_0000 ||| (BitVec.ofNat 64 pos <<< 32) ||| w0.setWidth 64 := by
  have apart : 2 ^ 63 + pos * 2 ^ 32 = 2 ^ 63 ||| pos <<< 32 := by
    rw [Nat.shiftLeft_eq]
    exact Nat.two_pow_add_eq_or_of_lt (i := 63) (by omega) 1
  unfold decodeInfo
  congr 1
  refine BitVec.eq_of_toNat_eq ?_
  rw [BitVec.toNat_or, BitVec.toNat_shiftLeft, BitVec.toNat_ofNat, BitVec.toNat_ofNat, Nat.mod_eq_of_lt (by omega : pos < 2 ^ 64),
    Nat.mod_eq_of_lt (by rw [Nat.shiftLeft_eq]; omega : pos <<< 32 < 2 ^ 64), Nat.mod_eq_of_lt (by omega), apart]
  rfl

theorem dispTo_eq (s : State) {n : Nat} (d : BitVec n) : dispTo s d = s.me.pc + d.signExtend 64 * 4 := by
  rw [dispTo, sx, BitVec.shiftLeft_eq_mul_twoPow]
  rfl

theorem target_badtgt {T : W64} (s : State) (h : 2 ^ 54 ≤ T.toNat) :
    M.target T s = .error (.trap (Trap.of Cause.badtgt T 0)) s := by
  have hc : codeAddr T = false := by simpa [codeAddr] using h
  unfold M.target
  rw [hc]
  simp only [Bool.not_false, Bool.or_true, M.trapIf, if_true]
  rfl

/-! ### What fetch and decoding raise (R47, R77, R78, R95) -/

/-- A helper that traps stops, its trap is held by its compute strand, and no other name finds another record. -/
structure HelperStops (s : State) (code : Nat) (eaddr : W64) (t : State) : Prop where
  records : ∀ j, t.strand? j = if j = s.me.id then some { s.me with live := false, wait := none, pend := [] }
    else if j = s.me.id.comp then (s.strand? j).map (fun c =>
      { c with helperTraps := c.helperTraps ++ [{ unit := s.me.id.unit, code := code, eaddr := eaddr, pc := s.me.pc }] })
    else s.strand? j
  mem : SameMem s t

theorem takeTrap_stops (s : State) (t : Trap) (h : s.me.id.unit ≠ .compute) (hc : t.clear = none) :
    HelperStops s t.code t.eaddr (s.takeTrap t) :=
  ⟨State.takeTrap_helper_strand? h hc, fun k => by rw [State.takeTrap_helper_others h hc]⟩

/-- The executing strand is lost (R95): its thread has ended, its record is gone or ended, its launch keeps the loss as a fault, and
the launch's first virtual core is told. -/
structure StrandLost (s t : State) : Prop where
  thread : s.me.id.tid ∈ (t.launch s.me.id.launch).ended
  gone : ∀ c, t.strand? s.me.id = some c → c.res = .ended
  fault : ∃ f, (t.launch s.me.id.launch).firstFault = some f ∧ f.mchk = true
  told : ∀ g, s.myLaunch.coreOf 0 = some g → ∃ x : InjEntry, (t.core g).sys = (s.core g).sys ++ [x] ∧ x.launch = s.me.id.launch ∧
    x.vc = 0 ∧ x.msg.ch = 1 ∧ x.msg.data = wordBytes 8 (20 : W64) ++ wordBytes 8 (BitVec.ofNat 64 s.me.id.tid <<< 24 ||| 0x49)

/-- A lone placed compute strand at the first fetch of a trap entry. -/
structure EntersAlone (s : State) : Prop where
  lone : s.Lone
  compute : s.me.id.unit = .compute
  placed : s.me.id.isHandler = false
  entering : s.me.entering = true
  tid : s.me.id.tid < 2 ^ 24

theorem EntersAlone.entryFails {s : State} (h : EntersAlone s) : s.entryFails = true := by
  simp [State.entryFails, h.entering, h.compute]

theorem EntersAlone.lose {s : State} (h : EntersAlone s) : StrandLost s (s.lose s.me.id 4 9) := by
  obtain ⟨f, u, hf, killed, e⟩ := h.lone.lose h.compute h.placed 4 9
  rw [e]
  refine ⟨?_, fun c hc => ?_, ?_, fun g hg => ?_⟩
  · rw [State.systemEvent_launch, killed.launch]
    exact Launch.mem_ended_finish ..
  · rw [State.systemEvent_strand?] at hc
    exact killed.gone c hc
  · rw [State.systemEvent_launch, killed.launch]
    exact Launch.firstFault_mchk _ _ hf
  · have there : (u.launch s.me.id.launch).coreOf 0 = some g := by
      rw [killed.launch, Launch.coreOf_fault_finish, hg]
    obtain ⟨x, hx, hl, hv, hch, hd⟩ := State.systemEvent_sys Cause.mchk (lossInfo s.me.id.tid 4 9) there
    refine ⟨x, by rw [hx, killed.events], hl, hv, hch, ?_⟩
    rw [hd, lossInfo_eq h.tid, leBytes_toNat]
    exact congrArg (· ++ _) (leBytes_toNat 8 (20 : W64))

theorem entryFails_of_helper {s : State} (h : s.me.id.unit ≠ .compute) : s.entryFails = false := by
  simp [State.entryFails, h]

theorem illop_traps {pos : Nat} {w0 : W32} {um : Bool} {s : State} (hc : s.me.id.unit = .compute)
    (hf : um = false ∨ s.me.entering = false) (hp : pos < 2 ^ 31) :
    Traps (.illop pos w0 um) s Cause.illop (s.me.pc + BitVec.ofNat 64 (4 * pos))
      (0x8000_0000_0000_0000 ||| (BitVec.ofNat 64 pos <<< 32) ||| w0.setWidth 64) := by
  have goes : (um && s.entryFails) = false := by rcases hf with h | h <;> simp [State.entryFails, h]
  refine ⟨s.takeTrap (.decode s.me.pc pos w0), ?_, ?_⟩
  · simp only [exec_illop, execIllop, goes, Bool.false_eq_true, if_false]
  · rw [← decodeInfo_eq hp]
    exact takeTrap_takes s (.decode s.me.pc pos w0) hc rfl (by decide : Cause.illop < 256)

theorem illop_entry_loses {s : State} (h : EntersAlone s) (pos : Nat) (w0 : W32) : Completes (.illop pos w0 true) s (StrandLost s) :=
  ⟨_, by simp only [exec_illop, execIllop, h.entryFails, Bool.and_self, if_true], h.lose⟩

theorem illop_stops {s : State} (h : s.me.id.unit ≠ .compute) (pos : Nat) (w0 : W32) (um : Bool) :
    Completes (.illop pos w0 um) s (HelperStops s Cause.illop (s.me.pc + BitVec.ofNat 64 (4 * pos))) :=
  ⟨_, by simp only [exec_illop, execIllop, entryFails_of_helper h, Bool.and_false, Bool.false_eq_true, if_false],
    takeTrap_stops s (.decode s.me.pc pos w0) h rfl⟩

theorem fetchFailure_traps {code : Nat} {s : State} (hc : s.me.id.unit = .compute) (h8 : code < 256)
    (hf : s.me.entering = false ∨ (code ≠ Cause.page ∧ code ≠ Cause.perm)) (a e : W64) :
    Traps (.fetchFailure code a e) s code a e := by
  have goes : (s.entryFails && (code == Cause.page || code == Cause.perm)) = false := by
    rcases hf with h | ⟨h, k⟩
    · simp [State.entryFails, h]
    · simp [h, k]
  exact ⟨_, by simp only [exec_fetchFailure, execFetchFailure, goes, Bool.false_eq_true, if_false],
    takeTrap_takes s (.of code a e) hc rfl h8⟩

theorem fetchFailure_entry_loses {code : Nat} {s : State} (h : EntersAlone s) (hc : code = Cause.page ∨ code = Cause.perm) (a e : W64) :
    Completes (.fetchFailure code a e) s (StrandLost s) := by
  have fails : (s.entryFails && (code == Cause.page || code == Cause.perm)) = true := by simpa [h.entryFails] using hc
  exact ⟨_, by simp only [exec_fetchFailure, execFetchFailure, fails, if_true], h.lose⟩

theorem fetchFailure_stops {s : State} (h : s.me.id.unit ≠ .compute) (code : Nat) (a e : W64) :
    Completes (.fetchFailure code a e) s (HelperStops s code a) :=
  ⟨_, by simp only [exec_fetchFailure, execFetchFailure, entryFails_of_helper h, Bool.false_and, Bool.false_eq_true, if_false],
    takeTrap_stops s (.of code a e) h rfl⟩

/-! ### The boundary of a context (R5, R26, R97) -/

theorem helperTrapDelivery_boundary {k : Nat} {i : Sid} {s : State} (hi : s.contextAt k = some i) (hh : (s.focus i).helperDue = true)
    (hd : (s.focus i).due = true) (hr : (s.focus i).me.res = .resident) :
    Completes (.helperTrapDelivery k) s (fun t => t = s.asStrand i (·.boundary)) := by
  refine ⟨_, ?_, rfl⟩
  simp only [exec_helperTrapDelivery, execHelperTrapDelivery, hi, State.asStrand, hh, hd, hr, decide_true, Bool.and_self, if_true]

theorem slotwTableBoundary_takes {g : Nat} {w : W32} {s : State} (h : (s.core g).slotwNew = some w) :
    Completes (.slotwTableBoundary g) s (fun t =>
      (∀ j, t.core j = if j = g then { s.core g with slotw := w, slotwNew := none } else s.core j) ∧ t = { s with cores := t.cores }) := by
  refine ⟨s.modCore g (fun c => { c with slotw := w, slotwNew := none }), ?_, fun j => State.core_modCore .., rfl⟩
  simp only [exec_slotwTableBoundary, execSlotwTableBoundary, h]

theorem blockConditionMet_unwaits {k : Nat} {i : Sid} {c : Strand} {s : State} (hi : s.contextAt k = some i) (hc : s.strand? i = some c)
    (alone : ∀ r ∈ s.rest, r.id ≠ s.me.id) :
    Completes (.blockConditionMet k) s (fun t => t.me = { c with wait := none } ∧
      (∀ j, t.strand? j = if j = i then some { c with wait := none } else s.strand? j) ∧ t = { s with me := t.me, rest := t.rest }) := by
  have hme : (s.focus i).me = c := State.focus_me hc alone
  obtain rfl : c.id = i := by simpa using List.find?_some hc
  refine ⟨(s.focus c.id).modMe Strand.unwait, ?_, ?_, fun j => ?_, ?_⟩
  · simp only [exec_blockConditionMet, execBlockConditionMet, hi]
  · rw [State.modMe_me, hme]; rfl
  · rw [State.strand?_modMe _ _ _ rfl, hme, State.strand?_focus _ _ _ alone]; rfl
  · rw [State.focus_shape]; rfl

/-- What the statement says of a helper's trap taken at a boundary (R97). -/
theorem boundary_takesHelperTrap {s : State} {h : HelperTrap} (he : s.me.entryDue = false) (hs : s.settle = none)
    (hc : s.me.causeDue = none) (hn : s.me.nextHelperTrap = some h) (hf : s.flaggedOf s.me.id = none) :
    let t := s.boundary
    t.me.ecause = BitVec.ofNat 64 (h.code % 256 + (if s.me.level = .k then 256 else 0) + (if h.unit = .loader then 1024 else 2048)) ∧
    t.me.epc = s.me.pc ∧ t.me.eaddr = h.eaddr ∧ t.me.einfo = h.pc &&& 0x007F_FFFF_FFFF_FFFF ∧ t.me.level = .k ∧
    t.me.pc = s.me.tvec ∧ t.me.helperTraps = s.me.helperTraps.erase h ∧ t.me.x = s.me.x ∧ t.me.v = s.me.v ∧ t.mem = s.mem := by
  have ht : s.boundary = (s.unhold s.me.id).modMe Strand.takeHelperTrap := State.boundary_helperTrap he hs hc hf
  have hme : s.boundary.me = ({ s.me with helperTraps := s.me.helperTraps.erase h }).enter h.trap h.src := by
    rw [ht, State.modMe_me, State.unhold_me, Strand.takeHelperTrap_enter hn]
  have hmem : s.boundary.mem = s.mem := by rw [ht, State.modMe_mem, State.unhold_shape]
  have source : h.src * 1024 = if h.unit = .loader then 1024 else 2048 := by unfold HelperTrap.src; split <;> rfl
  dsimp only
  rw [hme, hmem]
  refine ⟨?_, rfl, rfl, rfl, rfl, rfl, rfl, rfl, rfl, rfl⟩
  rw [← source]
  rfl

/-! ### A helper that jumps to a bad target (R57, R97) -/

theorem j_badtgt {imm : BitVec 25} {s : State} (bad : 2 ^ 54 ≤ (s.me.pc + imm.signExtend 64 * 4).toNat) :
    exec (.j imm) s = .next (s.takeTrap (.of Cause.badtgt (s.me.pc + imm.signExtend 64 * 4) 0)) := by
  rw [exec_j, execJ, dispTo_eq]
  exact M.run_trap (M.bind_error (target_badtgt s bad))

/-- What a helper's trap leaves: the helper stopped, its trap at its compute strand, and what it held given up. -/
theorem takeTrap_helper_frame {s : State} {t : Trap} (h : s.me.id.unit ≠ .compute) (hc : t.clear = none) :
    let u := s.takeTrap t
    u.me = { s.me with live := false, wait := none, pend := [] } ∧
    u.rest = s.rest.map (fun c => if c.id = s.me.id.comp then
      { c with helperTraps := c.helperTraps ++ [{ unit := s.me.id.unit, code := t.code, eaddr := t.eaddr, pc := s.me.pc }] } else c) ∧
    u = { s with me := u.me, rest := u.rest, queues := u.queues, cores := u.cores } ∧
    (∀ l seat, (u.slotq l seat).q = (s.slotq l seat).q) ∧
    (∀ g, u.core g = { s.core g with chHolds := (u.core g).chHolds }) ∧ SameMem s u := by
  have others := State.takeTrap_helper_others h hc
  have hq : (s.takeTrap t).queues = (s.unhold s.me.id).queues := by rw [others]
  have hco : (s.takeTrap t).cores = (s.unhold s.me.id).cores := by rw [others]
  have slotq : ∀ l seat, (s.takeTrap t).slotq l seat = (s.unhold s.me.id).slotq l seat := fun _ _ => by simp only [State.slotq, hq]
  have core : ∀ g, (s.takeTrap t).core g = (s.unhold s.me.id).core g := fun _ => by simp only [State.core, hco]
  refine ⟨State.takeTrap_helper_me h hc, State.takeTrap_helper_rest h hc, ?_, fun l seat => ?_, fun g => ?_, fun k => ?_⟩
  · rw [hq, hco]; exact others
  · rw [slotq]; exact State.unhold_entries ..
  · rw [core]; exact State.unhold_core ..
  · rw [others]

/-- Settles O40: each clause by the lemma about its event; a strand lost at its trap entry by what killing leaves of the launches and
of the messages of the C9. -/
theorem strandEvents : Obligations.StrandEvents := by
  unfold Obligations.StrandEvents
  refine ⟨fun imm s => ?_, fun k pos g code w0 w um a e i c h s => ?_⟩
  · intro T helper bad
    exact ⟨_, j_badtgt bad, takeTrap_helper_frame helper rfl⟩
  · intro info lost alone stops
    have enters : alone → EntersAlone s := fun ⟨groups, ports, placed, compute, entering, tid, unique⟩ =>
      ⟨⟨groups, ports, unique⟩, compute, placed, entering, tid⟩
    have loses : ∀ j, Completes j s (StrandLost s) → Completes j s lost := fun j ⟨t, hj, thread, gone, fault, told⟩ =>
      ⟨t, hj, thread, gone, fault, told g⟩
    have stopping : ∀ j code a, Completes j s (HelperStops s code a) → Completes j s (stops code a) :=
      fun j code a ⟨t, hj, records, mem⟩ => ⟨t, hj, records, mem⟩
    exact ⟨illop_traps,
      fun h => loses _ (illop_entry_loses (enters h) pos w0),
      fun h => stopping _ _ _ (illop_stops h pos w0 um),
      fun hc h8 hf => fetchFailure_traps hc h8 hf a e,
      fun h hc => loses _ (fetchFailure_entry_loses (enters h) hc a e),
      fun h => stopping _ _ _ (fetchFailure_stops h code a e),
      helperTrapDelivery_boundary,
      fun he => by rw [State.boundary, if_pos he],
      boundary_takesHelperTrap,
      slotwTableBoundary_takes,
      blockConditionMet_unwaits⟩

end Sys2Proof.Safety

/-! The level of the executing context: what the operations of the model do to it. Everything an instruction computes
before it retires leaves the level, but a FORK that replaces the context and the end of the context, which leave level S. -/

namespace Sys2Proof.Machine

/-- The executing context is at level `l`, or at level S. -/
def State.Within (l : Level) (s : State) : Prop := s.me.level = l ∨ s.me.level = .s

/-- A computation that starts within a level ends within it, however it ends. -/
structure M.Within {α : Type} (l : Level) (m : M α) : Prop where
  within : ∀ s, s.Within l → match m s with
    | .ok _ t => t.Within l
    | .error _ t => t.Within l

theorem State.Within.of_level {l : Level} {s t : State} (h : s.Within l) (e : t.me.level = s.me.level) : t.Within l := by
  unfold State.Within at *
  rwa [e]

theorem State.Within.foldl {l : Level} {α : Type} {f : State → α → State} (hf : ∀ s a, s.Within l → (f s a).Within l) (as : List α)
    {s : State} (h : s.Within l) : (as.foldl f s).Within l := by
  induction as generalizing s with
  | nil => exact h
  | cons a as ih => exact ih (hf s a h)

/-- What every step of a fold leaves as it is, the fold leaves. -/
theorem foldl_same {α β : Type} (p : State → β) {f : State → α → State} (hf : ∀ s a, p (f s a) = p s) (as : List α) (s : State) :
    p (as.foldl f s) = p s := by
  induction as generalizing s with
  | nil => rfl
  | cons a as ih => rw [List.foldl_cons, ih, hf]

theorem foldl_me {α : Type} {f : State → α → State} (hf : ∀ s a, (f s a).me = s.me) (as : List α) (s : State) :
    (as.foldl f s).me = s.me := foldl_same State.me hf as s

theorem foldl_level {α : Type} {f : State → α → State} (hf : ∀ s a, (f s a).me.level = s.me.level) (as : List α) (s : State) :
    (as.foldl f s).me.level = s.me.level := foldl_same (·.me.level) hf as s

namespace M.Within

variable {α β : Type} {l : Level}

theorem ret (a : α) : M.Within l (pure a : M α) := ⟨fun _ h => h⟩

theorem stop (e : Stop) : M.Within l (throw e : M α) := ⟨fun _ h => h⟩

theorem trap (t : Trap) : M.Within l (M.trap t : M α) := stop _

theorem put {t : State} (h : t.Within l) : M.Within l (set t : M Unit) := ⟨fun _ _ => h⟩

theorem become {f : State → State} (h : ∀ s, s.Within l → (f s).Within l) : M.Within l (modify f : M Unit) := ⟨h⟩

/-- A change that leaves the level. -/
theorem change {f : State → State} (h : ∀ s, (f s).me.level = s.me.level) : M.Within l (modify f : M Unit) :=
  become fun s hs => hs.of_level (h s)

theorem bind {m : M α} {f : α → M β} (hm : M.Within l m) (hf : ∀ a, M.Within l (f a)) : M.Within l (m >>= f) := by
  refine ⟨fun s hs => ?_⟩
  have h := hm.within s hs
  change match EStateM.bind m f s with | .ok _ t => t.Within l | .error _ t => t.Within l
  unfold EStateM.bind
  cases hr : m s with
  | ok a t => rw [hr] at h; exact (hf a).within t h
  | error e t => rw [hr] at h; exact h

theorem bind_get {f : State → M β} (hf : ∀ s, s.Within l → M.Within l (f s)) : M.Within l (get >>= f) :=
  ⟨fun s hs => (hf s hs).within s hs⟩

theorem ite {c : Prop} [Decidable c] {a b : M α} (ha : M.Within l a) (hb : M.Within l b) : M.Within l (if c then a else b) := by
  split
  · exact ha
  · exact hb

theorem trapIf (c : Bool) (t : Trap) : M.Within l (M.trapIf c t) := ite (stop _) (ret _)

theorem blockIf (c : Bool) (w : Wait) : M.Within l (M.blockIf c w) := ite (stop _) (ret _)

theorem check : ∀ e : Except Trap α, M.Within l (M.check e)
  | .ok a => ret a
  | .error _ => stop _

theorem take : ∀ a : Answer, M.Within l (M.take a)
  | .ok ws => ret ws
  | .trap _ _ _ => stop _
  | .cancelled => ret _
  | .place _ _ => ret _

theorem mapM {f : α → M β} (hf : ∀ a, M.Within l (f a)) : ∀ as : List α, M.Within l (as.mapM f)
  | [] => by rw [List.mapM_nil]; exact ret _
  | a :: as => by rw [List.mapM_cons]; exact bind (hf a) fun _ => bind (mapM hf as) fun _ => ret _

end M.Within

/-! ## Functions on the state that leave the level -/

namespace Strand

@[simp] theorem setX_level (c : Strand) (r : Reg) (v : W64) : (c.setX r v).level = c.level := by
  unfold setX; split <;> rfl

@[simp] theorem setM_level (c : Strand) (r : Reg3) (v : BitVec 16) : (c.setM r v).level = c.level := by
  unfold setM; split <;> rfl

@[simp] theorem setV_level (c : Strand) (r : Reg) (v : V128) : (c.setV r v).level = c.level := rfl

@[simp] theorem dropPend_level (c : Strand) : c.dropPend.level = c.level := rfl

@[simp] theorem putPend_level (c : Strand) (p : Pend) : (c.putPend p).level = c.level := rfl

@[simp] theorem bump_level (c : Strand) (n : Nat) : (c.bump n).level = c.level := rfl

@[simp] theorem loaded_level (c : Strand) : c.loaded.level = c.level := rfl

@[simp] theorem await_level (c : Strand) (o : AmopOut) : (c.await o).level = c.level := rfl

end Strand

namespace State

@[simp] theorem modStrand_level (s : State) (i : Sid) (f : Strand → Strand) (h : ∀ c, (f c).level = c.level) :
    (s.modStrand i f).me.level = s.me.level := by
  unfold modStrand
  dsimp only
  split
  · exact h _
  · rfl

@[simp] theorem send_me (s : State) (vn : VNet) (a b : Nat) (x : Body) : (s.send vn a b x).me = s.me := rfl

@[simp] theorem sendPacket_me (s : State) (p : Packet) : (s.sendPacket p).me = s.me := rfl

@[simp] theorem sendAfter_me (s : State) (vn : VNet) (a b : Nat) (i : Sid) (x : Body) : (s.sendAfter vn a b i x).me = s.me := rfl

@[simp] theorem sendFromMe_me (s : State) (vn : VNet) (b : Nat) (x : Body) : (s.sendFromMe vn b x).me = s.me := rfl

@[simp] theorem modMyCore_me (s : State) (f : Core → Core) : (s.modMyCore f).me = s.me := rfl

@[simp] theorem modMyQueues_me (s : State) (f : SlotQueues → SlotQueues) : (s.modMyQueues f).me = s.me := rfl

@[simp] theorem useLeaf_me (s : State) (g vf va : Nat) (f : Leaf) (w : Bool) : (s.useLeaf g vf va f w).me = s.me := by
  unfold useLeaf; split <;> rfl

@[simp] theorem modLock_me (s : State) (g : Nat) (f : LockStep → LockStep) : (s.modLock g f).me = s.me := by
  unfold modLock; split <;> rfl

@[simp] theorem advanceCheckpoint_me (s : State) (g : Nat) : (s.advanceCheckpoint g).me = s.me := modLock_me _ _ _

@[simp] theorem leftCore_me (s : State) : s.leftCore.me = s.me := by
  unfold leftCore; split
  · exact advanceCheckpoint_me _ _
  · rfl

@[simp] theorem logSectors_me (s : State) (k n : Nat) : (s.logSectors k n).me = s.me := by
  unfold logSectors; split
  · exact modLock_me _ _ _
  · rfl

@[simp] theorem poke_me (s : State) (k : Nat) (bs : List Byte) : (s.poke k bs).me = s.me := rfl

@[simp] theorem cleanse_me (s : State) (k n : Nat) : (s.cleanse k n).me = s.me := by
  unfold cleanse; split <;> rfl

@[simp] theorem raceStore_me (s : State) (a : Acc) : (s.raceStore a).me = s.me := by
  unfold raceStore
  repeat' split
  all_goals rfl

theorem ringKey_me {s t : State} {va k : Nat} (h : s.ringKey va = some (k, t)) : t.me = s.me := by
  unfold ringKey at h
  split at h
  · cases h
  · split at h
    · split at h
      · cases h; exact useLeaf_me ..
      · cases h
    · cases h

@[simp] theorem raceLog_me (s : State) (a : Acc) (r : RaceRec) (kind : Nat) : (s.raceLog a r kind).me = s.me := by
  unfold raceLog
  dsimp only
  cases hk : s.ringKey (wbits s.myComp.racecfg 63 6 * 64) with
  | none => rfl
  | some x =>
    have hx : x.2.me = s.me := ringKey_me (k := x.1) hk
    dsimp only
    cases hj : x.2.ringKey (wbits s.myComp.racecfg 63 6 * 64 + 64 * (1 + leNat (x.2.peek x.1 4) % 1023)) with
    | none => simpa using hx
    | some y => simpa using (ringKey_me (k := y.1) hj).trans hx

@[simp] theorem raceLogged_me (s : State) (a : Acc) (r : Option RaceRec) (kind : Nat) : (s.raceLogged a r kind).me = s.me := by
  cases r with
  | none => rfl
  | some r => exact raceLog_me ..

@[simp] theorem leaseLoad_level (s : State) (a : Acc) : (s.leaseLoad a).me.level = s.me.level := rfl

@[simp] theorem leaseStore_level (s : State) (a : Acc) : (s.leaseStore a).me.level = s.me.level := rfl

@[simp] theorem loadAcc_level (s : State) (a : Acc) : (s.loadAcc a).me.level = s.me.level := by simp [loadAcc]

@[simp] theorem storeAcc_level (s : State) (a : Acc) (bs : List Byte) : (s.storeAcc a bs).me.level = s.me.level := by
  simp only [storeAcc, raceLogged_me, cleanse_me]
  dsimp only [dropTlb, poke_me, leaseStore_level, modMe_me]
  repeat' split
  all_goals simp

@[simp] theorem nearStores_level : ∀ (ts : List (Target × List (Option Byte))) (s : State), (s.nearStores ts).me.level = s.me.level
  | [], _ => rfl
  | (.mem _, _) :: ts, _ => (nearStores_level ts _).trans (storeAcc_level ..)
  | (.gang _, _) :: ts, s => nearStores_level ts s
  | (.far _, _) :: ts, s => nearStores_level ts s

@[simp] theorem bumpAll_level (s : State) : s.bumpAll.me.level = s.me.level := modStrand_level _ _ _ fun _ => rfl

end State

@[simp] theorem sendRequest_level (t : Target) (op : RemoteOp) (posted : Bool) (accs : List Acc) (lines : List Nat) (ref : Nat)
    (s : State) : (sendRequest t op posted accs lines ref s).me.level = s.me.level := by
  cases posted <;> rfl

@[simp] theorem askFor_level (t : Target) (op : RemoteOp) (posted : Bool) (ref : Nat) (s : State) :
    (askFor t op posted ref s).me.level = s.me.level := sendRequest_level ..

@[simp] theorem askAll_level (ts : List Target) (op : RemoteOp) (ref : Nat) (s : State) :
    (askAll ts op ref s).me.level = s.me.level := by
  unfold askAll
  split
  · rfl
  · exact sendRequest_level ..

/-! ## The operations of an access -/

namespace M.Within

variable {α : Type} {l : Level}

theorem aperture (pkg vf aper : Nat) (va : W64) : M.Within l (M.aperture pkg vf aper va) :=
  bind_get fun _ _ => ite (stop _) <| ite (ret _) <|
    ite (bind (change fun _ => rfl) fun _ => ret _) <| ite (bind (change fun _ => rfl) fun _ => ret _) (stop _)

theorem global (lv : Level) (va n : Nat) (need : Need) : M.Within l (M.global lv va n need) :=
  bind_get fun _ hs => bind (check _) fun _ => bind (put (hs.of_level (by rw [State.useLeaf_me]))) fun _ =>
    ite (ret _) (bind (aperture ..) fun _ => ret _)

theorem held (a : W64) (sp : Spot) : M.Within l (M.held a sp) := by
  refine bind_get fun s _ => ite ?_ (ret _)
  split
  · exact stop _
  · exact ret _
  · exact stop _

theorem resolve (a : W64) (n : Nat) (need : Need) : M.Within l (M.resolve a n need) := by
  refine bind_get fun s _ => bind (check _) fun sp => ?_
  split
  · exact bind (trapIf ..) fun _ => global ..
  · exact bind (trapIf ..) fun _ => bind (trapIf ..) fun _ => bind (held ..) fun _ => ret _

theorem race (as : List Acc) : M.Within l (M.race as) := by
  refine bind_get fun s _ => ?_
  split
  · exact stop _
  · exact ret _

theorem outgoing : M.Within l M.outgoing := by
  refine bind_get fun s hs => ?_
  split
  · exact ret _
  · exact ite (ret _) (ite (bind (put (hs.of_level (by rw [State.modLock_me]))) fun _ => stop _) (stop _))

theorem passed (g : Nat) : M.Within l (M.passed g) :=
  bind_get fun _ hs => ite (put (hs.of_level (by rw [State.advanceCheckpoint_me]; rfl))) (ret _)

theorem retire (n : Nat) : M.Within l (M.retire n) := change fun _ => rfl

theorem done (n : Nat) : M.Within l (M.done n) := bind (retire n) fun _ => bind_get fun _ _ => passed _

theorem doneTo (t : W64) : M.Within l (M.doneTo t) := bind (change fun _ => rfl) fun _ => bind_get fun _ _ => passed _

theorem post (sent : Bool) (w : Wait) {posts : Nat → State → State} (h : ∀ r s, (posts r s).me.level = s.me.level) :
    M.Within l (M.post sent w posts) :=
  bind_get fun _ hs => bind (put (hs.of_level (by simp [h]))) fun _ => stop _

theorem request (i : Nat) (w : Wait) {posts : Nat → State → State} (h : ∀ r s, (posts r s).me.level = s.me.level) :
    M.Within l (M.request i w posts) := by
  refine bind_get fun s _ => ?_
  dsimp only
  split
  · exact take _
  · exact ite (stop _) (post _ _ h)

theorem atPc (p : W64) {m : M α} (h : M.Within l m) : M.Within l (M.atPc p m) := by
  refine ⟨fun s hs => ?_⟩
  have h := h.within (s.setPc p) hs
  unfold M.atPc
  cases hr : m (s.setPc p) with
  | ok a t => rw [hr] at h; exact h
  | error e t => rw [hr] at h; exact h

theorem ready (as : List Acc) (reads : Bool) : M.Within l (M.ready as reads) := by
  refine bind_get fun _ _ => bind_get fun _ _ => bind (blockIf ..) fun _ => bind_get fun _ _ => bind (blockIf ..) fun _ =>
    bind (race _) fun _ => bind_get fun s _ => ?_
  dsimp only
  split
  · exact bind (stop _) fun _ => bind (blockIf ..) fun _ => ite outgoing (ret _)
  · exact bind (blockIf ..) fun _ => ite outgoing (ret _)

theorem writable (as : List Acc) : M.Within l (M.writable as) :=
  bind_get fun _ _ => bind (blockIf ..) fun _ => blockIf ..

theorem loadAcc (a : Acc) : M.Within l (M.loadAcc a) :=
  bind_get fun _ hs => bind (put (hs.of_level (State.loadAcc_level ..))) fun _ => ret _

theorem place (k : Nat) (w : Bool) (f : Far) : M.Within l (M.place k w f) := by
  refine bind outgoing fun _ => bind (request _ _ fun _ _ => sendRequest_level ..) fun _ => bind_get fun s _ => ?_
  split <;> exact ret _

theorem keep (ordered : Bool) (ts : List (Nat × Target)) : M.Within l (M.keep ordered ts) :=
  ite (ret _) (bind_get fun _ _ => bind (blockIf ..) fun _ => bind outgoing fun _ => change fun _ => rfl)

theorem kept {m : M Target} (h : M.Within l m) : M.Within l (M.kept m) := by
  refine bind_get fun s _ => ?_
  split
  · exact ret _
  · exact bind h fun t => bind (keep ..) fun _ => ret _

/-- The request of a load, and what comes after it. -/
theorem loads_asked (ts : List Target) (n k : Nat) {f : List W64 → M α} (hf : ∀ ws, M.Within l (f ws)) :
    M.Within l (do
      M.outgoing
      let ws ← M.request k .reply (askAll ts (.load n))
      modify (·.modMe Strand.loaded)
      f ws) :=
  bind outgoing fun _ => bind (request _ _ fun _ _ => askAll_level ..) fun _ => bind (change fun _ => rfl) fun _ => hf _

theorem loads (ts : List Target) : M.Within l (M.loads ts) :=
  ite (bind (ready ..) fun _ => mapM loadAcc _) <| bind_get fun _ _ =>
    ite (bind (ready ..) fun _ => bind (ready ..) fun _ => loads_asked _ _ _ fun _ => ret _) (loads_asked _ _ _ fun _ => ret _)

theorem stores (ts : List (Target × List (Option Byte))) : M.Within l (M.stores ts) :=
  ite (bind (ready ..) fun _ => bind (writable _) fun _ => change (State.nearStores_level ts)) <| bind_get fun _ _ =>
    ite (bind (ready ..) fun _ => bind outgoing fun _ => bind (request _ _ fun _ _ => askAll_level ..) fun _ => ret _)
      (bind outgoing fun _ => bind (request _ _ fun _ _ => askAll_level ..) fun _ => ret _)

theorem load (a : W64) (n : Nat) : M.Within l (M.load a n) :=
  bind (kept (resolve ..)) fun _ => bind (loads _) fun _ => ret _

theorem store (a : W64) (bs : List Byte) : M.Within l (M.store a bs) :=
  bind (kept (resolve ..)) fun _ => stores _

end M.Within

/-! ## Operands, atomics, engines and fetch -/

namespace State

theorem ite_me {c : Prop} [Decidable c] {s t u : State} (ht : t.me = s.me) (hu : u.me = s.me) :
    (if c then t else u).me = s.me := by
  split
  · exact ht
  · exact hu

@[simp] theorem modRq_me (s : State) (g : Nat) (f : List RqEntry → List RqEntry) : (s.modRq g f).me = s.me := by
  have sends : ∀ (ts : List Nat) (p : Bool) (u : State), (ts.foldl (fun s t => s.send .ctl g t (.pressure g p t)) u).me = u.me := by
    intro ts p
    induction ts with
    | nil => exact fun _ => rfl
    | cons t ts ih => exact fun u => ih _
  exact ite_me rfl (sends _ _ _)

@[simp] theorem unhold_level (s : State) (i : Sid) : (s.unhold i).me.level = s.me.level := by rw [unhold_me]

@[simp] theorem takeSource_me (s : State) (a : VSrc) : (s.takeSource a).me = s.me := by
  cases a with
  | queue q => rfl
  | chan c => exact modRq_me _ _ _
  | _ => rfl

@[simp] theorem track_level (s : State) (r : Nat) (ch : Chan) (notice : Bool) (src dst : Runs) (homes : List Home) (segs : List Seg)
    (serial : Bool) (bar : Option Nat) (olds : List Old) (rlx : Bool) :
    (s.track r ch notice src dst homes segs serial bar olds rlx).me.level = s.me.level := rfl

@[simp] theorem commands_level (s : State) (ref : Nat) : (s.commands ref).me.level = s.me.level := by
  unfold commands
  split
  · exact foldl_level (f := fun s g => s.command ref _ g) (fun _ _ => rfl) _ _
  · rfl

@[simp] theorem sendDecrement_me (s : State) (u src : Nat) (k : Option Nat) : (s.sendDecrement u src k).me = s.me := by
  cases k <;> rfl

end State

theorem Strand.ite_level {p : Prop} [Decidable p] {c d e : Strand} (hd : d.level = c.level) (he : e.level = c.level) :
    (if p then d else e).level = c.level := by
  split
  · exact hd
  · exact he

@[simp] theorem Strand.raise_level (ch : Chan) : ∀ (n : Nat) (c : Strand), (c.raise_ ch n).level = c.level
  | 0, _ => rfl
  | n + 1, _ => ite_level (raise_level ch n _) rfl

@[simp] theorem Strand.finish_level (c : Strand) (ch : Chan) (id : W32) : (c.finish ch id).level = c.level := raise_level ..

namespace M.Within

variable {α : Type} {l : Level}

theorem reserve (r : Reg3) (j : Nat) : M.Within l (M.reserve r j) := by
  refine bind_get fun s hs => ite (stop _) ?_
  split
  · exact bind (put hs) fun _ => ret _
  · exact ite (bind (put hs) fun _ => stop _) (stop _)

theorem takable (c : Chan) : M.Within l (M.takable c) := bind_get fun _ _ => trapIf ..

theorem takables : ∀ as : List VSrc, M.Within l (M.takables as)
  | [] => ret _
  | .chan _ :: r => bind (takable _) fun _ => takables r
  | .reg _ :: r | .queue _ :: r | .pool _ :: r | .lit _ _ :: r => takables r

theorem chunk (c : Chan) : M.Within l (M.chunk c) :=
  bind_get fun _ hs => ite (stop _) (ite (stop _) (bind (put hs) fun _ => ret _))

theorem vsrc (t : Ty) (j : Nat) : ∀ a : VSrc, M.Within l (M.vsrc t j a)
  | .reg _ => bind_get fun _ _ => ret _
  | .queue _ => reserve ..
  | .chan _ => chunk _
  | .pool _ => bind_get fun _ _ => check _
  | .lit _ _ => ret _

theorem poolOk : ∀ as : List VSrc, M.Within l (M.poolOk as)
  | [] => ret _
  | .pool _ :: r => bind_get fun _ _ => bind (check _) fun _ => poolOk r
  | .reg _ :: r | .queue _ :: r | .chan _ :: r | .lit _ _ :: r => poolOk r

theorem source (t : Ty) (a : VSrc) : M.Within l (M.source t a) :=
  bind (vsrc ..) fun _ => bind (takables _) fun _ => ret _

theorem vsrcs (t : Ty) (a b : VSrc) : M.Within l (M.vsrcs t a b) :=
  bind (poolOk _) fun _ => bind (vsrc ..) fun _ => bind (vsrc ..) fun _ => bind (takables _) fun _ => ret _

theorem takeSources (as : List VSrc) : M.Within l (M.takeSources as) :=
  change fun s => by rw [State.unhold_me, foldl_level (fun _ _ => by rw [State.takeSource_me])]

theorem rmw (a : Acc) (f : Nat → Option Nat) : M.Within l (M.rmw a f) := by
  refine bind (ready ..) fun _ => bind (writable _) fun _ => bind_get fun s _ => ?_
  dsimp only
  refine bind (change fun _ => rfl) fun _ => ?_
  split
  · exact bind (change fun _ => State.storeAcc_level ..) fun _ => ret _
  · exact ret _

theorem atomicAt (va : W64) (op : Nat) (t : Ty) (need : Need) : M.Within l (M.atomicAt va op t need) := by
  refine bind (resolve ..) fun x => ?_
  dsimp only
  split
  · exact bind (check _) fun _ => ret _
  · exact ret _

theorem atomic (va : W64) (op : Nat) (t : Ty) (far : RemoteOp) (f : Nat → Option Nat) : M.Within l (M.atomic va op t far f) := by
  refine bind (kept (atomicAt ..)) fun x => ?_
  split
  · exact rmw ..
  · exact bind (request _ _ fun _ _ => askFor_level ..) fun _ => ret _

theorem barAt (a : W64) : M.Within l (M.barAt a) := by
  refine bind (trapIf ..) fun _ => bind (resolve ..) fun x => ?_
  split
  · exact ret _
  · exact stop _

theorem barLoad (a : W64) : M.Within l (M.barLoad a) :=
  bind (barAt _) fun _ => bind (ready ..) fun _ => bind (loadAcc _) fun _ => ret _

theorem barChange (a : W64) (f : Bar → Bar) : M.Within l (M.barChange a f) :=
  bind (barAt _) fun _ => bind (rmw ..) fun _ => ret _

theorem synced (n : Nat) : M.Within l (M.synced n) := bind (change State.bumpAll_level) fun _ => done _

theorem pages (need : Need) : ∀ (i : Nat) (ps : List (Nat × Nat)), M.Within l (M.pages need i ps)
  | _, [] => ret _
  | i, (va, n) :: r => by
    refine bind_get fun s _ => bind (global ..) fun t => ?_
    split
    · exact bind (ite (ret _) (bind (place ..) fun _ => ret _)) fun _ => bind (pages need _ r) fun _ => ret _
    · exact bind (pages need _ r) fun _ => ret _

theorem range (need : Need) (i : Nat) (a : W64) (n : Nat) : M.Within l (M.range need i a n) := by
  refine ite (ret _) <| bind_get fun s _ => bind (check _) fun sp => bind (trapIf ..) fun _ => ?_
  split
  · exact pages ..
  · exact bind (trapIf ..) fun _ => bind (trapIf ..) fun _ => bind (check _) fun _ => ret _

theorem ranges (need : Need) : ∀ (i : Nat) (rs : List (W64 × Nat)), M.Within l (M.ranges need i rs)
  | _, [] => ret _
  | _, (_, _) :: r => bind (range ..) fun _ => bind (ranges need _ r) fun _ => ret _

theorem barOperand (d : Reg) : M.Within l (M.barOperand d) :=
  bind_get fun _ _ => ite (ret _) <| bind (trapIf ..) fun _ => bind (check _) fun _ => bind (trapIf ..) fun _ =>
    bind (trapIf ..) fun _ => bind (check _) fun _ => ret _

theorem issueCopy (rlx : Bool) (ch : Chan) (src dst : Runs) (segs : List (Run × List Piece)) (bar : Option Nat) :
    M.Within l (M.issueCopy rlx ch src dst segs bar) :=
  bind_get fun _ _ => bind (blockIf ..) fun _ => bind outgoing fun _ =>
    ite (bind (change fun s => by rw [State.sendDecrement_me]; exact Strand.finish_level ..) fun _ => done _)
      (bind (change fun _ => State.commands_level ..) fun _ => done _)

theorem fetchBytes (va n : Nat) (need : Need) (what : Nat) : M.Within l (M.fetchBytes va n need what) := by
  refine bind_get fun s _ => bind (global ..) fun t => ?_
  split
  · exact bind (atPc _ (request _ _ fun _ _ => sendRequest_level ..)) fun _ => ret _
  · exact bind_get fun _ _ => bind (trapIf ..) fun _ => ret _

theorem bitmapBit (pc : W64) : M.Within l (M.bitmapBit pc) := by
  refine bind_get fun s hs => ?_
  have h := (fetchBytes (l := l) (bitmapVa pc) 1 .load (2 ^ 80 + pc.toNat)).within s hs
  dsimp only
  cases hr : M.fetchBytes (bitmapVa pc) 1 .load (2 ^ 80 + pc.toNat) s with
  | ok bs t => rw [hr] at h; exact bind (put h) fun _ => ret _
  | error e t =>
    rw [hr] at h
    cases e with
    | trap x => exact ite (stop _) (stop _)
    | block w => exact bind (put h) fun _ => stop _

theorem target (t : W64) : M.Within l (M.target t) :=
  bind (trapIf ..) fun _ => bind (bitmapBit _) fun _ => trapIf ..

theorem jump (t : W64) : M.Within l (M.jump t) := bind (target _) fun _ => change fun _ => rfl

theorem final (w : Wait) : M.Within l (M.final w) := bind_get fun _ _ => ite (stop _) (take _)

end M.Within

/-! ## Messages, groups, ports, matrix work and the end of a strand -/

namespace State

/-- The executing context of another state has the same name and level. -/
structure Ranked (s t : State) : Prop where
  id : t.me.id = s.me.id
  level : t.me.level = s.me.level

theorem Ranked.of_me {s t : State} (h : t.me = s.me) : s.Ranked t := ⟨by rw [h], by rw [h]⟩

theorem Ranked.trans {s t u : State} (h : s.Ranked t) (k : t.Ranked u) : s.Ranked u := ⟨k.id.trans h.id, k.level.trans h.level⟩

theorem Ranked.foldl {α : Type} {f : State → α → State} (hf : ∀ s a, Ranked s (f s a)) (as : List α) {s t : State}
    (h : s.Ranked t) : s.Ranked (as.foldl f t) := by
  induction as generalizing t with
  | nil => exact h
  | cons a as ih => exact ih (h.trans (hf t a))

theorem Ranked.modStrand (s : State) (i : Sid) {f : Strand → Strand} (h : ∀ c, (f c).id = c.id ∧ (f c).level = c.level) :
    s.Ranked (s.modStrand i f) := by
  unfold State.modStrand
  constructor
  all_goals
    dsimp only
    split
  · exact (h _).1
  · rfl
  · exact (h _).2
  · rfl

theorem freeMessage_ranked (s : State) (c : Strand) : s.Ranked (s.freeMessage c) := by
  unfold freeMessage
  dsimp only
  refine .trans ?_ (.modStrand _ _ ?_)
  · split
    · exact .of_me rfl
    · exact .of_me (modRq_me ..)
    · exact .of_me rfl
  · exact fun _ => ⟨rfl, rfl⟩

@[simp] theorem freeMessage_level (s : State) (c : Strand) : (s.freeMessage c).me.level = s.me.level := (s.freeMessage_ranked c).level

@[simp] theorem toMember_me (s : State) (g : Group) (m : Member) (b : Body) : (s.toMember g m b).me = s.me := rfl

@[simp] theorem report_me (s : State) (g : Group) (b : Body) : (s.report g b).me = s.me := rfl

@[simp] theorem resolve_level (s : State) (u gid n : Nat) (p : Bool) : (s.resolve u gid n p).me.level = s.me.level := by
  unfold resolve
  dsimp only
  split
  · exact foldl_level (f := fun s m => toMember s _ m _) (fun _ _ => rfl) _ _
  · rfl

@[simp] theorem absences_level (s : State) (u gid : Nat) : (s.absences u gid).me.level = s.me.level := by
  unfold absences
  split
  · exact foldl_level (fun _ _ => resolve_level ..) _ _
  · rfl

@[simp] theorem form_level (s : State) (g : Group) (r : GroupRec) : (s.form g r).me.level = s.me.level := by
  unfold form
  dsimp only
  rw [absences_level]
  have enter : ∀ (ms : List Member) (t : State), (ms.foldl (fun (s : State) m => s.modStrand m.sid (fun c =>
      { c with groups := c.groups ++ [(g.gid, m.idx)], grp := r.grp m.idx })) t).me.level = t.me.level :=
    foldl_level fun _ _ => modStrand_level _ _ _ fun _ => rfl
  split <;> exact enter _ _

theorem gbarCheck_me (s : State) (u gid : Nat) : (s.gbarCheck u gid).me = s.me := by
  unfold gbarCheck
  split
  · split
    · exact foldl_me (f := fun s m => toMember s _ m _) (fun _ _ => rfl) _ _
    · rfl
  · rfl

theorem openCheck_ranked (s : State) (u gid : Nat) : s.Ranked (s.openCheck u gid) := by
  unfold openCheck
  split
  · split
    · exact .of_me rfl
    · refine .foldl (f := fun s (m : Member) => modStrand s m.sid _) (fun _ _ => .modStrand _ _ ?_) _ (.of_me rfl)
      exact fun _ => ⟨rfl, rfl⟩
  · exact .of_me rfl

theorem closeCheck_ranked (s : State) (u gid : Nat) : s.Ranked (s.closeCheck u gid) := .of_me rfl

theorem outOfGroup_ranked (s : State) (i : Sid) (g : Group) (m : Member) : s.Ranked (s.outOfGroup i g m) := by
  refine .trans ?_ (.of_me (gbarCheck_me ..))
  refine .trans ?_ (openCheck_ranked ..)
  refine .trans ?_ (closeCheck_ranked ..)
  refine .trans (.of_me (t := s.modGroup ..) rfl) (.modStrand _ _ ?_)
  exact fun _ => ⟨rfl, rfl⟩

@[simp] theorem outOfGroup_level (s : State) (i : Sid) (g : Group) (m : Member) : (s.outOfGroup i g m).me.level = s.me.level :=
  (s.outOfGroup_ranked i g m).level

@[simp] theorem detach_me (s : State) (g : Group) (m : Member) : (s.detach g m).me = s.me := ite_me rfl rfl

@[simp] theorem reportPort_me (s : State) (idx : BitVec 16) (p : PortRec) : (s.reportPort idx p).me = s.me := by
  unfold reportPort
  split <;> rfl

@[simp] theorem noteWait_level (s : State) (w : Wait) : (s.noteWait w).me.level = s.me.level := rfl

@[simp] theorem offer_level (s : State) (idx : BitVec 16) (p : PortRec) (q : Option W64) (v : V128) :
    (s.offer idx p q v).me.level = s.me.level := rfl

@[simp] theorem withdrawPort_level (s : State) (i : Nat) : (s.withdrawPort i).me.level = s.me.level := by
  unfold withdrawPort
  split <;> rfl

@[simp] theorem withdrawAll_level (s : State) : s.withdrawAll.me.level = s.me.level := foldl_level (fun _ _ => withdrawPort_level ..) _ _

@[simp] theorem writeSlot_me (s : State) (k : Nat) (d : W64) : (s.writeSlot k d).me = s.me := by
  rw [writeSlot, poke_me, logSectors_me]

@[simp] theorem gotEntry_level (s : State) (x : Bool) (d : Reg) (q : Reg3) (v : V128) : (s.gotEntry x d q v).me.level = s.me.level := by
  unfold gotEntry
  dsimp only
  split <;> simp

/-- A context put in the place of one with its name: the executing context is that one, or stays. -/
theorem Within.setStrand {l : Level} {s : State} {c : Strand} (h : s.Within l) (hc : c.level = .s) : (s.setStrand c).Within l := by
  unfold State.setStrand modStrand
  split
  · unfold State.Within
    dsimp only
    split
    · exact .inr hc
    · exact h
  · exact h

theorem Within.startHelper {l : Level} {s : State} (u : Agent) (e : W64) (h : s.Within l) : (s.startHelper u e).Within l := by
  unfold State.startHelper
  split
  · exact h
  · refine .setStrand ?_ rfl
    unfold orphan
    split <;> exact h

theorem Within.endMe {l : Level} (s : State) : s.endMe.Within l := .inr rfl

@[simp] theorem depart_level (s : State) (vc target : Nat) : (s.depart vc target).me.level = s.me.level := rfl

end State

namespace M.Within

variable {α : Type} {l : Level}

theorem notHandler : M.Within l M.notHandler := bind_get fun _ _ => trapIf ..

theorem helperEntry (e : W64) (n : Nat) : M.Within l (M.helperEntry e n) :=
  ite (bind (trapIf ..) fun _ => bind (bitmapBit _) fun _ => bind_get fun _ _ => trapIf ..) (ret _)

theorem sendGate (a : Reg) (g : Nat) (ch : Chan) : M.Within l (M.sendGate a g ch) :=
  bind_get fun _ _ => bind (trapIf ..) fun _ => bind (blockIf ..) fun _ => blockIf ..

theorem byteTargets : ∀ ps : List (Nat × Nat), M.Within l (M.byteTargets ps)
  | [] => ret _
  | (a, n) :: r => by
    refine bind_get fun s _ => bind ?_ fun _ => bind (byteTargets r) fun _ => ret _
    split
    · exact bind (global ..) fun _ => ret _
    · exact mapM (fun _ => resolve ..) _

theorem sendTargets (a : W64) (n : Nat) : M.Within l (M.sendTargets a n) :=
  bind_get fun _ _ => bind (byteTargets _) fun _ => bind (trapIf ..) fun _ => ret _

theorem sendSource (rlx : Bool) (a : W64) (n : Nat) : M.Within l (M.sendSource rlx a n) := by
  refine bind_get fun s _ => ?_
  split
  · exact bind (sendTargets ..) fun _ => bind_get fun _ _ => bind (blockIf ..) fun _ => bind (keep ..) fun _ => ret _
  · exact ret _

theorem sendRequests : ∀ (i : Nat) (ts : List Target), M.Within l (M.sendRequests i ts)
  | _, [] => ret _
  | i, .mem _ :: ts => bind (sendRequests i ts) fun _ => ret _
  | i, .gang _ :: ts | i, .far _ :: ts =>
    bind (request _ _ fun _ _ => askFor_level ..) fun _ => bind (sendRequests (i + 1) ts) fun _ => ret _

theorem domain (p : Group → Bool) : M.Within l (M.domain p) := by
  refine bind_get fun s _ => ?_
  split
  · exact ite (ret _) (stop _)
  · exact stop _

theorem port (idx : BitVec 16) : M.Within l (M.port idx) := by
  refine bind_get fun s _ => bind (trapIf ..) fun _ => ?_
  split
  · exact bind (trapIf ..) fun _ => ret _
  · exact stop _

theorem mayOffer (idx : BitVec 16) (p : PortRec) (sink : Bool) : M.Within l (M.mayOffer idx p sink) :=
  bind_get fun _ _ => bind (trapIf ..) fun _ => bind (trapIf ..) fun _ => trapIf ..

theorem offerAndWait (idx : BitVec 16) (p : PortRec) (sink : Bool) (data : V128) : M.Within l (M.offerAndWait idx p sink data) := by
  refine bind_get fun s _ => ?_
  have anew : M.Within l (do
      M.mayOffer idx p sink
      M.outgoing
      modify (fun s => (((s.offer idx p (some s.me.pc) data).reportPort idx p).noteWait (.port idx.toNat)).leftCore)
      throw (.block (.port idx.toNat)) : M (W64 × V128)) :=
    bind (mayOffer ..) fun _ => bind outgoing fun _ => bind (change fun _ => by simp) fun _ => stop _
  dsimp only
  split
  · exact ite (stop _) anew
  · exact ite (bind (change fun _ => rfl) fun _ => ret _) anew
  · exact anew

theorem detach (g : Group) (m : Member) : M.Within l (M.detach g m) :=
  bind_get fun _ _ => bind (blockIf ..) fun _ => change fun _ => by rw [State.detach_me]

theorem myQueue : M.Within l M.myQueue := by
  refine bind (domain _) fun x => ?_
  dsimp only
  split
  · exact ret _
  · exact stop _

theorem accept (t : Bool) (op : MatOp) : M.Within l (M.accept t op) :=
  bind_get fun _ hs => bind (blockIf ..) fun _ => bind (put hs) fun _ => done _

theorem acceptBanks (base banks : Nat) (kind : MatKind) : M.Within l (M.acceptBanks base banks kind) :=
  bind_get fun _ _ => bind (check _) fun _ => accept ..

theorem leaves (runs : Runs) : M.Within l (M.leaves runs) := bind_get fun _ _ => ite outgoing (ret _)

theorem rowsOf (need : Need) (i : Nat) (w : Window) : M.Within l (M.rowsOf need i w) :=
  bind (trapIf ..) fun _ => bind (ranges ..) fun _ => ret _

theorem rowAt_go : ∀ ps : List (Nat × Nat), M.Within l (M.rowAt.go ps)
  | [] => ret _
  | (_, _) :: r => bind_get fun _ hs => bind (check _) fun _ => bind (trapIf ..) fun _ =>
    bind (put (hs.of_level (by rw [State.useLeaf_me]))) fun _ => bind (rowAt_go r) fun _ => ret _

theorem rowAt (a : W64) (n : Nat) : M.Within l (M.rowAt a n) :=
  bind_get fun _ _ => bind (trapIf ..) fun _ => bind (check _) fun _ => bind (trapIf ..) fun _ =>
    bind (rowAt_go _) fun _ => ret _

theorem rowsAt (b c : W64) (n : Nat) : ∀ i m : Nat, M.Within l (M.rowsAt b c n i m)
  | _, 0 => ret _
  | i, m + 1 => bind (rowAt ..) fun _ => bind (rowsAt b c n (i + 1) m) fun _ => ret _

theorem scales (i : Nat) (c : Reg) (n : Nat) : M.Within l (M.scales i c n) :=
  bind_get fun _ _ => ite (ret _) <| bind (check _) fun _ => bind (trapIf ..) fun _ => bind (range ..) fun _ => ret _

theorem flags (fl : Fl) : M.Within l (M.flags fl) :=
  bind_get fun _ hs => bind (trapIf ..) fun _ => put hs

theorem signal (idx : BitVec 16) : M.Within l (M.signal idx) :=
  bind_get fun _ _ => bind (check _) fun _ => bind (domain _) fun _ => bind (trapIf ..) fun _ => ret _

theorem status (idx : BitVec 16) : M.Within l (M.status idx) := by
  refine bind (signal _) fun x => ?_
  dsimp only
  split
  · exact ret _
  · exact bind_get fun _ _ => ite (bind outgoing fun _ => bind (change fun _ => by rw [State.leftCore_me]; rfl) fun _ => stop _) (stop _)

theorem noTiles : M.Within l M.noTiles := by
  refine bind_get fun s _ => ?_
  split
  · exact stop _
  · exact ret _

theorem leaveGroup (gid : Nat) : M.Within l (M.leaveGroup gid) := by
  refine bind_get fun s _ => ?_
  split
  · exact ret _
  · have out := fun g m => change (l := l) fun s => State.outOfGroup_level s s.me.id g m
    refine bind (detach ..) fun _ => bind_get fun _ _ => bind (blockIf ..) fun _ => bind (blockIf ..) fun _ =>
      ite (ite (bind (final _) fun _ => out _ _) ?_) (bind outgoing fun _ => out _ _)
    exact bind outgoing fun _ => bind (change fun _ => rfl) fun _ => bind (post _ _ fun _ _ => rfl) fun _ => out _ _

theorem leaveAll : ∀ gs : List (Nat × Nat), M.Within l (M.leaveAll gs)
  | [] => ret _
  | (_, _) :: r => bind (leaveGroup _) fun _ => leaveAll r

theorem readyToMove : M.Within l M.readyToMove :=
  bind_get fun _ _ => bind (blockIf ..) fun _ => bind (blockIf ..) fun _ =>
    ite (bind outgoing fun _ => bind (change fun _ => by rw [State.leftCore_me, State.withdrawAll_level]) fun _ =>
      bind (stop _) fun _ => blockIf ..) (blockIf ..)

end M.Within
end Sys2Proof.Machine

namespace Sys2Proof.Machine

open M.Within

/-! ## What an instruction does to the level -/

/-- A step from `s` to `t`: level K is entered from level S only through TVEC, and level H never. -/
def LevelRule (s t : State) : Prop :=
  (s.me.level = .s → t.me.level = .k → t.me.pc = s.me.tvec ∧ t.me.epc = s.me.pc) ∧ (s.me.level ≠ .h → t.me.level ≠ .h)

/-- An outcome of an instruction at `s` obeys the rule, if it is a state. -/
structure LevelStep (s : State) (o : Out) : Prop where
  rule : ∀ t, o = .next t → LevelRule s t

theorem LevelRule.of_within {s t : State} (h : t.Within s.me.level) : LevelRule s t := by
  constructor
  · intro hs hk
    rcases h with h | h <;> rw [h] at hk
    · rw [hs] at hk; cases hk
    · cases hk
  · intro hs ht
    rcases h with h | h <;> rw [h] at ht
    · exact hs ht
    · cases ht

/-- A trap enters level K at TVEC, or stops a helper at its level. -/
theorem LevelRule.takeTrap (s : State) (t : Trap) : LevelRule s (s.takeTrap t) := by
  have cleared : ∃ u : State, u.me = s.me ∧ s.takeTrap t =
      if u.me.id.unit = .compute then u.modMe (fun c => c.enter t 0)
      else (u.modMe Strand.stopped).modStrand u.me.id.comp (Strand.holdTrap (u.helperTrap t)) := by
    unfold State.takeTrap
    cases t.clear with
    | none => exact ⟨s.unhold s.me.id, State.unhold_me .., rfl⟩
    | some k => exact ⟨({ s with races := AMap.drop s.races k } : State).unhold s.me.id, State.unhold_me .., rfl⟩
  obtain ⟨u, hu, h⟩ := cleared
  rw [h]
  split
  · refine ⟨fun _ _ => ?_, fun _ h => nomatch h⟩
    rw [State.modMe_me, hu]
    exact ⟨rfl, rfl⟩
  · refine .of_within (.inl ?_)
    refine (State.modStrand_level _ _ (Strand.holdTrap _) fun _ => rfl).trans ?_
    rw [State.modMe_me, hu]
    rfl

/-! ### A context that is lost -/

namespace State

/-- A context that acts for itself, and changes no other, is the executing one again. -/
theorem asStrand_ranked {s : State} {f : State → State} (hrest : ∀ u, (f u).rest = u.rest) (hf : ∀ u, Ranked u (f u)) :
    s.Ranked (s.asStrand s.me.id f) := by
  unfold asStrand
  cases hc : s.rest.find? (fun c => decide (c.id = s.me.id)) with
  | none =>
    have there : s.focus s.me.id = s := by simp only [focus, hc]
    have back : (f s).focus s.me.id = f s := by simp only [focus, hrest, hc]
    rw [there, back]
    exact hf s
  | some c =>
    have there : (s.focus s.me.id).rest = s.rest.map (fun x => if x.id = s.me.id then s.me else x) := by simp only [focus, hc]
    have same : ∀ x : Strand, decide ((if x.id = s.me.id then s.me else x).id = s.me.id) = decide (x.id = s.me.id) := fun x => by
      split <;> simp_all
    have found : (f (s.focus s.me.id)).rest.find? (fun x => decide (x.id = s.me.id)) = some s.me := by
      have hid : c.id = s.me.id := by simpa using List.find?_some hc
      simp [hrest, there, List.find?_map, same, hc, hid]
    refine .of_me ?_
    rw [focus, found]

theorem withdrawPort_ranked (s : State) (i : Nat) : s.Ranked (s.withdrawPort i) ∧ (s.withdrawPort i).rest = s.rest := by
  unfold withdrawPort
  split <;> exact ⟨⟨rfl, rfl⟩, rfl⟩

theorem withdrawAll_rest (s : State) : s.withdrawAll.rest = s.rest := 
  foldl_same State.rest (f := fun s (p : Nat × PortState) => s.withdrawPort p.1) (fun t p => (t.withdrawPort_ranked p.1).2) _ _

theorem withdrawAll_ranked (s : State) : s.Ranked s.withdrawAll :=
  .foldl (f := fun s (p : Nat × PortState) => s.withdrawPort p.1) (fun s p => (s.withdrawPort_ranked p.1).1) _ (.of_me rfl)

@[simp] theorem returnTile_me (s : State) (u gid v : Nat) (d : W64) : (s.returnTile u gid v d).me = s.me := by
  unfold returnTile
  split
  · exact ite_me (advanceCheckpoint_me ..) rfl
  · rfl

@[simp] theorem tileOver_me (s : State) (u gid v : Nat) (q : W32) : (s.tileOver u gid v q).me = s.me := gbarCheck_me ..

@[simp] theorem returnAll_me (s : State) (g : Group) (ts : List (W64 × W64)) : (s.returnAll g ts).me = s.me :=
  foldl_me (fun _ _ => by rw [tileOver_me, returnTile_me]) _ _

@[simp] theorem departs_me (s : State) (g : Group) (m : Member) : (s.departs g m).me = s.me := by
  unfold departs
  split
  · exact foldl_me (f := fun s c => State.send s .ctl g.home c _) (fun _ _ => rfl) _ _
  · exact ite_me rfl rfl

theorem killedIn_ranked (s : State) (c : Strand) (gid : Nat) : s.Ranked (s.killedIn c gid) := by
  unfold killedIn
  split
  · exact .of_me rfl
  · next g m _ =>
    refine .trans (.of_me ?_) (outOfGroup_ranked ..)
    have told : ∀ u : State, u.me = s.me → (if g.strag then u.returnAll g c.stolen else u).me = s.me := fun u h =>
      ite_me ((returnAll_me ..).trans h) h
    exact ite_me (told _ (departs_me ..)) (told _ (departs_me ..))

theorem giveUpBanks_ranked (s : State) {c : Strand} (h : c.id = s.me.id) : s.Ranked (s.giveUpBanks c) := by
  unfold giveUpBanks
  dsimp only
  split
  · exact .of_me rfl
  · rw [h]
    refine asStrand_ranked (fun u => foldl_same State.rest ?_ _ _) fun u => .of_me (foldl_me ?_ _ _)
    · exact fun _ _ => rfl
    · exact fun _ _ => rfl

theorem Within.remove {l : Level} {s : State} (h : s.Within l) (i : Sid) : (s.remove i).Within l := by
  unfold State.remove
  dsimp only
  split
  · split
    · exact .inr rfl
    · exact h
  · unfold State.Within
    dsimp only
    split
    · exact .inr rfl
    · exact h

theorem Within.killStrand {l : Level} {s : State} (h : s.Within l) (f : FaultRec) : (s.killStrand s.me.id f).Within l := by
  unfold State.killStrand
  rw [strand?_me]
  dsimp only
  have left : s.Ranked (s.me.groups.foldl (fun t g => t.killedIn s.me g.1) (s.asStrand s.me.id withdrawAll)) :=
    .foldl (f := fun t (g : Nat × Nat) => t.killedIn s.me g.1) (fun t g => t.killedIn_ranked s.me g.1) _
      (asStrand_ranked withdrawAll_rest withdrawAll_ranked)
  generalize s.me.groups.foldl (fun t g => t.killedIn s.me g.1) (s.asStrand s.me.id withdrawAll) = u at left ⊢
  have given (t : State) (ht : t.me = u.me) : (t.giveUpBanks s.me).Within l :=
    h.of_level ((giveUpBanks_ranked t (c := s.me) (by rw [ht, left.id])).level.trans (by rw [ht, left.level]))
  refine .remove (.remove (.remove ?_ _) _) _
  let unlisted (g : Group) : Group := { g with joining := g.joining.filter (fun j => !decide (j = s.me.id)) }
  exact (given { u with groups := u.groups.map unlisted } rfl).of_level rfl

theorem Within.modStrand_anew {l : Level} {s : State} (h : s.Within l) (i : Sid) {f : Strand → Strand} (hf : ∀ c, (f c).level = .s) :
    (s.modStrand i f).Within l := by
  unfold State.Within modStrand
  dsimp only
  split
  · exact .inr (hf _)
  · exact h

theorem Within.killHandler {l : Level} {s : State} (h : s.Within l) (f : FaultRec) : (s.killHandler s.me.id f).Within l := by
  unfold State.killHandler
  rw [strand?_me]
  have freed := freeMessage_ranked { s with next := s.next + 1 } s.me
  have held := h.of_level ((giveUpBanks_ranked _ (c := s.me) freed.id.symm).level.trans freed.level)
  refine .modStrand_anew ?_ _ fun _ => rfl
  split <;> exact held

theorem systemEvent_me (s : State) (u vc code : Nat) (addr : W64) : (s.systemEvent u vc code addr).me = s.me := by
  unfold systemEvent
  split <;> rfl

theorem Within.lose {l : Level} {s : State} (h : s.Within l) (hc : s.me.id.unit = .compute) (reason unit : Nat) :
    (s.lose s.me.id reason unit).Within l := by
  have killed (f : FaultRec) : (s.kill s.me.id f).Within l := by
    have hcomp : s.me.id.comp = s.me.id := by rw [Sid.comp, ← hc]
    unfold kill
    split
    · exact h.killHandler f
    · rw [hcomp]
      exact h.killStrand f
  unfold State.lose
  rw [strand?_me]
  exact (killed _).of_level (by rw [systemEvent_me])

end State

namespace LevelStep

variable {s : State}

theorem of_rule {t : State} (h : LevelRule s t) : LevelStep s (.next t) := ⟨by rintro _ ⟨⟩; exact h⟩

theorem next {t : State} (h : t.me.level = s.me.level) : LevelStep s (.next t) := of_rule (.of_within (.inl h))

theorem trap (t : Trap) : LevelStep s (.next (s.takeTrap t)) := of_rule (.takeTrap s t)

theorem either {c : Prop} [Decidable c] {a b : Out} (ha : LevelStep s a) (hb : LevelStep s b) : LevelStep s (if c then a else b) := by
  split
  · exact ha
  · exact hb

theorem run {m : M Unit} (h : M.Within s.me.level m) : LevelStep s (M.run m s) := by
  have h := h.within s (.inl rfl)
  unfold M.run
  cases hr : m s with
  | ok a t => rw [hr] at h; exact of_rule (.of_within h)
  | error e t =>
    rw [hr] at h
    cases e with
    | trap x => exact trap x
    | block w => exact of_rule (.of_within h)

end LevelStep
namespace M.Within

variable {l : Level}

theorem writeX (d : Reg) (v : W64) : M.Within l (modify (·.setX d v)) := change fun _ => Strand.setX_level ..

theorem writeV (d : Reg) (v : V128) : M.Within l (modify (·.setV d v)) := change fun _ => rfl

theorem retireTo (t : W64) : M.Within l (modify (·.retireTo t)) := change fun _ => rfl

/-! ### Loads and stores of vectors -/

theorem claim (c : Bool) (seen : List (Nat × Target)) (i : Nat) (t : Target) : M.Within l (M.claim c seen i t) := by
  refine ite (bind_get fun s _ => ?_) (ret _)
  split
  · exact stop _
  · exact ret _

theorem probe (k : Nat) (w : Bool) : ∀ t : Target, M.Within l (M.probe k w t)
  | .far _ => bind_get fun _ _ => bind (blockIf ..) fun _ => bind (place ..) fun _ => ret _
  | .mem _ | .gang _ => ret _

theorem lanesFrom (c : Bool) (n : Nat) (need : Need) : ∀ (k : Nat) (seen : List (Nat × Target)) (r : List (Nat × W64)),
    M.Within l (M.lanesFrom c n need k seen r)
  | _, _, [] => ret _
  | _, _, (_, _) :: r => bind (resolve ..) fun _ => bind (probe ..) fun _ => bind (claim ..) fun _ => lanesFrom c n need _ _ r

theorem lanes (c : Bool) (n : Nat) (need : Need) (at_ : List (Nat × W64)) : M.Within l (M.lanes c n need at_) :=
  bind_get fun _ _ => ite (ret _) (bind (lanesFrom ..) fun _ => bind (keep ..) fun _ => ret _)

theorem vload (c : Bool) (n : Nat) (z : Bool) (d : Reg) (at_ : List (Nat × W64)) (len : Nat) :
    M.Within l (Machine.vload c n z d at_ len) :=
  bind (lanes ..) fun _ => bind (loads _) fun _ => bind (change fun _ => rfl) fun _ => done _

theorem vstore (c : Bool) (n : Nat) (v : V128) (at_ : List (Nat × W64)) (len : Nat) : M.Within l (Machine.vstore c n v at_ len) :=
  bind (lanes ..) fun _ => bind (stores _) fun _ => done _

theorem vld16 (va : W64) (n : Nat) (m : BitVec 16) (z : Bool) (d : Reg) (len : Nat) : M.Within l (Machine.vld16 va n m z d len) :=
  ite (bind (change fun _ => rfl) fun _ => done _) (bind (load ..) fun _ => bind (change fun _ => rfl) fun _ => done _)

theorem vst16 (va : W64) (n : Nat) (m : BitVec 16) (v : V128) (len : Nat) : M.Within l (Machine.vst16 va n m v len) :=
  ite (done _) (bind (kept (resolve ..)) fun _ => bind (stores _) fun _ => done _)

end M.Within

namespace LevelStep

variable {s : State}

theorem putX (d : Reg) (v : W64) (n : Nat) : LevelStep s (Machine.putX s d v n) := next (Strand.setX_level ..)

theorem putF (d : Reg) (v : W64) (fl : Fl) (n : Nat) : LevelStep s (Machine.putF s d v fl n) :=
  either (trap _) (next (Strand.setX_level ..))

theorem lk (d : Reg) (idx : BitVec 16) : LevelStep s (execLk d idx s) := by
  unfold execLk
  split
  · exact putX ..
  · exact trap _

theorem branch {n : Nat} (c : Bool) (disp : BitVec n) : LevelStep s (Machine.branch c disp s) := either (run (jump _)) (next rfl)

theorem mfs (d : Reg) (reg : BitVec 12) : LevelStep s (execMfs d reg s) :=
  either (trap _) (either (trap _) (next (Strand.setX_level ..)))

theorem mtsWith (n : Nat) (a : Reg) {f : W64 → State → State} (h : ∀ v, (f v s).me.level = s.me.level) :
    LevelStep s (Machine.mtsWith n a f s) := by
  unfold Machine.mtsWith
  split
  · exact next (h _)
  · exact trap _

theorem mts (reg : BitVec 12) (a : Reg) : LevelStep s (execMts reg a s) := by
  refine mtsWith _ _ fun v => ?_
  rw [State.modMe_me]
  split <;> rfl

theorem mtsHmask (a : Reg) : LevelStep s (execMtsHmask a s) := by
  unfold execMtsHmask
  split
  · exact next rfl
  · exact mtsWith _ _ fun _ => rfl

/-- ERET raises PERM at level S; from level K it continues at level K or S. -/
theorem eret : LevelStep s (execEret s) := by
  by_cases hs : s.me.level = .s
  · have stops : execEret s = .next (s.takeTrap (.of Cause.perm 0 0)) :=
      M.run_trap (M.bind_error (u := s) (by simp [M.trapIf, hs]; rfl))
    rw [stops]
    exact trap _
  · have goes : execEret s = M.run (do
        M.target s.me.epc
        modify (·.leaveTrap)) s := by simp [execEret, M.trapIf, hs]
    have h := (M.Within.target (l := s.me.level) s.me.epc).within s (.inl rfl)
    rw [goes]
    cases ht : M.target s.me.epc s with
    | ok u t =>
      rw [M.run_ok (t := t.leaveTrap) (M.bind_ok.2 ⟨u, t, ht, rfl⟩)]
      refine of_rule ⟨fun h => absurd h hs, fun _ => ?_⟩
      rw [State.leaveTrap_me]
      dsimp only
      split <;> decide
    | error e t =>
      rw [ht] at h
      cases e with
      | trap x => rw [M.run_trap (M.bind_error ht)]; exact trap x
      | block w => rw [M.run_block (M.bind_error ht)]; exact of_rule (.of_within h)

theorem spcast (w : Win) (d a : Reg) : LevelStep s (execSpcast w d a s) := by
  unfold execSpcast
  split
  · exact putX ..
  · exact trap _

theorem spmake (w : Win) (d a : Reg) : LevelStep s (execSpmake w d a s) := by
  unfold execSpmake
  split
  · exact putX ..
  · exact trap _

theorem fence (k : BitVec 2) (sc : Scope) : LevelStep s (execFence k sc s) :=
  either (next rfl) (either (next rfl) (next (State.modStrand_level _ _ _ fun _ => rfl)))

theorem amo (op : Nat) (t : Ty) (d a : Reg) (b : SrcB) : LevelStep s (Machine.amo op t d a b s) :=
  run (bind (atomic ..) fun _ => bind (change fun _ => (Strand.setX_level ..).trans (State.bumpAll_level _)) fun _ => done _)

theorem cas (t : Ty) (d a : Reg) (b : SrcB) (c : Reg) : LevelStep s (execCas t d a b c s) :=
  run (bind (atomic ..) fun _ => bind (change fun _ => (Strand.setX_level ..).trans (State.bumpAll_level _)) fun _ => done _)

theorem amop (op : Nat) (t : Ty) (a : Reg) (b : SrcB) : LevelStep s (Machine.amop op t a b s) := by
  refine run (bind (atomicAt ..) fun x => ?_)
  dsimp only
  split
  · exact bind (rmw ..) fun _ => bind (change fun _ => rfl) fun _ => done _
  · exact bind (blockIf ..) fun _ => bind outgoing fun _ => bind (change fun _ => askFor_level ..) fun _ => done _

theorem vldb (t : Ty) (cf : Bool) (q : Qual) (d a : Reg) (view : View) : LevelStep s (execVldb t cf q d a view s) :=
  run (bind (check _) fun _ => M.Within.vload ..)

theorem nack (a : Reg) : LevelStep s (execNack a s) := by
  refine run (bind outgoing fun _ => ?_)
  dsimp only
  split
  · exact bind (change fun _ => rfl) fun _ => synced _
  · exact synced _

theorem copy (rlx : Bool) (ch : Chan) (a b c d : Reg) : LevelStep s (execCopy rlx ch a b c d s) :=
  run (bind (trapIf ..) fun _ => bind (range ..) fun _ => bind (range ..) fun _ => bind (barOperand _) fun _ => issueCopy ..)

theorem copyb (rlx : Bool) (ch : Chan) (a : Reg) (view : View) (d : Reg) : LevelStep s (execCopyb rlx ch a view d s) :=
  run (bind (check _) fun _ => bind (range ..) fun _ => bind (trapIf ..) fun _ => bind (ranges ..) fun _ =>
    bind (barOperand _) fun _ => issueCopy ..)

theorem notice (rlx : Bool) (ch : Chan) (a b c d : Reg) : LevelStep s (execNotice rlx ch a b c d s) := by
  refine run (bind (ite (M.Within.final _) (bind (trapIf ..) fun _ => ?_)) fun _ => synced _)
  have rest : ∀ m : Runs → Option Nat → Nat → State → State, (∀ r b n t, (m r b n t).me.level = t.me.level) →
      M.Within s.me.level (do
        let (src, _) ← M.range .load 0 (s.x b) (s.x c).toNat
        let bar ← M.barOperand d
        M.blockIf (32 ≤ (s.copiesBy s.me.id).length) .tracker
        M.blockIf (!rlx && s.me.farAmop) .notice
        M.outgoing
        M.post true .notice (m src bar)) := fun m hm =>
    bind (range ..) fun _ => bind (barOperand _) fun _ => bind (blockIf ..) fun _ => bind (blockIf ..) fun _ =>
      bind outgoing fun _ => post _ _ (hm _ _)
  dsimp only
  split
  · exact bind (M.Within.trap _) fun _ => rest _ fun _ _ _ _ => rfl
  · exact bind (trapIf ..) fun _ => rest _ fun _ _ _ _ => rfl

theorem tidwait (ch : Chan) (a : Reg) : LevelStep s (execTidwait ch a s) := either (next (State.bumpAll_level _)) (next rfl)

theorem publish (idx : BitVec 16) : LevelStep s (execPublish idx s) := by
  refine run (bind (check _) fun _ => bind (trapIf ..) fun _ => bind (check _) fun _ => bind (check _) fun _ =>
    bind (blockIf ..) fun _ => bind (blockIf ..) fun _ => ite (bind outgoing fun _ => ?_) ?_)
  all_goals exact bind (request _ _ fun _ _ => rfl) fun _ => synced _

/-! ### Vector instructions -/

theorem vec2 (f : ElemOp) (t : Ty) (q : Qual) (d : Reg) (a b : VSrc) (n : Nat) : LevelStep s (Machine.vec2 f t q d a b n s) :=
  run (bind (vsrcs ..) fun _ => bind (flags _) fun _ => bind (writeV ..) fun _ => bind (takeSources _) fun _ => M.Within.retire _)

theorem vec1 (f : ElemOp) (t : Ty) (q : Qual) (d : Reg) (a : VSrc) (n : Nat) : LevelStep s (Machine.vec1 f t q d a n s) :=
  run (bind (vsrcs ..) fun _ => bind (writeV ..) fun _ => bind (takeSources _) fun _ => M.Within.retire _)

theorem vfma (t : Ty) (q : Qual) (d : Reg) (a : VSrc) (c : Reg) (b : VSrc) : LevelStep s (execVfma t q d a c b s) :=
  run (bind (vsrcs ..) fun _ => bind (flags _) fun _ => bind (writeV ..) fun _ => bind (takeSources _) fun _ => M.Within.retire _)

theorem vcmp (cc : CC) (t : Ty) (q : Qual) (d : Reg3) (a b : VSrc) : LevelStep s (execVcmp cc t q d a b s) :=
  run (bind (vsrcs ..) fun _ => bind (flags _) fun _ => bind (change fun _ => Strand.setM_level ..) fun _ =>
    bind (takeSources _) fun _ => M.Within.retire _)

theorem vsel (t : Ty) (m : Reg3) (d : Reg) (a b : VSrc) : LevelStep s (execVsel t m d a b s) :=
  run (bind (vsrcs ..) fun _ => bind (writeV ..) fun _ => bind (takeSources _) fun _ => M.Within.retire _)

theorem insert (t : Ty) (q : Qual) (d a : Reg) (b : XSrc) (n : Nat) : LevelStep s (Machine.insert t q d a b n s) :=
  either (trap _) (next rfl)

theorem extract (t : Ty) (m : Reg3) (d : Reg) (a : VSrc) (b : XSrc) (n : Nat) : LevelStep s (Machine.extract t m d a b n s) := by
  refine run (bind (poolOk _) fun _ => bind (trapIf ..) fun _ => bind (source ..) fun _ => ite (bind (writeX ..) fun _ => ?_) ?_)
  all_goals exact bind (takeSources _) fun _ => M.Within.retire _

theorem vecWhole (n : Nat) (f : V128 → V128 → List Nat) (t : Ty) (q : Qual) (d : Reg) (a b : VSrc) (k : Nat) :
    LevelStep s (Machine.vecWhole n f t q d a b k s) :=
  run (bind (vsrcs ..) fun _ => bind (writeV ..) fun _ => bind (takeSources _) fun _ => M.Within.retire _)

theorem reduction (k : Fold) (t : Ty) (m : Reg3) (d : Reg) (a : VSrc) (n : Nat) : LevelStep s (Machine.reduction k t m d a n s) :=
  run (bind (vsrcs ..) fun _ => bind (flags _) fun _ => bind (writeX ..) fun _ => bind (takeSources _) fun _ => M.Within.retire _)

theorem dot (t : Ty) (q : Qual) (d : Reg) (a b : VSrc) (n : Nat) : LevelStep s (Machine.dot t q d a b n s) :=
  run (bind (vsrcs ..) fun _ => bind (flags _) fun _ => bind (writeV ..) fun _ => bind (takeSources _) fun _ => M.Within.retire _)

theorem convertV (x y : Ty) (q : Qual) (d : Reg) (a : VSrc) (n : Nat) : LevelStep s (Machine.convertV x y q d a n s) :=
  run (bind (vsrcs ..) fun _ => bind (flags _) fun _ => bind (writeV ..) fun _ => bind (takeSources _) fun _ => M.Within.retire _)

theorem narrow (t : Ty) (sat hi : Bool) (q : Qual) (d : Reg) (a : VSrc) (n : Nat) : LevelStep s (Machine.narrow t sat hi q d a n s) :=
  run (bind (vsrcs ..) fun _ => bind (writeV ..) fun _ => bind (takeSources _) fun _ => M.Within.retire _)

theorem lut (t : Ty) (g : Nat) (q : Qual) (d : Reg) (a b : VSrc) (n : Nat) : LevelStep s (Machine.lut t g q d a b n s) :=
  run (bind (vsrcs ..) fun _ => bind (writeV ..) fun _ => bind (takeSources _) fun _ => M.Within.retire _)

theorem pick (f : Nat → (Nat → Bool) → V128 → List Nat × Nat) (t : Ty) (m : Reg3) (d : Reg) (a : VSrc) (b : KSrc) (e : Reg) (n : Nat) :
    LevelStep s (Machine.pick f t m d a b e n s) :=
  run (bind (vsrcs ..) fun _ => bind (change fun _ => Strand.setX_level ..) fun _ => bind (takeSources _) fun _ => M.Within.retire _)

theorem topk (t : Ty) (list : Bool) (m : Reg3) (d : Reg) (a : VSrc) (b : XSrc) (e : Reg) (n : Nat) :
    LevelStep s (Machine.topk t list m d a b e n s) := by
  refine run (bind (poolOk _) fun _ => bind (trapIf ..) fun _ => bind (source ..) fun _ => bind (writeV ..) fun _ =>
    ite (bind (writeV ..) fun _ => ?_) ?_)
  all_goals exact bind (takeSources _) fun _ => M.Within.retire _

theorem maskOp (f : BitVec 16 → BitVec 16 → BitVec 16) (q : Qual) (d a : Reg3) (b : KSrc) (n : Nat) :
    LevelStep s (Machine.maskOp f q d a b n s) := next (Strand.setM_level ..)

theorem vaccs (t : Ty) (q : Qual) (d : Reg) (ch : Chan) : LevelStep s (execVaccs t q d ch s) :=
  run (bind (source ..) fun _ => ite (bind (takeSources _) fun _ => M.Within.retire _)
    (bind (flags _) fun _ => bind (writeV ..) fun _ => bind (takeSources _) fun _ => M.Within.retire _))

end LevelStep
theorem State.modQueue_me (s : State) (u gid idx : Nat) (f : TileQueue → TileQueue) : (s.modQueue u gid idx f).me = s.me := rfl

theorem State.form_elim_level (u : State) (r : GroupRec) (g : Option Group) : (g.elim u (fun g => u.form g r)).me.level = u.me.level := by
  cases g with
  | none => rfl
  | some g => exact form_level ..

namespace LevelStep

variable {s : State}

/-! ### Matrix instructions -/

theorem acq (d : Reg) (n : BitVec 32) : LevelStep s (execAcq d n s) := by
  refine run (bind (trapIf ..) fun _ => ?_)
  dsimp only
  split
  · exact bind (writeX ..) fun _ => M.Within.retire _
  · refine ite (bind (writeX ..) fun _ => M.Within.retire _) ?_
    exact bind (blockIf ..) fun _ => bind (change fun _ => Strand.setX_level ..) fun _ => M.Within.retire _

theorem rel (a : Reg) (n : BitVec 32) : LevelStep s (execRel a n s) :=
  run (bind (check _) fun _ => bind (trapIf ..) fun _ => bind (acceptBanks ..) fun _ => change fun _ => rfl)

theorem mshape (a : Reg) (sh : BitVec 32) : LevelStep s (execMshape a sh s) :=
  run (bind (check _) fun _ => bind (trapIf ..) fun _ => bind (acceptBanks ..) fun _ => change fun _ => rfl)

theorem mzero (a : Reg) (n : BitVec 32) : LevelStep s (execMzero a n s) :=
  run (bind (trapIf ..) fun _ => bind (trapIf ..) fun _ => acceptBanks ..)

theorem mcbl (view : View) : LevelStep s (execMcbl view s) :=
  run (bind (check _) fun _ => bind (check _) fun _ => bind (trapIf ..) fun _ => bind (rowsOf ..) fun _ =>
    bind (leaves _) fun _ => accept ..)

theorem mwld (fmt : WFmt) (rlx : Bool) (view : View) : LevelStep s (execMwld fmt rlx view s) :=
  run (bind (check _) fun _ => bind (trapIf ..) fun _ => bind (trapIf ..) fun _ => bind (check _) fun _ => bind (rowsOf ..) fun _ =>
    bind (leaves _) fun _ => accept ..)

theorem mmul (rlx : Bool) (a : Reg) (src : MSrc) : LevelStep s (execMmul rlx a src s) := by
  cases src with
  | queue q m => exact run (bind (check _) fun _ => bind (check _) fun _ => accept ..)
  | mem b c m =>
    exact run (bind (check _) fun _ => bind (check _) fun _ => bind (trapIf ..) fun _ => bind (trapIf ..) fun _ =>
      bind (rowsAt ..) fun _ => bind (leaves _) fun _ => accept ..)
  | buf view =>
    exact run (bind (check _) fun _ => bind (trapIf ..) fun _ => bind (check _) fun _ => bind (trapIf ..) fun _ =>
      bind (trapIf ..) fun _ => bind (trapIf ..) fun _ => bind (check _) fun _ => bind (trapIf ..) fun _ => bind (rowsOf ..) fun _ =>
        bind (leaves _) fun _ => accept ..)

theorem mmuls (a : Reg) (ch : Chan) (m : BitVec 32) : LevelStep s (execMmuls a ch m s) :=
  run (bind (check _) fun _ => bind (check _) fun _ => bind (trapIf ..) fun _ => accept ..)

theorem mdrain (t : Ty) (rlx : Bool) (a : Reg) (view : View) (d c : Reg) : LevelStep s (execMdrain t rlx a view d c s) :=
  run (bind (check _) fun _ => bind (check _) fun _ => bind (trapIf ..) fun _ => bind (trapIf ..) fun _ => bind (trapIf ..) fun _ =>
    bind (check _) fun _ => bind (trapIf ..) fun _ => bind (rowsOf ..) fun _ => bind (scales ..) fun _ => bind (barOperand _) fun _ =>
      bind (leaves _) fun _ => accept ..)

theorem mrd (d a : Reg) (g : BitVec 32) : LevelStep s (execMrd d a g s) :=
  run (bind (check _) fun _ => bind (blockIf ..) fun _ => bind (trapIf ..) fun _ => bind (writeV ..) fun _ => M.Within.retire _)

theorem mwr (a b : Reg) (g : BitVec 32) : LevelStep s (execMwr a b g s) := run (bind (check _) fun _ => acceptBanks ..)

theorem msplit (t : BitVec 32) : LevelStep s (execMsplit t s) :=
  run (bind (trapIf ..) fun _ => bind (trapIf ..) fun _ => bind (blockIf ..) fun _ =>
    bind (change fun _ => Strand.ite_level rfl rfl) fun _ => M.Within.retire _)

/-! ### Helpers, queues, messages -/

theorem fork (a b : Reg) : LevelStep s (execFork a b s) :=
  run (bind notHandler fun _ => bind (blockIf ..) fun _ => bind (helperEntry ..) fun _ => bind (helperEntry ..) fun _ =>
    bind (become fun _ h => (State.Within.startHelper _ _ (.startHelper _ _ h)).of_level (State.bumpAll_level _)) fun _ =>
      M.Within.retire _)

theorem rdv : LevelStep s (execRdv s) :=
  run (bind notHandler fun _ => bind (blockIf ..) fun _ => bind (change State.bumpAll_level) fun _ => M.Within.retire _)

theorem endHelper : LevelStep s (execEndHelper s) :=
  run (bind (trapIf ..) fun _ => bind (blockIf ..) fun _ => bind (M.Within.retire _) fun _ => change fun _ => rfl)

theorem qget (x : Bool) (d : Reg) (q : Reg3) : LevelStep s (execQget x d q s) :=
  run (bind (reserve ..) fun _ => bind (change fun _ => State.gotEntry_level ..) fun _ => M.Within.retire _)

theorem qtry (x : Bool) (d : Reg) (q : Reg3) (b : Reg) : LevelStep s (execQtry x d q b s) := by
  unfold execQtry
  dsimp only
  split
  · exact either (next (Strand.setX_level ..)) (next ((Strand.setX_level ..).trans (State.gotEntry_level ..)))
  · exact next (Strand.setX_level ..)

theorem send (rlx : Bool) (ch : Chan) (a : Reg) (b : VSrc) : LevelStep s (execSend rlx ch a b s) :=
  run (bind (poolOk _) fun _ => bind (check _) fun _ => bind (sendGate ..) fun _ => bind outgoing fun _ => bind (source ..) fun _ =>
    bind (takeSources _) fun _ => bind (change fun _ => rfl) fun _ => synced _)

theorem sendb (rlx : Bool) (ch : Chan) (a b c : Reg) : LevelStep s (execSendb rlx ch a b c s) := by
  refine run (bind (check _) fun _ => bind (trapIf ..) fun _ => bind (sendGate ..) fun _ => bind (sendSource ..) fun _ =>
    bind (sendRequests ..) fun _ => bind_get fun _ _ => ?_)
  dsimp only
  split
  · exact bind (M.Within.trap _) fun _ => bind (blockIf ..) fun _ => bind outgoing fun _ => bind (change fun _ => rfl) fun _ => synced _
  · exact bind (blockIf ..) fun _ => bind outgoing fun _ => bind (change fun _ => rfl) fun _ => synced _

theorem hset (ch : Chan) (a : Reg) (f : BitVec 32) : LevelStep s (execHset ch a f s) :=
  run (bind (trapIf ..) fun _ => bind (trapIf ..) fun _ => bind (trapIf ..) fun _ => bind (blockIf ..) fun _ =>
    bind (change fun _ => rfl) fun _ => M.Within.retire _)

theorem msgrd (x : Bool) (d a : Reg) : LevelStep s (execMsgrd x d a s) := by
  refine run ?_
  dsimp only
  split
  · exact bind (M.Within.trap _) fun _ => M.Within.retire _
  · exact ite (bind (writeX ..) fun _ => M.Within.retire _) <| ite (bind (writeX ..) fun _ => M.Within.retire _) <|
      ite (bind (writeV ..) fun _ => M.Within.retire _) (bind (M.Within.trap _) fun _ => M.Within.retire _)

theorem msgdone : LevelStep s (execMsgdone s) :=
  run (bind (trapIf ..) fun _ => bind (change fun _ => State.freeMessage_level ..) fun _ => synced _)

theorem yieldSlot : LevelStep s (execYieldSlot s) :=
  run (ite (bind (change fun _ => State.freeMessage_level ..) fun _ => bind (synced _) fun _ => change fun _ => rfl) (synced _))

/-! ### Groups and gangs -/

theorem join (d : Reg) (idx : BitVec 16) : LevelStep s (execJoin d idx s) := by
  refine run (bind (check _) fun r => ?_)
  dsimp only
  split
  · exact bind (writeX ..) fun _ => M.Within.retire _
  · refine bind (trapIf ..) fun _ => bind (trapIf ..) fun _ => bind (blockIf ..) fun _ => bind (blockIf ..) fun _ =>
      bind outgoing fun _ => ite (bind (writeX ..) fun _ => done _) ?_
    have rest := fun (u : State) => State.form_elim_level u r (u.group? s.me.id.launch r.gid)
    refine ite (bind (change fun _ => rfl) fun _ => ?_) ?_
    all_goals
      refine ite (bind (change fun _ => rfl) fun _ => bind_get fun _ _ => ite (bind (stop _) fun _ => done _) ?_)
        (bind (change fun _ => rfl) fun _ => bind (writeX ..) fun _ => done _)
      exact bind (change rest) fun _ => bind (writeX ..) fun _ => done _

theorem leave (idx : BitVec 16) : LevelStep s (execLeave idx s) :=
  run (bind (check _) fun _ => bind (trapIf ..) fun _ => bind noTiles fun _ => bind (leaveGroup _) fun _ => done _)

theorem gbar (idx : BitVec 16) : LevelStep s (execGbar idx s) := by
  refine run (bind (check _) fun r => ?_)
  dsimp only
  split
  · exact bind (M.Within.trap _) fun _ => synced _
  · exact ite (bind (M.Within.final _) fun _ => synced _)
      (bind outgoing fun _ => bind (post _ _ fun _ _ => rfl) fun _ => synced _)

theorem gwopen (d a b : Reg) : LevelStep s (execGwopen d a b s) :=
  run (bind (domain _) fun _ => bind (trapIf ..) fun _ => bind (trapIf ..) fun _ => bind_get fun _ _ =>
    ite (bind (M.Within.final _) fun _ => bind (writeX ..) fun _ => done _) <| ite (bind (writeX ..) fun _ => done _) <|
      ite (bind (writeX ..) fun _ => done _) (bind outgoing fun _ => bind (post _ _ fun _ _ => rfl) fun _ => done _))

theorem gwdetach : LevelStep s (execGwdetach s) :=
  run (bind (domain _) fun _ => bind (detach ..) fun _ => M.Within.retire _)

theorem gwstat (d : Reg) : LevelStep s (execGwstat d s) :=
  run (bind (domain _) fun _ => bind (writeX ..) fun _ => M.Within.retire _)

theorem tqpush (a : Reg) : LevelStep s (execTqpush a s) :=
  run (bind myQueue fun _ => bind (trapIf ..) fun _ => bind (blockIf ..) fun _ => bind (blockIf ..) fun _ => bind outgoing fun _ =>
    bind (change fun _ => by rw [State.modQueue_me, State.writeSlot_me]) fun _ => done _)

theorem tqtake (d e : Reg) : LevelStep s (execTqtake d e s) :=
  run (bind myQueue fun _ => bind (blockIf ..) fun _ => bind outgoing fun _ => ite (bind (writeX ..) fun _ => synced _)
    (bind (change fun _ => (Strand.setX_level ..).trans (Strand.setX_level ..)) fun _ => synced _))

theorem tqsteal (d e a : Reg) : LevelStep s (execTqsteal d e a s) :=
  run (bind (domain _) fun _ => bind (trapIf ..) fun _ => bind_get fun _ _ =>
    ite (bind (M.Within.final _) fun _ =>
        ite (bind (writeX ..) fun _ => bind (writeX ..) fun _ => synced _) (bind (writeX ..) fun _ => synced _))
      (bind outgoing fun _ => bind (post _ _ fun _ _ => rfl) fun _ => synced _))

theorem tqdone (a : Reg) : LevelStep s (execTqdone a s) :=
  run (bind (domain _) fun _ => bind (trapIf ..) fun _ => bind (blockIf ..) fun _ => bind outgoing fun _ =>
    bind (change fun _ => rfl) fun _ => synced _)

theorem stragrd (d a : Reg) (f : BitVec 32) : LevelStep s (execStragrd d a f s) :=
  run (bind (domain _) fun _ => bind (trapIf ..) fun _ => bind (trapIf ..) fun _ => bind_get fun _ _ =>
    ite (bind (M.Within.final _) fun _ => bind (writeX ..) fun _ => done _)
      (bind outgoing fun _ => bind (post _ _ fun _ _ => rfl) fun _ => done _))

/-! ### Ports -/

theorem put (d : Reg) (idx : BitVec 16) (a : Reg) : LevelStep s (execPut d idx a s) :=
  run (bind (port _) fun _ => bind (offerAndWait ..) fun _ => bind (writeX ..) fun _ => synced _)

theorem get (d e : Reg) (idx : BitVec 16) : LevelStep s (execGet d e idx s) :=
  run (bind (port _) fun _ => bind (offerAndWait ..) fun _ => bind (writeX ..) fun _ => ite (bind (writeV ..) fun _ => synced _) (synced _))

theorem putnb (idx : BitVec 16) (a : Reg) : LevelStep s (execPutnb idx a s) :=
  run (bind (port _) fun _ => bind (mayOffer ..) fun _ => bind outgoing fun _ => bind (change fun _ => rfl) fun _ => done _)

theorem getnb (idx : BitVec 16) : LevelStep s (execGetnb idx s) :=
  run (bind (port _) fun _ => bind (mayOffer ..) fun _ => bind outgoing fun _ => bind (change fun _ => rfl) fun _ => done _)

theorem pwait (d e : Reg) (idx : BitVec 16) : LevelStep s (execPwait d e idx s) := by
  refine run (bind (port _) fun p => ?_)
  split
  · exact M.Within.trap _
  · refine ite (ite (bind outgoing fun _ => ?_) ?_) (stop _)
    all_goals exact bind (change fun _ => by simp) fun _ => stop _
  · exact bind (change fun _ => Strand.setX_level ..) fun _ => ite (bind (writeV ..) fun _ => synced _) (synced _)

theorem pwdraw (d : Reg) (idx : BitVec 16) : LevelStep s (execPwdraw d idx s) := by
  refine run (bind (port _) fun p => ?_)
  dsimp only
  split
  · exact bind (writeX ..) fun _ => synced _
  · refine ite (bind outgoing fun _ => bind (change fun _ => rfl) fun _ => ?_) ?_
    all_goals exact bind (change fun _ => by simp) fun _ => bind (stop _) fun _ => synced _
  · exact bind (writeX ..) fun _ => ite (bind (change fun _ => rfl) fun _ => synced _) (synced _)

/-! ### Reactive domains -/

theorem emit (idx : BitVec 16) (a : Reg) : LevelStep s (execEmit idx a s) :=
  run (bind (signal _) fun _ => bind (trapIf ..) fun _ => bind outgoing fun _ => bind (change fun _ => rfl) fun _ => synced _)

theorem retract (idx : BitVec 16) : LevelStep s (execRetract idx s) :=
  run (bind (signal _) fun _ => ite (bind outgoing fun _ => bind (change fun _ => rfl) fun _ => synced _) (synced _))

theorem sigtst (d : Reg) (idx : BitVec 16) : LevelStep s (execSigtst d idx s) :=
  run (bind (status _) fun _ => bind (writeX ..) fun _ => synced _)

theorem bsig (abs : Bool) (idx disp : BitVec 16) : LevelStep s (execBsig abs idx disp s) :=
  run (bind (status _) fun _ => ite (bind (target _) fun _ => bind (change State.bumpAll_level) fun _ => doneTo _) (synced _))

theorem pause : LevelStep s (execPause s) :=
  run (bind (domain _) fun _ => bind_get fun _ _ => ite (bind (M.Within.final _) fun _ => synced _)
    (bind outgoing fun _ => bind (change fun _ => rfl) fun _ => bind (post _ _ fun _ _ => rfl) fun _ => synced _))

theorem zwr (d : Reg3) (a : Reg) : LevelStep s (execZwr d a s) := next (Strand.ite_level rfl rfl)

theorem sigpre (d : Reg) (idx : BitVec 16) : LevelStep s (execSigpre d idx s) :=
  run (bind (signal _) fun _ => bind (writeX ..) fun _ => M.Within.retire _)

/-! ### The end of a strand, and its moves -/

theorem exit : LevelStep s (execExit s) := by
  have ends : M.Within s.me.level (do
      M.blockIf (!s.helpersIdle) .helpers
      M.blockIf s.working .work
      M.leaveAll s.me.groups
      M.synced 4
      modify (·.endMe)) :=
    bind (blockIf ..) fun _ => bind (blockIf ..) fun _ => bind (leaveAll _) fun _ => bind (synced _) fun _ =>
      become fun t _ => State.Within.endMe t
  refine run (bind notHandler fun _ => ?_)
  dsimp only
  split
  · refine bind (M.Within.trap _) fun _ => bind noTiles fun _ => ?_
    split
    · exact bind (M.Within.trap _) fun _ => ends
    · exact ends
  · refine bind noTiles fun _ => ?_
    split
    · exact bind (M.Within.trap _) fun _ => ends
    · exact ends

theorem waitdep : LevelStep s (execWaitdep s) := run (bind notHandler fun _ => bind (blockIf ..) fun _ => synced _)

theorem trigger : LevelStep s (execTrigger s) :=
  run (bind notHandler fun _ => bind (blockIf ..) fun _ => bind outgoing fun _ => bind (change fun _ => rfl) fun _ => synced _)

theorem migrate (a : Reg) : LevelStep s (execMigrate a s) := by
  refine run (bind notHandler fun _ => ?_)
  split
  · exact M.Within.trap _
  · exact bind (trapIf ..) fun _ => ite (synced _) (bind readyToMove fun _ => bind outgoing fun _ =>
      bind (change fun u => (State.depart_level ..).trans (State.bumpAll_level u)) fun _ => passed _)

theorem illop (pos : Nat) (w : W32) (um : Bool) : LevelStep s (execIllop pos w um s) := by
  unfold execIllop
  split
  · next h =>
    have hc : s.me.id.unit = .compute := by simp [State.entryFails] at h; exact h.2.2
    exact of_rule (.of_within (State.Within.lose (.inl rfl) hc 4 9))
  · exact trap _

theorem fetchFailure (code : Nat) (a e : W64) : LevelStep s (execFetchFailure code a e s) := by
  unfold execFetchFailure
  split
  · next h =>
    have hc : s.me.id.unit = .compute := by simp [State.entryFails] at h; exact h.1.2
    exact of_rule (.of_within (State.Within.lose (.inl rfl) hc 4 9))
  · exact trap _

end LevelStep
/-- Every instruction obeys the rule of levels. -/
theorem LevelStep.of_exec {i : Instr} (hi : isEvent i = false) (s : State) : LevelStep s (exec i s) := by
  cases i with
  | add _ _ _ _ | sub _ _ _ _ | mul _ _ _ _ | mulh _ _ _ _ | mulhn _ _ _ _ | div _ _ _ _ | divn _ _ _ _ | rem _ _ _ _
  | remn _ _ _ _ | and _ _ _ _ | or _ _ _ _ | xor _ _ _ _ | andn _ _ _ _ | shl _ _ _ _ | shr _ _ _ _ | shra _ _ _ _
  | rotl _ _ _ _ | min _ _ _ _ | max _ _ _ _ | minn _ _ _ _ | maxn _ _ _ _ | slt _ _ _ _ | sltn _ _ _ _ | seq _ _ _ _
  | clz _ _ _ | ctz _ _ _ | popc _ _ _ | sext _ _ _ | zext _ _ _ | bfx _ _ _ _ | bfi _ _ _ _ | sel _ _ _ _ _ | li _ _
  | liLit _ _ | lih _ _ | addpc _ _ | fli _ _ | fclass _ _ _ | sptest _ _ | mpopc _ _ | mpopcX _ _ _ => exact putX ..
  | lk _ _ => exact lk ..
  | fadd _ _ _ _ | fsub _ _ _ _ | fmul _ _ _ _ | fdiv _ _ _ _ | fmin _ _ _ _ | fmax _ _ _ _ | fsqrt _ _ _ | feq _ _ _ _
  | flt _ _ _ _ | fle _ _ _ _ | fcvt _ _ _ _ | fma _ _ _ _ _ => exact putF ..
  | beq _ _ _ | bne _ _ _ | blt _ _ _ | bge _ _ _ | bltn _ _ _ | bgen _ _ _ | bz _ _ | bnz _ _ | bltz _ _ | bgez _ _ | bgtz _ _
  | blez _ _ => exact branch ..
  | j _ => exact run (jump _)
  | jal _ | jalr _ _ _ => exact run (bind (target _) fun _ => change fun _ => Strand.setX_level ..)
  | loop _ _ => exact either (next (Strand.setX_level ..)) (run (bind (target _) fun _ => change fun _ => Strand.setX_level ..))
  | trap _ | bkpt _ => exact trap _
  | mfs _ _ | mfsFstat _ => exact mfs ..
  | mts _ _ => exact mts ..
  | mtsHmask _ => exact mtsHmask ..
  | ld _ _ _ _ => exact run (bind (load ..) fun _ => bind (writeX ..) fun _ => done _)
  | st _ _ _ _ => exact run (bind (store ..) fun _ => done _)
  | ldq _ _ =>
    exact run (bind (blockIf ..) fun _ => bind (change fun _ => rfl) fun _ => bind (load ..) fun _ =>
      bind (change fun _ => State.unhold_level ..) fun _ => done _)
  | stq _ _ =>
    exact run (bind (reserve ..) fun _ => bind (store ..) fun _ => bind (change fun _ => State.unhold_level ..) fun _ => done _)
  | spcast _ _ _ => exact spcast ..
  | spmake _ _ _ => exact spmake ..
  | fence _ _ => exact fence ..
  | pref _ _ | vsplat _ _ _ | vsplatX _ _ _ _ => exact next rfl
  | amoAdd _ _ _ _ | amoAnd _ _ _ _ | amoOr _ _ _ _ | amoXor _ _ _ _ | amoMin _ _ _ _ | amoMax _ _ _ _ | amoMinn _ _ _ _
  | amoMaxn _ _ _ _ | amoSwap _ _ _ _ | amoFadd _ _ _ _ => exact amo ..
  | amopAdd _ _ _ | amopAnd _ _ _ | amopOr _ _ _ | amopXor _ _ _ | amopMin _ _ _ | amopMax _ _ _ | amopMinn _ _ _
  | amopMaxn _ _ _ | amopSwap _ _ _ | amopFadd _ _ _ => exact amop ..
  | cas _ _ _ _ _ => exact cas ..
  | vld _ _ _ _ | vldX _ _ _ _ _ _ => exact run (M.Within.vld16 ..)
  | vst _ _ _ _ | vstX _ _ _ _ _ _ => exact run (M.Within.vst16 ..)
  | vlds _ _ _ _ _ _ | vgath _ _ _ _ _ _ => exact run (M.Within.vload ..)
  | vsts _ _ _ _ _ _ | vscat _ _ _ _ _ _ => exact run (M.Within.vstore ..)
  | vldb _ _ _ _ _ _ => exact vldb ..
  | vstb _ _ _ _ _ _ => exact run (bind (check _) fun _ => M.Within.vstore ..)
  | nack _ => exact nack ..
  | barinit _ _ => exact run (bind (trapIf ..) fun _ => bind (barAt _) fun _ => bind (stores _) fun _ => done _)
  | bararv _ _ =>
    exact run (bind (barAt _) fun _ => bind (ready ..) fun _ => bind (blockIf ..) fun _ => bind (barChange ..) fun _ =>
      bind (writeX ..) fun _ => synced _)
  | barexp _ _ => exact run (bind (trapIf ..) fun _ => bind (barChange ..) fun _ => synced _)
  | barwait _ _ => exact run (bind (barLoad _) fun _ => bind (blockIf ..) fun _ => synced _)
  | bartry _ _ _ => exact run (bind (barLoad _) fun _ => bind (writeX ..) fun _ => synced _)
  | copy _ _ _ _ _ _ => exact copy ..
  | copyb _ _ _ _ _ => exact copyb ..
  | notice _ _ _ _ _ _ => exact notice ..
  | tidwait _ _ => exact tidwait ..
  | tidget _ _ | zrd _ _ => exact next (Strand.setX_level ..)
  | publish _ => exact publish ..
  | vadd _ _ _ _ | vsub _ _ _ _ | vmul _ _ _ _ | vmulh _ _ _ _ | vmin _ _ _ _ | vmax _ _ _ _ | vand _ _ _ _ | vor _ _ _ _
  | vxor _ _ _ _ | vshl _ _ _ _ | vshr _ _ _ _ | vshra _ _ _ _ | vaddX _ _ _ _ _ _ | vsubX _ _ _ _ _ _ | vmulX _ _ _ _ _ _
  | vmulhX _ _ _ _ _ | vminX _ _ _ _ _ | vmaxX _ _ _ _ _ | vandX _ _ _ _ _ | vorX _ _ _ _ _ | vxorX _ _ _ _ _
  | vshlX _ _ _ _ _ _ | vshrX _ _ _ _ _ | vshraX _ _ _ _ _ => exact vec2 ..
  | vins _ _ _ _ | vinsX _ _ _ _ _ => exact insert ..
  | vext _ _ _ _ | vextX _ _ _ _ _ => exact extract ..
  | vredadd _ _ _ | vredmax _ _ _ | vredmin _ _ _ | vredaddX _ _ _ _ | vredmaxX _ _ _ _ | vredminX _ _ _ _ => exact reduction ..
  | vdot _ _ _ _ | vdotX _ _ _ _ _ => exact dot ..
  | vcvt _ _ _ _ | vcvtX _ _ _ _ _ => exact convertV ..
  | vfma _ _ _ _ _ _ => exact vfma ..
  | vcmp _ _ _ _ _ _ => exact vcmp ..
  | vsel _ _ _ _ _ => exact vsel ..
  | vaccs _ _ _ _ => exact vaccs ..
  | acq _ _ => exact acq ..
  | rel _ _ => exact rel ..
  | mshape _ _ => exact mshape ..
  | mzero _ _ => exact mzero ..
  | mcbl _ => exact mcbl ..
  | mwld _ _ _ => exact mwld ..
  | mcfg _ => exact either (trap _) (next rfl)
  | mmul _ _ _ => exact mmul ..
  | mmuls _ _ _ => exact mmuls ..
  | mdrain _ _ _ _ _ _ => exact mdrain ..
  | mrd _ _ _ => exact mrd ..
  | mwr _ _ _ => exact mwr ..
  | msplit _ => exact msplit ..
  | fork _ _ => exact fork ..
  | qput _ _ _ | synci => exact either (next rfl) (next rfl)
  | qget _ _ _ => exact qget ..
  | qtry _ _ _ _ => exact qtry ..
  | msgrd _ _ _ => exact msgrd ..
  | migrate _ => exact migrate ..
  | send _ _ _ _ => exact send ..
  | sendb _ _ _ _ _ => exact sendb ..
  | hset _ _ _ => exact hset ..
  | join _ _ => exact join ..
  | leave _ => exact leave ..
  | gbar _ => exact gbar ..
  | put _ _ _ => exact put ..
  | get _ _ _ => exact get ..
  | putnb _ _ => exact putnb ..
  | getnb _ => exact getnb ..
  | pwait _ _ _ => exact pwait ..
  | pwdraw _ _ => exact pwdraw ..
  | emit _ _ => exact emit ..
  | sigtst _ _ => exact sigtst ..
  | bsig _ _ _ => exact bsig ..
  | retract _ => exact retract ..
  | zwr _ _ => exact zwr ..
  | sigpre _ _ => exact sigpre ..
  | gwopen _ _ _ => exact gwopen ..
  | gwstat _ => exact gwstat ..
  | tqpush _ => exact tqpush ..
  | tqtake _ _ => exact tqtake ..
  | tqsteal _ _ _ => exact tqsteal ..
  | tqdone _ => exact tqdone ..
  | stragrd _ _ _ => exact stragrd ..
  | eret => exact eret
  | rdv => exact rdv
  | endHelper => exact endHelper
  | msgdone => exact msgdone
  | yieldSlot => exact yieldSlot
  | exit => exact exit
  | waitdep => exact waitdep
  | trigger => exact trigger
  | pause => exact pause
  | gwdetach => exact gwdetach
  | illop _ _ _ => exact illop ..
  | fetchFailure _ _ _ => exact fetchFailure ..
  | mtsFcr _ => rw [exec_mtsFcr]; exact mtsWith _ _ fun _ => rfl
  | mtsFstat _ => rw [exec_mtsFstat]; exact mtsWith _ _ fun _ => rfl
  | mtsSqcap _ => rw [exec_mtsSqcap]; exact mtsWith _ _ fun _ => rfl
  | mtsTvec _ => rw [exec_mtsTvec]; exact mtsWith _ _ fun _ => rfl
  | mtsHacc _ => rw [exec_mtsHacc]; exact mtsWith _ _ fun _ => rfl
  | mtsSlotw _ => rw [exec_mtsSlotw]; exact mtsWith _ _ fun _ => rfl
  | mtsL2mask _ => rw [exec_mtsL2mask]; exact mtsWith _ _ fun _ => rfl
  | vabs _ _ _ => rw [exec_vabs]; exact vec1 ..
  | vneg _ _ _ => rw [exec_vneg]; exact vec1 ..
  | vabsX _ _ _ _ => rw [exec_vabsX]; exact vec1 ..
  | vnegX _ _ _ _ => rw [exec_vnegX]; exact vec1 ..
  | vperm _ _ _ _ => rw [exec_vperm]; exact vecWhole ..
  | vzip _ _ _ _ => rw [exec_vzip]; exact vecWhole ..
  | vwiden _ _ _ => rw [exec_vwiden]; exact vecWhole ..
  | vpermX _ _ _ _ _ => rw [exec_vpermX]; exact vecWhole ..
  | vzipX _ _ _ _ _ _ => rw [exec_vzipX]; exact vecWhole ..
  | vwidenX _ _ _ _ _ => rw [exec_vwidenX]; exact vecWhole ..
  | vnarrow _ _ _ => rw [exec_vnarrow]; exact narrow ..
  | vnarrowX _ _ _ _ _ _ => rw [exec_vnarrowX]; exact narrow ..
  | vlut _ _ _ _ => rw [exec_vlut]; exact lut ..
  | vlutX _ _ _ _ _ _ => rw [exec_vlutX]; exact lut ..
  | vcomp _ _ _ _ => rw [exec_vcomp]; exact pick ..
  | vexpnd _ _ _ _ => rw [exec_vexpnd]; exact pick ..
  | vcompX _ _ _ _ _ _ => rw [exec_vcompX]; exact pick ..
  | vexpndX _ _ _ _ _ _ => rw [exec_vexpndX]; exact pick ..
  | vtopk _ _ _ _ => rw [exec_vtopk]; exact topk ..
  | vtopkX _ _ _ _ _ _ _ => rw [exec_vtopkX]; exact topk ..
  | mand _ _ _ => rw [exec_mand]; exact maskOp ..
  | mor _ _ _ => rw [exec_mor]; exact maskOp ..
  | mnot _ _ => rw [exec_mnot]; exact maskOp ..
  | mandX _ _ _ _ => rw [exec_mandX]; exact maskOp ..
  | morX _ _ _ _ => rw [exec_morX]; exact maskOp ..
  | mnotX _ _ _ => rw [exec_mnotX]; exact maskOp ..
  | _ => cases hi

end Sys2Proof.Machine

namespace Sys2Proof.Safety
open Sys2Proof.Machine

/-- Settles O58: the rule of levels holds of every instruction, whatever the names before and after. -/
theorem levelEntry : Obligations.LevelEntry := by
  unfold Obligations.LevelEntry
  intro i s t hi he _
  exact (LevelStep.of_exec hi s).rule t he

end Sys2Proof.Safety

/-! SUPPORT. The immediate loads, MFS and MTS; the state after reset. -/

namespace Sys2Proof.Machine

/-- A pool word that exists and has the kind asked for (R22). -/
theorem Launch.word_ok {l : Launch} {kind : BitVec 4} {i : Nat} {w : W64} (hw : l.pool[i]? = some w)
    (hk : l.kinds[i]? = some kind) : l.word kind i = .ok w := by
  simp [Launch.word, hw, hk]

/-- The pool names no word of the kind asked for (R22). -/
theorem Launch.word_error {l : Launch} {kind : BitVec 4} {i : Nat} (h : l.kinds[i]? ≠ some kind) :
    l.word kind i = .error (Trap.pool i) := by
  unfold Launch.word
  split
  · rename_i k _ hk
    exact if_neg fun e => h (by rw [hk, e])
  · rfl

/-! ## MFS (R24, R25, R101) -/

/-- Every level above S is at least K. -/
theorem Level.rank_pos {l : Level} (h : l ≠ .s) : 1 ≤ l.rank := by
  cases l with
  | s => exact absurd rfl h
  | k => decide
  | h => decide

/-- The level is below the lowest one that may read the register (R25). -/
theorem rank_lt_readLevel (l : Level) (r : Nat) : l.rank < (readLevel r).rank ↔
    l = .s ∧ (r = 0x011 ∨ r = 0x014 ∨ r = 0x0F0) ∨ l = .k ∧ r = 0x0F0 := by
  unfold readLevel
  split
  · next h => cases l <;> simp [Level.rank] <;> omega
  · split
    · next h => cases l <;> simp [Level.rank, h]
    · next h => cases l <;> simp [Level.rank] <;> omega

/-- MFS where the register exists for the unit and the level may read it. -/
theorem execMfs_reads {d : Reg} {reg : BitVec 12} {s : State} (hu : s.me.id.unit = .compute ∨ noHelper reg.toNat = false)
    (hl : ¬ s.me.level.rank < (readLevel reg.toNat).rank) : execMfs d reg s = putX s d (s.sysReg reg.toNat) 4 := by
  unfold execMfs
  rw [if_neg (by rcases hu with h | h <;> simp [h]), if_neg hl]
  rfl

/-- MFS below the register's level. -/
theorem execMfs_perm {d : Reg} {reg : BitVec 12} {s : State} (hu : s.me.id.unit = .compute)
    (hl : s.me.level.rank < (readLevel reg.toNat).rank) : execMfs d reg s = .next (s.takeTrap (.reg reg.toNat)) := by
  unfold execMfs
  rw [if_neg (by simp [hu]), if_pos hl]

/-- The 64 channel registers (R25). -/
theorem sysReg_chwm (s : State) (c : Fin 64) : s.sysReg (0x40 + c.val) = (s.me.chwm.get c).setWidth 64 := by
  have h : nth s.me.chwm.toList c.val 0 = s.me.chwm.get c := by
    simp [nth, Vector.get]
  have hc := c.isLt
  unfold State.sysReg
  split
  case h_27 => rw [Nat.add_sub_cancel_left, ← h]
  all_goals omega

/-! ## MTS (R24, R25, R101) -/

/-- MTS whose checks pass. -/
theorem mtsWith_writes {n : Nat} {a : Reg} {s : State} {l : Level} (f : W64 → State → State)
    (hu : s.me.id.unit = .compute ∨ noHelper n = false) (hw : writeLevel n = some l) (hf : fits n (s.x a) = true)
    (hl : l.rank ≤ s.me.level.rank) : mtsWith n a f s = .next ((f (s.x a) s).retire 4) := by
  have h : mtsCheck n a s = .ok () := by
    unfold mtsCheck
    rw [if_neg (by rcases hu with h | h <;> simp [h]), hw]
    simp [hf, Nat.not_lt.2 hl]
  rw [mtsWith, h]

/-- MTS below the register's level. -/
theorem mtsWith_perm {n : Nat} {a : Reg} {s : State} {l : Level} (f : W64 → State → State)
    (hu : s.me.id.unit = .compute) (hw : writeLevel n = some l) (hf : fits n (s.x a) = true)
    (hl : s.me.level.rank < l.rank) : mtsWith n a f s = .next (s.takeTrap (.reg n)) := by
  have h : mtsCheck n a s = .error (.reg n) := by
    unfold mtsCheck
    rw [if_neg (by simp [hu]), hw]
    simp [hf, hl]
  rw [mtsWith, h]

/-- MTS of a read-only register. -/
theorem mtsWith_readOnly {n : Nat} {a : Reg} {s : State} (f : W64 → State → State) (hu : s.me.id.unit = .compute)
    (hw : writeLevel n = none) : mtsWith n a f s = .next (s.takeTrap (.reg n)) := by
  have h : mtsCheck n a s = .error (.reg n) := by
    unfold mtsCheck
    rw [if_neg (by simp [hu]), hw]
  rw [mtsWith, h]

/-- The value of ECAUSE that R93 gives a meaning. -/
theorem fits_ecause {v : W64} (h : v.toNat < 4096) (h9 : v.getLsbD 9 = false) (h10 : v.extractLsb' 10 2 ≠ 3) :
    fits 0x010 v = true := by
  have e9 : bits v.toNat 9 9 = 0 := by
    simpa [bits, BitVec.getLsbD, Nat.testBit, Nat.and_one_is_mod] using h9
  have e10 : bits v.toNat 11 10 ≠ 3 := fun e => h10 (BitVec.eq_of_toNat_eq (by simpa [bits] using e))
  simp [fits, h, e9, e10]

/-- The value of RACECFG with no reserved bit (R272). -/
theorem fits_racecfg {v : W64} (h : v.extractLsb' 2 4 = 0) : fits 0x023 v = true := by
  have e : bits v.toNat 5 2 = 0 := by simpa [bits] using congrArg BitVec.toNat h
  simp [fits, e]

/-- The enable bits of the handler table are those written (R14). -/
theorem Core.setMask_bits (c : Core) (v : W64) (i : Fin 64) : ((c.setMask v).htab.get i).enable = v.getLsbD i := by
  rw [Core.setMask, Vector.get_eq_getElem, Vector.getElem_ofFn]

/-- The accept bits of the handler table are those written (R14). -/
theorem Core.setAcc_bits (c : Core) (v : W64) (i : Fin 64) : ((c.setAcc v).htab.get i).accept = v.getLsbD i := by
  rw [Core.setAcc, Vector.get_eq_getElem, Vector.getElem_ofFn]

end Sys2Proof.Machine

namespace Sys2Proof.Safety

open Sys2Proof.Machine

/-- An instruction whose whole meaning is to write one register. -/
theorem completes_putX {i : Instr} {s : State} {d : Reg} {v w : W64} {n : Nat} (h : Machine.exec i s = putX s d v n)
    (e : v = w) : Completes i s (WritesX s d w n) := by
  obtain ⟨t, ht, hw⟩ := putX_writes s d v n
  exact ⟨t, h.trans ht, e ▸ hw⟩

/-- An instruction whose whole meaning is a trap of the compute strand. -/
theorem traps_of_exec {i : Instr} {s : State} {t : Trap} (h : Machine.exec i s = .next (s.takeTrap t))
    (hu : s.me.id.unit = .compute) (hc : t.clear = none) (h8 : t.code < 256) : Traps i s t.code t.eaddr t.einfo :=
  ⟨_, h, takeTrap_takes s t hu hc h8⟩

/-- Settles O4: each immediate is the value written; LK reads the pool. -/
theorem immediates : Obligations.Immediates := by
  unfold Obligations.Immediates
  intro d imm idx v s
  refine ⟨completes_putX (exec_li d imm s) rfl, completes_putX rfl rfl,
    completes_putX rfl (BitVec.shiftLeft_eq_mul_twoPow _ 12), completes_putX (exec_addpc d imm s) ?_,
    completes_putX rfl (BitVec.shiftLeft_eq_mul_twoPow _ 12), fun w hw hk => ?_, fun hu hk => ?_⟩
  · exact congrArg (s.me.pc + ·) (BitVec.shiftLeft_eq_mul_twoPow _ 2)
  · exact completes_putX (by rw [exec_lk, execLk, Launch.word_ok hw hk]) rfl
  · rw [← BitVec.ofNat_toNat]
    exact traps_of_exec (t := Trap.pool idx.toNat) (by rw [exec_lk, execLk, Launch.word_error hk]) hu rfl (by decide : Cause.illop < 256)

/-- A change of the executing context that leaves its pc and its pending request, then the retirement. -/
theorem retiresAs_modMe {s : State} (f : Strand → Strand) (n : Nat) (hpc : (f s.me).pc = s.me.pc)
    (hpend : (f s.me).pend = s.me.pend) : RetiresAs s (f s.me) n ((s.modMe f).retire n) := by
  refine ⟨congrArg (· + BitVec.ofNat 64 n) hpc, ?_, rfl, fun _ => rfl, fun _ => rfl⟩
  simp only [State.retire, State.modMe, Strand.dropPend, hpend, hpc]

/-- A change of the executing core's record, then the retirement. -/
theorem setsCore_modMyCore (s : State) (f : Core → Core) : SetsCore s (f s.myCore) ((s.modMyCore f).retire 4) :=
  ⟨fun g => State.core_modCore s s.me.place.gcore g f, rfl, rfl, fun _ => rfl⟩

/-- Settles O10: MFS by the checks of its level, and what each number reads. -/
theorem mfsReads : Obligations.MfsReads := by
  unfold Obligations.MfsReads
  intro d reg s r low
  have hlow : s.me.level.rank < (readLevel r).rank ↔ low := rank_lt_readLevel s.me.level r
  refine ⟨fun hu hl => ?_, fun hu hl => ?_, fun hu => ?_, rfl, rfl, rfl, rfl, rfl, rfl, rfl, rfl, rfl, rfl, sysReg_chwm s⟩
  · exact completes_putX ((exec_mfs d reg s).trans (execMfs_reads hu (mt hlow.1 hl))) rfl
  · rw [← BitVec.ofNat_toNat]
    exact traps_of_exec (t := Trap.reg reg.toNat) (execMfs_perm hu (hlow.2 hl)) hu rfl (by decide : Cause.perm < 256)
  · exact completes_putX (execMfs_reads (reg := 0x009) (.inl hu) (by simp [readLevel, Level.rank])) rfl

/-- L2MASK of the executing context's virtual function, then the retirement (R25, R254). -/
theorem l2mask_retire (s : State) (m : BitVec 16) (hvf : s.myLaunch.vf < 16) :
    let t := (s.modVfun s.me.place.pkg s.myLaunch.vf (fun f => { f with l2mask := m })).retire 4
    t.me = { s.me.dropPend with pc := s.me.pc + 4, wait := none } ∧ t = { s with me := t.me, vfs := t.vfs } ∧ SameMem s t ∧
      ∀ p f, f < 16 → t.vfun p f =
        if p = s.me.place.pkg ∧ f = s.myLaunch.vf then { s.vfun p f with l2mask := m } else s.vfun p f := by
  refine ⟨rfl, rfl, fun _ => rfl, fun p f hf => ?_⟩
  refine (State.vfun_modVfun s s.me.place.pkg p _ f (fun f => { f with l2mask := m }) (Nat.lt_trans hvf (by omega)) (by omega)).trans ?_
  split
  · next h => rw [h.1, h.2]
  · rfl

/-- MTS of a register of the context whose checks pass. -/
theorem mts_setsContext {i : Instr} {s : State} {n : Nat} {a : Reg} {l : Level} {f : W64 → Strand → Strand}
    (hi : Machine.exec i s = mtsWith n a (fun v s => s.modMe (f v)) s)
    (hu : s.me.id.unit = .compute ∨ noHelper n = false) (hw : writeLevel n = some l) (hf : fits n (s.x a) = true)
    (hl : l.rank ≤ s.me.level.rank) (hpc : (f (s.x a) s.me).pc = s.me.pc) (hpend : (f (s.x a) s.me).pend = s.me.pend) :
    Completes i s (SetsContext s (f (s.x a) s.me)) :=
  ⟨_, hi.trans (mtsWith_writes _ hu hw hf hl), retiresAs_modMe _ 4 hpc hpend⟩

/-- MTS of a register of the core whose checks pass. -/
theorem mts_setsCore {i : Instr} {s : State} {n : Nat} {a : Reg} {l : Level} {f : W64 → Core → Core}
    (hi : Machine.exec i s = mtsWith n a (fun v s => s.modMyCore (f v)) s)
    (hu : noHelper n = false) (hw : writeLevel n = some l) (hf : fits n (s.x a) = true)
    (hl : l.rank ≤ s.me.level.rank) : Completes i s (SetsCore s (f (s.x a) s.myCore)) :=
  ⟨_, hi.trans (mtsWith_writes _ (.inr hu) hw hf hl), setsCore_modMyCore s _⟩

/-- MTS of a register the level may not write. -/
theorem mts_traps_perm {i : Instr} {s : State} {n : Nat} {a : Reg} {l : Level} {f : W64 → State → State}
    (hi : Machine.exec i s = mtsWith n a f s) (hu : s.me.id.unit = .compute) (hw : writeLevel n = some l)
    (hf : fits n (s.x a) = true) (hl : s.me.level.rank < l.rank) : Traps i s Cause.perm (BitVec.ofNat 64 n) 0 :=
  traps_of_exec (t := Trap.reg n) (hi.trans (mtsWith_perm f hu hw hf hl)) hu rfl (by decide : Cause.perm < 256)

/-- Settles O11: the checks of MTS passed or failed, register by register. -/
theorem mtsWrites : Obligations.MtsWrites := by
  unfold Obligations.MtsWrites
  refine ⟨fun a s => ?_, fun a reg s hu => ?_⟩
  · intro v c kern
    refine ⟨fun hu h => ?_, fun hu h => ?_, fun hk h h' => ?_, fun hk h => ?_, fun hk h h9 h10 => ?_, fun hk => ?_, fun hk => ?_,
      fun hk => ?_, fun hk h => ?_, fun h => ?_, fun h => ?_,
      fun i => ⟨Core.setMask_bits _ v i, Core.setAcc_bits _ v i⟩, fun hk h => ?_, fun hk h hvf => ?_⟩
    · exact mts_setsContext (f := fun v c => { c with fcr := v }) (exec_mtsFcr a s) (.inl hu) rfl (by simpa [fits] using h)
        (Nat.zero_le _) rfl rfl
    · exact mts_setsContext (f := fun v c => { c with fstat := v }) (exec_mtsFstat a s) (.inl hu) rfl (by simpa [fits] using h)
        (Nat.zero_le _) rfl rfl
    · exact mts_setsContext (f := fun v c => { c with sqcap := v }) (exec_mtsSqcap a s) (.inr rfl) rfl (by simp [fits, v] at *; omega)
        (Level.rank_pos hk) rfl rfl
    · exact mts_setsContext (f := fun v c => { c with tvec := v }) (exec_mtsTvec a s) (.inr rfl) rfl (by simpa [fits] using h)
        (Level.rank_pos hk) rfl rfl
    · exact mts_setsContext (f := fun v c => { c with ecause := v }) (exec_mts 0x010 a s) (.inr rfl) rfl (fits_ecause h h9 h10)
        (Level.rank_pos hk) rfl rfl
    · exact mts_setsContext (f := fun v c => { c with epc := v }) (exec_mts 0x011 a s) (.inr rfl) rfl rfl
        (Level.rank_pos hk) rfl rfl
    · exact mts_setsContext (f := fun v c => { c with eaddr := v }) (exec_mts 0x012 a s) (.inr rfl) rfl rfl
        (Level.rank_pos hk) rfl rfl
    · exact mts_setsContext (f := fun v c => { c with einfo := v }) (exec_mts 0x013 a s) (.inr rfl) rfl rfl
        (Level.rank_pos hk) rfl rfl
    · exact mts_setsContext (f := fun v c => { c with racecfg := v }) (exec_mts 0x023 a s) (.inr rfl) rfl (fits_racecfg h)
        (Level.rank_pos hk) rfl rfl
    · exact mts_setsCore (f := fun v c => c.setMask v) (by rw [exec_mtsHmask, execMtsHmask, h]) rfl rfl rfl (Nat.zero_le _)
    · exact mts_setsCore (f := fun v c => c.setAcc v) (exec_mtsHacc a s) rfl rfl (by simpa [fits] using h) (Nat.zero_le _)
    · exact mts_setsCore (f := fun v c => { c with slotwNew := some (v.setWidth 32) }) (exec_mtsSlotw a s) rfl rfl
        (by simpa [fits] using h) (Level.rank_pos hk)
    · exact ⟨_, (exec_mtsL2mask a s).trans (mtsWith_writes (l := .h) _ (.inr rfl) rfl (by simpa [fits] using h)
        (by rw [show s.me.level = .h from hk])), l2mask_retire s _ hvf⟩
  · refine ⟨fun hl h h' => ?_, fun hl h => ?_, fun hl h => ?_, fun hl h => ?_, fun hl h => ?_, fun hw => ?_⟩
    · exact mts_traps_perm (exec_mtsSqcap a s) hu (l := .k) rfl (by simp [fits]; omega) (by rw [hl]; decide)
    · exact mts_traps_perm (exec_mtsTvec a s) hu (l := .k) rfl (by simpa [fits] using h) (by rw [hl]; decide)
    · exact mts_traps_perm (exec_mtsSlotw a s) hu (l := .k) rfl (by simpa [fits] using h) (by rw [hl]; decide)
    · exact mts_traps_perm (exec_mtsL2mask a s) hu (l := .h) rfl (by simpa [fits] using h)
        (by revert hl; cases s.me.level <;> decide)
    · rw [← BitVec.ofNat_toNat]
      rcases h with rfl | rfl | rfl <;>
        exact mts_traps_perm (exec_mts _ a s) hu (l := .k) rfl rfl (by rw [hl]; decide)
    · rw [← BitVec.ofNat_toNat]
      exact traps_of_exec (t := Trap.reg reg.toNat) ((exec_mts reg a s).trans (mtsWith_readOnly _ hu hw)) hu rfl
        (by decide : Cause.perm < 256)

/-- The registers of a context that starts (R8, R9, R27). -/
theorem fresh_registers (i : Sid) (p : Place) (r : Reg) :
    (Strand.fresh i p).getX r = (if r = 2 then 0xF000_0000_0000_4000 else 0) ∧ (Strand.fresh i p).getV r = 0 := by
  simp only [Strand.getX, Strand.getV, Strand.fresh]
  revert r
  decide

/-- The mask and sector registers of a context that starts (R8, R9). -/
theorem fresh_masks (i : Sid) (p : Place) (r : Reg3) :
    (Strand.fresh i p).getM r = (if r = 0 then 0xFFFF else 0) ∧
      (Strand.fresh i p).zc.get r.toFin = 0 ∧ (Strand.fresh i p).zp.get r.toFin = 0 := by
  simp only [Strand.getM, Strand.fresh]
  revert r
  decide

/-- Settles O60: the state is the one written down, so each part is read off; the registers by cases on their number. -/
theorem resetState : Obligations.ResetState := by
  unfold Obligations.ResetState
  exact ⟨reset_mem_wf, fun _ => rfl, rfl, rfl, rfl, rfl, rfl, rfl, rfl, rfl, fresh_registers, fresh_masks,
    fun _ _ => ⟨rfl, rfl, rfl, rfl, rfl, rfl, rfl⟩⟩

end Sys2Proof.Safety

/-! SUPPORT. The checks of an access that fail before any translation (R20, R104, R106). -/

namespace Sys2Proof.Machine

/-- A field of a word as a natural number is its extract. -/
theorem wbits_eq_extract (a : W64) (hi lo : Nat) : wbits a hi lo = (a.extractLsb' lo (hi + 1 - lo)).toNat :=
  (BitVec.extractLsb'_toNat lo (hi + 1 - lo) a).symm

/-- A field that is not zero. -/
theorem wbits_ne_zero {a : W64} {hi lo : Nat} (h : a.extractLsb' lo (hi + 1 - lo) ≠ 0) : wbits a hi lo ≠ 0 := fun e =>
  h (BitVec.eq_of_toNat_eq (by rw [← wbits_eq_extract, e]; rfl))

/-- A field that is zero. -/
theorem wbits_eq_zero {a : W64} {hi lo : Nat} (h : a.extractLsb' lo (hi + 1 - lo) = 0) : wbits a hi lo = 0 := by
  rw [wbits_eq_extract, h]; rfl

/-! ## The window checks (R20) -/

/-- The top byte names no window. -/
theorem spot_noWindow (s : State) {a : W64} (eng : Bool)
    (h : 0 < wbits a 63 56 ∧ wbits a 63 56 < 0xF0 ∨ 0xF4 < wbits a 63 56) : s.spot a eng = .error (.of Cause.space a 0) := by
  unfold State.spot
  split
  case h_7 => rfl
  all_goals omega

/-- The global window: bit 55 is clear. -/
theorem spot_global (s : State) {a : W64} (eng : Bool) (h : wbits a 63 56 = 0) :
    s.spot a eng = if wbits a 55 55 = 1 then .error (.of Cause.space a 0) else .ok (.glob (wbits a 54 0)) := by
  simp only [State.spot, h]

/-- An address of the strand's own window with a bit beyond its offset. -/
theorem spot_private_space (s : State) {a : W64} (eng : Bool) (h : wbits a 63 56 = 0xF0) (hb : wbits a 55 14 ≠ 0) :
    s.spot a eng = .error (.of Cause.space a 0) := by
  simp only [State.spot, h]; exact if_pos hb

/-- A local address with a bit outside its fields. -/
theorem spot_local_space (s : State) {a : W64} (eng : Bool) (h : wbits a 63 56 = 0xF1)
    (hb : wbits a 55 47 ≠ 0 ∨ wbits a 35 19 ≠ 0) : s.spot a eng = .error (.of Cause.space a 0) := by
  simp only [State.spot, h]; exact if_pos (hb.elim .inl fun h => .inr (.inl h))

/-- A local address of another core. -/
theorem spot_local_foreign (s : State) {a : W64} (h : wbits a 63 56 = 0xF1) (h1 : wbits a 55 47 = 0) (h2 : wbits a 35 19 = 0)
    (hg : (s.pkg s.me.place.pkg).gradeB = false) (hc : wbits a 46 36 ≠ s.me.place.core) :
    s.spot a false = .error (.of Cause.foreign a (BitVec.ofNat 64 (s.me.place.core * 65536 + wbits a 46 36))) := by
  simp only [State.spot, h]
  rw [if_neg (by simp [h1, h2, State.noCore, hg]), if_pos (by simpa using hc)]

/-- A cluster address with a bit beyond its fields. -/
theorem spot_cluster_space (s : State) {a : W64} (eng : Bool) (h : wbits a 63 56 = 0xF2) (hb : wbits a 55 25 ≠ 0) :
    s.spot a eng = .error (.of Cause.space a 0) := by
  simp only [State.spot, h]; exact if_pos (.inl hb)

/-- A die address with a bit beyond its fields. -/
theorem spot_die_space (s : State) {a : W64} (eng : Bool) (h : wbits a 63 56 = 0xF3) (hb : wbits a 55 28 ≠ 0) :
    s.spot a eng = .error (.of Cause.space a 0) := by
  simp only [State.spot, h]; exact if_pos hb

/-- A gang address of a strand in no flagged group (R327). -/
theorem spot_gang_space (s : State) {a : W64} (eng : Bool) (h : wbits a 63 56 = 0xF4) (hb : s.flaggedOf s.me.id.comp = none) :
    s.spot a eng = .error (.of Cause.space a 0) := by
  simp only [State.spot, h]
  split
  · rfl
  · rw [State.gangSpot, hb]

/-! ## What a failed check does to an access (R104) -/

theorem M.bind_next {α β : Type} {m : M α} {f : α → M β} {s t : State} {a : α} (h : m s = .ok a t) : (m >>= f) s = f a t := by
  show EStateM.bind m f s = _
  unfold EStateM.bind
  rw [h]

theorem M.check_error {α : Type} {e : Trap} (s : State) : (M.check (.error e) : M α) s = .error (.trap e) s := rfl

theorem M.trapIf_error {b : Bool} {e : Trap} (s : State) (h : b = true) : M.trapIf b e s = .error (.trap e) s := by
  subst h; rfl

/-- An address outside its window is refused before anything else is looked at. -/
theorem resolve_refused {s : State} {a : W64} {e : Trap} (h : s.spot a false = .error e) (n : Nat) (need : Need) :
    M.resolve a n need s = .error (.trap e) s := by
  rw [M.resolve, M.bind_next (M.get_ok.2 ⟨rfl, rfl⟩), M.bind_error]
  rw [h]; rfl

/-- An address of the global window or of the strand's own window that is not a multiple of the size. -/
theorem resolve_unaligned {s : State} {a : W64} {n : Nat} (hs : s.shadows = []) {sp : Spot} (h : s.spot a false = .ok sp)
    (ha : a.toNat % n ≠ 0) (need : Need) :
    M.resolve a n need s = .error (.trap (.of Cause.align a (BitVec.ofNat 64 n))) s := by
  have hb : (a.toNat % n != 0) = true := by simpa using ha
  rw [M.resolve, M.bind_next (M.get_ok.2 ⟨rfl, rfl⟩), h, M.bind_next (M.check_ok.2 ⟨rfl, rfl⟩)]
  have hsh : s.behindShadow sp.key n = false := by rw [State.behindShadow, hs]; rfl
  cases sp with
  | glob va => exact M.bind_error (M.trapIf_error s hb)
  | sp g o => exact (M.bind_next (a := ()) (M.trapIf_ok.2 ⟨hsh, rfl⟩)).trans (M.bind_error (M.trapIf_error s hb))
  | die d o => exact (M.bind_next (a := ()) (M.trapIf_ok.2 ⟨hsh, rfl⟩)).trans (M.bind_error (M.trapIf_error s hb))

end Sys2Proof.Machine

namespace Sys2Proof.Machine

/-- The access of an instruction that has kept none, where the check of it fails. -/
theorem kept_error {s : State} (hp : s.me.pendOf = none) {m : M Target} {e : Stop} (h : m s = .error e s) :
    M.kept m s = .error e s := by
  have hs : s.plan = [] := by unfold State.plan State.myPend; rw [hp]; rfl
  rw [M.kept, M.bind_next (M.get_ok.2 ⟨rfl, rfl⟩), hs]
  exact M.bind_error h

theorem load_error {s : State} (hp : s.me.pendOf = none) {a : W64} {n : Nat} {e : Stop}
    (h : M.resolve a n .load s = .error e s) : M.load a n s = .error e s :=
  M.bind_error (kept_error hp h)

theorem store_error {s : State} (hp : s.me.pendOf = none) {a : W64} {bs : List Byte} {e : Stop}
    (h : M.resolve a bs.length .store s = .error e s) : M.store a bs s = .error e s :=
  M.bind_error (kept_error hp h)

/-- A 16-byte vector access under the base form's mask has active elements. -/
theorem activeAt_base : (activeAt 0xFFFF 8 (fun _ => 0)).isEmpty = false := by decide

theorem leBytes_length (n v : Nat) : (leBytes n v).length = n := by
  induction n generalizing v with
  | zero => rfl
  | succ n ih => simp [leBytes, ih]

theorem atomicAt_error {s : State} {a : W64} {t : Ty} {need : Need} {e : Stop} (op : Nat)
    (h : M.resolve a t.bytes need s = .error e s) : M.atomicAt a op t need s = .error e s :=
  M.bind_error h

end Sys2Proof.Machine

namespace Sys2Proof.Safety

open Sys2Proof.Machine

/-- The checks of an access of `n` bytes at an address end in this trap, whatever its need. -/
structure Denied (s : State) (a : W64) (n : Nat) (e : Trap) : Prop where
  unit : s.me.id.unit = .compute
  plan : s.me.pendOf = none
  clear : e.clear = none
  code : e.code < 256
  fails : ∀ need, M.resolve a n need s = .error (.trap e) s

/-- A meaning that begins with an access that is denied. -/
theorem Denied.traps {s : State} {a : W64} {n : Nat} {e : Trap} (h : Denied s a n e) {i : Instr} {m : M Unit}
    (hi : Machine.exec i s = M.run m s) (hm : m s = .error (.trap e) s) : Traps i s e.code e.eaddr e.einfo :=
  traps_of_exec (hi.trans (M.run_trap hm)) h.unit h.clear h.code

section
variable {s : State} {t : Ty} {e : Trap} {d a c : Reg} {b : SrcB} {off : BitVec 11}

theorem Denied.ld (h : Denied s (s.x a + off.signExtend 64 * BitVec.ofNat 64 t.bytes) t.bytes e) :
    Traps (.ld t d a off) s e.code e.eaddr e.einfo :=
  h.traps (exec_ld t d a off s) (M.bind_error (load_error h.plan (h.fails _)))

theorem Denied.st (h : Denied s (s.x a + off.signExtend 64 * BitVec.ofNat 64 t.bytes) t.bytes e) :
    Traps (.st t d a off) s e.code e.eaddr e.einfo :=
  h.traps (exec_st t d a off s) (M.bind_error (store_error h.plan (by rw [leBytes_length]; exact h.fails _)))

theorem Denied.vld {cf : Bool} (h : Denied s (s.x a + off.signExtend 64 * 16) 16 e) :
    Traps (.vld cf d a off) s e.code e.eaddr e.einfo := by
  refine h.traps (exec_vld cf d a off s) ?_
  rw [vld16, activeAt_base]
  exact M.bind_error (load_error h.plan (h.fails _))

theorem Denied.vst {cf : Bool} (h : Denied s (s.x a + off.signExtend 64 * 16) 16 e) :
    Traps (.vst cf d a off) s e.code e.eaddr e.einfo := by
  refine h.traps (exec_vst cf d a off s) ?_
  rw [vst16, activeAt_base]
  exact M.bind_error (kept_error h.plan (h.fails _))

theorem Denied.amoAdd (h : Denied s (s.x a) t.bytes e) : Traps (.amoAdd t d a b) s e.code e.eaddr e.einfo :=
  h.traps (exec_amoAdd t d a b s) (M.bind_error (M.bind_error (kept_error h.plan (atomicAt_error 0 (h.fails _)))))

theorem Denied.amopAdd (h : Denied s (s.x a) t.bytes e) : Traps (.amopAdd t a b) s e.code e.eaddr e.einfo :=
  h.traps (exec_amopAdd t a b s) (M.bind_error (atomicAt_error 0 (h.fails _)))

theorem Denied.cas (h : Denied s (s.x a) t.bytes e) : Traps (.cas t d a b c) s e.code e.eaddr e.einfo :=
  h.traps (exec_cas t d a b c s) (M.bind_error (M.bind_error (kept_error h.plan (atomicAt_error 10 (h.fails _)))))

end

/-- The window checks refuse the address. -/
theorem denied_of_spot {s : State} (hu : s.me.id.unit = .compute) (hp : s.me.pendOf = none) {a : W64} {code : Nat} {ea ei : W64}
    (h8 : code < 256) (h : s.spot a false = .error (.of code ea ei)) (n : Nat) : Denied s a n (.of code ea ei) :=
  ⟨hu, hp, rfl, h8, resolve_refused h n⟩

/-- An address of the global window below its bit 55, or of the strand's own window. -/
def OwnAddr (a : W64) : Prop := a.toNat < 2 ^ 55 ∨ ∃ o, o < 0x4000 ∧ a = privAddr o

theorem OwnAddr.spot {s : State} {a : W64} (h : OwnAddr a) : ∃ sp, s.spot a false = .ok sp := by
  rcases h with h | ⟨o, ho, rfl⟩
  · have h0 : wbits a 63 56 = 0 := by unfold wbits bits; rw [Nat.shiftRight_eq_div_pow]; omega
    have h1 : ¬ wbits a 55 55 = 1 := by unfold wbits bits; rw [Nat.shiftRight_eq_div_pow]; omega
    exact ⟨_, (spot_global s false h0).trans (if_neg h1)⟩
  · exact ⟨_, spot_private s ho false⟩

theorem denied_of_unaligned {s : State} (hu : s.me.id.unit = .compute) (hp : s.me.pendOf = none) (hs : s.shadows = [])
    {a : W64} {n : Nat} (ho : OwnAddr a) (ha : a.toNat % n ≠ 0) : Denied s a n (.of Cause.align a (BitVec.ofNat 64 n)) :=
  have ⟨_, hsp⟩ := ho.spot
  ⟨hu, hp, rfl, (by decide : Cause.align < 256), resolve_unaligned hs hsp ha⟩

/-- Settles O16: the checks of R20 refuse the address, or it is no multiple of the size; each access begins with them. -/
theorem addressChecks : Obligations.AddressChecks := by
  unfold Obligations.AddressChecks
  refine ⟨fun t cf d a c b off s hu _ hs hp => ?_, fun t d a off s hu hp => ?_⟩
  · intro A V own
    refine ⟨fun ho ha => ?_, fun ho ha => ?_, fun ho ha => ?_⟩
    · have h := denied_of_unaligned hu hp hs ho ha
      exact ⟨h.ld, h.st⟩
    · have h := denied_of_unaligned hu hp hs ho ha
      exact ⟨h.vld, h.vst⟩
    · have h := denied_of_unaligned hu hp hs ho ha
      exact ⟨h.amoAdd, h.amopAdd, h.cas⟩
  · intro A top both
    have htop : top = wbits A 63 56 := (wbits_eq_extract A 63 56).symm
    have space (h : s.spot A false = .error (.of Cause.space A 0)) : both Cause.space 0 :=
      have hd := denied_of_spot hu hp (by decide : Cause.space < 256) h t.bytes
      ⟨hd.ld, hd.st⟩
    rw [htop]
    refine ⟨fun h => space (spot_noWindow s false h), fun h hb => space ?_, fun h hb => space ?_, fun h hb => space ?_,
      fun h hb => space ?_, fun h hb => space ?_, fun h hb => space ?_, fun h h1 h2 hg hc => ?_⟩
    · refine (spot_global s false h).trans (if_pos ?_)
      simpa [wbits, bits, BitVec.getLsbD, Nat.testBit, Nat.and_one_is_mod] using hb
    · exact spot_private_space s false h (wbits_ne_zero hb)
    · exact spot_local_space s false h (hb.imp wbits_ne_zero wbits_ne_zero)
    · exact spot_cluster_space s false h (wbits_ne_zero hb)
    · exact spot_die_space s false h (wbits_ne_zero hb)
    · refine spot_gang_space s false h ?_
      rwa [show s.me.id.comp = s.me.id by rw [Sid.comp, ← hu]]
    · have hf := spot_local_foreign s h (wbits_eq_zero h1) (wbits_eq_zero h2) hg
        (by rw [wbits_eq_extract]; exact hc)
      have hd := denied_of_spot hu hp (by decide : Cause.foreign < 256) hf t.bytes
      rw [wbits_eq_extract] at hd
      exact ⟨hd.ld, hd.st⟩

end Sys2Proof.Safety

/-! SUPPORT. The parts of a vector instruction: what reading its sources holds, elements and masks bit by bit, and a change of
the executing context's registers beside what its sources take. -/

namespace Sys2Proof.Machine

/-! ## What an instruction holds in queues and channels (R138) -/

/-- `u` is `s` but for what is held in queues and in channels. -/
structure HoldsOnly (s u : State) : Prop where
  others : u = { s with queues := u.queues, cores := u.cores }
  entries : ∀ l seat, (u.slotq l seat).q = (s.slotq l seat).q
  core : ∀ g, u.core g = { s.core g with chHolds := (u.core g).chHolds }

namespace HoldsOnly

theorem refl (s : State) : HoldsOnly s s := ⟨rfl, fun _ _ => rfl, fun _ => rfl⟩

theorem trans {s u w : State} (h : HoldsOnly s u) (k : HoldsOnly u w) : HoldsOnly s w :=
  ⟨by rw [k.others, h.others], fun l seat => (k.entries l seat).trans (h.entries l seat), fun g => by rw [k.core, h.core]⟩

theorem me {s u : State} (h : HoldsOnly s u) : u.me = s.me := by rw [h.others]

theorem unhold (s : State) (i : Sid) : HoldsOnly s (s.unhold i) :=
  ⟨s.unhold_shape i, s.unhold_entries i, s.unhold_core i⟩

/-- The holds of an agent on a queue of the slot replaced. -/
theorem hold (s : State) (u : Agent) (r : Reg3) (n : Nat) : HoldsOnly s (s.modMyQueues (·.hold u r n)) := by
  refine ⟨rfl, fun l seat => ?_, fun _ => rfl⟩
  refine (congrArg SlotQueues.q (State.slotq_modSlotq ..)).trans ?_
  split
  · next h => rw [h.1, h.2]; rfl
  · rfl

/-- The holds on the channels of the executing core replaced. -/
theorem chHold (s : State) (f : Core → List (Sid × Nat × Nat)) :
    HoldsOnly s (s.modMyCore (fun k => { k with chHolds := f k })) := by
  refine ⟨rfl, fun _ _ => rfl, fun g => ?_⟩
  rw [State.modMyCore, State.core_modCore]
  split
  · next h => rw [h]
  · rfl

end HoldsOnly

theorem reserve_holds {r : Reg3} {j : Nat} {s u : State} {v : V128} (h : M.reserve r j s = .ok v u) : HoldsOnly s u := by
  rw [M.reserve, M.bind_next (M.get_ok.2 ⟨rfl, rfl⟩)] at h
  dsimp only at h
  split at h
  · exact (M.throw_ok.1 h).elim
  · cases hv : (s.myQueues.q.get r.toFin)[j]? with
    | some w =>
      rw [hv] at h
      obtain ⟨_, w, hw, h⟩ := M.bind_ok.1 h
      obtain ⟨-, rfl⟩ := M.pure_ok.1 h
      rw [← M.set_ok.1 hw]
      exact HoldsOnly.hold ..
    | none =>
      rw [hv] at h
      dsimp only at h
      split at h
      · obtain ⟨_, w, -, h⟩ := M.bind_ok.1 h
        exact (M.throw_ok.1 h).elim
      · exact (M.throw_ok.1 h).elim

theorem chunk_holds {c : Chan} {s u : State} {v : V128} (h : M.chunk c s = .ok v u) : HoldsOnly s u := by
  rw [M.chunk, M.bind_next (M.get_ok.2 ⟨rfl, rfl⟩)] at h
  dsimp only at h
  split at h
  · exact (M.throw_ok.1 h).elim
  · split at h
    · exact (M.throw_ok.1 h).elim
    · obtain ⟨_, w, hw, h⟩ := M.bind_ok.1 h
      obtain ⟨-, rfl⟩ := M.pure_ok.1 h
      rw [← M.set_ok.1 hw]
      exact HoldsOnly.chHold s fun k => k.chHolds.filter (fun h => !decide (h.1 = s.me.id)) ++ [(s.me.id, c.toNat, 16)]

theorem vsrc_holds {t : Ty} {j : Nat} {a : VSrc} {s u : State} {v : V128} (h : M.vsrc t j a s = .ok v u) : HoldsOnly s u := by
  cases a with
  | reg r => exact (M.pure_ok.1 h).2 ▸ .refl s
  | queue q => exact reserve_holds h
  | chan c => exact chunk_holds h
  | pool i => exact (M.check_ok.1 h).2 ▸ .refl s
  | lit k w => exact (M.pure_ok.1 h).2 ▸ .refl s

theorem poolOk_state {l : List VSrc} {s u : State} (h : M.poolOk l s = .ok () u) : u = s := by
  induction l generalizing s with
  | nil => exact (M.pure_ok.1 h).2.symm
  | cons a l ih =>
    cases a with
    | pool i =>
      obtain ⟨_, w, hw, hc⟩ := M.bind_ok.1 h
      obtain ⟨_, w', hw', hl⟩ := M.bind_ok.1 hc
      rw [ih hl, ← (M.check_ok.1 hw').2, (M.get_ok.1 hw).2]
    | _ => exact ih h

theorem takables_state {l : List VSrc} {s u : State} (h : M.takables l s = .ok () u) : u = s := by
  induction l generalizing s with
  | nil => exact (M.pure_ok.1 h).2.symm
  | cons a l ih =>
    cases a with
    | chan c =>
      obtain ⟨_, w, hw, hl⟩ := M.bind_ok.1 h
      obtain ⟨_, w', hg, ht⟩ := M.bind_ok.1 hw
      rw [ih hl, ← (M.trapIf_ok.1 ht).2, (M.get_ok.1 hg).2]
    | _ => exact ih h

/-- Reading the two sources of a vector instruction only holds what they will take. -/
theorem vsrcs_holds {t : Ty} {a b : VSrc} {s u : State} {p : V128 × V128} (h : M.vsrcs t a b s = .ok p u) : HoldsOnly s u := by
  obtain ⟨_, s1, hpool, h1⟩ := M.bind_ok.1 h
  obtain ⟨_, s2, ha, h2⟩ := M.bind_ok.1 h1
  obtain ⟨_, s3, hb, h3⟩ := M.bind_ok.1 h2
  obtain ⟨_, s4, htake, h4⟩ := M.bind_ok.1 h3
  have hu : u = s3 := by rw [← (M.pure_ok.1 h4).2, takables_state htake]
  rw [poolOk_state hpool] at ha
  exact hu ▸ (vsrc_holds ha).trans (vsrc_holds hb)

/-! ## A change of the executing context that keeps its name and place -/

/-- The core at which a context's channel holds lie: its own, or core 0 for a context that is not there. -/
def State.holdCore (s : State) (i : Sid) : Nat :=
  match s.strand? i with
  | some c => c.place.gcore
  | none => 0

/-- The first half of giving up what a context holds: its queue entries. -/
def State.unholdQueues (s : State) (i : Sid) : State :=
  if (AMap.get s.queues (i.launch, i.seat)).isSome then
    s.modSlotq i.launch i.seat (fun q => { q with holds := q.holds.filter (fun h => !decide (h.1 = i.unit)) }) else s

/-- The second half: its channel bytes. -/
def State.unholdChannels (s : State) (i : Sid) : State :=
  if (s.core (s.holdCore i)).chHolds.isEmpty then s else
    s.modCore (s.holdCore i) (fun c => { c with chHolds := c.chHolds.filter (fun h => !decide (h.1 = i)) })

theorem State.unhold_eq (s : State) (i : Sid) : s.unhold i = (s.unholdQueues i).unholdChannels i := rfl

theorem State.unholdQueues_me (s : State) (i : Sid) : (s.unholdQueues i).me = s.me := by
  unfold State.unholdQueues; split <;> rfl

section
variable {s : State} {f : Strand → Strand}

theorem holdCore_modMe (hid : (f s.me).id = s.me.id) (hpl : (f s.me).place = s.me.place) (i : Sid) :
    (s.modMe f).holdCore i = s.holdCore i := by
  unfold State.holdCore
  rw [State.strand?_modMe s i f hid]
  by_cases h : i = s.me.id
  · rw [if_pos h, h, State.strand?_me]; simp [hpl]
  · rw [if_neg h]

theorem unholdQueues_modMe (i : Sid) : (s.modMe f).unholdQueues i = (s.unholdQueues i).modMe f := by
  unfold State.unholdQueues
  rw [apply_ite (State.modMe · f)]
  rfl

theorem unholdChannels_modMe (hid : (f s.me).id = s.me.id) (hpl : (f s.me).place = s.me.place) (i : Sid) :
    (s.modMe f).unholdChannels i = (s.unholdChannels i).modMe f := by
  unfold State.unholdChannels
  rw [holdCore_modMe hid hpl, apply_ite (State.modMe · f)]
  rfl

theorem unhold_modMe (hid : (f s.me).id = s.me.id) (hpl : (f s.me).place = s.me.place) (i : Sid) :
    (s.modMe f).unhold i = (s.unhold i).modMe f := by
  rw [State.unhold_eq, State.unhold_eq, unholdQueues_modMe, unholdChannels_modMe]
  · rw [State.unholdQueues_me, hid]
  · rw [State.unholdQueues_me, hpl]

/-- A context's change that keeps its place leaves the busy cores. -/
theorem busyCores_modMe (hpl : (f s.me).place = s.me.place) : (s.modMe f).busyCores = s.busyCores := by
  simp [State.busyCores, State.contexts, State.modMe, hpl]

theorem modRq_modMe (hpl : (f s.me).place = s.me.place) (g : Nat) (k : List RqEntry → List RqEntry) :
    (s.modMe f).modRq g k = (s.modRq g k).modMe f := by
  have sends : ∀ (ts : List Nat) (p : Bool) (u : State), ts.foldl (fun s t => s.send .ctl g t (.pressure g p t)) (u.modMe f) =
      (ts.foldl (fun s t => s.send .ctl g t (.pressure g p t)) u).modMe f := by
    intro ts p
    induction ts with
    | nil => exact fun _ => rfl
    | cons t ts ih => exact fun u => ih (u.send .ctl g t (.pressure g p t))
  unfold State.modRq
  rw [apply_ite (State.modMe · f), busyCores_modMe hpl, ← sends]
  rfl

theorem takeSource_modMe (hid : (f s.me).id = s.me.id) (hpl : (f s.me).place = s.me.place) (a : VSrc) :
    (s.modMe f).takeSource a = (s.takeSource a).modMe f := by
  cases a with
  | queue q =>
    show (s.modMe f).modSlotq (f s.me).id.launch (f s.me).id.seat (·.pop q 1) = _
    rw [hid]; rfl
  | chan c =>
    show (s.modMe f).modRq (f s.me).place.gcore (fun rq => takeStream c.toNat rq 16) = _
    rw [hpl]; exact modRq_modMe hpl ..
  | _ => rfl

/-- What the sources of an instruction take leaves the executing context as it is. -/
theorem takeSource_foldl_me (l : List VSrc) (s : State) : (l.foldl State.takeSource s).me = s.me := by
  induction l generalizing s with
  | nil => rfl
  | cons a l ih => exact (ih _).trans (State.takeSource_me s a)

theorem takeSource_foldl_modMe (hid : (f s.me).id = s.me.id) (hpl : (f s.me).place = s.me.place) (l : List VSrc) :
    l.foldl State.takeSource (s.modMe f) = (l.foldl State.takeSource s).modMe f := by
  induction l generalizing s with
  | nil => rfl
  | cons a l ih =>
    rw [List.foldl_cons, takeSource_modMe hid hpl, ih (by rwa [State.takeSource_me]) (by rwa [State.takeSource_me])]
    rfl

end

end Sys2Proof.Machine

namespace Sys2Proof.Safety

open Sys2Proof.Machine

theorem taken_me (s : State) (l : List VSrc) : (taken s l).me = s.me := by
  rw [taken, State.unhold_me, takeSource_foldl_me]

/-- A change of registers of the executing context and what its sources take do not meet. -/
theorem taken_modMe {s : State} {f : Strand → Strand} (hid : (f s.me).id = s.me.id) (hpl : (f s.me).place = s.me.place)
    (l : List VSrc) : taken (s.modMe f) l = (taken s l).modMe f := by
  rw [taken, takeSource_foldl_modMe hid hpl, unhold_modMe]
  · rw [show (s.modMe f).me.id = s.me.id from hid]; rfl
  · rw [takeSource_foldl_me]; exact hid
  · rw [takeSource_foldl_me]; exact hpl

/-- A trap taken where an instruction holds entries and bytes is a trap taken before. -/
theorem TakesTrap.of_holds {s u t : State} {code : Nat} {ea ei : W64} (h : HoldsOnly s u) (k : TakesTrap u code ea ei t) :
    TakesTrap s code ea ei t := by
  have hme := h.me
  refine ⟨hme ▸ k.ecause, hme ▸ k.epc, k.eaddr, k.einfo, k.level, hme ▸ k.pc, hme ▸ k.context, ?_,
    fun l seat => (k.entries l seat).trans (h.entries l seat), fun g => by rw [k.core, h.core], fun n => ?_⟩
  · rw [k.others, h.others]
  · rw [k.mem, h.others]

end Sys2Proof.Safety

/-! SUPPORT. Elements and mask bits, one by one. -/

namespace Sys2Proof.Machine

/-! ## Packed elements (R9) -/

/-- The number with these `n`-bit elements, the first lowest. -/
def packNat (n : Nat) : List Nat → Nat
  | [] => 0
  | e :: l => e % 2 ^ n + 2 ^ n * packNat n l

theorem packLanes_foldl (n : Nat) (l : List Nat) : ∀ (k a : Nat),
    (l.zipIdx k).foldl (fun a (e, i) => a + e % 2 ^ n * 2 ^ (i * n)) a = a + 2 ^ (k * n) * packNat n l := by
  induction l with
  | nil => intro k a; simp [packNat]
  | cons e l ih =>
    intro k a
    rw [List.zipIdx_cons, List.foldl_cons, ih, packNat, Nat.succ_mul, Nat.pow_add]
    ring

theorem packLanes_eq (n : Nat) (l : List Nat) : packLanes n l = BitVec.ofNat 128 (packNat n l) := by
  rw [packLanes, packLanes_foldl]; simp

theorem packNat_lt (n : Nat) (l : List Nat) : packNat n l < 2 ^ (n * l.length) := by
  induction l with
  | nil => simp [packNat]
  | cons e l ih =>
    have he : e % 2 ^ n < 2 ^ n := Nat.mod_lt _ (Nat.two_pow_pos n)
    rw [packNat, List.length_cons, Nat.mul_succ, Nat.add_comm (n * l.length), Nat.pow_add]
    calc e % 2 ^ n + 2 ^ n * packNat n l < 2 ^ n + 2 ^ n * packNat n l := by omega
      _ = 2 ^ n * (packNat n l + 1) := by ring
      _ ≤ 2 ^ n * 2 ^ (n * l.length) := Nat.mul_le_mul_left _ ih

theorem packNat_element (n : Nat) (l : List Nat) : ∀ i, i < l.length →
    packNat n l / 2 ^ (i * n) % 2 ^ n = nth l i 0 % 2 ^ n := by
  induction l with
  | nil => intro i h; simp at h
  | cons e l ih =>
    intro i h
    have he : e % 2 ^ n < 2 ^ n := Nat.mod_lt _ (Nat.two_pow_pos n)
    cases i with
    | zero => simp [packNat, nth, Nat.add_mul_mod_self_left]
    | succ i =>
      have hd : (e % 2 ^ n + 2 ^ n * packNat n l) / 2 ^ n = packNat n l := by
        rw [Nat.add_mul_div_left _ _ (Nat.two_pow_pos n), Nat.div_eq_of_lt he, Nat.zero_add]
      rw [packNat, Nat.succ_mul, Nat.add_comm (i * n), Nat.pow_add, ← Nat.div_div_eq_div_mul, hd,
        ih i (by simpa using h)]
      rfl

end Sys2Proof.Machine

namespace Sys2Proof.Safety

open Sys2Proof.Machine

/-- An element of a vector as a number. -/
theorem lane_toNat (n : Nat) (v : V128) (i : Nat) : (lane n v i).toNat = v.toNat >>> (i * n) % 2 ^ n :=
  BitVec.extractLsb'_toNat ..

theorem nth_lanes {n : Nat} (v : V128) {i : Nat} (h : i < 128 / n) : nth (lanes n v) i 0 = (lane n v i).toNat := by
  rw [lane_toNat]
  simp [nth, lanes, h]

theorem lanes_length (n : Nat) (v : V128) : (lanes n v).length = 128 / n := by simp [lanes]

/-- The elements of a packed vector. -/
theorem lane_packLanes {n : Nat} {l : List Nat} (hl : n * l.length ≤ 128) {i : Nat} (h : i < l.length) :
    lane n (packLanes n l) i = BitVec.ofNat n (nth l i 0) := by
  have hlt : packNat n l < 2 ^ 128 := Nat.lt_of_lt_of_le (packNat_lt n l) (Nat.pow_le_pow_right (by omega) hl)
  apply BitVec.eq_of_toNat_eq
  rw [lane_toNat, packLanes_eq, BitVec.toNat_ofNat, BitVec.toNat_ofNat, Nat.mod_eq_of_lt hlt, Nat.shiftRight_eq_div_pow,
    packNat_element n l i h]

/-- The elements of a merged destination: those of the list where the mask is set (R137). -/
theorem masked_merge {n : Nat} (m : BitVec 16) (z : Bool) (old : V128) (new : List Nat) :
    Masked n m z old (merge m z n old new) (fun i => BitVec.ofNat n (nth new i 0)) := by
  intro i hi
  have hlen : ((lanes n old).zipIdx.map (fun (o, i) => if active m n i then nth new i 0 else if z then 0 else o)).length = 128 / n := by
    simp [lanes_length]
  rw [merge, lane_packLanes (by rw [hlen]; exact Nat.mul_div_le 128 n) (by rw [hlen]; exact hi)]
  have hn : nth ((lanes n old).zipIdx.map (fun (o, i) => if active m n i then nth new i 0 else if z then 0 else o)) i 0 =
      if active m n i then nth new i 0 else if z then 0 else (lane n old i).toNat := by
    have hg : (lanes n old)[i]? = some (lane n old i).toNat := by
      rw [lane_toNat]; simp [lanes, hi]
    simp [nth, hg]
  rw [hn]
  unfold active
  split
  · rfl
  · split
    · rfl
    · simp

/-! ## Bits of a mask -/

/-- The bits that a predicate picks. -/
theorem bitsOf_succ (n : Nat) (f : Nat → Bool) : bitsOf (n + 1) f = bitsOf n f + if f n then 2 ^ n else 0 := by
  rw [bitsOf, bitsOf, List.range_succ, List.foldl_append]
  simp only [List.foldl_cons, List.foldl_nil]
  split <;> simp

theorem bitsOf_lt (n : Nat) (f : Nat → Bool) : bitsOf n f < 2 ^ n := by
  induction n with
  | zero => simp [bitsOf]
  | succ n ih =>
    rw [bitsOf_succ, Nat.pow_succ]
    split <;> omega

theorem testBit_bitsOf (n : Nat) (f : Nat → Bool) (k : Nat) (h : k < n) : (bitsOf n f).testBit k = f k := by
  induction n with
  | zero => omega
  | succ n ih =>
    have hlt := bitsOf_lt n f
    rw [bitsOf_succ]
    by_cases hk : k = n
    · subst hk
      split
      · next hf => rw [Nat.add_comm, Nat.testBit_two_pow_add_eq, Nat.testBit_lt_two_pow hlt, hf]; rfl
      · next hf => rw [Nat.add_zero, Nat.testBit_lt_two_pow hlt]; simpa using hf
    · rw [← ih (by omega)]
      split
      · rw [Nat.add_comm, Nat.testBit_two_pow_add_gt (by omega)]
      · rw [Nat.add_zero]

/-- A mask operation, bit by bit (R156). -/
theorem maskMerge_bit (m : BitVec 16) (z : Bool) (old new : BitVec 16) {j : Nat} (h : j < 16) :
    (maskMerge m z old new).getLsbD j = if m.getLsbD j then new.getLsbD j else if z then false else old.getLsbD j := by
  unfold maskMerge
  cases hm : m.getLsbD j <;> cases z <;> simp [-BitVec.getLsbD_eq_getElem, hm, h]

/-- The flags of the active elements, one by one (R37). -/
theorem flagsOf_bit (m : BitVec 16) (n : Nat) (rs : List (Nat × Fl)) (k : Nat) : (flagsOf m n rs).getLsbD k = true ↔
    ∃ i r, rs[i]? = some r ∧ active m n i = true ∧ r.2.getLsbD k = true := by
  have key : ∀ (l : List ((Nat × Fl) × Nat)) (f : Fl),
      (l.foldl (fun f (r, i) => if active m n i then f ||| r.2 else f) f).getLsbD k = true ↔
        f.getLsbD k = true ∨ ∃ x ∈ l, active m n x.2 = true ∧ x.1.2.getLsbD k = true := by
    intro l
    induction l with
    | nil => intro f; simp
    | cons x l ih =>
      intro f
      rw [List.foldl_cons, ih, List.exists_mem_cons_iff]
      cases hx : active m n x.2 <;> simp [hx, or_assoc]
  refine (key rs.zipIdx 0).trans ⟨?_, ?_⟩
  · rintro (h | ⟨⟨r, i⟩, hm, hi, hr⟩)
    · simp at h
    · exact ⟨i, r, List.mk_mem_zipIdx_iff_getElem?.1 hm, hi, hr⟩
  · rintro ⟨i, r, hm, hi, hr⟩
    exact .inr ⟨(r, i), List.mk_mem_zipIdx_iff_getElem?.2 hm, hi, hr⟩

/-- MPOPC counts the bits that are set. -/
theorem popN_eq_card (w : BitVec 16) : popN 16 w.toNat = (Finset.univ.filter (fun i : Fin 16 => w.getLsbD i = true)).card := by
  have h : (Finset.univ.filter (fun i : Fin 16 => w.getLsbD i = true)).card =
      ((List.finRange 16).filter (fun i => w.getLsbD i.val)).length := by
    rw [Finset.card_def, Finset.filter_val, Fin.univ_def]
    simp [Multiset.filter_coe]
  rw [h, popN, ← List.map_coe_finRange_eq_range, List.filter_map, List.length_map]
  rfl

end Sys2Proof.Safety

/-! SUPPORT. VCMP, VSEL and the mask operations (R144, R145, R156). -/

namespace Sys2Proof.Safety

open Sys2Proof.Machine

/-- A mask register and flags written, then the retirement. -/
theorem raise_setM_retire_writes (w : State) (d : Reg3) (r : BitVec 16) (fl : Fl) (n : Nat) :
    WritesMF w d r fl n ((w.modMe (fun c => (c.raise fl).setM d r)).retire n) := by
  have hm : ((w.me.raise fl).setM d r).pc = w.me.pc := by unfold Strand.setM; split <;> rfl
  have hp : ((w.me.raise fl).setM d r).pend = w.me.pend := by unfold Strand.setM; split <;> rfl
  have hf : ((w.me.raise fl).setM d r).fstat = w.me.fstat ||| fl.setWidth 64 := by unfold Strand.setM; split <;> rfl
  have he : (w.me.raise fl).setM d r =
      { w.me with m := ((w.me.raise fl).setM d r).m, fstat := ((w.me.raise fl).setM d r).fstat } := by
    unfold Strand.setM; split <;> rfl
  refine ⟨fun r' => Strand.getM_setM (w.me.raise fl) d r r', hf, ?_⟩
  have h := retiresAs_modMe (s := w) (fun c => (c.raise fl).setM d r) n hm hp
  rw [he] at h
  exact h

/-- A vector register written, then the retirement. -/
theorem setV_retire_writes (w : State) (d : Reg) (v : V128) (n : Nat) : WritesV w d v n ((w.modMe (·.setV d v)).retire n) :=
  ⟨fun r => Strand.getV_setV w.me d v r, retiresAs_modMe (s := w) (·.setV d v) n rfl rfl⟩

/-- The end of a vector instruction: its sources leave, and it retires. -/
theorem takeSources_retire (f : Strand → Strand) (u : State) (l : List VSrc) (n : Nat) (hid : (f u.me).id = u.me.id)
    (hpl : (f u.me).place = u.me.place) :
    (do M.takeSources l; M.retire n : M Unit) (u.modMe f) = .ok () (((taken u l).modMe f).retire n) := by
  rw [← taken_modMe hid hpl]
  rfl

/-- VSEL (R145). -/
theorem vsel_writes {t : Ty} {m : Reg3} {d : Reg} {a b : VSrc} {va vb : V128} {s u : State}
    (h : Gives (M.vsrcs t a b) s (va, vb) u) :
    Completes (.vsel t m d a b) s (WritesV (taken u [a, b]) d (merge (s.me.getM m) false t.bits vb (lanes t.bits va)) (vlen b)) := by
  refine ⟨_, (exec_vsel t m d a b s).trans (M.run_ok ?_), setV_retire_writes _ d _ _⟩
  refine (M.bind_next h).trans ?_
  exact takeSources_retire (·.setV d _) u [a, b] (vlen b) rfl rfl

/-- A mask operation of the VEC and XVEC forms. -/
theorem maskOp_writes {i : Instr} {f : BitVec 16 → BitVec 16 → BitVec 16} {q : Qual} {d a : Reg3} {b : KSrc} {n : Nat} {s : State}
    (hi : Machine.exec i s = maskOp f q d a b n s) :
    Completes i s (WritesMF s d (maskMerge (s.me.getM q.mask) q.z (s.me.getM d) (f (s.me.getM a) (kval s b))) 0 n) := by
  refine ⟨_, hi, ?_⟩
  have h := raise_setM_retire_writes s d (maskMerge (s.me.getM q.mask) q.z (s.me.getM d) (f (s.me.getM a) (kval s b))) 0 n
  have h0 : ∀ c : Strand, c.raise 0 = c := fun c => by simp [Strand.raise]
  simp only [h0] at h
  exact h

/-! ## VCMP (R144) -/

/-- An element read as an integer by its type (R29). -/
theorem rd_eq_val (t : Ty) (x : BitVec t.bits) : rd t x.toNat = val t x := by
  unfold rd val
  cases h : t.signed
  · simp [asInt_false]
  · rw [asInt_true t.bits _ (bits_pos t)]; simp

/-- The integer that an element is determines the element. -/
theorem val_inj {t : Ty} {x y : BitVec t.bits} : val t x = val t y ↔ x = y := by
  unfold val
  split
  · exact BitVec.toInt_inj
  · exact Int.natCast_inj.trans BitVec.toNat_inj

/-- The comparison of two elements and its flags. -/
def cmpRes (C : FCtx) (cc : CC) (t : Ty) (x y : BitVec t.bits) : Bool × Fl :=
  if t.isFlt then fCmp C t cc x.toNat y.toNat
  else (match cc with
    | .eq => x == y
    | .ne => x != y
    | .lt => decide (val t x < val t y)
    | .le => decide (val t x ≤ val t y)
    | .gt => decide (val t y < val t x)
    | .ge => decide (val t y ≤ val t x)
    | .unord => false, 0)

/-- The comparisons of all elements, as the model lists them. -/
def cmpAll (C : FCtx) (cc : CC) (t : Ty) (va vb : V128) : List (Nat × Fl) :=
  List.zipWith (fun x y =>
    if t.isFlt then (let (r, fl) := fCmp C t cc x y; ((if r then 1 else 0 : Nat), fl))
    else (if intCmp cc (rd t x) (rd t y) then 1 else 0, (0 : Fl))) (lanes t.bits va) (lanes t.bits vb)

/-- The mask that the comparisons give. -/
def cmpMask (m : BitVec 16) (z : Bool) (n : Nat) (old : BitVec 16) (rs : List (Nat × Fl)) : BitVec 16 :=
  BitVec.ofNat 16 (bitsOf 16 (fun j =>
    if active m n (8 * j / n) then (nth rs (8 * j / n) (0, 0)).1 == 1 else if z then false else old.getLsbD j))

theorem execVcmp_eq (cc : CC) (t : Ty) (q : Qual) (d : Reg3) (a b : VSrc) (s : State) : execVcmp cc t q d a b s = M.run (do
    let (va, vb) ← M.vsrcs t a b
    M.flags (flagsOf (s.me.getM q.mask) t.bits (cmpAll (fctxOf s.me.fcr) cc t va vb))
    modify (·.setM d (cmpMask (s.me.getM q.mask) q.z t.bits (s.me.getM d) (cmpAll (fctxOf s.me.fcr) cc t va vb)))
    M.takeSources [a, b]
    M.retire (vlen b)) s := rfl

/-- One comparison as the model lists it. -/
theorem getElem?_cmpAll (C : FCtx) (cc : CC) (t : Ty) (va vb : V128) {j : Nat} (h : j < 128 / t.bits) :
    (cmpAll C cc t va vb)[j]? = some (if (cmpRes C cc t (lane t.bits va j) (lane t.bits vb j)).1 then 1 else 0,
      (cmpRes C cc t (lane t.bits va j) (lane t.bits vb j)).2) := by
  have hl : ∀ v : V128, (lanes t.bits v)[j]? = some (lane t.bits v j).toNat := fun v => by
    rw [lane_toNat]; simp [lanes, h]
  rw [cmpAll, List.getElem?_zipWith, hl va, hl vb]
  generalize lane t.bits va j = x
  generalize lane t.bits vb j = y
  unfold cmpRes
  cases t.isFlt with
  | true => rfl
  | false =>
    simp only [rd_eq_val, Bool.false_eq_true, if_false, Option.some.injEq, Prod.mk.injEq, and_true]
    congr 1
    have he : (val t x == val t y) = (x == y) := by
      rw [Bool.eq_iff_iff]; simp [val_inj]
    cases cc <;> simp only [intCmp, bne, he]

theorem cmpAll_length (C : FCtx) (cc : CC) (t : Ty) (va vb : V128) : (cmpAll C cc t va vb).length = 128 / t.bits := by
  simp [cmpAll, lanes_length]

/-- The flags of the active comparisons. -/
theorem flagsOf_cmpAll {C : FCtx} {cc : CC} {t : Ty} {va vb : V128} {m : BitVec 16} {fl : Fl}
    (h : ∀ k, k < 5 → (fl.getLsbD k = true ↔ ∃ j, j < 128 / t.bits ∧ m.getLsbD (j * t.bits / 8) = true ∧
      (cmpRes C cc t (lane t.bits va j) (lane t.bits vb j)).2.getLsbD k = true)) :
    flagsOf m t.bits (cmpAll C cc t va vb) = fl := by
  apply BitVec.eq_of_getLsbD_eq
  intro k hk
  rw [Bool.eq_iff_iff, flagsOf_bit, h k hk]
  constructor
  · rintro ⟨j, r, hr, ha, hb⟩
    have hj : j < 128 / t.bits := by rw [← cmpAll_length C cc t va vb]; exact (List.getElem?_eq_some_iff.1 hr).1
    rw [getElem?_cmpAll C cc t va vb hj] at hr
    exact ⟨j, hj, ha, by rw [← Option.some.inj hr] at hb; exact hb⟩
  · rintro ⟨j, hj, ha, hb⟩
    exact ⟨j, _, getElem?_cmpAll C cc t va vb hj, ha, hb⟩

/-- The element of a byte lane is one of the vector's. -/
theorem lane_of_byte_lt {t : Ty} {k : Nat} (hk : k < 16) : 8 * k / t.bits < 128 / t.bits := by
  cases t <;> simp only [Ty.bits] <;> omega

/-- The mask that the comparisons give, bit by bit. -/
theorem cmpMask_cmpAll {C : FCtx} {cc : CC} {t : Ty} {va vb : V128} {m old r : BitVec 16} {z : Bool}
    (h : ∀ k, k < 16 → r.getLsbD k = if m.getLsbD (8 * k / t.bits * t.bits / 8)
      then (cmpRes C cc t (lane t.bits va (8 * k / t.bits)) (lane t.bits vb (8 * k / t.bits))).1
      else if z then false else old.getLsbD k) :
    cmpMask m z t.bits old (cmpAll C cc t va vb) = r := by
  apply BitVec.eq_of_getLsbD_eq
  intro k hk
  rw [h k hk, cmpMask, BitVec.getLsbD_ofNat, testBit_bitsOf 16 _ k hk, nth,
    getElem?_cmpAll C cc t va vb (lane_of_byte_lt hk)]
  have hb : ∀ b : Bool, ((if b = true then 1 else 0 : Nat) == 1) = b := by decide
  simp only [hk, decide_true, Bool.true_and, active, Option.getD_some, hb]

/-- VCMP, where no flag meets an enable. -/
theorem vcmp_writes {cc : CC} {t : Ty} {q : Qual} {d : Reg3} {a b : VSrc} {va vb : V128} {s u : State} {r : BitVec 16} {fl : Fl}
    (h : Gives (M.vsrcs t a b) s (va, vb) u)
    (hr : cmpMask (s.me.getM q.mask) q.z t.bits (s.me.getM d) (cmpAll (fctxOf s.me.fcr) cc t va vb) = r)
    (hf : flagsOf (s.me.getM q.mask) t.bits (cmpAll (fctxOf s.me.fcr) cc t va vb) = fl)
    (he : fpeOf s.me.fcr fl = false) : Completes (.vcmp cc t q d a b) s (WritesMF (taken u [a, b]) d r fl (vlen b)) := by
  refine ⟨_, ((exec_vcmp cc t q d a b s).trans (execVcmp_eq ..)).trans (M.run_ok ?_), raise_setM_retire_writes _ d r fl _⟩
  have hflags : M.flags fl u = .ok () (u.modMe (·.raise fl)) := by
    rw [M.flags, M.bind_next (M.get_ok.2 ⟨rfl, rfl⟩), (vsrcs_holds h).me]
    exact M.bind_next (a := ()) (M.trapIf_ok.2 ⟨he, rfl⟩)
  refine (M.bind_next h).trans ?_
  dsimp only
  rw [hr, hf]
  refine (M.bind_next hflags).trans ?_
  exact takeSources_retire (fun c => (c.raise fl).setM d r) u [a, b] (vlen b) (by unfold Strand.setM; split <;> rfl)
    (by unfold Strand.setM; split <;> rfl)

/-- VCMP, where a flag meets an enable (R38). -/
theorem vcmp_traps {cc : CC} {t : Ty} {q : Qual} {d : Reg3} {a b : VSrc} {va vb : V128} {s u : State} {fl : Fl}
    (h : Gives (M.vsrcs t a b) s (va, vb) u)
    (hf : flagsOf (s.me.getM q.mask) t.bits (cmpAll (fctxOf s.me.fcr) cc t va vb) = fl)
    (he : fpeOf s.me.fcr fl = true) (hu : s.me.id.unit = .compute) :
    Traps (.vcmp cc t q d a b) s Cause.fpe 0 (fl.setWidth 64) := by
  refine traps_of_exec (t := .fpe fl) (((exec_vcmp cc t q d a b s).trans (execVcmp_eq ..)).trans (M.run_trap (t := u) ?_)) hu rfl
    (by decide : Cause.fpe < 256)
  have hflags : M.flags fl u = .error (.trap (.fpe fl)) u := by
    rw [M.flags, M.bind_next (M.get_ok.2 ⟨rfl, rfl⟩), (vsrcs_holds h).me]
    exact M.bind_error (M.trapIf_error u he)
  refine (M.bind_next h).trans ?_
  dsimp only
  rw [hf]
  exact M.bind_error hflags

/-- The unmasked form of a mask operation writes the new bits. -/
theorem maskMerge_all (old new : BitVec 16) : maskMerge 0xFFFF false old new = new := by
  apply BitVec.eq_of_getLsbD_eq
  intro j hj
  rw [maskMerge_bit _ _ _ _ hj, if_pos]
  revert j
  decide

/-- A two-source mask operation in both forms, given what it does to one bit. -/
theorem maskOps {iv ix : Instr} {f : BitVec 16 → BitVec 16 → BitVec 16} {g : Bool → Bool → Bool} {q : Qual} {d a b : Reg3} {bx : KSrc}
    {n : Nat} {s : State}
    (hv : Machine.exec iv s = maskOp f everyLane d a (.reg b) 4 s) (hx : Machine.exec ix s = maskOp f q d a bx n s)
    (hg : ∀ x y : BitVec 16, ∀ j, j < 16 → (f x y).getLsbD j = g (x.getLsbD j) (y.getLsbD j)) :
    ∃ r r' : BitVec 16,
      (∀ j, j < 16 → r.getLsbD j = g ((s.me.getM a).getLsbD j) ((s.me.getM b).getLsbD j)) ∧
      (∀ j, j < 16 → r'.getLsbD j = if (s.me.getM q.mask).getLsbD j then g ((s.me.getM a).getLsbD j) ((kval s bx).getLsbD j)
        else if q.z then false else (s.me.getM d).getLsbD j) ∧
      Completes iv s (WritesMF s d r 0 4) ∧ Completes ix s (WritesMF s d r' 0 n) := by
  have hm : s.me.getM everyLane.mask = 0xFFFF := rfl
  have h := maskOp_writes hv
  rw [hm, show everyLane.z = false from rfl, maskMerge_all] at h
  refine ⟨_, _, fun j hj => ?_, fun j hj => ?_, h, maskOp_writes hx⟩
  · exact hg _ _ j hj
  · rw [maskMerge_bit _ _ _ _ hj, hg _ _ j hj]

/-- Settles O24: the comparisons element by element, the selection by the mask, the mask operations bit by bit. -/
theorem vectorMasks : Obligations.VectorMasks := by
  unfold Obligations.VectorMasks
  refine ⟨fun cc t q d vd a b va vb s u _ h => ?_, fun q d a b bx x s => ?_⟩
  · intro n m C x y int res
    refine ⟨fun r fl hr hfl => ?_, _, ?_, vsel_writes h⟩
    · have hm := cmpMask_cmpAll (C := C) (cc := cc) (va := va) (vb := vb) (old := s.me.getM d) hr
      have hf := flagsOf_cmpAll (C := C) (cc := cc) (va := va) (vb := vb) hfl
      exact ⟨vcmp_writes h hm hf, vcmp_traps h hf⟩
    · intro i hi
      refine (masked_merge m false vb (lanes n va) i hi).trans ?_
      dsimp only
      rw [nth_lanes va hi, BitVec.ofNat_toNat, BitVec.setWidth_eq]
  · intro A B m count op
    refine ⟨maskOps (exec_mand d a b s) (exec_mandX q d a bx s) fun x y j hj => ?_,
      maskOps (exec_mor d a b s) (exec_morX q d a bx s) fun x y j hj => ?_,
      maskOps (b := 0) (g := fun x _ => !x) (exec_mnot d a s) (exec_mnotX q d a s) fun x y j hj => ?_, ?_, ?_⟩
    · exact BitVec.getLsbD_and ..
    · exact BitVec.getLsbD_or ..
    · rw [BitVec.getLsbD_not, decide_eq_true hj, Bool.true_and]
    · exact completes_putX (exec_mpopc x a s) (congrArg _ (popN_eq_card A))
    · exact completes_putX (exec_mpopcX q.mask x a s) (congrArg _ (popN_eq_card (A &&& m)))

end Sys2Proof.Safety

/-! SUPPORT. The slot's helpers and its queue registers: FORK, RDV, END, QPUT, QGET and QTRY (R179-R182). -/

namespace Sys2Proof.Machine

/-- A context put in place: its name finds it, every other name what it found. -/
theorem State.strand?_setStrand (s : State) (c : Strand) (j : Sid) :
    (s.setStrand c).strand? j = if j = c.id then some c else s.strand? j := by
  unfold State.setStrand
  split
  · next h =>
    have hmap : (s.modStrand c.id (fun _ => c)).contexts = s.contexts.map (fun b => if b.id = c.id then c else b) := rfl
    have hid : ∀ b : Strand, (if b.id = c.id then c else b).id = b.id := fun b => by split <;> simp [*]
    simp only [State.strand?, hmap, List.find?_map, Function.comp_def, hid]
    cases hj : s.contexts.find? (fun b => decide (b.id = j)) with
    | none =>
      have hne : j ≠ c.id := by rintro rfl; rw [State.strand?, hj] at h; simp at h
      simp [hne]
    | some b =>
      have hb : b.id = j := by simpa using List.find?_some hj
      by_cases e : j = c.id <;> simp [hb, e]
  · next h =>
    have hnone : s.strand? c.id = none := by simpa using h
    by_cases e : j = c.id
    · subst e
      have : ({ s with rest := s.rest ++ [c] } : State).contexts = s.contexts ++ [c] := rfl
      rw [if_pos rfl, State.strand?, this, List.find?_append, show s.contexts.find? _ = none from hnone]
      simp
    · have : ({ s with rest := s.rest ++ [c] } : State).contexts = s.contexts ++ [c] := rfl
      rw [if_neg e, State.strand?, this, List.find?_append, State.strand?]
      simp [Ne.symm e]

/-- A context put in place of another than the executing one leaves all but the others' list. -/
theorem State.setStrand_shape {s : State} {c : Strand} (h : s.me.id ≠ c.id) :
    s.setStrand c = { s with rest := (s.setStrand c).rest } := by
  by_cases hs : (s.strand? c.id).isSome = true
  · have e : s.setStrand c = s.modStrand c.id (fun _ => c) := if_pos hs
    have hme : (if s.me.id = c.id then c else s.me) = s.me := if_neg h
    rw [e]
    exact congrArg (fun m => ({ s with me := m, rest := s.rest.map fun b => if b.id = c.id then c else b } : State)) hme
  · have e : s.setStrand c = { s with rest := s.rest ++ [c] } := if_neg hs
    rw [e]

theorem State.setStrand_me {s : State} {c : Strand} (h : s.me.id ≠ c.id) : (s.setStrand c).me = s.me := by
  rw [State.setStrand_shape h]

/-- The record that a name finds has the name. -/
theorem State.strand?_id {s : State} {i : Sid} {c : Strand} (h : s.strand? i = some c) : c.id = i := by
  simpa using List.find?_some h

/-- Giving a context's operations away leaves every name but that of the new owner. -/
theorem State.strand?_orphan (s : State) (c : Strand) {j : Sid} (hj : j.unit ≠ .compute ∨ ∀ n, j.seat ≠ .placed (2 ^ 24 + n)) :
    (s.orphan c).strand? j = s.strand? j := by
  unfold State.orphan
  split
  · have hne : ∀ i : Sid, i = { launch := c.id.launch, seat := .placed (2 ^ 24 + s.next), unit := .compute } → ¬ i = j := by
      rintro i rfl rfl
      rcases hj with h | h
      · exact h rfl
      · exact h _ rfl
    simp only [State.strand?, State.contexts, ← List.cons_append, List.find?_append]
    simp [Strand.ghost, hne]
  · rfl

theorem State.orphan_shape (s : State) (c : Strand) :
    s.orphan c = { s with rest := (s.orphan c).rest, ops := (s.orphan c).ops, next := (s.orphan c).next } := by
  unfold State.orphan
  split <;> rfl

/-- Only the owners of the operations change. -/
theorem State.orphan_ops (s : State) (c : Strand) (o : Sid) :
    (s.orphan c).ops.map (fun e => (e.1, { e.2 with owner := o })) = s.ops.map (fun e => (e.1, { e.2 with owner := o })) := by
  unfold State.orphan
  split
  · simp only [List.map_map]
    refine List.map_congr_left fun e _ => ?_
    simp only [Function.comp_apply]
    split <;> rfl
  · rfl

/-- A context that owns no operation leaves none behind. -/
theorem State.orphan_idle {s : State} {c : Strand} (h : ∀ e ∈ s.ops, e.2.owner ≠ c.id) : s.orphan c = s := by
  unfold State.orphan
  rw [if_neg]
  simpa using h

/-! ## FORK (R180) -/

/-- The name of a helper of the executing context's slot. -/
def State.helperId (s : State) (a : Agent) : Sid := { s.me.id with unit := a }

theorem State.helperId_ne {s : State} {a : Agent} (h : s.me.id.unit ≠ a) : s.me.id ≠ s.helperId a := fun e =>
  h (congrArg Sid.unit e)

/-- The record that a FORK starts a helper with. -/
def State.helperRecord (s : State) (a : Agent) (e : W64) : Strand :=
  let new := Strand.fresh (s.helperId a) s.me.place
  let old := (s.helper a).getD new
  { new with x := Vector.ofFn (fun i => if 10 ≤ i.val && i.val ≤ 17 then s.me.x.get i else 0), pc := e, live := true,
             sqcap := BitVec.ofNat 64 s.myLaunch.sqcap, gens := old.gens, pts := Nat.max old.pts s.me.pts,
             synced := ((s.helper a).map (·.synced)).getD s.codeLog.length }

/-- The record of the helper's earlier run, or a new one. -/
def State.helperOld (s : State) (a : Agent) : Strand := (s.helper a).getD (Strand.fresh (s.helperId a) s.me.place)

theorem State.startHelper_eq (s : State) (a : Agent) {e : W64} (h : e ≠ 0) :
    s.startHelper a e = (s.orphan (s.helperOld a)).setStrand (s.helperRecord a e) := by
  unfold State.startHelper
  rw [if_neg h]
  rfl

theorem State.startHelper_zero (s : State) (a : Agent) : s.startHelper a 0 = s := if_pos rfl

theorem State.helperOld_id (s : State) (a : Agent) : (s.helperOld a).id = s.helperId a := by
  unfold State.helperOld
  cases h : s.helper a with
  | none => rfl
  | some c => exact State.strand?_id h

section
variable {s : State} {a : Agent} (ha : s.me.id.unit ≠ a) (e : W64)
include ha

theorem State.startHelper_me : (s.startHelper a e).me = s.me := by
  by_cases he : e = 0
  · rw [he, State.startHelper_zero]
  · have ho : (s.orphan (s.helperOld a)).me = s.me := by rw [State.orphan_shape]
    rw [State.startHelper_eq s a he, State.setStrand_me (ho ▸ State.helperId_ne ha), ho]

theorem State.startHelper_shape : s.startHelper a e =
    { s with rest := (s.startHelper a e).rest, ops := (s.startHelper a e).ops, next := (s.startHelper a e).next } := by
  by_cases he : e = 0
  · rw [he, State.startHelper_zero]
  · have ho : (s.orphan (s.helperOld a)).me = s.me := by rw [State.orphan_shape]
    rw [State.startHelper_eq s a he, State.setStrand_shape (ho ▸ State.helperId_ne ha), State.orphan_shape]

theorem State.startHelper_ops (o : Sid) : (s.startHelper a e).ops.map (fun e => (e.1, { e.2 with owner := o })) =
    s.ops.map (fun e => (e.1, { e.2 with owner := o })) := by
  by_cases he : e = 0
  · rw [he, State.startHelper_zero]
  · have ho : (s.orphan (s.helperOld a)).me = s.me := by rw [State.orphan_shape]
    rw [State.startHelper_eq s a he, State.setStrand_shape (ho ▸ State.helperId_ne ha)]
    exact State.orphan_ops ..

theorem State.startHelper_idle (h : ∀ e ∈ s.ops, e.2.owner ≠ s.helperId a) :
    (s.startHelper a e).ops = s.ops ∧ (s.startHelper a e).next = s.next := by
  by_cases he : e = 0
  · rw [he, State.startHelper_zero]; exact ⟨rfl, rfl⟩
  · rw [State.startHelper_eq s a he, State.orphan_idle (by rwa [State.helperOld_id]), State.setStrand_shape (c := s.helperRecord a e) (State.helperId_ne ha)]
    exact ⟨rfl, rfl⟩

end

/-- Every name but the helper's, and but those of the owners that operations are given to, finds what it found. -/
theorem State.strand?_startHelper_of_ne {s : State} {a : Agent} {j : Sid} (e : W64) (h : j ≠ s.helperId a)
    (hj : j.unit ≠ .compute ∨ ∀ n, j.seat ≠ .placed (2 ^ 24 + n)) : (s.startHelper a e).strand? j = s.strand? j := by
  by_cases he : e = 0
  · rw [he, State.startHelper_zero]
  · rw [State.startHelper_eq s a he, State.strand?_setStrand, ← State.strand?_orphan s (s.helperOld a) hj]
    exact if_neg h

theorem State.strand?_startHelper {s : State} {a : Agent} {e : W64} (he : e ≠ 0) :
    (s.startHelper a e).strand? (s.helperId a) = some (s.helperRecord a e) := by
  rw [State.startHelper_eq s a he, State.strand?_setStrand]
  exact if_pos rfl

/-- The x registers that a helper starts with (R180). -/
theorem State.helperRecord_getX (s : State) (a : Agent) (e : W64) (r : Reg) :
    (s.helperRecord a e).getX r = if 10 ≤ r.toNat ∧ r.toNat ≤ 17 then s.x r else 0 := by
  unfold State.helperRecord State.x Strand.getX
  by_cases hr : r = 0
  · subst hr; rfl
  · simp only [hr, if_false]
    rw [Vector.get_eq_getElem, Vector.getElem_ofFn]
    simp

end Sys2Proof.Machine

namespace Sys2Proof.Safety

open Sys2Proof.Machine

/-- The state that FORK leaves before it retires. -/
def forked (u : State) (e f : W64) : State := ((u.startHelper .loader e).startHelper .storer f).bumpAll

/-- FORK, where both entries pass their checks (R180). -/
theorem fork_runs {a b : Reg} {s s1 u : State} (hh : s.me.id.isHandler = false) (hi : s.helpersIdle = true)
    (h1 : Gives (M.helperEntry (s.x a) 1) s () s1) (h2 : Gives (M.helperEntry (s.x b) 2) s1 () u) :
    Machine.exec (.fork a b) s = .next ((forked u (s.x a) (s.x b)).retire 4) := by
  refine (exec_fork a b s).trans (M.run_ok ?_)
  have hn : M.notHandler s = .ok () s := M.bind_ok.2 ⟨s, s, rfl, M.trapIf_ok.2 ⟨hh, rfl⟩⟩
  have hb : M.blockIf (!s.helpersIdle) .helpers s = .ok () s := M.blockIf_ok.2 ⟨by rw [hi]; rfl, rfl⟩
  exact (M.bind_next hn).trans ((M.bind_next hb).trans ((M.bind_next h1).trans ((M.bind_next h2).trans rfl)))

section
variable {u : State} (hu : u.me.id.unit = .compute) (e f : W64)
include hu

theorem forked_me : (forked u e f).me = u.me.bump 4 := by
  have h1 : (u.startHelper .loader e).me = u.me := State.startHelper_me (by rw [hu]; decide) e
  have h2 : ((u.startHelper .loader e).startHelper .storer f).me = u.me := by
    rw [State.startHelper_me (by rw [h1, hu]; decide), h1]
  unfold forked State.bumpAll State.modStrand
  rw [h2, Sid.comp, ← hu]
  exact if_pos rfl

theorem forked_shape : forked u e f = { u with me := (forked u e f).me, rest := (forked u e f).rest, ops := (forked u e f).ops, next := (forked u e f).next } := by
  have h1 : (u.startHelper .loader e).me = u.me := State.startHelper_me (by rw [hu]; decide) e
  have h2 := State.startHelper_shape (s := u.startHelper .loader e) (a := .storer) (by rw [h1, hu]; decide) f
  have h3 := State.startHelper_shape (s := u) (a := .loader) (by rw [hu]; decide) e
  unfold forked State.bumpAll State.modStrand
  rw [h2, h3]

theorem strand?_forked {j : Sid} (hj : j ≠ u.me.id) :
    (forked u e f).strand? j = ((u.startHelper .loader e).startHelper .storer f).strand? j := by
  have h1 : (u.startHelper .loader e).me = u.me := State.startHelper_me (by rw [hu]; decide) e
  have h2 : ((u.startHelper .loader e).startHelper .storer f).me = u.me := by
    rw [State.startHelper_me (by rw [h1, hu]; decide), h1]
  unfold forked State.bumpAll
  rw [State.strand?_modStrand _ _ _ (·.bump 4) fun _ => rfl, h2, Sid.comp, ← hu]
  exact if_neg hj

end

end Sys2Proof.Safety

/-! SUPPORT. Entries put into and taken from queue registers; the helpers after a FORK (R180-R182). -/

namespace Sys2Proof.Machine

theorem Strand.setX_shape (c : Strand) (d : Reg) (v : W64) : c.setX d v = { c with x := (c.setX d v).x } := by
  unfold Strand.setX; split <;> rfl

/-- An agent that may take the head of a queue gets it, and holds it. -/
theorem reserve_head {s : State} {q : Reg3} {v : V128} {l : List V128} (hh : s.myQueues.heldByOthers s.me.id.unit q = false)
    (hq : s.myQueues.q.get q.toFin = v :: l) : M.reserve q 0 s = .ok v (s.modMyQueues (·.hold s.me.id.unit q 1)) := by
  rw [M.reserve, M.bind_next (M.get_ok.2 ⟨rfl, rfl⟩)]
  dsimp only
  rw [hh, hq]
  rfl

/-- An agent that may not, or that finds no entry, waits. -/
theorem reserve_waits {s : State} {q : Reg3}
    (h : s.myQueues.heldByOthers s.me.id.unit q = true ∨ s.myQueues.q.get q.toFin = []) :
    M.reserve q 0 s = .error (.block (.queueEntry q)) s := by
  rw [M.reserve, M.bind_next (M.get_ok.2 ⟨rfl, rfl⟩)]
  dsimp only
  by_cases hh : s.myQueues.heldByOthers s.me.id.unit q = true
  · rw [if_pos hh]; rfl
  · rw [if_neg hh, h.resolve_left hh]; rfl

/-- Giving up what a context holds leaves the queues of every other slot. -/
theorem unhold_slotq_of_ne (s : State) (i : Sid) {k : Nat} {seat : Seat} (h : ¬ (k = i.launch ∧ seat = i.seat)) :
    (s.unhold i).slotq k seat = s.slotq k seat := by
  obtain ⟨u, g, hu, hs⟩ := s.unhold_cases i
  have e : (s.unhold i).slotq k seat = u.slotq k seat := by
    rcases hs with h | h <;> rw [h]
    rfl
  rw [e]
  rcases hu with rfl | rfl
  · rfl
  · rw [State.slotq_modSlotq, if_neg h]

/-- The queues of the slot changed. -/
theorem myQueues_modMyQueues (s : State) (f : SlotQueues → SlotQueues) : (s.modMyQueues f).myQueues = f s.myQueues :=
  (State.slotq_modSlotq s s.me.id.launch s.me.id.launch s.me.id.seat s.me.id.seat f).trans (if_pos ⟨rfl, rfl⟩)

theorem slotq_modMyQueues_of_ne (s : State) (f : SlotQueues → SlotQueues) {k : Nat} {seat : Seat}
    (h : ¬ (k = s.me.id.launch ∧ seat = s.me.id.seat)) : (s.modMyQueues f).slotq k seat = s.slotq k seat :=
  (State.slotq_modSlotq s s.me.id.launch k s.me.id.seat seat f).trans (if_neg h)

theorem SlotQueues.pop_q (k : SlotQueues) (r : Reg3) (n : Nat) :
    (k.pop r n).q = k.q.set r.toNat ((k.q.get r.toFin).drop n) r.isLt := rfl

theorem SlotQueues.push_q (k : SlotQueues) (r : Reg3) (v : V128) :
    (k.push r v).q = k.q.set r.toNat (k.q.get r.toFin ++ [v]) r.isLt := rfl

/-- What the executing context holds given up, and the head of a queue register of its slot removed. -/
def State.popHead (s : State) (q : Reg3) : State := (s.unhold s.me.id).modMyQueues (·.pop q 1)

theorem State.gotEntry_eq (s : State) (x : Bool) (d : Reg) (q : Reg3) (v : V128) :
    s.gotEntry x d q v = if x then (s.popHead q).setX d (v.setWidth 64) else (s.popHead q).setV d v := rfl

end Sys2Proof.Machine

namespace Sys2Proof.Safety

open Sys2Proof.Machine

/-- A queue register put or shortened at the executing context's slot. -/
theorem queueIs_of_set {s w : State} (hid : w.me.id = s.me.id) (hq : w.myQueues.q = s.myQueues.q)
    (ho : ∀ k seat, ¬ (k = s.me.id.launch ∧ seat = s.me.id.seat) → w.slotq k seat = s.slotq k seat)
    {f : SlotQueues → SlotQueues} {q : Reg3} {l : List V128} (hf : (f w.myQueues).q = w.myQueues.q.set q.toNat l q.isLt) :
    QueueIs s q l (w.modMyQueues f) := by
  refine ⟨fun r => ?_, fun k seat hk => ?_⟩
  · rw [myQueues_modMyQueues, hf, ← hq]
    have := Vector.get_set_fin w.myQueues.q q.toFin r l
    exact this
  · rw [slotq_modMyQueues_of_ne _ _ (by rwa [hid]), ho k seat hk]

/-- The head of a queue register removed, and nothing else but what was held. -/
structure Popped (s : State) (q : Reg3) (l : List V128) (w : State) : Prop where
  took : Took s q l w
  rest : w = { s with queues := w.queues, cores := w.cores }

/-- A state that differs from one in what its slot holds, its head removed. -/
theorem popHead_popped {s w : State} (hh : HoldsOnly s w) {q : Reg3} {v : V128} {l : List V128}
    (ho : ∀ k seat, ¬ (k = s.me.id.launch ∧ seat = s.me.id.seat) → w.slotq k seat = s.slotq k seat)
    (hq : s.myQueues.q.get q.toFin = v :: l) : Popped s q l (w.popHead q) := by
  have hu := hh.trans (HoldsOnly.unhold w w.me.id)
  have hown : (w.unhold w.me.id).myQueues.q = s.myQueues.q := by rw [State.myQueues, hu.me]; exact hu.entries ..
  refine ⟨⟨queueIs_of_set (congrArg Strand.id hu.me) hown (fun k seat hk => ?_) ?_, hu.core⟩, ?_⟩
  · rw [unhold_slotq_of_ne _ _ (by rwa [hh.me]), ho k seat hk]
  · rw [SlotQueues.pop_q, hown, hq]
    rfl
  · exact congrArg (fun u : State => { u with queues := (w.popHead q).queues }) hu.others

/-- After the entry has left, the executing context's registers and its retirement change nothing of queues and cores. -/
theorem Popped.retire {s w : State} {q : Reg3} {l : List V128} (h : Popped s q l w) (f : Strand → Strand)
    (hid : (f w.me).id = w.me.id) : Took s q l ((w.modMe f).retire 4) := by
  have hid' : ((w.modMe f).retire 4).me.id = w.me.id := hid
  refine ⟨⟨fun r => ?_, h.took.queue.others⟩, h.took.cores⟩
  rw [← h.took.queue.mine r, State.myQueues, hid']
  rfl

/-- The state at the register write, as the statement names it. -/
theorem Popped.state {s w : State} {q : Reg3} {l : List V128} (h : Popped s q l w) (f : Strand → Strand) :
    ({ s with queues := ((w.modMe f).retire 4).queues, cores := ((w.modMe f).retire 4).cores } : State) = w := h.rest.symm

/-- An instruction that takes the head and then changes the executing context's registers by `f`. -/
theorem Popped.completes {s w : State} {q : Reg3} {l : List V128} (h : Popped s q l w) (f : Strand → Strand)
    (hid : (f w.me).id = w.me.id) {i : Instr} (hi : Machine.exec i s = .next ((w.modMe f).retire 4)) {P : State → State → Prop}
    (hP : P w ((w.modMe f).retire 4)) :
    Completes i s (fun t => Took s q l t ∧ P { s with queues := t.queues, cores := t.cores } t) :=
  ⟨_, hi, h.retire f hid, by rw [h.state f]; exact hP⟩

/-- QPUT into a queue register with room (R182). -/
theorem qput_puts {x : Bool} {q : Reg3} {b : Reg} {s : State} (h : s.myQueues.full s.me.id.unit q = false) :
    Completes (.qput x q b) s (fun t =>
      QueueIs s q (s.myQueues.q.get q.toFin ++ [if x then (s.x b).setWidth 128 else s.v b]) t ∧
      RetiresAs { s with queues := t.queues } s.me 4 t) := by
  refine ⟨(s.modMyQueues (·.push q (s.putValue x b))).retire 4, ?_, ?_, ?_⟩
  · rw [exec_qput, execQput, h]; rfl
  · have hq := queueIs_of_set (s := s) (w := s) (f := (·.push q (s.putValue x b))) rfl rfl (fun _ _ _ => rfl)
      (SlotQueues.push_q s.myQueues q (s.putValue x b))
    exact ⟨hq.mine, hq.others⟩
  · exact retire_retires (s.modMyQueues (·.push q (s.putValue x b))) 4

section
variable {s : State} {q : Reg3} {v : V128} {l : List V128} {d b : Reg}

/-- QGET of an entry that may be taken (R182). -/
theorem exec_qget_head (x : Bool) (hh : s.myQueues.heldByOthers s.me.id.unit q = false) (hq : s.myQueues.q.get q.toFin = v :: l) :
    ∃ w, Popped s q l w ∧ Machine.exec (.qget x d q) s =
      .next ((if x then w.setX d (v.setWidth 64) else w.setV d v).retire 4) := by
  refine ⟨_, popHead_popped (HoldsOnly.hold s s.me.id.unit q 1) (fun _ _ hk => slotq_modMyQueues_of_ne _ _ hk) hq, ?_⟩
  refine (exec_qget x d q s).trans (M.run_ok ?_)
  exact (M.bind_next (reserve_head hh hq)).trans rfl

/-- QTRY of an entry that may be taken (R182). -/
theorem exec_qtry_head (x : Bool) (hh : s.myQueues.heldByOthers s.me.id.unit q = false) (hq : s.myQueues.q.get q.toFin = v :: l) :
    ∃ w, Popped s q l w ∧ Machine.exec (.qtry x d q b) s =
      .next (((if x then w.setX d (v.setWidth 64) else w.setV d v).setX b 1).retire 4) := by
  refine ⟨_, popHead_popped (HoldsOnly.refl s) (fun _ _ _ => rfl) hq, (exec_qtry x d q b s).trans ?_⟩
  unfold execQtry
  dsimp only
  rw [hq]
  dsimp only
  rw [hh]
  rfl

/-- QTRY of an x register writes the entry and then its status, which wins where both are one register. -/
theorem tryX_regs (w : State) (d b : Reg) (x : W64) :
    (∀ r, ((w.modMe (fun c => (c.setX d x).setX b 1)).retire 4).x r = if r = 0 then 0 else if r = b then 1 else if r = d then x else w.x r) ∧
    RetiresAs w { w.me with x := ((w.modMe (fun c => (c.setX d x).setX b 1)).retire 4).me.x } 4
      ((w.modMe (fun c => (c.setX d x).setX b 1)).retire 4) := by
  have hs : (w.me.setX d x).setX b 1 = { w.me with x := ((w.me.setX d x).setX b 1).x } := by
    rw [Strand.setX_shape (w.me.setX d x), Strand.setX_shape w.me]
  refine ⟨fun r => ?_, ?_⟩
  · refine (Strand.getX_setX (w.me.setX d x) b 1 r).trans ?_
    by_cases hr : r = 0
    · simp [hr]
    · rw [if_neg hr, if_neg hr, Strand.getX_setX, if_neg hr]
      rfl
  · have h := retiresAs_modMe (s := w) (fun c => (c.setX d x).setX b 1) 4 (by rw [hs]) (by rw [hs])
    rw [hs] at h
    exact h

/-- QTRY of a v register writes the entry and the status. -/
theorem tryV_regs (w : State) (d b : Reg) (v : V128) :
    (∀ r, ((w.modMe (fun c => (c.setV d v).setX b 1)).retire 4).x r = if r = 0 then 0 else if r = b then 1 else w.x r) ∧
    (∀ r, ((w.modMe (fun c => (c.setV d v).setX b 1)).retire 4).v r = if r = d then v else w.v r) ∧
    RetiresAs w { w.me with x := ((w.modMe (fun c => (c.setV d v).setX b 1)).retire 4).me.x,
                            v := ((w.modMe (fun c => (c.setV d v).setX b 1)).retire 4).me.v } 4
      ((w.modMe (fun c => (c.setV d v).setX b 1)).retire 4) := by
  have hs : (w.me.setV d v).setX b 1 = { w.me with x := ((w.me.setV d v).setX b 1).x, v := ((w.me.setV d v).setX b 1).v } := by
    rw [Strand.setX_shape (w.me.setV d v)]
    rfl
  refine ⟨fun r => Strand.getX_setX (w.me.setV d v) b 1 r, fun r => ?_, ?_⟩
  · refine Eq.trans ?_ (Strand.getV_setV w.me d v r)
    show Strand.getV ((w.me.setV d v).setX b 1) r = _
    rw [Strand.setX_shape]
    rfl
  · have h := retiresAs_modMe (s := w) (fun c => (c.setV d v).setX b 1) 4 (by rw [hs]) (by rw [hs])
    rw [hs] at h
    exact h

/-- QGET and QTRY of an entry that may be taken. -/
theorem queue_takes (hh : s.myQueues.heldByOthers s.me.id.unit q = false) (hq : s.myQueues.q.get q.toFin = v :: l) :
    let rest (t : State) : State := { s with queues := t.queues, cores := t.cores }
    Completes (.qget true d q) s (fun t => Took s q l t ∧ WritesX (rest t) d (v.setWidth 64) 4 t) ∧
    Completes (.qget false d q) s (fun t => Took s q l t ∧ WritesV (rest t) d v 4 t) ∧
    Completes (.qtry true d q b) s (fun t => Took s q l t ∧
      (∀ r, t.x r = if r = 0 then 0 else if r = b then 1 else if r = d then v.setWidth 64 else s.x r) ∧
      RetiresAs (rest t) { s.me with x := t.me.x } 4 t) ∧
    Completes (.qtry false d q b) s (fun t => Took s q l t ∧
      (∀ r, t.x r = if r = 0 then 0 else if r = b then 1 else s.x r) ∧ (∀ r, t.v r = if r = d then v else s.v r) ∧
      RetiresAs (rest t) { s.me with x := t.me.x, v := t.me.v } 4 t) := by
  obtain ⟨w, hw, hx⟩ := exec_qget_head (d := d) true hh hq
  obtain ⟨w1, hw1, hv⟩ := exec_qget_head (d := d) false hh hq
  obtain ⟨w2, hw2, htx⟩ := exec_qtry_head (d := d) (b := b) true hh hq
  obtain ⟨w3, hw3, htv⟩ := exec_qtry_head (d := d) (b := b) false hh hq
  refine ⟨?_, ?_, ?_, ?_⟩
  · exact hw.completes (·.setX d _) (by rw [Strand.setX_shape]) hx (P := fun r t => WritesX r d (v.setWidth 64) 4 t)
      (setX_retire_writes w d _ 4)
  · exact hw1.completes (·.setV d v) rfl hv (P := fun r t => WritesV r d v 4 t) (setV_retire_writes w1 d v 4)
  · have hs : ∀ c : Strand, ((c.setX d (v.setWidth 64)).setX b 1).id = c.id := fun c => by
      rw [Strand.setX_shape (c.setX ..), Strand.setX_shape c]
    exact hw2.completes (fun c => (c.setX d _).setX b 1) (hs _) htx
      (P := fun r t => (∀ y, t.x y = if y = 0 then 0 else if y = b then 1 else if y = d then v.setWidth 64 else r.x y) ∧
        RetiresAs r { r.me with x := t.me.x } 4 t) (tryX_regs w2 d b _)
  · have hs : ∀ c : Strand, ((c.setV d v).setX b 1).id = c.id := fun c => by rw [Strand.setX_shape]; rfl
    exact hw3.completes (fun c => (c.setV d v).setX b 1) (hs _) htv
      (P := fun r t => (∀ y, t.x y = if y = 0 then 0 else if y = b then 1 else r.x y) ∧
        (∀ y, t.v y = if y = d then v else r.v y) ∧ RetiresAs r { r.me with x := t.me.x, v := t.me.v } 4 t) (tryV_regs w3 d b v)

/-- QTRY and QGET where no entry may be taken. -/
theorem queue_empty (x : Bool) (h : s.myQueues.heldByOthers s.me.id.unit q = true ∨ s.myQueues.q.get q.toFin = []) :
    Completes (.qtry x d q b) s (WritesX s b 0 4) ∧ Waits (.qget x d q) s (.queueEntry q) := by
  refine ⟨completes_putX ((exec_qtry x d q b s).trans ?_) rfl, _, (exec_qget x d q s).trans (M.run_block (M.bind_error (reserve_waits h))), rfl⟩
  unfold execQtry
  dsimp only
  split
  · next hq =>
    rw [if_pos (h.resolve_right (by rw [hq]; exact List.cons_ne_nil _ _))]
    rfl
  · rfl

end

/-! ## FORK, RDV and END -/

/-- A meaning of a compute strand or helper that first asks not to be in a handler and for idle helpers. -/
theorem helpers_wait {s : State} (hh : s.me.id.isHandler = false) (hi : s.helpersIdle = false) {i : Instr} {m : M Unit}
    (he : Machine.exec i s = M.run (do M.notHandler; M.blockIf (!s.helpersIdle) .helpers; m) s) : Waits i s .helpers := by
  have hn : M.notHandler s = .ok () s := M.bind_ok.2 ⟨s, s, rfl, M.trapIf_ok.2 ⟨hh, rfl⟩⟩
  refine ⟨_, he.trans (M.run_block (t := s) ?_), rfl⟩
  refine (M.bind_next hn).trans (M.bind_error ?_)
  rw [hi]
  rfl

/-- FORK with an entry that is no code address (R180). -/
theorem fork_badEntry {a b : Reg} {s : State} (hu : s.me.id.unit = .compute) (hh : s.me.id.isHandler = false)
    (hi : s.helpersIdle = true) (hx : (s.x a).toNat % 4 ≠ 0 ∨ 2 ^ 54 ≤ (s.x a).toNat) :
    Traps (.fork a b) s Cause.badtgt (s.x a) 1 := by
  have hn : M.notHandler s = .ok () s := M.bind_ok.2 ⟨s, s, rfl, M.trapIf_ok.2 ⟨hh, rfl⟩⟩
  have hb : M.blockIf (!s.helpersIdle) .helpers s = .ok () s := M.blockIf_ok.2 ⟨by rw [hi]; rfl, rfl⟩
  have h0 : s.x a ≠ 0 := by
    intro e
    rw [e] at hx
    rcases hx with h | h <;> simp at h
  have hbad : ((s.x a).toNat % 4 != 0 || !codeAddr (s.x a)) = true := by
    rcases hx with h | h
    · simp [h]
    · rw [codeAddr, decide_eq_false (Nat.not_lt.2 h), Bool.not_false, Bool.or_true]
  have he : M.helperEntry (s.x a) 1 s = .error (.trap (.of Cause.badtgt (s.x a) 1)) s := by
    unfold M.helperEntry
    rw [if_pos h0]
    exact M.bind_error (M.trapIf_error s hbad)
  exact traps_of_exec (t := .of Cause.badtgt (s.x a) 1) ((exec_fork a b s).trans
    (M.run_trap ((M.bind_next hn).trans ((M.bind_next hb).trans (M.bind_error he))))) hu rfl (by decide : Cause.badtgt < 256)

/-- END at a helper, and where an AMOP of its is still to be performed at another package (R181). -/
theorem endHelper_ends {s : State} (hu : s.me.id.unit ≠ .compute) :
    (s.me.farAmop = false → Completes .endHelper s (RetiresAs s { s.me with live := false } 4)) ∧
      (s.me.farAmop = true → Waits .endHelper s .unacked) := by
  have hc : M.trapIf (decide (s.me.id.unit = .compute)) .context s = .ok () s := M.trapIf_ok.2 ⟨decide_eq_false hu, rfl⟩
  refine ⟨fun h => ⟨(s.modMe (fun c => { c with live := false })).retire 4, (exec_endHelper s).trans (M.run_ok ?_), ?_⟩,
    fun h => ⟨_, (exec_endHelper s).trans (M.run_block (t := s) ?_), rfl⟩⟩
  · refine (M.bind_next hc).trans ((M.bind_next (a := ()) (M.blockIf_ok.2 ⟨h, rfl⟩)).trans rfl)
  · exact retiresAs_modMe (fun c => { c with live := false }) 4 rfl rfl
  · refine (M.bind_next hc).trans (M.bind_error ?_)
    rw [h]
    rfl

/-- END at a compute strand (R181). -/
theorem endHelper_traps {s : State} (hu : s.me.id.unit = .compute) : Traps .endHelper s Cause.illop 0 0x4000_0000_0000_0000 :=
  traps_of_exec (t := .context) ((exec_endHelper s).trans (M.run_trap (M.bind_error (M.trapIf_error s (decide_eq_true hu))))) hu rfl
    (by decide : Cause.illop < 256)

/-- RDV where both helpers are idle (R181). -/
theorem rdv_completes {s : State} (hh : s.me.id.isHandler = false) (hi : s.helpersIdle = true) : Completes .rdv s (Synced s 4) := by
  have hn : M.notHandler s = .ok () s := M.bind_ok.2 ⟨s, s, rfl, M.trapIf_ok.2 ⟨hh, rfl⟩⟩
  have hb : M.blockIf (!s.helpersIdle) .helpers s = .ok () s := M.blockIf_ok.2 ⟨by rw [hi]; rfl, rfl⟩
  exact ⟨s.bumpAll.retire 4, (exec_rdv s).trans (M.run_ok ((M.bind_next hn).trans ((M.bind_next hb).trans rfl))),
    retire_retires s.bumpAll 4⟩

/-- A helper that a FORK has started at an entry (R25, R180). -/
def HelperStarted (u : State) (e : W64) (o : Option Strand) : Prop :=
  ∃ c, o = some c ∧ c.pc = e ∧ c.level = .s ∧ c.live = true ∧ c.wait = none ∧ c.place = u.me.place ∧ c.res = .resident ∧
    c.sqcap = BitVec.ofNat 64 u.myLaunch.sqcap ∧ ∀ r : Reg, c.getX r = if 10 ≤ r.toNat ∧ r.toNat ≤ 17 then u.x r else 0

theorem helperRecord_started (u : State) (a : Agent) (e : W64) : HelperStarted u e (some (u.helperRecord a e)) :=
  ⟨_, rfl, rfl, rfl, rfl, rfl, rfl, rfl, rfl, u.helperRecord_getX a e⟩

/-- What a helper is started with comes from the executing context and its launch. -/
theorem HelperStarted.of_eq {u w : State} {e : W64} {o : Option Strand} (hme : w.me = u.me) (hl : w.launches = u.launches)
    (h : HelperStarted w e o) : HelperStarted u e o := by
  have hml : w.myLaunch = u.myLaunch := by unfold State.myLaunch State.launch; rw [hme, hl]
  have hx : ∀ r, w.x r = u.x r := fun r => by unfold State.x; rw [hme]
  simpa only [HelperStarted, hme, hml, hx] using h

section
variable {u : State} (hu : u.me.id.unit = .compute) (e f : W64)
include hu

theorem strand?_fork {j : Sid} (hj : j ≠ u.me.id) :
    ((forked u e f).retire 4).strand? j = ((u.startHelper .loader e).startHelper .storer f).strand? j := by
  have hid : (forked u e f).me.id = u.me.id := by rw [forked_me hu]; rfl
  rw [State.retire, State.strand?_modMe _ _ _ (by rfl), if_neg (by rwa [hid]), strand?_forked hu e f hj]

theorem forked_mem : (forked u e f).mem = u.mem := by rw [forked_shape hu]

/-- The loader after FORK. -/
theorem strand?_fork_loader :
    (e ≠ 0 → HelperStarted u e (((forked u e f).retire 4).strand? (u.helperId .loader))) ∧
    (e = 0 → ((forked u e f).retire 4).strand? (u.helperId .loader) = u.strand? (u.helperId .loader)) := by
  have hne : u.helperId .loader ≠ u.me.id := (State.helperId_ne (by rw [hu]; decide)).symm
  have h : ((forked u e f).retire 4).strand? (u.helperId .loader) = (u.startHelper .loader e).strand? (u.helperId .loader) := by
    rw [strand?_fork hu e f hne]
    exact State.strand?_startHelper_of_ne f (fun h => absurd (congrArg Sid.unit h) (by decide : ¬ Agent.loader = Agent.storer))
      (.inl (by decide : Agent.loader ≠ Agent.compute))
  refine ⟨fun he => ?_, fun he => ?_⟩
  · rw [h, State.strand?_startHelper he]
    exact helperRecord_started u .loader e
  · rw [h, he, State.startHelper_zero]

/-- The storer after FORK. -/
theorem strand?_fork_storer :
    (f ≠ 0 → HelperStarted u f (((forked u e f).retire 4).strand? (u.helperId .storer))) ∧
    (f = 0 → ((forked u e f).retire 4).strand? (u.helperId .storer) = u.strand? (u.helperId .storer)) := by
  have hne : u.helperId .storer ≠ u.me.id := (State.helperId_ne (by rw [hu]; decide)).symm
  have hl : u.me.id.unit ≠ .loader := by rw [hu]; decide
  have hme : (u.startHelper .loader e).me = u.me := State.startHelper_me hl e
  have hid : u.helperId .storer = (u.startHelper .loader e).helperId .storer := by unfold State.helperId; rw [hme]
  rw [strand?_fork hu e f hne]
  refine ⟨fun hf => ?_, fun hf => ?_⟩
  · rw [hid, State.strand?_startHelper hf]
    exact (helperRecord_started (u.startHelper .loader e) .storer f).of_eq hme (by rw [State.startHelper_shape hl])
  · rw [hf, State.startHelper_zero]
    exact State.strand?_startHelper_of_ne e (fun h => absurd (congrArg Sid.unit h) (by decide : ¬ Agent.storer = Agent.loader))
      (.inl (by decide : Agent.storer ≠ Agent.compute))

/-- Every other context after FORK. -/
theorem strand?_fork_other {j : Sid} (h1 : j ≠ u.helperId .loader) (h2 : j ≠ u.helperId .storer) (hj : j ≠ u.me.id)
    (hs : ∀ n, j.seat ≠ .placed (2 ^ 24 + n)) : ((forked u e f).retire 4).strand? j = u.strand? j := by
  have hme : (u.startHelper .loader e).me = u.me := State.startHelper_me (by rw [hu]; decide) e
  rw [strand?_fork hu e f hj, State.strand?_startHelper_of_ne f (by unfold State.helperId; rwa [hme]) (.inr hs),
    State.strand?_startHelper_of_ne e h1 (.inr hs)]

/-- The engine operations after FORK: only owners change, and none where the helpers own none. -/
theorem fork_ops (o : Sid) :
    (forked u e f).ops.map (fun x => (x.1, { x.2 with owner := o })) = u.ops.map (fun x => (x.1, { x.2 with owner := o })) ∧
    ((∀ x ∈ u.ops, x.2.owner ≠ u.helperId .loader ∧ x.2.owner ≠ u.helperId .storer) →
      (forked u e f).ops = u.ops ∧ (forked u e f).next = u.next) := by
  have hl : u.me.id.unit ≠ .loader := by rw [hu]; decide
  have hme : (u.startHelper .loader e).me = u.me := State.startHelper_me hl e
  have hs : (u.startHelper .loader e).me.id.unit ≠ .storer := by rw [hme, hu]; decide
  refine ⟨(State.startHelper_ops hs f o).trans (State.startHelper_ops hl e o), fun h => ?_⟩
  obtain ⟨ho, hn⟩ := State.startHelper_idle hl e fun x hx => (h x hx).1
  have h2 : ∀ x ∈ (u.startHelper .loader e).ops, x.2.owner ≠ (u.startHelper .loader e).helperId .storer := by
    rw [ho]
    unfold State.helperId
    rw [hme]
    exact fun x hx => (h x hx).2
  obtain ⟨ho', hn'⟩ := State.startHelper_idle hs f h2
  exact ⟨ho'.trans ho, hn'.trans hn⟩

end

/-- Settles O31: FORK's two starts leave each other alone; the queue instructions by what they may take. -/
theorem helpersAndQueues : Obligations.HelpersAndQueues := by
  unfold Obligations.HelpersAndQueues
  intro a b d x q v l s s1 u unitIs started rest can
  refine ⟨fun hu hh hi h1 h2 hid => ?_, fun hh hi => ⟨helpers_wait hh hi (exec_fork a b s), helpers_wait hh hi (exec_rdv s)⟩,
    fork_badEntry, rdv_completes, endHelper_ends, endHelper_traps, qput_puts, fun h => ⟨_, ?_, rfl⟩, fun h => queue_takes h.1 h.2, queue_empty x⟩
  · have hu' : u.me.id.unit = .compute := by rw [hid]; exact hu
    have hl : unitIs .loader = u.helperId .loader := by simp only [unitIs, State.helperId, hid]
    have hst : unitIs .storer = u.helperId .storer := by simp only [unitIs, State.helperId, hid]
    have hloader := strand?_fork_loader hu' (s.x a) (s.x b)
    have hstorer := strand?_fork_storer hu' (s.x a) (s.x b)
    have hops := fork_ops hu' (s.x a) (s.x b) s.me.id
    refine ⟨_, fork_runs hh hi h1 h2, ?_⟩
    rw [hl, hst, ← hid]
    rw [← hid] at hops
    refine ⟨hloader.1, hloader.2, hstorer.1, hstorer.2, fun i hi1 hi2 hi3 hs => strand?_fork_other hu' _ _ hi1 hi2 hi3 hs, ?_, ?_,
      ?_, hops⟩
    · rw [State.retire, State.modMe, forked_me hu']
      rfl
    · exact congrArg (fun w : State => w.retire 4) (forked_shape hu' (s.x a) (s.x b))
    · have hmem : ((forked u (s.x a) (s.x b)).retire 4).mem = u.mem := forked_mem hu' (s.x a) (s.x b)
      exact fun k => by rw [hmem]
  · rw [exec_qput, execQput, h]; rfl

end Sys2Proof.Safety

/-! SUPPORT. Messages, notices and handlers at their receiver (R15, R130-R132, R185, R188, R287, R346). -/

namespace Sys2Proof.Machine

theorem dropNth_eq {α : Type} (l : List α) (k : Nat) (h : k < l.length) : dropNth l k = l.take k ++ l.drop (k + 1) := by
  induction l generalizing k with
  | nil => simp at h
  | cons a l ih =>
    cases k with
    | zero => rfl
    | succ k => exact congrArg (a :: ·) (ih k (by simpa using h))

theorem dropNth_of_getElem? {α : Type} {l : List α} {k : Nat} {a : α} (h : l[k]? = some a) :
    dropNth l k = l.take k ++ l.drop (k + 1) := dropNth_eq l k (List.getElem?_eq_some_iff.1 h).1

/-- A free choice among `n` things is one of them. -/
theorem State.choose_lt (s : State) (site : Nat) {n : Nat} (h : 0 < n) : s.choose site n < n := Nat.mod_lt _ h

/-- The thing chosen from a list is in it. -/
theorem nth_choose_mem (s : State) (site : Nat) {l : List Nat} (h : l ≠ []) : nth l (s.choose site l.length) 0 ∈ l := by
  have hl := s.choose_lt site (List.length_pos_iff.2 h)
  rw [nth, List.getElem?_eq_getElem hl]
  exact List.getElem_mem hl

/-! ## Receive queues (R185, R287) -/

/-- The pressure of a core whose receive queue has this many entries. -/
def Core.pressureAt (c : Core) (n : Nat) : Bool := if c.pressure then decide (16 ≤ n) else decide (48 ≤ n)

/-- Two states that differ from a third in their packets alone, chosen between. -/
theorem ite_net {p : Prop} [Decidable p] {u a b : State} (ha : a = { u with net := a.net }) (hb : b = { u with net := b.net }) :
    (if p then a else b) = { u with net := (if p then a else b).net } := by
  split
  · exact ha
  · exact hb

/-- A receive queue changed: its core's record, and packets that tell of pressure. -/
theorem modRq_changes (s : State) (g : Nat) (f : List RqEntry → List RqEntry) :
    s.modRq g f = { s with
      cores := (s.modCore g (fun c => { c with rq := f (s.core g).rq, pressure := (s.core g).pressureAt (f (s.core g).rq).length })).cores,
      net := (s.modRq g f).net } := by
  have sends : ∀ (ts : List Nat) (p : Bool) (u : State), ts.foldl (fun s t => s.send .ctl g t (.pressure g p t)) u =
      { u with net := (ts.foldl (fun s t => s.send .ctl g t (.pressure g p t)) u).net } := by
    intro ts p
    induction ts with
    | nil => exact fun _ => rfl
    | cons t ts ih =>
      intro u
      rw [List.foldl_cons, ih (u.send .ctl g t (.pressure g p t))]
      rfl
  unfold State.modRq
  exact ite_net rfl (sends ..)

theorem core_modRq (s : State) (g : Nat) (f : List RqEntry → List RqEntry) (c : Nat) : (s.modRq g f).core c =
    if c = g then { s.core g with rq := f (s.core g).rq, pressure := (s.core g).pressureAt (f (s.core g).rq).length }
    else s.core c := by
  rw [modRq_changes]
  exact State.core_modCore s g c
    (fun c => { c with rq := f (s.core g).rq, pressure := (s.core g).pressureAt (f (s.core g).rq).length })

/-- An index that no entry of a queue with room has. -/
theorem free_index_ne_nil {rq : List RqEntry} (h : rq.length < 64) :
    (List.range 64).filter (fun i => !rq.any (fun e => e.idx == i)) ≠ [] := by
  intro hf
  have hall : ∀ i ∈ List.range 64, i ∈ rq.map (·.idx) := by
    intro i hi
    have := List.filter_eq_nil_iff.1 hf i hi
    simpa using this
  have hsub := (List.subperm_of_subset List.nodup_range hall).length_le
  simp at hsub
  omega

/-- The admission of a message to a queue with room (R185). -/
theorem intoRq_admitted {u : State} {g : Nat} {m : Msg} (h : (u.core g).rq.length < 64) : Safety.Admitted u g m (u.intoRq g m) := by
  unfold State.intoRq
  dsimp only
  generalize hl : (List.range 64).filter (fun i => !(u.core g).rq.any (fun e => e.idx == i)) = free
  have hne : free ≠ [] := hl ▸ free_index_ne_nil h
  have hmem := nth_choose_mem u 4 hne
  generalize hi : nth free (u.choose 4 free.length) 0 = i at hmem
  rw [← hl] at hmem
  obtain ⟨hr, hfree⟩ := List.mem_filter.1 hmem
  have hcore := core_modRq u g (fun rq => rq ++ [{ idx := i, msg := m, taken := 0, active := false }])
  simp only [List.length_append, List.length_singleton] at hcore
  have hg := hcore g
  rw [if_pos rfl] at hg
  refine ⟨⟨i, by simpa using hr, by simpa using hfree, by rw [hg]⟩, ?_, fun c hc => by rw [hcore, if_neg hc], ?_⟩
  · rw [hg]
    unfold Core.pressureAt
    split <;> rfl
  · rw [modRq_changes]

end Sys2Proof.Machine

namespace Sys2Proof.Safety

open Sys2Proof.Machine

/-- The entry of an injection queue that may go departs and is admitted (R185). -/
theorem messageAdmit_admits {g k to_ : Nat} {e : InjEntry} {s : State} (hk : (s.core g).inj[k]? = some e)
    (hs : s.sentEarlier g k e = false) (ha : s.admissible e = some to_) :
    Completes (.messageAdmit g k) s (fun t => ∃ w : State,
      (∀ c, w.core c = if c = g then { s.core g with inj := (s.core g).inj.take k ++ (s.core g).inj.drop (k + 1) } else s.core c) ∧
      w = { s with cores := w.cores } ∧ Admitted w to_ e.msg t) := by
  have hroom : (s.core to_).rq.length < 64 := by
    unfold State.admissible at ha
    split at ha
    · cases ha
    · have := (Option.filter_eq_some_iff.1 ha).2
      simp only [Bool.and_eq_true, Core.admits, decide_eq_true_eq] at this
      exact this.2.1.2
  have hcore : ∀ c, (s.modCore g (fun c => { c with inj := dropNth c.inj k })).core c =
      if c = g then { s.core g with inj := (s.core g).inj.take k ++ (s.core g).inj.drop (k + 1) } else s.core c := by
    intro c
    rw [State.core_modCore, dropNth_of_getElem? hk]
  refine ⟨_, ?_, s.modCore g (fun c => { c with inj := dropNth c.inj k }), hcore, rfl, intoRq_admitted ?_⟩
  · rw [exec_messageAdmit, execMessageAdmit]
    dsimp only
    rw [hk]
    dsimp only
    rw [hs, ha]
    rfl
  · rw [hcore]
    split
    · next h => rw [← h]; exact hroom
    · exact hroom

/-! ## Notices of pressure (R287) -/

theorem pressureNotice_told {k g to_ : Nat} {on : Bool} {s : State} (h : s.arriving k = some (.pressure g on to_)) :
    Completes (.pressureNotice k) s (fun t =>
      (∀ c, c ∈ (t.core to_).told ↔ (c ∈ (s.core to_).told ∧ (on = true ∨ c ≠ g)) ∨ (on = true ∧ c = g)) ∧
      (∀ c, c ≠ to_ → t.core c = s.core c) ∧ t = { s.deliver k with cores := t.cores }) := by
  refine ⟨_, by rw [exec_pressureNotice, execPressureNotice, h], fun c => ?_, fun c hc => ?_, rfl⟩
  · rw [State.core_modCore, if_pos rfl]
    have hd : (s.deliver k).core to_ = s.core to_ := rfl
    rw [hd]
    cases on with
    | false => simp
    | true =>
      by_cases hg : (s.core to_).told.contains g = true
      · simp only [hg, if_true]
        have : g ∈ (s.core to_).told := by simpa using hg
        exact ⟨fun h => .inl ⟨h, .inl trivial⟩, fun h => h.elim (·.1) (fun h => h.2 ▸ this)⟩
      · simp only [hg]
        simp
  · rw [State.core_modCore, if_neg hc]
    rfl

/-! ## Handlers (R188) -/

/-- The record of a handler that an activation starts. -/
def handlerStarted (pc : W64) (ch i : Nat) (c : Strand) : Strand :=
  { ((c.setX 10 (BitVec.ofNat 64 ch)).setX 11 (BitVec.ofNat 64 i)).bump 4 with
      pc, level := .s, live := true, current := some (ch, i), act := some ch, wait := none, pend := [], entering := false }

theorem handlerStarted_id (pc : W64) (ch i : Nat) (c : Strand) : (handlerStarted pc ch i c).id = c.id := by
  show ((c.setX 10 (BitVec.ofNat 64 ch)).setX 11 (BitVec.ofNat 64 i)).id = c.id
  rw [Strand.setX_shape (c.setX ..), Strand.setX_shape c]

theorem handlerStarted_getX (pc : W64) (ch i : Nat) (c : Strand) (r : Reg) : (handlerStarted pc ch i c).getX r =
    if r = 10 then BitVec.ofNat 64 ch else if r = 11 then BitVec.ofNat 64 i else c.getX r := by
  refine (Strand.getX_setX (c.setX 10 (BitVec.ofNat 64 ch)) 11 (BitVec.ofNat 64 i) r).trans ?_
  rw [Strand.getX_setX]
  by_cases h10 : r = 10
  · subst h10; rfl
  · by_cases h11 : r = 11
    · subst h11; rfl
    · by_cases h0 : r = 0
      · subst h0; rfl
      · simp only [h10, h11, h0, if_false]

theorem handlerStarted_ivals (pc : W64) (ch i : Nat) (c : Strand) (j : Fin 5) :
    (handlerStarted pc ch i c).ivals.get j = c.ivals.get j + 1 := by
  have hs : ((c.setX 10 (BitVec.ofNat 64 ch)).setX 11 (BitVec.ofNat 64 i)).ivals = c.ivals := by
    rw [Strand.setX_shape (c.setX ..), Strand.setX_shape c]
  show (((c.setX 10 (BitVec.ofNat 64 ch)).setX 11 (BitVec.ofNat 64 i)).bump 4).ivals.get j = _
  rw [Strand.bump, hs, Vector.get_eq_getElem, Vector.getElem_ofFn]
  exact if_pos (by omega)

/-- An activation starts in the handler that is chosen (R188). -/
theorem handlerSelect_starts {g ch i : Nat} {hd : Strand} {s : State} (hc : s.candidate g = some (ch, i))
    (hf : ((s.handlersOf g).filter (fun x => !x.live))[s.choose 5 ((s.handlersOf g).filter (fun x => !x.live)).length]? = some hd)
    (hs : s.strand? hd.id = some hd) :
    Completes (.handlerSelect g) s (fun t => ∃ (w : State) (c : Strand), t = w.asStrand hd.id State.checkEntry ∧
        (w.core g).htab = (s.core g).htab ∧
        (ch ≠ 0 → (w.core g).rq = (s.core g).rq.map (fun r => if r.idx = i then { r with active := true } else r)) ∧
        w.strand? hd.id = some c ∧ c.pc = (nth (s.core g).htab.toList ch (HEntry.reset ch)).pc ∧
        c.level = .s ∧ c.live = true ∧ c.current = some (ch, i) ∧ c.act = some ch ∧
        (∀ r, c.getX r = if r = 10 then BitVec.ofNat 64 ch else if r = 11 then BitVec.ofNat 64 i else hd.getX r) ∧
        (∀ j : Fin 5, c.ivals.get j = hd.ivals.get j + 1) ∧ w = { s with me := w.me, rest := w.rest, cores := w.cores }) := by
  have hcore : (s.modCore g (·.taken ch i)).core g = (s.core g).taken ch i :=
    (State.core_modCore s g g _).trans (if_pos rfl)
  have htab : ((s.core g).taken ch i).htab = (s.core g).htab := by
    unfold Core.taken; split <;> rfl
  let pc := (nth ((s.modCore g (·.taken ch i)).core g).htab.toList ch (HEntry.reset ch)).pc
  refine ⟨_, ?_, (s.modCore g (·.taken ch i)).modStrand hd.id (handlerStarted pc ch i), handlerStarted pc ch i hd, rfl, ?_, fun h0 => ?_,
    ?_, ?_, rfl, rfl, rfl, rfl, handlerStarted_getX pc ch i hd, handlerStarted_ivals pc ch i hd, rfl⟩
  · rw [exec_handlerSelect, execHandlerSelect]
    dsimp only
    rw [hc, hf]
    rfl
  · exact (congrArg Core.htab hcore).trans htab
  · refine (congrArg Core.rq hcore).trans ?_
    unfold Core.taken
    rw [if_neg h0]
    refine List.map_congr_left fun r _ => ?_
    simp only [beq_iff_eq]
  · rw [State.strand?_modStrand _ _ _ _ (handlerStarted_id pc ch i), if_pos rfl]
    exact congrArg (Option.map (handlerStarted pc ch i)) hs
  · show pc = _
    simp only [pc, hcore, htab]

/-! ## Notices (R346) -/

/-- A notice takes a free kick entry. -/
theorem enterNotice_free {u : State} {g : Nat} (n : Kick) (h : ∃ j : Fin 8, (u.core g).kick.get j = none) :
    ∃ (j : Fin 8) (w : State), (u.core g).kick.get j = none ∧ u.enterNotice g n = some w ∧ w = { u with cores := w.cores } ∧
      (∀ r : Fin 8, (w.core g).kick.get r =
        if r = j then some { n with pending := true, since := u.tick } else (u.core g).kick.get r) ∧
      (w.core g).waitList = (u.core g).waitList := by
  have hnth : ∀ j : Fin 8, nth (u.core g).kick.toList j.val none = (u.core g).kick.get j := fun j => by simp [nth, Vector.get]
  generalize hl : (List.range 8).filter (fun i => (nth (u.core g).kick.toList i none).isNone) = free
  have hne : free ≠ [] := by
    obtain ⟨j, hj⟩ := h
    have hm : j.val ∈ free := by
      rw [← hl, List.mem_filter, hnth, hj]
      simp
    exact List.ne_nil_of_mem hm
  have hmem := nth_choose_mem u 2 hne
  generalize hi : nth free (u.choose 2 free.length) 0 = i at hmem
  rw [← hl] at hmem
  obtain ⟨hr, hfree⟩ := List.mem_filter.1 hmem
  have h8 : i < 8 := by simpa using hr
  have hk : (u.core g).kick.get ⟨i, h8⟩ = none := by rw [← hnth]; simpa using hfree
  let f (c : Core) : Core :=
    { c with kick := Vector.ofFn (fun j => if j.val = i then some { n with pending := true, since := u.tick } else c.kick.get j) }
  have hcore : (u.modCore g f).core g = f (u.core g) := (State.core_modCore u g g f).trans (if_pos rfl)
  refine ⟨⟨i, h8⟩, u.modCore g f, hk, ?_, rfl, fun r => ?_, by rw [hcore]⟩
  · unfold State.enterNotice
    dsimp only
    rw [hl, if_pos (fun e => hne (List.length_eq_zero_iff.1 e)), hi]
  · rw [hcore, Vector.get_eq_getElem, Vector.getElem_ofFn]
    simp only [Fin.ext_iff]

/-- No kick entry is free. -/
theorem no_free_kick {u : State} {g : Nat} (h : ∀ j : Fin 8, (u.core g).kick.get j ≠ none) :
    (List.range 8).filter (fun i => (nth (u.core g).kick.toList i none).isNone) = [] := by
  refine List.filter_eq_nil_iff.2 fun i hi => ?_
  have h8 : i < 8 := by simpa using hi
  have hj := h ⟨i, h8⟩
  have hnth : nth (u.core g).kick.toList i none = (u.core g).kick.get ⟨i, h8⟩ := by simp [nth, Vector.get, h8]
  rw [hnth]
  simpa using hj

/-- With every kick entry taken a notice joins the wait list while there is room. -/
theorem enterNotice_waits {u : State} {g : Nat} (n : Kick) (h : ∀ j : Fin 8, (u.core g).kick.get j ≠ none)
    (hw : (u.core g).waitList.length < 16) :
    u.enterNotice g n = some (u.modCore g (fun c => { c with waitList := c.waitList ++ [n] })) := by
  unfold State.enterNotice
  dsimp only
  rw [no_free_kick h, if_neg (by simp), if_pos hw]

/-- With both full it does not enter. -/
theorem enterNotice_full {u : State} {g : Nat} (n : Kick) (h : ∀ j : Fin 8, (u.core g).kick.get j ≠ none)
    (hw : 16 ≤ (u.core g).waitList.length) : u.enterNotice g n = none := by
  unfold State.enterNotice
  dsimp only
  rw [no_free_kick h, if_neg (by simp), if_neg (Nat.not_lt.2 hw)]

/-- A notice that has entered: its sender's NOTICE has its answer. -/
def noticeEntered (w : State) (op : Nat) : State :=
  match AMap.get w.ops op with
  | some o => w.modStrand o.owner (·.answer op (.ok []))
  | none => w

theorem noticeAt_entered {u w : State} {op g : Nat} {n : Kick} (h : u.enterNotice g n = some w) (hw : w.ops = u.ops) :
    u.noticeAt op g n = noticeEntered w op := by
  unfold State.noticeAt noticeEntered
  rw [h, hw] <;> rfl

theorem noticeEntered_shape (w : State) (op : Nat) :
    noticeEntered w op = { w with me := (noticeEntered w op).me, rest := (noticeEntered w op).rest, cores := (noticeEntered w op).cores } := by
  unfold noticeEntered
  split <;> rfl

theorem noticeEntered_core (w : State) (op g : Nat) : (noticeEntered w op).core g = w.core g := by
  unfold noticeEntered
  split <;> rfl

theorem strand?_noticeEntered {w : State} {op : Nat} {eo : EngOp} (h : AMap.get w.ops op = some eo) (c : Sid) :
    (noticeEntered w op).strand? c = if c = eo.owner then (w.strand? c).map (·.answer op (.ok [])) else w.strand? c := by
  unfold noticeEntered
  rw [h]
  refine (State.strand?_modStrand w eo.owner c (·.answer op (.ok [])) fun _ => rfl).trans ?_
  split
  · next h => rw [h]
  · rfl

/-- What a notice that arrives does at its receiver, in the three cases of R346. -/
theorem noticeAt_cases {k op g : Nat} {n : Kick} {eo : EngOp} {s : State} {ev : Instr}
    (he : Machine.exec ev s = .next ((s.deliver k).noticeAt op g n)) :
    ((∃ j : Fin 8, (s.core g).kick.get j = none) → Completes ev s (fun t =>
      (∃ j : Fin 8, (s.core g).kick.get j = none ∧
        ∀ r : Fin 8, (t.core g).kick.get r = if r = j then some { n with pending := true, since := s.tick } else (s.core g).kick.get r) ∧
      (t.core g).waitList = (s.core g).waitList ∧
      (AMap.get s.ops op = some eo → ∀ c, t.strand? c = if c = eo.owner then (s.strand? c).map (·.answer op (.ok [])) else s.strand? c) ∧
      t = { s.deliver k with me := t.me, rest := t.rest, cores := t.cores })) ∧
    ((∀ j : Fin 8, (s.core g).kick.get j ≠ none) → (s.core g).waitList.length < 16 → Completes ev s (fun t =>
      (t.core g).kick = (s.core g).kick ∧ (t.core g).waitList = (s.core g).waitList ++ [n] ∧
      (AMap.get s.ops op = some eo → ∀ c, t.strand? c = if c = eo.owner then (s.strand? c).map (·.answer op (.ok [])) else s.strand? c) ∧
      t = { s.deliver k with me := t.me, rest := t.rest, cores := t.cores })) ∧
    ((∀ j : Fin 8, (s.core g).kick.get j ≠ none) → 16 ≤ (s.core g).waitList.length →
      Completes ev s (fun t => Sent (s.deliver k) t .req g g (.noticeRefused op g n) ∧ t = { s.deliver k with net := t.net })) := by
  refine ⟨fun hf => ?_, fun hf hw => ?_, fun hf hw => ?_⟩
  · obtain ⟨j, w, hj, hw, hshape, hkick, hwait⟩ := enterNotice_free (u := s.deliver k) n hf
    have hops : w.ops = (s.deliver k).ops := by rw [hshape]
    refine ⟨noticeEntered w op, by rw [he, noticeAt_entered hw hops], ⟨j, hj, ?_⟩, ?_, fun ho c => ?_, ?_⟩
    · rw [noticeEntered_core]; exact hkick
    · rw [noticeEntered_core]; exact hwait
    · refine (strand?_noticeEntered (by rw [hops]; exact ho) c).trans ?_
      rw [hshape]; rfl
    · rw [noticeEntered_shape, hshape]
  · have hw' := enterNotice_waits (u := s.deliver k) n hf hw
    let w := (s.deliver k).modCore g (fun c => { c with waitList := c.waitList ++ [n] })
    have hcore : w.core g = { s.core g with waitList := (s.core g).waitList ++ [n] } :=
      (State.core_modCore (s.deliver k) g g _).trans (if_pos rfl)
    refine ⟨noticeEntered w op, by rw [he, noticeAt_entered hw' rfl], ?_, ?_, fun ho c => strand?_noticeEntered (w := w) ho c,
      noticeEntered_shape w op⟩
    · rw [noticeEntered_core, hcore]
    · rw [noticeEntered_core, hcore]
  · refine ⟨_, he, ?_⟩
    rw [State.noticeAt, enterNotice_full (u := s.deliver k) n hf hw]
    exact ⟨rfl, rfl⟩

/-! ## An operation that is over (R129, R134, R348) -/

/-- A field that both branches keep. -/
theorem ite_field {α : Type} (f : Strand → α) {p : Prop} [Decidable p] {c d e : Strand} (hd : f d = f c) (he : f e = f c) :
    f (if p then d else e) = f c := by
  split
  · exact hd
  · exact he

theorem raise_id (ch : Chan) : ∀ (n : Nat) (c : Strand), (c.raise_ ch n).id = c.id
  | 0, _ => rfl
  | n + 1, _ => ite_field Strand.id (raise_id ch n _) rfl

theorem raise_place (ch : Chan) : ∀ (n : Nat) (c : Strand), (c.raise_ ch n).place = c.place
  | 0, _ => rfl
  | n + 1, _ => ite_field Strand.place (raise_place ch n _) rfl

theorem finish_id (c : Strand) (ch : Chan) (id : W32) : (c.finish ch id).id = c.id := raise_id ..

theorem finish_place (c : Strand) (ch : Chan) (id : W32) : (c.finish ch id).place = c.place := raise_place ..

/-- The tracker entry free and the transfer done, before the decrement leaves. -/
def opFreed (u : State) (ref : Nat) (op : EngOp) : State :=
  ({ u with ops := AMap.drop u.ops ref } : State).modStrand op.owner (·.finish (BitVec.ofNat 6 op.ch) op.id)

theorem completeOp_eq (u : State) (ref : Nat) (op : EngOp) : u.completeOp ref op =
    (opFreed u ref op).sendDecrement op.owner.launch ((opFreed u ref op).ownerCore op.owner) op.bar := rfl

theorem sendDecrement_shape (w : State) (launch src : Nat) (o : Option Nat) :
    w.sendDecrement launch src o = { w with net := (w.sendDecrement launch src o).net } := by
  cases o <;> rfl

theorem strand?_opFreed (u : State) (ref : Nat) (op : EngOp) (i : Sid) : (opFreed u ref op).strand? i =
    if i = op.owner then (u.strand? i).map (·.finish (BitVec.ofNat 6 op.ch) op.id) else u.strand? i := by
  refine (State.strand?_modStrand _ op.owner i _ fun c => finish_id c _ _).trans ?_
  split
  · next h => rw [h]; rfl
  · rfl

theorem ownerCore_opFreed (u : State) (ref : Nat) (op : EngOp) :
    (opFreed u ref op).ownerCore op.owner = u.ownerCore op.owner := by
  unfold State.ownerCore
  rw [strand?_opFreed, if_pos rfl]
  cases u.strand? op.owner with
  | none => rfl
  | some c => exact congrArg Place.gcore (finish_place c _ _)

theorem completeOp_over (u : State) (ref : Nat) (op : EngOp) : OpDone u ref op (u.completeOp ref op) := by
  refine ⟨fun r => ?_, fun i => ?_, fun hb => ?_, fun k src hb hsrc => ?_, ?_⟩
  · rw [completeOp_eq, sendDecrement_shape]
    refine (AMap.get_drop u.ops ref r).trans ?_
    simp only [eq_comm]
  · rw [completeOp_eq, sendDecrement_shape]
    exact strand?_opFreed u ref op i
  · rw [completeOp_eq, hb]; rfl
  · rw [completeOp_eq, hb, ownerCore_opFreed, hsrc]; rfl
  · rw [completeOp_eq]
    cases op.bar <;> rfl

/-- Settles O34: each event by the guard that it finds met. -/
theorem messageEvents : Obligations.MessageEvents := by
  unfold Obligations.MessageEvents
  intro k g to_ op ref launch h on e n p eo ch i hd s u notices
  refine ⟨fun hp => ⟨dropNth_of_getElem? hp, rfl⟩, messageAdmit_admits, pressureNotice_told, handlerSelect_starts, fun ha hv => ?_,
    fun ha hv => ?_, fun ha hp hn => ⟨fun hc => ?_, fun hc => ?_⟩⟩
  · exact noticeAt_cases (by rw [exec_noticeArrival, execNoticeArrival, ha]; simp only [hv]; rfl)
  · exact noticeAt_cases (by rw [exec_noticeRetry, execNoticeRetry, ha]; simp only [hv]; rfl)
  · refine ⟨_, ?_, completeOp_over u ref eo⟩
    rw [exec_nackArrival, execNackArrival, ha]
    dsimp only
    rw [hp, show u.noticeOf launch h = some (ref, eo) from hn]
    exact if_neg (not_not.2 hc)
  · refine ⟨u.send .rpy p.dst (s.ownerCore eo.owner) (.nack launch h), ?_, rfl, rfl⟩
    rw [exec_nackArrival, execNackArrival, ha]
    dsimp only
    rw [hp, show u.noticeOf launch h = some (ref, eo) from hn]
    exact if_pos hc

end Sys2Proof.Safety

/-! SUPPORT. Groups: a group found after a change, members that stay or leave, and the parts of JOIN, LEAVE and GBAR
(R194-R197). -/

namespace Sys2Proof.Machine

/-! ## A group after a change -/

/-- A change of a group that keeps its name. -/
def Group.Keeps (f : Group → Group) : Prop := ∀ g, (f g).launch = g.launch ∧ (f g).gid = g.gid

theorem State.group?_modGroup (s : State) (l i k j : Nat) {f : Group → Group} (hf : Group.Keeps f) :
    (s.modGroup l i f).group? k j = if k = l ∧ j = i then (s.group? l i).map f else s.group? k j := by
  have hp : ∀ g : Group, ((if g.launch == l && g.gid == i then f g else g).launch == k &&
      (if g.launch == l && g.gid == i then f g else g).gid == j) = (g.launch == k && g.gid == j) := by
    intro g
    split
    · rw [(hf g).1, (hf g).2]
    · rfl
  have key : (s.modGroup l i f).group? k j = (s.group? k j).map (fun g => if g.launch == l && g.gid == i then f g else g) := by
    simp only [State.group?, State.modGroup, List.find?_map, Function.comp_def, hp]
  rw [key]
  cases hg : s.group? k j with
  | none =>
    split
    · next h => rw [← h.1, ← h.2, hg]; rfl
    · rfl
  | some g =>
    have hkj : g.launch = k ∧ g.gid = j := by
      have := List.find?_some hg
      simpa using this
    rw [Option.map_some]
    split
    · next h =>
      have hl : g.launch = l ∧ g.gid = i := by simpa using h
      rw [if_pos ⟨by rw [← hl.1, hkj.1], by rw [← hl.2, hkj.2]⟩, ← hl.1, ← hl.2, hkj.1, hkj.2, hg]; rfl
    · next h =>
      rw [if_neg]
      rintro ⟨rfl, rfl⟩
      exact h (by simp [hkj.1, hkj.2])

/-- The group that a name finds has the name. -/
theorem State.group?_name {s : State} {l i : Nat} {g : Group} (h : s.group? l i = some g) : g.launch = l ∧ g.gid = i := by
  have := List.find?_some h
  simpa using this

/-- A strand is no member of a group exactly when no entry inside has its name. -/
theorem Group.memberOf_none {g : Group} {i : Sid} : g.memberOf i = none ↔ ∀ m ∈ g.members, m.inside = true → m.sid ≠ i := by
  simp [Group.memberOf, Group.current]

/-- The member that a strand is lies inside and has its name. -/
theorem Group.memberOf_some {g : Group} {i : Sid} {m : Member} (h : g.memberOf i = some m) :
    m ∈ g.members ∧ m.inside = true ∧ m.sid = i := by
  have hm := List.mem_of_find?_eq_some h
  have hs : m.sid = i := by simpa using List.find?_some h
  have := List.mem_filter.1 hm
  exact ⟨this.1, this.2, hs⟩

/-- Nothing is held up at a core that is no pair's (R369). -/
theorem outgoing_free {s : State} (h : s.locks = []) : M.outgoing s = .ok () s := by
  rw [M.outgoing, M.bind_next (M.get_ok.2 ⟨rfl, rfl⟩), h]
  rfl

/-- An instruction whose effect was not released just retires. -/
theorem done_unreleased {s : State} (h : s.me.released = false) (n : Nat) : M.done n s = .ok () (s.retire n) := by
  rw [Safety.done_ok, if_neg (by rw [h]; decide)]

end Sys2Proof.Machine

/-! SUPPORT. JOIN of a group without flags (R194). -/

namespace Sys2Proof.Machine

/-- The executing strand entered in a group without flags at an index. -/
def State.joinNext (s : State) (r : GroupRec) (i : Nat) : State :=
  (s.modGroup s.me.id.launch r.gid (fun g =>
    { g with nextIdx := i + 1, members := g.members ++ [Member.new s.myLaunch r s.me.id i s.me.place.gcore] })).modMe (fun c =>
      { c with groups := c.groups ++ [(r.gid, i)] })

/-- The checks of JOIN that come before its effect, where all pass. -/
theorem join_checks {s : State} {r : GroupRec} {g : Option Group} (h8 : s.me.groups.length < 8)
    (hf : (r.flagged && s.mayNotJoin r) = false) (hw : g.any (fun g => g.joining.contains s.me.id) = false)
    (ho : g.any s.joinsAfter = false) (hl : s.locks = []) (k : M Unit) :
    (do M.trapIf (8 ≤ s.me.groups.length) (.group r)
        M.trapIf (r.flagged && s.mayNotJoin r) (.group r)
        M.blockIf (g.any (fun g => g.joining.contains s.me.id)) .forming
        M.blockIf (g.any s.joinsAfter) .order
        M.outgoing
        k : M Unit) s = k s := by
  have h1 : M.trapIf (decide (8 ≤ s.me.groups.length)) (.group r) s = .ok () s :=
    M.trapIf_ok.2 ⟨decide_eq_false (Nat.not_le.2 h8), rfl⟩
  have h2 : M.trapIf (r.flagged && s.mayNotJoin r) (.group r) s = .ok () s := M.trapIf_ok.2 ⟨hf, rfl⟩
  have h3 : M.blockIf (g.any (fun g => g.joining.contains s.me.id)) .forming s = .ok () s := M.blockIf_ok.2 ⟨hw, rfl⟩
  have h4 : M.blockIf (g.any s.joinsAfter) .order s = .ok () s := M.blockIf_ok.2 ⟨ho, rfl⟩
  rw [M.bind_next h1, M.bind_next h2, M.bind_next h3, M.bind_next h4, M.bind_next (outgoing_free hl)]

theorem M.modify_next {β : Type} {f : State → State} {k : Unit → M β} {s : State} : (modify f >>= k) s = k () (f s) := rfl

/-- A group is found after those that were there. -/
theorem group?_append_new {s : State} {l i : Nat} (h : s.group? l i = none) {g : Group} (hl : g.launch = l) (hi : g.gid = i) :
    ({ s with groups := s.groups ++ [g] } : State).group? l i = some g := by
  unfold State.group? at h ⊢
  rw [List.find?_append, h]
  simp [hl, hi]

end Sys2Proof.Machine

namespace Sys2Proof.Safety

open Sys2Proof.Machine

/-- The executing strand has joined a group without flags at index `i`, and JOIN has retired (R194). -/
def Joins (s : State) (r : GroupRec) (d : Reg) (i : Nat) (t : State) : Prop :=
  (∀ x, t.x x = if x = 0 then 0 else if x = d then BitVec.ofNat 64 i else s.x x) ∧
  t.me = { s.me.dropPend with x := t.me.x, groups := s.me.groups ++ [(r.gid, i)], pc := s.me.pc + 12, wait := none } ∧
  (∃ h n, t.group? s.me.id.launch r.gid = some h ∧ h.nextIdx = i + 1 ∧ h.members.getLast? = some n ∧ n.sid = s.me.id ∧ n.idx = i ∧
    n.inside = true) ∧
  t = { s with me := t.me, groups := t.groups }

/-- A strand that is entered in a group that exists has joined it. -/
theorem joinNext_joins {s w : State} (hw : w = { s with groups := w.groups }) {r : GroupRec} {g : Group}
    (hg : w.group? s.me.id.launch r.gid = some g) (d : Reg) (i : Nat) :
    Joins s r d i (((w.joinNext r i).setX d (BitVec.ofNat 64 i)).retire 12) := by
  have hme : w.me = s.me := by rw [hw]
  let c : Strand := { s.me with groups := s.me.groups ++ [(r.gid, i)] }
  have hj : (w.joinNext r i).me = c := by
    show ({ w.me with groups := w.me.groups ++ [(r.gid, i)] } : Strand) = c
    rw [hme]
  have ht : (((w.joinNext r i).setX d (BitVec.ofNat 64 i)).retire 12).me =
      { (c.setX d (BitVec.ofNat 64 i)).dropPend with pc := (c.setX d (BitVec.ofNat 64 i)).pc + 12, wait := none } := by
    rw [← hj]; rfl
  refine ⟨fun x => ?_, ?_, ?_, ?_⟩
  · have := Strand.getX_setX c d (BitVec.ofNat 64 i) x
    rw [State.x, ht]
    exact this
  · rw [ht, Strand.setX_shape c]
    rfl
  · rw [← hme] at hg ⊢
    have hjoin := State.group?_modGroup w w.me.id.launch r.gid w.me.id.launch r.gid
      (f := fun g => { g with nextIdx := i + 1, members := g.members ++ [Member.new w.myLaunch r w.me.id i w.me.place.gcore] })
      (fun _ => ⟨rfl, rfl⟩)
    rw [if_pos ⟨rfl, rfl⟩, hg] at hjoin
    exact ⟨_, _, hjoin, rfl, List.getLast?_concat, rfl, rfl, rfl⟩
  · rw [hw]; rfl

section
variable {s : State} {r : GroupRec} {g : Group} {d : Reg} {idx : BitVec 16}
variable (hm : s.myLaunch.group idx.toNat = .ok r)
include hm

/-- A member that joins again gets its index. -/
theorem join_again {m : Member} (hg : s.group? s.me.id.launch r.gid = some g) (hf : g.formed = true)
    (hi : g.memberOf s.me.id = some m) : Completes (.join d idx) s (WritesX s d (BitVec.ofNat 64 m.idx) 12) := by
  refine ⟨_, (exec_join d idx s).trans (M.run_ok ((M.bind_next (M.check_ok.2 ⟨hm, rfl⟩)).trans ?_)),
    setX_retire_writes s d (BitVec.ofNat 64 m.idx) 12⟩
  dsimp only
  rw [hg, Option.bind_some, if_pos hf, hi]
  rfl

/-- The first member of a group that nobody has joined. -/
theorem join_first (hl : s.locks = []) (hrel : s.me.released = false) (hr : r.flagged = false) (h8 : s.me.groups.length < 8)
    (hg : s.group? s.me.id.launch r.gid = none) (hn : (s.groups.filter (fun x => x.launch == s.me.id.launch)).length < 4096) :
    Completes (.join d idx) s (Joins s r d 0) := by
  let w : State := { s with groups := s.groups ++ [Group.new s.me.id.launch r s.me.place.gcore] }
  have hw : w.group? s.me.id.launch r.gid = some (Group.new s.me.id.launch r s.me.place.gcore) := group?_append_new hg rfl rfl
  refine ⟨_, (exec_join d idx s).trans (M.run_ok ((M.bind_next (M.check_ok.2 ⟨hm, rfl⟩)).trans ?_)), joinNext_joins (w := w) rfl hw d 0⟩
  dsimp only
  rw [hg]
  refine (join_checks (g := none) h8 (by rw [hr]; rfl) rfl rfl hl _).trans ?_
  rw [if_neg (by simp [hn]), if_pos Option.isNone_none]
  refine M.modify_next.trans ?_
  rw [if_neg (by rw [hr]; decide)]
  exact done_unreleased (s := (w.joinNext r 0).setX d 0) (by rw [State.setX, State.modMe, Strand.setX_shape]; exact hrel) 12

section
variable (hl : s.locks = []) (hrel : s.me.released = false) (hr : r.flagged = false) (h8 : s.me.groups.length < 8)
  (hg : s.group? s.me.id.launch r.gid = some g) (ho : s.joinsAfter g = false) (hf : g.formed = true)
  (hi : g.memberOf s.me.id = none) (hj : s.me.id ∉ g.joining)
include hl hrel hr h8 hg ho hf hi hj

/-- The next member of a group that is not full. -/
theorem join_next (hn : g.nextIdx < g.size) : Completes (.join d idx) s (Joins s r d g.nextIdx) := by
  refine ⟨_, (exec_join d idx s).trans (M.run_ok ((M.bind_next (M.check_ok.2 ⟨hm, rfl⟩)).trans ?_)),
    joinNext_joins (w := s) rfl hg d g.nextIdx⟩
  dsimp only
  rw [hg, Option.bind_some, if_pos hf, hi]
  refine (join_checks (g := some g) h8 (by rw [hr]; rfl) (by simpa using hj) ho hl _).trans ?_
  rw [if_neg (by simp [hr, hn]), if_neg (by simp), if_neg (by rw [hr]; decide)]
  exact done_unreleased (s := (s.joinNext r g.nextIdx).setX d (BitVec.ofNat 64 g.nextIdx))
    (by rw [State.setX, State.modMe, Strand.setX_shape]; exact hrel) 12

/-- A full group answers all ones. -/
theorem join_full (hn : g.size ≤ g.nextIdx) : Completes (.join d idx) s (WritesX s d (BitVec.allOnes 64) 12) := by
  refine ⟨_, (exec_join d idx s).trans (M.run_ok ((M.bind_next (M.check_ok.2 ⟨hm, rfl⟩)).trans ?_)),
    setX_retire_writes s d (BitVec.allOnes 64) 12⟩
  dsimp only
  rw [hg, Option.bind_some, if_pos hf, hi]
  refine (join_checks (g := some g) h8 (by rw [hr]; rfl) (by simpa using hj) ho hl _).trans ?_
  rw [if_pos (by simp [hr, hn])]
  exact done_unreleased (s := s.setX d (BitVec.allOnes 64)) (by rw [State.setX, State.modMe, Strand.setX_shape]; exact hrel) 12

end

/-- A strand in eight groups. -/
theorem join_eight (hu : s.me.id.unit = .compute) (h8 : 8 ≤ s.me.groups.length) (hg : s.group? s.me.id.launch r.gid = none) :
    Traps (.join d idx) s Cause.illop 0 (0x4000_0000_0000_0000 ||| ((BitVec.ofNat 64 r.gid).setWidth 32).setWidth 64) := by
  have ht : Trap.group r = .of Cause.illop 0 (0x4000_0000_0000_0000 ||| ((BitVec.ofNat 64 r.gid).setWidth 32).setWidth 64) := by
    unfold Trap.group Trap.operand
    congr 1
  refine traps_of_exec (t := .of Cause.illop 0 _) ((exec_join d idx s).trans
    (M.run_trap (t := s) ((M.bind_next (M.check_ok.2 ⟨hm, rfl⟩)).trans ?_))) hu rfl (by decide : Cause.illop < 256)
  dsimp only
  rw [hg, ← ht]
  exact M.bind_error (M.trapIf_error s (decide_eq_true h8))

end

end Sys2Proof.Safety

/-! SUPPORT. The forming of a flagged group (R194, R313, R320). -/

namespace Sys2Proof.Machine

/-- A group after it has formed, with one member entry for each of its size. -/
def Group.FormedOf (n : Nat) (g : Group) : Prop :=
  g.formed = true ∧ g.joining = [] ∧ g.members.map (·.idx) = List.range n

/-- The group that a name finds has a property. -/
def State.GroupHas (s : State) (l i : Nat) (p : Group → Prop) : Prop := ∃ g, s.group? l i = some g ∧ p g

/-- A change that keeps the names of groups, where it keeps the property. -/
theorem State.GroupHas.modGroup {s : State} {l i : Nat} {p q : Group → Prop} (h : s.GroupHas l i p) {f : Group → Group}
    (hf : Group.Keeps f) (hp : ∀ g, p g → q (f g)) : (s.modGroup l i f).GroupHas l i q := by
  obtain ⟨g, hg, hpg⟩ := h
  exact ⟨f g, by rw [State.group?_modGroup s l i l i hf, if_pos ⟨rfl, rfl⟩, hg]; rfl, hp g hpg⟩

/-- A group with a signal resolved: its status, and the members blocked on it run again (R316). -/
def Group.resolveSignal (n : Nat) (present : Bool) (g : Group) : Group :=
  { g.modSignal n (fun x => { x with status := if present then .present else .absent }) with
    members := g.members.map (fun m => if m.react = .blockedSig n then { m with react := .running } else m) }

/-- What a group's home sends to the cores of members, of each one what `f` says. -/
def State.tell (g : Group) (f : Member → Option Body) (ms : List Member) (s : State) : State :=
  ms.foldl (fun s m => (f m).elim s (s.toMember g m)) s

theorem tell_cons (g : Group) (f : Member → Option Body) (m : Member) (ms : List Member) (s : State) :
    s.tell g f (m :: ms) = ((f m).elim s (s.toMember g m)).tell g f ms := rfl

theorem tell_shape (g : Group) (f : Member → Option Body) (ms : List Member) (s : State) :
    s.tell g f ms = { s with net := (s.tell g f ms).net } := by
  induction ms generalizing s with
  | nil => rfl
  | cons m ms ih =>
    rw [tell_cons]
    cases f m with
    | none => exact ih s
    | some b => exact (ih (s.toMember g m b)).trans rfl

/-- The home's word to one member of a resolution. -/
def resolutionTo (l i n : Nat) (present : Bool) (m : Member) : Option Body := some (.resolution l i m.idx n present)

theorem resolve_eq (s : State) (l i n : Nat) (b : Bool) : s.resolve l i n b =
    ((s.modGroup l i (.resolveSignal n b)).group? l i).elim (s.modGroup l i (.resolveSignal n b))
      (fun g => (s.modGroup l i (.resolveSignal n b)).tell g (resolutionTo l i n b) g.current) := by
  show (match (s.modGroup l i (.resolveSignal n b)).group? l i with | some g => _ | none => _) = _
  cases (s.modGroup l i (.resolveSignal n b)).group? l i <;> rfl

/-- A signal resolved: its group changes, and packets leave. -/
theorem resolve_shape (s : State) (l i n : Nat) (b : Bool) :
    s.resolve l i n b = { s.modGroup l i (.resolveSignal n b) with net := (s.resolve l i n b).net } := by
  rw [resolve_eq]
  cases (s.modGroup l i (.resolveSignal n b)).group? l i with
  | none => rfl
  | some g => exact tell_shape ..

theorem group?_of_groups {s t : State} (h : t.groups = s.groups) (l i : Nat) : t.group? l i = s.group? l i := by
  unfold State.group?; rw [h]

/-- Resolving a signal leaves a formed group formed, with its members. -/
theorem resolve_formed {s : State} {l i n k : Nat} {b : Bool} (h : s.GroupHas l i (Group.FormedOf k)) :
    (s.resolve l i n b).GroupHas l i (Group.FormedOf k) := by
  obtain ⟨g, hg, hf⟩ := h.modGroup (q := Group.FormedOf k) (f := .resolveSignal n b) (fun _ => ⟨rfl, rfl⟩)
    (fun g ⟨h1, h2, h3⟩ => ⟨h1, h2, by
      rw [← h3, Group.resolveSignal, List.map_map]
      refine List.map_congr_left fun m _ => ?_
      simp only [Function.comp_apply]
      split <;> rfl⟩)
  exact ⟨g, by rw [resolve_shape]; exact hg, hf⟩

/-- Signals of a group that become absent, one after another. -/
def State.resolveAll (l i : Nat) (xs : List Signal) (s : State) : State := xs.foldl (fun s x => s.resolve l i x.num false) s

theorem resolveAll_shape (l i : Nat) (xs : List Signal) (s : State) : s.resolveAll l i xs =
    { s with groups := (s.resolveAll l i xs).groups, net := (s.resolveAll l i xs).net } := by
  induction xs generalizing s with
  | nil => rfl
  | cons x xs ih =>
    have h := ih (s.resolve l i x.num false)
    rw [resolve_shape] at h
    rw [State.resolveAll, List.foldl_cons, resolve_shape]
    exact h

theorem resolveAll_formed {l i k : Nat} (xs : List Signal) {s : State} (h : s.GroupHas l i (Group.FormedOf k)) :
    (s.resolveAll l i xs).GroupHas l i (Group.FormedOf k) := by
  induction xs generalizing s with
  | nil => exact h
  | cons x xs ih => exact ih (resolve_formed h)

/-- The signals of a group that nobody may emit any more (R316). -/
def Group.silent (g : Group) : List Signal := g.signals.filter (fun x => decide (x.status = .unknown) && g.mayCount x.num == 0)

theorem absences_eq (s : State) (l i : Nat) : s.absences l i = (s.group? l i).elim s (fun g => s.resolveAll l i g.silent) := by
  unfold State.absences
  cases s.group? l i <;> rfl

theorem absences_shape (s : State) (l i : Nat) :
    s.absences l i = { s with groups := (s.absences l i).groups, net := (s.absences l i).net } := by
  rw [absences_eq]
  cases s.group? l i with
  | none => rfl
  | some g => exact resolveAll_shape ..

theorem absences_formed {s : State} {l i k : Nat} (h : s.GroupHas l i (Group.FormedOf k)) :
    (s.absences l i).GroupHas l i (Group.FormedOf k) := by
  rw [absences_eq]
  cases s.group? l i with
  | none => exact h
  | some g => exact resolveAll_formed _ h

/-- A context but for its groups and GRP. -/
def Strand.SameButGroups (c d : Strand) : Prop := d = { c with groups := d.groups, grp := d.grp }

theorem Strand.SameButGroups.trans {c d e : Strand} (h : c.SameButGroups d) (k : d.SameButGroups e) : c.SameButGroups e := by
  unfold SameButGroups at *
  rw [k, h]

/-- A context enters a group that forms. -/
def Strand.enterGroup (r : GroupRec) (gid idx : Nat) (c : Strand) : Strand :=
  { c with groups := c.groups ++ [(gid, idx)], grp := r.grp idx }

/-- The members of a group that forms entered, at their contexts. -/
def State.enterAll (r : GroupRec) (gid : Nat) (ms : List Member) (s : State) : State :=
  ms.foldl (fun s m => s.modStrand m.sid (.enterGroup r gid m.idx)) s

theorem enterAll_me (r : GroupRec) (gid : Nat) (ms : List Member) (s : State) : s.me.SameButGroups (s.enterAll r gid ms).me := by
  induction ms generalizing s with
  | nil => rfl
  | cons m ms ih =>
    refine Strand.SameButGroups.trans ?_ (ih (s.modStrand m.sid (.enterGroup r gid m.idx)))
    unfold State.modStrand Strand.SameButGroups
    dsimp only
    split <;> rfl

theorem enterAll_shape (r : GroupRec) (gid : Nat) (ms : List Member) (s : State) :
    s.enterAll r gid ms = { s with me := (s.enterAll r gid ms).me, rest := (s.enterAll r gid ms).rest } := by
  induction ms generalizing s with
  | nil => rfl
  | cons m ms ih => exact ih (s.modStrand m.sid (.enterGroup r gid m.idx))

/-- The members of a group that forms, in index order. -/
def State.formers (s : State) (g : Group) (r : GroupRec) : List Member :=
  (List.range r.size).map (fun i => Member.new (s.launch g.launch) r
    { launch := g.launch, seat := .placed (r.first + i), unit := .compute } i
    (s.coreOf { launch := g.launch, seat := .placed (r.first + i), unit := .compute } 0))

/-- The record of a group that forms. -/
def Group.formWith (ms : List Member) (r : GroupRec) (signals : List Signal) (g : Group) : Group :=
  { g with formed := true, joining := [], members := ms, home := (ms.head?.map (·.core)).getD g.home,
           inst := if r.reactive then 1 else 0, signals := if r.reactive then signals else [] }

/-- The state after the members have entered, before the first instant starts. -/
def State.entered (s : State) (g : Group) (r : GroupRec) : State :=
  (s.modGroup g.launch g.gid (.formWith (s.formers g r) r ((s.launch g.launch).signals r.gid))).enterAll r g.gid (s.formers g r)

theorem form_eq (s : State) (g : Group) (r : GroupRec) : s.form g r =
    (if r.reactive then (s.entered g r).unevaluated g.launch g.gid else s.entered g r).absences g.launch g.gid := rfl

/-- Forming changes nothing of the executing context but its groups and GRP, and no byte of memory. -/
theorem form_me (s : State) (g : Group) (r : GroupRec) : s.me.SameButGroups (s.form g r).me ∧ (s.form g r).mem = s.mem := by
  have hme : (s.form g r).me = (s.entered g r).me := by rw [form_eq, absences_shape]; split <;> rfl
  have hmem : (s.form g r).mem = (s.entered g r).mem := by rw [form_eq, absences_shape]; split <;> rfl
  rw [hme, hmem]
  exact ⟨enterAll_me r g.gid (s.formers g r) _, by rw [State.entered, enterAll_shape]; rfl⟩

/-- The group that has formed. -/
theorem form_group {s : State} {l i : Nat} {g : Group} (hg : s.group? l i = some g) (r : GroupRec) :
    (s.form g r).GroupHas l i (Group.FormedOf r.size) := by
  obtain ⟨rfl, rfl⟩ := State.group?_name hg
  have hms : (s.formers g r).map (·.idx) = List.range r.size := by
    rw [State.formers, List.map_map]
    exact List.map_id _
  have h1 : (s.entered g r).GroupHas g.launch g.gid (Group.FormedOf r.size) := by
    have h := State.GroupHas.modGroup (q := Group.FormedOf r.size) (p := fun _ => True) ⟨g, hg, trivial⟩
      (f := .formWith (s.formers g r) r ((s.launch g.launch).signals r.gid)) (fun _ => ⟨rfl, rfl⟩) fun _ _ => ⟨rfl, rfl, hms⟩
    rw [State.entered, enterAll_shape]
    exact h
  rw [form_eq]
  refine absences_formed ?_
  split
  · exact h1
  · exact h1

/-- JOIN, once its strand is to be listed among those that wait: with enough of them the group forms. -/
def M.joinFlagged (d : Reg) (r : GroupRec) (s : State) : M Unit := do
  modify (·.modGroup s.me.id.launch r.gid (fun g => { g with joining := g.joining ++ [s.me.id] }))
  let n := (((← get).group? s.me.id.launch r.gid).map (·.joining.length)).getD 0
  if n < r.size then throw (.block .forming)
  else do
    modify (fun w => (w.group? s.me.id.launch r.gid).elim w (fun g => w.form g r))
    modify (·.setX d (BitVec.ofNat 64 (s.me.id.tid - r.first)))
  M.done 12

/-- JOIN of a flagged group that has not formed, after its checks. -/
theorem execJoin_flagged {s : State} {r : GroupRec} {g : Group} {d : Reg} {idx : BitVec 16}
  (hm : s.myLaunch.group idx.toNat = .ok r) (hl : s.locks = []) (hr : r.flagged = true) (h8 : s.me.groups.length < 8)
  (hmay : s.mayNotJoin r = false) (hg : s.group? s.me.id.launch r.gid = some g) (ho : s.joinsAfter g = false)
  (hf : g.formed = false) (hj : s.me.id ∉ g.joining) : execJoin d idx s = M.run (M.joinFlagged d r s) s := by
  have h : ∀ {m : M Unit}, m s = M.joinFlagged d r s s → M.run m s = M.run (M.joinFlagged d r s) s := fun h => by
    unfold M.run; rw [h]
  refine h ((M.bind_next (M.check_ok.2 ⟨hm, rfl⟩)).trans ?_)
  dsimp only
  rw [hg, Option.bind_some, if_neg (by rw [hf]; decide)]
  refine (join_checks (g := some g) h8 (by rw [hmay, Bool.and_false]) (by simpa using hj) ho hl _).trans ?_
  rw [if_neg (by simp [hr, hf]), if_neg (by simp), if_pos hr]
  rfl

end Sys2Proof.Machine

namespace Sys2Proof.Safety

open Sys2Proof.Machine

section
variable {s : State} {r : GroupRec} {g : Group} {d : Reg} {idx : BitVec 16}

/-- The executing strand listed among those that wait for a flagged group to form. -/
def joining (s : State) (r : GroupRec) : State :=
  s.modGroup s.me.id.launch r.gid (fun g => { g with joining := g.joining ++ [s.me.id] })

theorem joining_group (hg : s.group? s.me.id.launch r.gid = some g) :
    (joining s r).group? s.me.id.launch r.gid = some { g with joining := g.joining ++ [s.me.id] } := by
  rw [joining, State.group?_modGroup _ _ _ _ _ (f := fun g => { g with joining := g.joining ++ [s.me.id] }) (fun _ => ⟨rfl, rfl⟩),
    if_pos ⟨rfl, rfl⟩, hg]
  rfl

/-- The strands listed, the executing one among them. -/
theorem joining_count (hg : s.group? s.me.id.launch r.gid = some g) :
    (((joining s r).group? s.me.id.launch r.gid).map (·.joining.length)).getD 0 = g.joining.length + 1 := by
  rw [joining_group hg]
  simp

variable (hm : s.myLaunch.group idx.toNat = .ok r) (hl : s.locks = []) (hr : r.flagged = true) (h8 : s.me.groups.length < 8)
  (hmay : s.mayNotJoin r = false) (hg : s.group? s.me.id.launch r.gid = some g) (ho : s.joinsAfter g = false)
  (hf : g.formed = false) (hj : s.me.id ∉ g.joining)
include hm hl hr h8 hmay hg ho hf hj

/-- A thread of a flagged group that is not the last waits for it to form. -/
theorem join_waits (hn : g.joining.length + 1 < r.size) : Completes (.join d idx) s (fun t =>
    t.me = { s.me with wait := some .forming } ∧
    (∃ h, t.group? s.me.id.launch r.gid = some h ∧ h.joining = g.joining ++ [s.me.id] ∧ h.formed = false) ∧
    t = { s with me := t.me, groups := t.groups }) := by
  refine ⟨(joining s r).block .forming, ?_, rfl, ⟨_, joining_group hg, rfl, hf⟩, rfl⟩
  rw [exec_join, execJoin_flagged hm hl hr h8 hmay hg ho hf hj]
  refine M.run_block (M.modify_next.trans ((M.bind_next (M.get_ok.2 ⟨rfl, rfl⟩)).trans ?_))
  exact congrFun (if_pos ((joining_count hg).symm ▸ hn)) (joining s r)

/-- The last thread of a flagged group forms it. -/
theorem join_forms (hrel : s.me.released = false) (hn : r.size ≤ g.joining.length + 1) : Completes (.join d idx) s (fun t =>
    t.x d = (if d = 0 then 0 else BitVec.ofNat 64 (s.me.id.tid - r.first)) ∧ t.me.pc = s.me.pc + 12 ∧ t.me.wait = none ∧
    (∃ h, t.group? s.me.id.launch r.gid = some h ∧ h.formed = true ∧ h.joining = [] ∧ h.members.map (·.idx) = List.range r.size) ∧
    t.mem = s.mem) := by
  let w := (joining s r).form { g with joining := g.joining ++ [s.me.id] } r
  obtain ⟨hme, hmem⟩ := form_me (joining s r) { g with joining := g.joining ++ [s.me.id] } r
  have hwme : w.me = { s.me with groups := w.me.groups, grp := w.me.grp } := hme
  let v : W64 := BitVec.ofNat 64 (s.me.id.tid - r.first)
  refine ⟨(w.setX d v).retire 12, ?_, ?_, ?_, rfl, form_group (joining_group hg) r, hmem⟩
  · rw [exec_join, execJoin_flagged hm hl hr h8 hmay hg ho hf hj]
    refine M.run_ok (M.modify_next.trans ((M.bind_next (M.get_ok.2 ⟨rfl, rfl⟩)).trans ?_))
    refine (congrFun (if_neg ((joining_count hg).symm ▸ Nat.not_lt.2 hn)) (joining s r)).trans ?_
    refine M.modify_next.trans (M.modify_next.trans ?_)
    have hw : ((joining s r).group? s.me.id.launch r.gid).elim (joining s r) (fun g => (joining s r).form g r) = w := by
      rw [joining_group hg]; rfl
    show M.done 12 ((((joining s r).group? s.me.id.launch r.gid).elim (joining s r) (fun g => (joining s r).form g r)).setX d v) = _
    rw [hw]
    refine done_unreleased ?_ 12
    rw [State.setX, State.modMe, Strand.setX_shape, hwme]
    exact hrel
  · refine (Strand.getX_setX w.me d v d).trans ?_
    simp [v]
  · show (w.me.setX d v).pc + 12 = _
    rw [Strand.setX_shape, hwme]

end

end Sys2Proof.Safety

/-! SUPPORT. The end of a membership (R195), and the report of a GBAR (R196). -/

namespace Sys2Proof.Machine

/-! ## A strand that is no member of a group -/

/-- No group of the name has the strand inside. -/
def State.NoMember (s : State) (l i : Nat) (sid : Sid) : Prop :=
  ∀ g ∈ s.groups, g.launch = l → g.gid = i → ∀ m ∈ g.members, m.inside = true → m.sid ≠ sid

/-- A change of a group that lets nobody in. -/
def Group.LetsNoneIn (f : Group → Group) : Prop :=
  ∀ g, ∀ m ∈ (f g).members, m.inside = true → ∃ m' ∈ g.members, m'.inside = true ∧ m'.sid = m.sid

theorem letsNoneIn_map {f : Group → Group} {k : Group → Member → Member} (hf : ∀ g, (f g).members = g.members.map (k g))
    (hk : ∀ g m, (k g m).inside = m.inside ∧ (k g m).sid = m.sid) : Group.LetsNoneIn f := by
  intro g m hm hi
  rw [hf] at hm
  obtain ⟨m', hm', rfl⟩ := List.mem_map.1 hm
  exact ⟨m', hm', by rw [← (hk g m').1]; exact hi, (hk g m').2.symm⟩

theorem State.NoMember.modGroup {s : State} {l i k j : Nat} {sid : Sid} (h : s.NoMember l i sid) {f : Group → Group}
    (hf : Group.Keeps f) (hn : Group.LetsNoneIn f) : (s.modGroup k j f).NoMember l i sid := by
  intro g hg hl hi m hm hin
  obtain ⟨g', hg', rfl⟩ := List.mem_map.1 hg
  split at hl
  · next hc =>
    rw [if_pos hc] at hi hm
    rw [(hf g').1] at hl
    rw [(hf g').2] at hi
    obtain ⟨m', hm', hin', hs⟩ := hn g' m hm hin
    rw [← hs]
    exact h g' hg' hl hi m' hm' hin'
  · next hc =>
    rw [if_neg hc] at hi hm
    exact h g' hg' hl hi m hm hin

theorem State.NoMember.of_groups {s t : State} {l i : Nat} {sid : Sid} (h : s.NoMember l i sid) (he : t.groups = s.groups) :
    t.NoMember l i sid := by
  unfold State.NoMember; rw [he]; exact h

/-! ## What the checks at the home leave alone -/

/-- The executing context but for its requests, and memory, are the same. -/
def State.SameButPend (s t : State) : Prop := t.me = { s.me with pend := t.me.pend } ∧ t.mem = s.mem

theorem State.SameButPend.refl (s : State) : s.SameButPend s := ⟨rfl, rfl⟩

theorem State.SameButPend.trans {s t u : State} (h : s.SameButPend t) (k : t.SameButPend u) : s.SameButPend u :=
  ⟨by rw [k.1, h.1], k.2.trans h.2⟩

/-- Contexts woken from a window's opening. -/
def State.wakeAll (w : Wait) (a : Answer) (ms : List Member) (s : State) : State :=
  ms.foldl (fun s m => s.modStrand m.sid (·.wake w a)) s

theorem wakeAll_same (w : Wait) (a : Answer) (ms : List Member) (s : State) :
    s.SameButPend (s.wakeAll w a ms) ∧ (s.wakeAll w a ms).groups = s.groups := by
  induction ms generalizing s with
  | nil => exact ⟨.refl s, rfl⟩
  | cons m ms ih =>
    obtain ⟨h, hg⟩ := ih (s.modStrand m.sid (·.wake w a))
    have hstep : s.SameButPend (s.modStrand m.sid (·.wake w a)) := by
      refine ⟨?_, rfl⟩
      unfold State.modStrand
      dsimp only
      split <;> rfl
    exact ⟨hstep.trans h, hg⟩

/-- A member at the opening of a window, which has failed when a member has departed (R216). -/
def Member.openStep (departed : Bool) (m : Member) : Member :=
  match m.opening with
  | some (b, n) => if departed then { m with opening := none } else
      { m with opening := none, base := b, len := n, win := .attached, wasAtt := false, dep := false, seesGone := [] }
  | none => { m with dep := false, seesGone := [], len := if departed then m.len else 0 }

/-- A group at the opening of its window. -/
def Group.openWith (departed : Bool) (g : Group) : Group :=
  { g with members := g.members.map (.openStep departed), winOpen := !g.departed,
           windows := if g.departed then g.windows else g.windows + 1, departed := false }

theorem openStep_keeps (departed : Bool) (m : Member) :
    (m.openStep departed).inside = m.inside ∧ (m.openStep departed).sid = m.sid := by
  unfold Member.openStep
  split
  · split <;> exact ⟨rfl, rfl⟩
  · exact ⟨rfl, rfl⟩

theorem openCheck_eq (s : State) (l i : Nat) : s.openCheck l i = (s.group? l i).elim s (fun g =>
    if g.current.isEmpty || !g.current.all (fun m => m.opening.isSome) || g.winOpen then s
    else (s.modGroup l i (.openWith g.departed)).wakeAll .window (.ok [if g.departed then 2 else 0]) g.current) := by
  unfold State.openCheck
  cases s.group? l i <;> rfl

/-- A member after a completed phase of a group (R197, R332). -/
def Member.phaseStep (g : Group) (m : Member) : Member :=
  match m.arrived with
  | some (t, n) =>
    let t0 := leastOf (g.members.filterMap (fun m => m.arrived.map (·.1)))
    let st := if g.strag then m.strag.update g.theta g.persist ((cycleAt (g.home / 2048) t - cycleAt (g.home / 2048) t0) / 256) n
      else m.strag
    { m with arrived := none, strag := st, lagCopy := st.lag }
  | none => m

theorem phaseStep_keeps (g : Group) (m : Member) : (m.phaseStep g).inside = m.inside ∧ (m.phaseStep g).sid = m.sid := by
  unfold Member.phaseStep
  split <;> exact ⟨rfl, rfl⟩

/-- The release of the members that arrived. -/
def State.releaseAll (g : Group) (ms : List Member) (s : State) : State :=
  ms.foldl (fun s m => s.toMember g m (.gbarRelease m.sid g.launch g.gid)) s

theorem releaseAll_shape (g : Group) (ms : List Member) (s : State) : s.releaseAll g ms = { s with net := (s.releaseAll g ms).net } := by
  induction ms generalizing s with
  | nil => rfl
  | cons m ms ih => exact (ih (s.toMember g m (.gbarRelease m.sid g.launch g.gid))).trans rfl

theorem gbarComplete_eq (s : State) (g : Group) : s.gbarComplete g =
    (s.modGroup g.launch g.gid (fun h => { h with phases := h.phases + 1, members := h.members.map (.phaseStep g) })).releaseAll g
      (g.members.filter (fun m => m.arrived.isSome)) := rfl

section
variable {s : State} {l i : Nat} {sid : Sid}

theorem closeCheck_noMember (h : s.NoMember l i sid) : (s.closeCheck l i).NoMember l i sid := by
  refine h.modGroup (fun g => ?_) (letsNoneIn_map (k := fun g m =>
    if g.winOpen && !g.current.any (fun m => decide (m.win = .attached)) then { m with len := 0 } else m) (fun g => ?_) fun g m => ?_)
  · split <;> exact ⟨rfl, rfl⟩
  · split <;> simp
  · split <;> exact ⟨rfl, rfl⟩

theorem openCheck_noMember (h : s.NoMember l i sid) :
    s.SameButPend (s.openCheck l i) ∧ (s.openCheck l i).NoMember l i sid := by
  rw [openCheck_eq]
  cases s.group? l i with
  | none => exact ⟨.refl s, h⟩
  | some g =>
    rw [Option.elim_some]
    split
    · exact ⟨.refl s, h⟩
    · obtain ⟨hs, hg⟩ := wakeAll_same .window (.ok [if g.departed then 2 else 0]) g.current (s.modGroup l i (.openWith g.departed))
      have hn := h.modGroup (k := l) (j := i) (f := .openWith g.departed) (fun _ => ⟨rfl, rfl⟩)
        (letsNoneIn_map (k := fun _ => .openStep g.departed) (fun _ => rfl) fun _ => openStep_keeps g.departed)
      exact ⟨hs, hn.of_groups hg⟩

theorem gbarCheck_noMember (h : s.NoMember l i sid) :
    s.SameButPend (s.gbarCheck l i) ∧ (s.gbarCheck l i).NoMember l i sid := by
  unfold State.gbarCheck
  split
  · next g _ =>
    split
    · rw [gbarComplete_eq, releaseAll_shape]
      refine ⟨⟨rfl, rfl⟩, State.NoMember.of_groups (h.modGroup (k := g.launch) (j := g.gid)
        (f := fun h => { h with phases := h.phases + 1, members := h.members.map (.phaseStep g) }) (fun _ => ⟨rfl, rfl⟩)
        (letsNoneIn_map (k := fun _ => .phaseStep g) (fun _ => rfl) fun _ => phaseStep_keeps g)) rfl⟩
    · exact ⟨.refl s, h⟩
  · exact ⟨.refl s, h⟩

theorem dissolve_noMember (h : s.NoMember l i sid) (k j : Nat) : (s.dissolve k j).NoMember l i sid :=
  fun g hg => h g (List.mem_filter.1 hg).1

end

/-- A member that takes no part any more. -/
def Member.gone (m : Member) : Member := { m with inside := false, arrived := none, opening := none, queue := none, mine := 0 }

/-- A context without a group. -/
def Strand.leave (g : Group) (c : Strand) : Strand :=
  { c with groups := c.groups.filter (fun x => x.1 != g.gid), grp := if g.gang || g.reactive || g.strag then 0xFFFF else c.grp }

theorem outOfGroup_eq (s : State) (i : Sid) (g : Group) (m : Member) : s.outOfGroup i g m =
    (((((s.modGroup g.launch g.gid (fun g => g.modMember m.idx .gone)).modStrand i (.leave g)).closeCheck g.launch g.gid).openCheck
      g.launch g.gid).gbarCheck g.launch g.gid).dissolve g.launch g.gid := rfl

/-- The executing strand out of a group of which it was one member (R195). -/
theorem outOfGroup_leaves {s : State} {g : Group} {m : Member}
    (only : ∀ h ∈ s.groups, h.launch = g.launch → h.gid = g.gid → h = g)
    (one : ∀ p ∈ g.members, p.inside = true → p.sid = s.me.id → p.idx = m.idx) :
    (s.outOfGroup s.me.id g m).NoMember g.launch g.gid s.me.id ∧
    (s.outOfGroup s.me.id g m).me = { s.me.leave g with pend := (s.outOfGroup s.me.id g m).me.pend } ∧
    (s.outOfGroup s.me.id g m).mem = s.mem := by
  have h0 : (s.modGroup g.launch g.gid (fun g => g.modMember m.idx .gone)).NoMember g.launch g.gid s.me.id := by
    intro h hh hl hi p hp hin hs
    obtain ⟨h', hh', rfl⟩ := List.mem_map.1 hh
    split at hp
    · next hc =>
      have hc' : h'.launch = g.launch ∧ h'.gid = g.gid := by simpa using hc
      obtain rfl := only h' hh' hc'.1 hc'.2
      obtain ⟨p', hp', rfl⟩ := List.mem_map.1 hp
      split at hin
      · cases hin
      · next hne =>
        rw [if_neg hne] at hs
        exact hne (by simpa using one p' hp' hin hs)
    · next hc =>
      rw [if_neg hc] at hl hi
      exact hc (by simp [hl, hi])
  let w := (s.modGroup g.launch g.gid (fun g => g.modMember m.idx .gone)).modStrand s.me.id (.leave g)
  have hw : w.me = s.me.leave g := if_pos rfl
  have h1 : (w.closeCheck g.launch g.gid).NoMember g.launch g.gid s.me.id := closeCheck_noMember (h0.of_groups (t := w) rfl)
  obtain ⟨hs2, h2⟩ := openCheck_noMember h1
  obtain ⟨hs3, h3⟩ := gbarCheck_noMember h2
  obtain ⟨hme, hmem⟩ := hs2.trans hs3
  rw [outOfGroup_eq]
  refine ⟨dissolve_noMember h3 _ _, ?_, hmem⟩
  rw [← hw]
  exact hme

end Sys2Proof.Machine

namespace Sys2Proof.Machine

/-- The request of the executing instruction, sent once more, is found at its pc. -/
theorem pendOf_putPend (c : Strand) (p : Pend) (h : p.pc = c.pc) : (c.putPend p).pendOf = some p := by
  unfold Strand.pendOf Strand.putPend
  rw [List.find?_append]
  have hn : (c.pend.filter (fun q => !decide (q.pc = c.pc))).find? (fun q => decide (q.pc = c.pc)) = none := by
    rw [List.find?_eq_none]
    intro q hq
    have := (List.mem_filter.1 hq).2
    simpa using this
  rw [hn]
  simp [h]

theorem myPend_pc (s : State) : s.myPend.pc = s.me.pc := by
  unfold State.myPend Strand.pendOf
  cases h : s.me.pend.find? (fun p => decide (p.pc = s.me.pc)) with
  | none => rfl
  | some p => simpa using List.find?_some h

end Sys2Proof.Machine

namespace Sys2Proof.Safety

open Sys2Proof.Machine

/-- The answer of an instruction whose request has been answered. -/
theorem final_answered {s : State} {ws : List W64} (h : Answered s true [.ok ws]) (w : Wait) : M.final w s = .ok ws s := by
  obtain ⟨p, hp, hw, -, hg⟩ := h
  have hm : s.myPend = p := by unfold State.myPend; rw [hp]; rfl
  refine (M.bind_next (M.get_ok.2 ⟨rfl, rfl⟩)).trans ?_
  rw [hm, hw, hg]
  rfl

theorem asking_answered {s : State} {as : List Answer} (h : Answered s true as) : s.asking = true := by
  obtain ⟨p, hp, -, hs, -⟩ := h
  unfold State.asking State.myPend
  rw [hp]
  exact hs

/-- The state after a report to a group's home, whose answer the executing instruction waits for. -/
def posted (u : State) (w : Wait) (g : Group) (b : Body) : State :=
  (({ u with next := u.next + 1 } : State).report g b).modMe (fun c =>
    c.putPend { u.myPend with on := w, ref := u.next, waiting := true, sent := true, cancel := false })

/-- A report to a group's home, sent by an instruction of the executing member that then waits for its answer. -/
theorem post_asks {s u : State} (hu : u = { s with groups := u.groups }) (hrel : s.me.released = false) (w : Wait) (g : Group)
    (b : Body) : ∃ t : State, M.post true w (fun _ s => s.report g b) u = .error (.block w) t ∧
      Reported s (t.block w) g.home b ∧ Asks s w (t.block w) := by
  have hleft : (posted u w g b).leftCore = posted u w g b := if_neg (by
    show ¬ u.me.released = true
    rw [hu, hrel]
    decide)
  have hpost : M.post true w (fun _ s => s.report g b) u = .error (.block w) (posted u w g b) := by
    rw [← hleft]
    rfl
  refine ⟨_, hpost, ⟨s.next + 1, Nat.le_succ _, ?_⟩, ⟨_, pendOf_putPend u.me _ (myPend_pc u), rfl, ?_, rfl, rfl⟩, ?_, ?_⟩ <;> rw [hu] <;> rfl

/-! ## LEAVE and GBAR -/

/-- The last part of leaving a group, once nothing holds the strand in it (R195). -/
def leaveRest (s : State) (g : Group) (m : Member) : M Unit := do
  if g.reactive then do
    if s.asking then do let _ ← M.final .instant
    else do
      M.outgoing
      modify (·.modMine g m (fun _ => 0))
      let _ ← M.post true .instant (fun _ s => s.report g (.leave g.launch g.gid m.idx))
  else M.outgoing
  modify (fun s => s.outOfGroup s.me.id g m)

section
variable {s : State} {r : GroupRec} {g : Group} {m : Member} {idx : BitVec 16}

/-- Leaving a group whose window is closed and whose queue has no task out, up to its last part. -/
theorem leaveGroup_eq (hg : s.group? s.me.id.launch r.gid = some g) (hi : g.memberOf s.me.id = some m) (hwin : g.winOpen = false)
    (hq : ∀ q, m.queue = some q → q.out = 0) : M.leaveGroup r.gid s = leaveRest s g m s := by
  obtain ⟨hgl, hgi⟩ := State.group?_name hg
  have hdet : M.detach g m s = .ok () s := by
    refine (M.bind_next (M.get_ok.2 ⟨rfl, rfl⟩)).trans ?_
    refine (M.bind_next (a := ()) (M.blockIf_ok.2 ⟨by rw [hwin]; rfl, rfl⟩)).trans ?_
    show EStateM.Result.ok () (s.detach g m) = _
    rw [State.detach, hwin]
    rfl
  have hout : (m.queue.any fun q => q.out != 0) = false := by
    cases hmq : m.queue with
    | none => rfl
    | some q => simp [hq q hmq]
  refine (M.bind_next (M.get_ok.2 ⟨rfl, rfl⟩)).trans ?_
  rw [hg, Option.bind_some, hi]
  refine (M.bind_next hdet).trans ((M.bind_next (M.get_ok.2 ⟨rfl, rfl⟩)).trans ?_)
  rw [hgl, hgi, hg]
  refine (M.bind_next (a := ()) (M.blockIf_ok.2 ⟨by simp [hwin], rfl⟩)).trans ((M.bind_next (a := ()) (M.blockIf_ok.2 ⟨hout, rfl⟩)).trans ?_)
  rw [leaveRest, hgl, hgi]

/-- The checks of LEAVE before it leaves. -/
theorem execLeave_eq (hm : s.myLaunch.group idx.toNat = .ok r) (hg : s.group? s.me.id.launch r.gid = some g) (hf : g.formed = true)
    (hi : g.memberOf s.me.id = some m) (hst : s.me.stolen = []) :
    execLeave idx s = M.run (do M.leaveGroup r.gid; M.done 12) s := by
  have h : ∀ {m k : M Unit}, m s = k s → M.run m s = M.run k s := fun h => by unfold M.run; rw [h]
  refine h ((M.bind_next (M.check_ok.2 ⟨hm, rfl⟩)).trans ?_)
  have hin : ((s.group? s.me.id.launch r.gid).any fun g => g.formed && (g.memberOf s.me.id).isSome) = true := by
    rw [hg]; simp [hf, hi]
  have hno : M.noTiles s = .ok () s := by
    refine (M.bind_next (M.get_ok.2 ⟨rfl, rfl⟩)).trans ?_
    rw [hst]
    rfl
  exact (M.bind_next (a := ()) (M.trapIf_ok.2 ⟨by rw [hin]; rfl, rfl⟩)).trans (M.bind_next hno)

end

end Sys2Proof.Safety

/-! O35. LEAVE, GBAR, and the statement of the groups (R194-R197). -/

namespace Sys2Proof.Safety

open Sys2Proof.Machine

/-- A synchronising instruction completes. -/
theorem synced_ok (s : State) (n : Nat) : ∃ t, M.synced n s = .ok () t ∧ Synced s n t := done_retires s.bumpAll n

/-- The executing strand is out of a group, and LEAVE has retired (R195). -/
def LeftGroup (s : State) (r : GroupRec) (g : Group) (t : State) : Prop :=
  (∀ h ∈ t.groups, h.launch = s.me.id.launch → h.gid = r.gid → h.memberOf s.me.id = none) ∧
  t.me.groups = s.me.groups.filter (fun x => x.1 != r.gid) ∧ t.me.pc = s.me.pc + 12 ∧ t.me.wait = none ∧ t.me.x = s.me.x ∧
  t.me.grp = (if g.gang || g.reactive || g.strag then 0xFFFF else s.me.grp) ∧ t.mem = s.mem

section
variable {s : State} {r : GroupRec} {g : Group} {m : Member} {idx : BitVec 16} {ws : List W64}

/-- The last part of LEAVE, where nothing holds the strand back. -/
theorem leaveRest_free (hfree : g.reactive = false ∧ s.locks = [] ∨ g.reactive = true ∧ Answered s true [.ok ws]) :
    leaveRest s g m s = .ok () (s.outOfGroup s.me.id g m) := by
  unfold leaveRest
  obtain ⟨hr, hl⟩ | ⟨hr, ha⟩ := hfree
  · rw [if_neg (by rw [hr]; decide)]
    exact M.bind_next (outgoing_free hl)
  · rw [if_pos hr, if_pos (asking_answered ha)]
    exact M.bind_next (final_answered ha .instant)

section
variable (hm : s.myLaunch.group idx.toNat = .ok r) (hg : s.group? s.me.id.launch r.gid = some g) (hf : g.formed = true)
  (hi : g.memberOf s.me.id = some m)
include hm hg hf hi

section
variable (hrel : s.me.released = false) (hst : s.me.stolen = []) (hwin : g.winOpen = false)
  (hq : ∀ q, m.queue = some q → q.out = 0)
include hrel hst hwin hq

/-- LEAVE of a group that its strand is one member of. -/
theorem leave_completes (only : ∀ h ∈ s.groups, h.launch = g.launch → h.gid = g.gid → h = g)
    (one : ∀ p ∈ g.members, p.inside = true → p.sid = s.me.id → p.idx = m.idx)
    (hfree : g.reactive = false ∧ s.locks = [] ∨ g.reactive = true ∧ Answered s true [.ok ws]) :
    Completes (.leave idx) s (LeftGroup s r g) := by
  obtain ⟨hgl, hgi⟩ := State.group?_name hg
  obtain ⟨hno, hme, hmem⟩ := outOfGroup_leaves only one
  have hrel' : (s.outOfGroup s.me.id g m).me.released = false := by rw [hme]; exact hrel
  refine ⟨(s.outOfGroup s.me.id g m).retire 12, ?_, ?_, ?_, ?_, rfl, ?_, ?_, hmem⟩
  · rw [exec_leave, execLeave_eq hm hg hf hi hst]
    refine M.run_ok ((M.bind_next ((leaveGroup_eq hg hi hwin hq).trans (leaveRest_free hfree))).trans ?_)
    exact done_unreleased hrel' 12
  · intro h hh hl hid
    rw [Group.memberOf_none]
    exact hno h hh (hl.trans hgl.symm) (hid.trans hgi.symm)
  · show (s.outOfGroup s.me.id g m).me.groups = _
    rw [hme, ← hgi]; rfl
  · show (s.outOfGroup s.me.id g m).me.pc + 12 = _
    rw [hme]; rfl
  · show (s.outOfGroup s.me.id g m).me.x = _
    rw [hme]; rfl
  · show (s.outOfGroup s.me.id g m).me.grp = _
    rw [hme]; rfl

/-- LEAVE of a reactive domain first reports to its home. -/
theorem leave_reports (hl : s.locks = []) (hr : g.reactive = true) (ha : s.asking = false) :
    Completes (.leave idx) s (fun t => Reported s t g.home (.leave s.me.id.launch g.gid m.idx) ∧ Asks s .instant t) := by
  obtain ⟨t, hp, hrep, hask⟩ := post_asks (s := s) (u := s.modMine g m (fun _ => 0)) rfl hrel .instant g
    (.leave g.launch g.gid m.idx)
  rw [(State.group?_name hg).1] at hrep
  refine ⟨t.block .instant, ?_, hrep, hask⟩
  rw [exec_leave, execLeave_eq hm hg hf hi hst]
  refine M.run_block (M.bind_error ((leaveGroup_eq hg hi hwin hq).trans ?_))
  unfold leaveRest
  rw [if_pos hr, if_neg (by rw [ha]; decide)]
  exact (M.bind_next (outgoing_free hl)).trans (M.modify_next.trans (M.bind_error hp))

end

/-- GBAR reports its arrival to the home. -/
theorem gbar_reports (hl : s.locks = []) (hrel : s.me.released = false) (ha : s.asking = false) :
    Completes (.gbar idx) s (fun t => Reported s t g.home (.gbarArrive s.me.id.launch r.gid m.idx m.count) ∧
      Asks s (.barrier r.gid) t) := by
  obtain ⟨t, hp, hrep, hask⟩ := post_asks (s := s) (u := s) rfl hrel (.barrier r.gid) g
    (.gbarArrive s.me.id.launch r.gid m.idx m.count)
  refine ⟨t.block (.barrier r.gid), (exec_gbar idx s).trans (M.run_block ((M.bind_next (M.check_ok.2 ⟨hm, rfl⟩)).trans ?_)), hrep, hask⟩
  rw [hg, Option.bind_some, if_pos hf, hi]
  refine (congrFun (if_neg (by rw [ha]; decide)) s).trans ?_
  exact (M.bind_next (outgoing_free hl)).trans (M.bind_error hp)

/-- GBAR retires with its release. -/
theorem gbar_retires (ha : Answered s true [.ok ws]) : Completes (.gbar idx) s (Synced s 12) := by
  obtain ⟨t, ht, hs⟩ := synced_ok s 12
  refine ⟨t, (exec_gbar idx s).trans (M.run_ok ((M.bind_next (M.check_ok.2 ⟨hm, rfl⟩)).trans ?_)), hs⟩
  rw [hg, Option.bind_some, if_pos hf, hi]
  refine (congrFun (if_pos (asking_answered ha)) s).trans ?_
  exact (M.bind_next (final_answered ha _)).trans ht

end

/-- The trap of an instruction on a group of which its strand is no member. -/
theorem group_traps (hu : s.me.id.unit = .compute) {i : Instr} (he : ∃ k, exec i s = M.run k s ∧ k s = .error (.trap (.group r)) s) :
    Traps i s Cause.illop 0 (0x4000_0000_0000_0000 ||| ((BitVec.ofNat 64 r.gid).setWidth 32).setWidth 64) := by
  have ht : Trap.group r = .of Cause.illop 0 (0x4000_0000_0000_0000 ||| ((BitVec.ofNat 64 r.gid).setWidth 32).setWidth 64) := by
    unfold Trap.group Trap.operand
    congr 1
  obtain ⟨k, hk, hke⟩ := he
  exact traps_of_exec (t := .of Cause.illop 0 _) (hk.trans (M.run_trap (hke.trans (by rw [ht])))) hu rfl
    (by decide : Cause.illop < 256)

section
variable (hm : s.myLaunch.group idx.toNat = .ok r) (hu : s.me.id.unit = .compute)
  (hno : ∀ h, s.group? s.me.id.launch r.gid = some h → h.memberOf s.me.id = none)
include hm hu hno

/-- LEAVE by a strand that is no member. -/
theorem leave_outside :
    Traps (.leave idx) s Cause.illop 0 (0x4000_0000_0000_0000 ||| ((BitVec.ofNat 64 r.gid).setWidth 32).setWidth 64) := by
  refine group_traps hu ⟨_, exec_leave idx s, (M.bind_next (M.check_ok.2 ⟨hm, rfl⟩)).trans (M.bind_error ?_)⟩
  refine M.trapIf_error s ?_
  cases hg : s.group? s.me.id.launch r.gid with
  | none => rfl
  | some h => simp [hno h hg]

/-- GBAR by a strand that is no member. -/
theorem gbar_outside :
    Traps (.gbar idx) s Cause.illop 0 (0x4000_0000_0000_0000 ||| ((BitVec.ofNat 64 r.gid).setWidth 32).setWidth 64) := by
  refine group_traps hu ⟨_, exec_gbar idx s, (M.bind_next (M.check_ok.2 ⟨hm, rfl⟩)).trans ?_⟩
  have hb : (s.group? s.me.id.launch r.gid).bind
      (fun g => (if g.formed then g.memberOf s.me.id else none).map (fun m => (g, m))) = none := by
    cases hg : s.group? s.me.id.launch r.gid with
    | none => rfl
    | some h => simp [hno h hg]
  rw [hb]
  rfl

end

end

/-- The one group of a name is the one found, and no other has the name. -/
theorem group_of_only {s : State} {l i : Nat} {g : Group} (h : s.groups.filter (fun x => x.launch == l && x.gid == i) = [g]) :
    s.group? l i = some g ∧ ∀ k ∈ s.groups, k.launch = g.launch → k.gid = g.gid → k = g := by
  have hg : s.group? l i = some g := by
    unfold State.group?
    rw [← List.head?_filter, h]
    rfl
  obtain ⟨hl, hi⟩ := State.group?_name hg
  refine ⟨hg, fun k hk hkl hki => ?_⟩
  have : k ∈ s.groups.filter (fun x => x.launch == l && x.gid == i) := List.mem_filter.2 ⟨hk, by simp [hkl, hki, hl, hi]⟩
  rw [h] at this
  exact List.mem_singleton.1 this

/-- Settles O35: JOIN by the kind of its group and what it finds there, LEAVE and GBAR by the answer of the group's home. -/
theorem groups : Obligations.Groups := by
  unfold Obligations.Groups
  intro d idx r g m ws s
  refine ⟨fun hm hg ⟨hf, hi⟩ => join_again hm hg hf hi,
    fun hm ⟨hl, hrel⟩ hr h8 hg hn => join_first hm hl hrel hr h8 hg hn,
    fun hm ⟨hl, hrel⟩ hr h8 hg ho hf hi hj hn => join_next hm hl hrel hr h8 hg ho hf hi hj hn,
    fun hm ⟨hl, hrel⟩ hr h8 hg ho hf hi hj hn => join_full hm hl hrel hr h8 hg ho hf hi hj hn,
    fun hm ⟨hl, hrel⟩ hr h8 hmay hg ho hf hj =>
      ⟨join_waits hm hl hr h8 hmay hg ho hf hj, join_forms hm hl hr h8 hmay hg ho hf hj hrel⟩,
    fun hu hm h8 hg => join_eight hm hu h8 hg, fun hm honly ⟨hf, hi⟩ one ⟨hl, hrel⟩ hst hwin hq => ?_,
    fun hu hm hno => ⟨leave_outside hm hu hno, gbar_outside hm hu hno⟩,
    fun hm hg ⟨hf, hi⟩ => ⟨fun ⟨hl, hrel⟩ ha => gbar_reports hm hg hf hi hl hrel ha, fun ha => gbar_retires hm hg hf hi ha⟩⟩
  obtain ⟨hg, only⟩ := group_of_only honly
  exact ⟨fun hr => leave_completes (ws := ws) hm hg hf hi hrel hst hwin hq only one (.inl ⟨hr, hl⟩),
    fun hr ha => leave_completes hm hg hf hi hrel hst hwin hq only one (.inr ⟨hr, ha⟩),
    fun hr ha => leave_reports hm hg hf hi hrel hst hwin hq hl hr ha⟩

end Sys2Proof.Safety

/-! SUPPORT. What a domain's home resolves and tells its members (R316, R317). -/

namespace Sys2Proof.Machine

/-! ## Packets to members -/

/-- A packet from a group's home to a member's core is in flight. -/
def State.Told (s t : State) (g : Group) (a : Member) (b : Body) : Prop :=
  ∃ p ∈ t.net, p.src = g.home ∧ p.dst = s.coreOf a.sid a.core ∧ p.body = b

theorem State.Told.mono {s t u : State} {g : Group} {a : Member} {b : Body} (h : s.Told t g a b) (hn : ∀ p ∈ t.net, p ∈ u.net) :
    s.Told u g a b :=
  let ⟨p, hp, hw⟩ := h
  ⟨p, hn p hp, hw⟩

/-- Where contexts are does not change with a packet or a group. -/
theorem coreOf_of_shape {s t : State} (h : t = { s with groups := t.groups, net := t.net }) : t.coreOf = s.coreOf := by
  rw [h]; rfl

theorem tell_grows (g : Group) (f : Member → Option Body) (ms : List Member) (s : State) :
    ∀ p ∈ s.net, p ∈ (s.tell g f ms).net := by
  induction ms generalizing s with
  | nil => exact fun p hp => hp
  | cons m ms ih =>
    intro p hp
    rw [tell_cons]
    refine ih _ p ?_
    cases f m with
    | none => exact hp
    | some b => exact List.mem_append_left _ hp

theorem tell_told {g : Group} {f : Member → Option Body} {ms : List Member} {a : Member} {b : Body} (s : State) (ha : a ∈ ms)
    (hb : f a = some b) : s.Told (s.tell g f ms) g a b := by
  induction ms generalizing s with
  | nil => cases ha
  | cons m ms ih =>
    rw [tell_cons]
    rcases List.mem_cons.1 ha with rfl | ha
    · rw [hb]
      exact ⟨_, tell_grows g f ms _ _ (List.mem_append_right _ List.mem_cons_self), rfl, rfl, rfl⟩
    · have h := ih ((f m).elim s (s.toMember g m)) ha
      have hc : ((f m).elim s (s.toMember g m)).coreOf = s.coreOf := by cases f m <;> rfl
      unfold State.Told at h ⊢
      rwa [hc] at h

/-! ## One resolution -/

/-- A member once signals are resolved: it is the same, but that it may run again. -/
def Member.Freed (m m' : Member) : Prop := m' = { m with react := m'.react } ∧ (m.react.blocked = false → m' = m)

/-- A group once signals are resolved: its members are freed, and all but the signals stays. -/
structure Group.Freed (g h : Group) : Prop where
  members : ∃ k : Member → Member, h.members = g.members.map k ∧ ∀ m : Member, m.Freed (k m)
  shape : h = { g with members := h.members, signals := h.signals }

theorem Group.Freed.refl (g : Group) : g.Freed g :=
  ⟨⟨id, (List.map_id _).symm, fun _ => ⟨rfl, fun _ => rfl⟩⟩, rfl⟩

theorem Member.Freed.trans {a b c : Member} (h : a.Freed b) (k : b.Freed c) : a.Freed c := by
  refine ⟨?_, fun hb => ?_⟩
  · rw [k.1, h.1]
  · have := h.2 hb
    subst this
    exact k.2 hb

theorem Group.Freed.trans {a b c : Group} (h : a.Freed b) (k : b.Freed c) : a.Freed c := by
  obtain ⟨⟨f, hf, hff⟩, hs⟩ := h
  obtain ⟨⟨f', hf', hff'⟩, hs'⟩ := k
  refine ⟨⟨f' ∘ f, by rw [hf', hf, List.map_map], fun m => (hff m).trans (hff' _)⟩, ?_⟩
  rw [hs', hs]

theorem resolveSignal_freed (n : Nat) (b : Bool) (g : Group) : g.Freed (g.resolveSignal n b) := by
  refine ⟨⟨_, rfl, fun m => ⟨?_, fun hb => ?_⟩⟩, rfl⟩
  · split <;> rfl
  · refine if_neg fun he => ?_
    rw [he] at hb
    cases hb

section
variable {g h : Group} (hf : g.Freed h)
include hf

/-- A member is found under its index, freed. -/
theorem Group.Freed.member? {i : Nat} {m : Member} (hm : g.member? i = some m) : ∃ m', h.member? i = some m' ∧ m.Freed m' := by
  obtain ⟨k, hk, hkk⟩ := hf.members
  refine ⟨k m, ?_, hkk m⟩
  have hp : ((fun m => m.idx == i) ∘ k) = fun m : Member => m.idx == i := by
    funext m
    simp only [Function.comp_apply]
    rw [(hkk m).1]
  unfold Group.member? at hm ⊢
  rw [hk, List.find?_map, hp, hm]
  rfl

/-- A member inside has a place in the group after. -/
theorem Group.Freed.current {a : Member} (ha : a ∈ g.members) (hi : a.inside = true) :
    ∃ a' ∈ h.current, a'.sid = a.sid ∧ a'.core = a.core ∧ a'.idx = a.idx := by
  obtain ⟨k, hk, hkk⟩ := hf.members
  have he := (hkk a).1
  refine ⟨k a, List.mem_filter.2 ⟨hk ▸ List.mem_map_of_mem ha, by rw [he]; exact hi⟩, ?_, ?_, ?_⟩ <;> rw [he]

/-- As many members may emit a signal. -/
theorem Group.Freed.mayCount (n : Nat) : h.mayCount n = g.mayCount n := by
  obtain ⟨k, hk, hkk⟩ := hf.members
  have hp : ((fun m => m.may.getLsbD n) ∘ k) = fun m : Member => m.may.getLsbD n := by
    funext m
    simp only [Function.comp_apply]
    rw [(hkk m).1]
  unfold Group.mayCount
  rw [hk, List.filter_map, List.length_map, hp]

end

/-- A changed signal is found changed. -/
theorem Group.signal?_modSignal (g : Group) (n k : Nat) {f : Signal → Signal} (hf : ∀ x, (f x).num = x.num) :
    (g.modSignal n f).signal? k = if k = n then (g.signal? k).map f else g.signal? k := by
  have hp : ((fun x : Signal => x.num == k) ∘ fun x : Signal => if x.num == n then f x else x) = fun x : Signal => x.num == k := by
    funext x
    simp only [Function.comp_apply]
    split
    · rw [hf]
    · rfl
  simp only [Group.signal?, Group.modSignal, List.find?_map, hp]
  cases hx : g.signals.find? (fun x => x.num == k) with
  | none => split <;> rfl
  | some x =>
    have hk : x.num = k := by simpa using List.find?_some hx
    simp only [Option.map_some, hk]
    by_cases he : k = n <;> simp [he]

/-- The status that a resolution gives a signal. -/
def Signal.resolved (present : Bool) (x : Signal) : Signal := { x with status := if present then .present else .absent }

theorem resolveSignal_signal? (g : Group) (n k : Nat) (b : Bool) :
    (g.resolveSignal n b).signal? k = if k = n then (g.signal? k).map (.resolved b) else g.signal? k :=
  Group.signal?_modSignal g n k (f := .resolved b) fun _ => rfl

/-- No member is blocked on a resolved signal. -/
theorem resolveSignal_unblocks (g : Group) (n : Nat) (b : Bool) : ∀ a ∈ (g.resolveSignal n b).members, a.react ≠ .blockedSig n := by
  intro a ha
  obtain ⟨m, -, rfl⟩ := List.mem_map.1 ha
  split
  · nofun
  · next h => exact h

section
variable {s : State} {l i : Nat} {g : Group}

/-- The group after a resolution. -/
theorem resolve_group (hg : s.group? l i = some g) (n : Nat) (b : Bool) :
    (s.resolve l i n b).group? l i = some (g.resolveSignal n b) := by
  rw [resolve_shape]
  show (s.modGroup l i (.resolveSignal n b)).group? l i = _
  rw [State.group?_modGroup s l i l i (f := .resolveSignal n b) (fun _ => ⟨rfl, rfl⟩), if_pos ⟨rfl, rfl⟩, hg]
  rfl

theorem resolve_frame (s : State) (l i n : Nat) (b : Bool) :
    s.resolve l i n b = { s with groups := (s.resolve l i n b).groups, net := (s.resolve l i n b).net } := by
  rw [resolve_shape]; rfl

theorem resolve_grows (s : State) (l i n : Nat) (b : Bool) : ∀ p ∈ s.net, p ∈ (s.resolve l i n b).net := by
  rw [resolve_eq]
  cases (s.modGroup l i (.resolveSignal n b)).group? l i with
  | none => exact fun p hp => hp
  | some g => exact tell_grows g (resolutionTo l i n b) g.current (s.modGroup l i (.resolveSignal n b))

/-- Every member's core is told of a resolution. -/
theorem resolve_told (hg : s.group? l i = some g) (n : Nat) (b : Bool) {a : Member} (ha : a ∈ g.members) (hi : a.inside = true) :
    s.Told (s.resolve l i n b) g a (.resolution l i a.idx n b) := by
  obtain ⟨a', ha', hsid, hcore, hidx⟩ := (resolveSignal_freed n b g).current ha hi
  have hm : (s.modGroup l i (.resolveSignal n b)).group? l i = some (g.resolveSignal n b) := by
    rw [State.group?_modGroup s l i l i (f := .resolveSignal n b) (fun _ => ⟨rfl, rfl⟩), if_pos ⟨rfl, rfl⟩, hg]; rfl
  have h := tell_told (g := g.resolveSignal n b) (f := resolutionTo l i n b) (s.modGroup l i (.resolveSignal n b)) ha' rfl
  rw [resolve_eq, hm, Option.elim_some]
  rw [hidx] at h
  unfold State.Told at h ⊢
  rw [hsid, hcore] at h
  exact h

end

/-! ## Absence (R316) -/

/-- A group with signals resolved as absent, one after another. -/
def Group.resolveAll (xs : List Signal) (g : Group) : Group := xs.foldl (fun g x => g.resolveSignal x.num false) g

theorem resolveAll_cons (x : Signal) (xs : List Signal) (g : Group) :
    g.resolveAll (x :: xs) = (g.resolveSignal x.num false).resolveAll xs := rfl

theorem resolveAll_freed (xs : List Signal) (g : Group) : g.Freed (g.resolveAll xs) := by
  induction xs generalizing g with
  | nil => exact .refl g
  | cons x xs ih => exact (resolveSignal_freed x.num false g).trans (ih _)

/-- What becomes of a signal. -/
theorem resolveAll_signal? (xs : List Signal) (g : Group) (n : Nat) :
    (g.resolveAll xs).signal? n = if n ∈ xs.map (·.num) then (g.signal? n).map (.resolved false) else g.signal? n := by
  induction xs generalizing g with
  | nil => rfl
  | cons x xs ih =>
    rw [resolveAll_cons, ih, resolveSignal_signal?]
    have hidem : (Signal.resolved false) ∘ (Signal.resolved false) = Signal.resolved false := rfl
    by_cases hx : n = x.num <;> by_cases hxs : n ∈ xs.map (·.num) <;> simp [hx, hxs, hidem]

section
variable {s : State} {l i : Nat} {g : Group}

theorem State.resolveAll_group (hg : s.group? l i = some g) (xs : List Signal) :
    (s.resolveAll l i xs).group? l i = some (g.resolveAll xs) := by
  induction xs generalizing s g with
  | nil => exact hg
  | cons x xs ih => exact ih (resolve_group hg x.num false)

theorem State.resolveAll_grows (l i : Nat) (xs : List Signal) (s : State) : ∀ p ∈ s.net, p ∈ (s.resolveAll l i xs).net := by
  induction xs generalizing s with
  | nil => exact fun p hp => hp
  | cons x xs ih => exact fun p hp => ih _ p (resolve_grows s l i x.num false p hp)

/-- Every member's core is told of every absence. -/
theorem State.resolveAll_told (hg : s.group? l i = some g) {xs : List Signal} {x : Signal} (hx : x ∈ xs) {a : Member}
    (ha : a ∈ g.members) (hi : a.inside = true) : s.Told (s.resolveAll l i xs) g a (.resolution l i a.idx x.num false) := by
  induction xs generalizing s g a with
  | nil => cases hx
  | cons y ys ih =>
    rcases List.mem_cons.1 hx with rfl | hx
    · exact (resolve_told hg x.num false ha hi).mono (State.resolveAll_grows l i ys _)
    · obtain ⟨a', ha', hsid, hcore, hidx⟩ := (resolveSignal_freed y.num false g).current ha hi
      obtain ⟨ham, hai⟩ := List.mem_filter.1 ha'
      have h := ih (resolve_group hg y.num false) hx ham hai
      unfold State.Told at h ⊢
      rw [coreOf_of_shape (resolve_frame s l i y.num false), hsid, hcore, hidx] at h
      exact h

/-- The group once its silent signals are absent. -/
theorem absences_group (hg : s.group? l i = some g) : (s.absences l i).group? l i = some (g.resolveAll g.silent) := by
  rw [absences_eq, hg]
  exact State.resolveAll_group hg _

theorem absences_grows (s : State) (l i : Nat) : ∀ p ∈ s.net, p ∈ (s.absences l i).net := by
  rw [absences_eq]
  cases s.group? l i with
  | none => exact fun p hp => hp
  | some g => exact State.resolveAll_grows l i _ s

theorem absences_told (hg : s.group? l i = some g) {x : Signal} (hx : x ∈ g.silent) {a : Member} (ha : a ∈ g.members)
    (hi : a.inside = true) : s.Told (s.absences l i) g a (.resolution l i a.idx x.num false) := by
  rw [absences_eq, hg]
  exact State.resolveAll_told hg hx ha hi

end

/-- A signal found has its number and lies in its group. -/
theorem Group.signal?_some {g : Group} {n : Nat} {x : Signal} (h : g.signal? n = some x) : x ∈ g.signals ∧ x.num = n :=
  ⟨List.mem_of_find?_eq_some h, by simpa using List.find?_some h⟩

/-- A signal that nobody may emit becomes absent, where it was unknown. -/
theorem silent_absent {g : Group} {n : Nat} {x : Signal} (hx : g.signal? n = some x) (hu : x.status = .unknown)
    (hc : g.mayCount n = 0) : x ∈ g.silent ∧ (g.resolveAll g.silent).signal? n = some { x with status := .absent } := by
  obtain ⟨hm, rfl⟩ := Group.signal?_some hx
  have hs : x ∈ g.silent := List.mem_filter.2 ⟨hm, by simp [hu, hc]⟩
  refine ⟨hs, ?_⟩
  rw [resolveAll_signal?, if_pos (List.mem_map_of_mem hs), hx]
  rfl

/-- A signal that a member may emit stays as it is. -/
theorem silent_keeps {g : Group} {n : Nat} (hc : g.mayCount n ≠ 0) : (g.resolveAll g.silent).signal? n = g.signal? n := by
  rw [resolveAll_signal?, if_neg]
  intro h
  obtain ⟨y, hy, rfl⟩ := List.mem_map.1 h
  have := (List.mem_filter.1 hy).2
  simp [hc] at this

/-- Nobody may emit a signal exactly when it is in no may-emit set. -/
theorem Group.mayCount_zero {g : Group} {n : Nat} : g.mayCount n = 0 ↔ ∀ m ∈ g.members, m.may.getLsbD n = false := by
  unfold Group.mayCount
  simp

end Sys2Proof.Machine

/-! SUPPORT. The reports of members at the home of a domain (R315, R316). -/

namespace Sys2Proof.Machine

/-! ## A member changed at the home -/

theorem group?_modMember {s : State} {l i : Nat} {g : Group} (hg : s.group? l i = some g) (idx : Nat) (f : Member → Member) :
    (s.modGroup l i (fun g => g.modMember idx f)).group? l i = some (g.modMember idx f) := by
  rw [State.group?_modGroup s l i l i (f := fun g => g.modMember idx f) (fun _ => ⟨rfl, rfl⟩), if_pos ⟨rfl, rfl⟩, hg]
  rfl

theorem Group.member?_modMember {g : Group} {idx : Nat} {m : Member} (hm : g.member? idx = some m) {f : Member → Member}
    (hf : ∀ m, (f m).idx = m.idx) : (g.modMember idx f).member? idx = some (f m) := by
  have hp : ((fun m : Member => m.idx == idx) ∘ fun m : Member => if m.idx == idx then f m else m) = fun m : Member => m.idx == idx := by
    funext m
    simp only [Function.comp_apply]
    split
    · rw [hf]
    · rfl
  have hi : m.idx = idx := by simpa using List.find?_some hm
  unfold Group.member? at hm ⊢
  rw [Group.modMember, List.find?_map, hp, hm]
  simp [hi]

/-- A change that lets a member stay who and where it is. -/
def Member.Stays (f : Member → Member) : Prop :=
  ∀ m, (f m).idx = m.idx ∧ (f m).sid = m.sid ∧ (f m).core = m.core ∧ (f m).inside = m.inside

/-- A member inside is inside after the change. -/
theorem Group.modMember_mem {g : Group} {idx : Nat} {f : Member → Member} (hf : Member.Stays f) {a : Member} (ha : a ∈ g.members) :
    ∃ a' ∈ (g.modMember idx f).members, a'.idx = a.idx ∧ a'.sid = a.sid ∧ a'.core = a.core ∧ a'.inside = a.inside := by
  refine ⟨_, List.mem_map_of_mem ha, ?_⟩
  split
  · exact hf a
  · exact ⟨rfl, rfl, rfl, rfl⟩

/-- A group changed, where it is the one that its name finds. -/
theorem groupIs_modGroup (s : State) (l i : Nat) {f : Group → Group} (hf : Group.Keeps f) :
    Safety.GroupIs s l i f (s.modGroup l i f) :=
  ⟨by rw [State.group?_modGroup s l i l i hf, if_pos ⟨rfl, rfl⟩],
   fun k j hn => by rw [State.group?_modGroup s l i k j hf, if_neg hn], rfl⟩

/-! ## Signals out of a may-emit set (R213, R214) -/

/-- A group with signals out of the may-emit set of a member. -/
def Group.drop (idx : Nat) (keep : BitVec 256) (g : Group) : Group := g.modMember idx (fun m => { m with may := m.may &&& keep })

/-- The same, with what becomes absent by it. -/
def Group.dropped (idx : Nat) (keep : BitVec 256) (g : Group) : Group := (g.drop idx keep).resolveAll (g.drop idx keep).silent

/-- Only one member may emit a signal. -/
@[reducible] def Group.OnlyMay (g : Group) (n idx : Nat) : Prop := ∀ b ∈ g.members, b.may.getLsbD n = true → b.idx = idx

theorem drop_mayCount {g : Group} {idx n : Nat} {keep : BitVec 256} (hk : keep.getLsbD n = false) :
    (g.drop idx keep).mayCount n = 0 ↔ g.OnlyMay n idx := by
  rw [Group.mayCount_zero]
  constructor
  · intro h b hb hm
    have := h _ (List.mem_map_of_mem hb)
    by_contra hne
    simp [hne, hm] at this
  · intro h b hb
    obtain ⟨a, ha, rfl⟩ := List.mem_map.1 hb
    split
    · simp [hk]
    · next hne =>
      rw [Bool.eq_false_iff]
      exact fun hm => hne (by simpa using h a ha hm)

section
variable {g : Group} {idx n : Nat} {keep : BitVec 256} {m : Member} {x : Signal}

theorem dropped_member (hm : g.member? idx = some m) :
    ∃ a, (g.dropped idx keep).member? idx = some a ∧ ({ m with may := m.may &&& keep } : Member).Freed a :=
  (resolveAll_freed _ (g.drop idx keep)).member? (Group.member?_modMember hm fun _ => rfl)

theorem dropped_absent (hx : g.signal? n = some x) (hu : x.status = .unknown) (hk : keep.getLsbD n = false) (ho : g.OnlyMay n idx) :
    (g.dropped idx keep).signal? n = some { x with status := .absent } :=
  (silent_absent (g := g.drop idx keep) hx hu ((drop_mayCount hk).2 ho)).2

theorem dropped_keeps (hx : g.signal? n = some x) (hk : keep.getLsbD n = false) (ho : ¬ g.OnlyMay n idx) :
    (g.dropped idx keep).signal? n = some x :=
  (silent_keeps (g := g.drop idx keep) (mt (drop_mayCount hk).1 ho)).trans hx

/-- A signal once a member may not emit it any more. -/
theorem dropped_signal (hx : g.signal? n = some x) (hu : x.status = .unknown) (hk : keep.getLsbD n = false)
    [Decidable (g.OnlyMay n idx)] :
    (g.dropped idx keep).signal? n = some { x with status := if g.OnlyMay n idx then .absent else .unknown } := by
  by_cases ho : g.OnlyMay n idx
  · rw [dropped_absent hx hu hk ho, if_pos ho]
  · rw [dropped_keeps hx hk ho, if_neg ho, ← hu]

end

section
variable {s : State} {l i : Nat} {g : Group}

theorem dropMay_group (hg : s.group? l i = some g) (idx : Nat) (keep : BitVec 256) :
    (s.dropMay l i idx keep).group? l i = some (g.dropped idx keep) :=
  absences_group (group?_modMember hg idx _)

theorem dropMay_frame (s : State) (l i idx : Nat) (keep : BitVec 256) :
    s.dropMay l i idx keep = { s with groups := (s.dropMay l i idx keep).groups, net := (s.dropMay l i idx keep).net } := by
  rw [State.dropMay, absences_shape]; rfl

/-- Every member's core is told of an absence that a report brings. -/
theorem dropMay_told (hg : s.group? l i = some g) {idx n : Nat} {keep : BitVec 256} {x : Signal} (hx : g.signal? n = some x)
    (hu : x.status = .unknown) (hk : keep.getLsbD n = false) (ho : g.OnlyMay n idx) {a : Member} (ha : a ∈ g.members)
    (hi : a.inside = true) : s.Told (s.dropMay l i idx keep) g a (.resolution l i a.idx n false) := by
  obtain ⟨a', ha', hidx, hsid, hcore, hin⟩ := g.modMember_mem (idx := idx)
    (f := fun m => { m with may := m.may &&& keep }) (fun _ => ⟨rfl, rfl, rfl, rfl⟩) ha
  obtain ⟨hs, -⟩ := silent_absent (g := g.drop idx keep) hx hu ((drop_mayCount hk).2 ho)
  have h := absences_told (group?_modMember hg idx (fun m => { m with may := m.may &&& keep })) hs ha' (hin.trans hi)
  rw [(Group.signal?_some hx).2] at h
  unfold State.Told at h ⊢
  rw [hsid, hcore, hidx] at h
  exact h

/-- The home of a group that runs is not evicted. -/
theorem groupEvicted_of (hg : s.group? l i = some g) (he : s.evictedAt l g.home = false) : s.groupEvicted l i = false := by
  rw [State.groupEvicted, hg]
  exact he

end

/-- The value that an emission makes of a signal's (R17). -/
theorem combine_eq (c : BitVec 2) (old new : W32) : combine c old new =
    if c = 0 then 0 else if c = 1 then old + new else if c = 2 then old ||| new else if old.ult new then new else old := by
  have h : ∀ c : BitVec 2, c = 0 ∨ c = 1 ∨ c = 2 ∨ c = 3 := by decide
  rcases h c with rfl | rfl | rfl | rfl <;> rfl

/-- The bit of a signal, out of a set. -/
theorem without_getLsbD {n : Nat} (h : n < 256) : (without n).getLsbD n = false := by
  rw [without, BitVec.getLsbD_not, BitVec.getLsbD_ofNat, Nat.testBit_two_pow_self]
  simp [h]

end Sys2Proof.Machine

namespace Sys2Proof.Safety

open Sys2Proof.Machine

section
variable {s : State} {k l i : Nat} {g : Group} (hg : s.group? l i = some g) (he : s.evictedAt l g.home = false)
include hg he

/-- A signal of the group once a value is emitted into it. -/
def emitted (v : W32) (x : Signal) : Signal := { x with value := combine x.comb x.value v }

theorem exec_emit_here {idx n : Nat} {v : W32} {x : Signal} (ha : s.arriving k = some (.emit l i idx n v)) (hx : g.signal? n = some x) :
    ∃ w : State, w = { s.deliver k with groups := w.groups } ∧ w.group? l i = some (g.modSignal n (emitted v)) ∧
      exec (.emitReport k) s = .next (if x.status = .unknown then w.resolve l i n true else w) := by
  let w := (s.deliver k).modGroup l i (fun g => g.modSignal n (emitted v))
  have hw : w.group? l i = some (g.modSignal n (emitted v)) := by
    have := State.group?_modGroup (s.deliver k) l i l i (f := fun g => g.modSignal n (emitted v)) (fun _ => ⟨rfl, rfl⟩)
    rw [if_pos ⟨rfl, rfl⟩, show (s.deliver k).group? l i = some g from hg] at this
    exact this
  have hs : (g.modSignal n (emitted v)).signal? n = some (emitted v x) := by
    rw [Group.signal?_modSignal g n n (f := emitted v) fun _ => rfl, if_pos rfl, hx]; rfl
  refine ⟨w, rfl, hw, ?_⟩
  rw [exec_emitReport, execEmitReport, ha]
  dsimp only
  rw [if_neg (by rw [groupEvicted_of hg he]; decide)]
  have hc : ((w.group? l i).bind (·.signal? n)).any (fun x => decide (x.status = .unknown)) = decide (x.status = .unknown) := by
    rw [hw, Option.bind_some, hs]; rfl
  show (if ((w.group? l i).bind (·.signal? n)).any (fun x => decide (x.status = .unknown)) then _ else _) = _
  rw [hc]
  by_cases hu : x.status = .unknown
  · exact (if_pos (decide_eq_true hu)).trans (congrArg Host.Outcome.next (if_pos hu).symm)
  · exact (if_neg (by simpa using hu)).trans (congrArg Host.Outcome.next (if_neg hu).symm)

/-- An EMIT at the home. -/
theorem emit_completes {idx n : Nat} {v : W32} {x : Signal} (ha : s.arriving k = some (.emit l i idx n v))
    (hx : g.signal? n = some x) : Completes (.emitReport k) s (fun t =>
      t = { s.deliver k with groups := t.groups, net := t.net } ∧
      (∃ h, t.group? l i = some h ∧ h.signal? n = some { x with value := combine x.comb x.value v, status := if x.status = .unknown then .present else x.status } ∧
        (x.status = .unknown → ∀ a ∈ h.members, a.react ≠ .blockedSig n)) ∧
      (x.status = .unknown → ∀ a ∈ g.members, a.inside = true → s.Told t g a (.resolution l i a.idx n true)) ∧
      (x.status ≠ .unknown → t.net = (s.deliver k).net)) := by
  obtain ⟨w, hw, hwg, hexec⟩ := exec_emit_here hg he ha hx
  have hs : (g.modSignal n (emitted v)).signal? n = some (emitted v x) := by
    rw [Group.signal?_modSignal g n n (f := emitted v) fun _ => rfl, if_pos rfl, hx]; rfl
  by_cases hu : x.status = .unknown
  · rw [if_pos hu] at hexec
    refine ⟨_, hexec, by rw [resolve_frame, hw], ⟨_, resolve_group hwg n true, ?_, fun _ => resolveSignal_unblocks _ n true⟩, fun _ a hm hi => ?_,
      fun h => absurd hu h⟩
    · rw [resolveSignal_signal?, if_pos rfl, hs, if_pos hu]
      rfl
    · have h := resolve_told hwg n true (a := a) hm hi
      unfold State.Told at h ⊢
      rw [coreOf_of_shape (s := s.deliver k) (t := w) (by rw [hw])] at h
      exact h
  · rw [if_neg hu] at hexec ⊢
    exact ⟨_, hexec, by rw [hw], ⟨_, hwg, hs, fun h => absurd h hu⟩, fun h => absurd h hu, fun _ => by rw [hw]⟩

section
variable {idx n port : Nat} {m : Member} {x : Signal}

/-- A RETRACT at the home. -/
theorem retract_completes (ha : s.arriving k = some (.retract l i idx n)) (hm : g.member? idx = some m) (hx : g.signal? n = some x)
    (hu : x.status = .unknown) (hn : n < 256) [Decidable (g.OnlyMay n idx)] : Completes (.retractReport k) s (fun t =>
      t = { s.deliver k with groups := t.groups, net := t.net } ∧ ∃ h, t.group? l i = some h ∧
        h.signal? n = some { x with status := if g.OnlyMay n idx then .absent else .unknown } ∧
        (∃ a, h.member? idx = some a ∧ a.may = m.may &&& ~~~bitOf n) ∧
        (g.OnlyMay n idx → ∀ a ∈ g.members, a.inside = true → s.Told t g a (.resolution l i a.idx n false))) := by
  have hd : (s.deliver k).group? l i = some g := hg
  obtain ⟨a, hma, hf, -⟩ := dropped_member (keep := without n) hm
  refine ⟨(s.deliver k).dropMay l i idx (without n), ?_, dropMay_frame .., _, dropMay_group hd idx (without n),
    dropped_signal hx hu (without_getLsbD hn), ⟨a, hma, by rw [hf]; rfl⟩,
    fun ho a hm hi => dropMay_told hd hx hu (without_getLsbD hn) ho hm hi⟩
  rw [exec_retractReport, execRetractReport, ha]
  exact if_neg (by rw [groupEvicted_of hg he]; decide)

omit he in
/-- A member whose state the home has changed and whose signals it has taken back (R315). -/
theorem react_dropped (hm : g.member? idx = some m) {r : ReactState} (hr : r.blocked = false) :
    let w := ((s.deliver k).setReact l i idx r).dropMay l i idx 0
    w = { s.deliver k with groups := w.groups, net := w.net } ∧
    ∃ h a, w.group? l i = some h ∧ h.member? idx = some a ∧ a.react = r ∧ a.may = 0 ∧
      ∀ n x, g.signal? n = some x → x.status = .unknown → g.OnlyMay n idx → h.signal? n = some { x with status := .absent } := by
  have hd : (s.deliver k).group? l i = some g := hg
  have hm1 := Group.member?_modMember (f := fun m => { m with react := r }) hm fun _ => rfl
  have hg1 : ((s.deliver k).setReact l i idx r).group? l i = some (g.modMember idx (fun m => { m with react := r })) :=
    group?_modMember hd idx _
  obtain ⟨a, hma, -, hf⟩ := dropped_member (keep := 0) hm1
  have hae := hf hr
  refine ⟨by rw [dropMay_frame]; rfl, _, a, dropMay_group hg1 idx 0, hma, by rw [hae], by rw [hae]; exact BitVec.and_zero,
    fun n x hx hu ho => dropped_absent (g := g.modMember idx (fun m => { m with react := r })) hx hu (BitVec.getLsbD_zero) ?_⟩
  intro b hb hmay
  obtain ⟨c, hc, rfl⟩ := List.mem_map.1 hb
  split at hmay
  · next h => exact (if_pos h).symm ▸ ho c hc hmay
  · next h => exact (if_neg h).symm ▸ ho c hc hmay

end

end

end Sys2Proof.Safety

/-! SUPPORT. Reports that a member is blocked or runs, the resolutions and the resumption at a member (R315, R316, R320), and
the causality cycle (R318). -/

namespace Sys2Proof.Safety

open Sys2Proof.Machine

section
variable {s : State} {k l i idx n port : Nat} {g : Group} {m : Member} {x : Signal}
  (hg : s.group? l i = some g) (he : s.evictedAt l g.home = false)
include hg he

/-- A PAUSE at the home. -/
theorem pause_completes (ha : s.arriving k = some (.pause l i idx)) (hm : g.member? idx = some m) :
    Completes (.pauseReport k) s (fun t => t = { s.deliver k with groups := t.groups, net := t.net } ∧
      ∃ h a, t.group? l i = some h ∧ h.member? idx = some a ∧ a.react = .paused ∧ a.may = 0 ∧
        (g.signal? n = some x → x.status = .unknown → g.OnlyMay n idx → h.signal? n = some { x with status := .absent })) := by
  obtain ⟨hframe, h, a, hh, hma, hr, hmay, hs⟩ := react_dropped (k := k) hg hm (r := .paused) rfl
  refine ⟨_, ?_, hframe, h, a, hh, hma, hr, hmay, hs n x⟩
  rw [exec_pauseReport, execPauseReport, ha]
  exact if_neg (by rw [groupEvicted_of hg he]; decide)

/-- A LEAVE at the home. -/
theorem leaveReport_completes (ha : s.arriving k = some (.leave l i idx)) (hm : g.member? idx = some m) :
    Completes (.leaveReport k) s (fun t => t = { s.deliver k with groups := t.groups, net := t.net } ∧
      ∃ h a, t.group? l i = some h ∧ h.member? idx = some a ∧ a.react = (if m.inside then .leaving else .left) ∧ a.may = 0) := by
  obtain ⟨hframe, h, a, hh, hma, hr, hmay, -⟩ := react_dropped (k := k) hg hm
    (r := if m.inside then .leaving else .left) (by split <;> rfl)
  refine ⟨_, ?_, hframe, h, a, hh, hma, hr, hmay⟩
  rw [exec_leaveReport, execLeaveReport, ha]
  refine (if_neg (by rw [groupEvicted_of hg he]; decide)).trans ?_
  rw [hg, Option.bind_some, hm]
  rfl

/-- A member that the home hears is blocked on a signal. -/
theorem blockSig_completes (ha : s.arriving k = some (.blockSig l i idx n)) (hm : g.member? idx = some m)
    (hx : g.signal? n = some x) : Completes (.blockReport k) s (fun t =>
      (∃ h, t.group? l i = some h ∧ h.member? idx = some (if x.status = .unknown then { m with react := .blockedSig n } else m)) ∧
      t = { s.deliver k with groups := t.groups }) := by
  have hexec : exec (.blockReport k) s = .next (if decide (x.status = .unknown) then (s.deliver k).setReact l i idx (.blockedSig n) else s.deliver k) := by
    rw [exec_blockReport, execBlockReport, ha]
    refine (if_neg (by rw [groupEvicted_of hg he]; decide)).trans ?_
    show (if (((s.group? l i).bind (·.signal? n)).any fun x => decide (x.status = .unknown)) = true then _ else _) = _
    rw [hg, Option.bind_some, hx, Option.any_some]
    split <;> rfl
  by_cases hu : x.status = .unknown
  · rw [if_pos (decide_eq_true hu)] at hexec
    rw [if_pos hu]
    exact ⟨_, hexec, ⟨_, group?_modMember (s := s.deliver k) hg idx _, Group.member?_modMember hm fun _ => rfl⟩, rfl⟩
  · rw [if_neg (by simpa using hu)] at hexec
    rw [if_neg hu]
    exact ⟨_, hexec, ⟨g, hg, hm⟩, rfl⟩

/-- A member that the home hears is blocked on a port. -/
theorem blockPort_completes (ha : s.arriving k = some (.blockPort l i idx port)) (hp : s.portEvaluated l port = false) :
    Completes (.blockReport k) s (GroupIs (s.deliver k) l i (fun g => g.modMember idx (fun m => { m with react := .blockedPort port }))) := by
  refine ⟨_, ?_, groupIs_modGroup (s.deliver k) l i fun _ => ⟨rfl, rfl⟩⟩
  rw [exec_blockReport, execBlockReport, ha]
  refine (if_neg (by rw [groupEvicted_of hg he]; decide)).trans ?_
  exact if_neg (by rw [show (s.deliver k).portEvaluated l port = false from hp]; decide)

/-- A member that the home hears runs. -/
theorem unblock_completes (ha : s.arriving k = some (.unblock l i idx)) (hm : g.member? idx = some m) :
    Completes (.unblockReport k) s (fun t =>
      (∃ h, t.group? l i = some h ∧ h.member? idx = some { m with react := if m.react.blocked then .running else m.react, renew := false }) ∧
      t = { s.deliver k with groups := t.groups }) := by
  refine ⟨_, ?_, ⟨_, group?_modMember (s := s.deliver k) hg idx _,
    Group.member?_modMember (f := fun m => { m with react := if m.react.blocked then .running else m.react, renew := false }) hm fun _ => rfl⟩, rfl⟩
  rw [exec_unblockReport, execUnblockReport, ha]
  exact if_neg (by rw [groupEvicted_of hg he]; decide)

/-- A resolution at a member. -/
theorem resolution_completes {pres : Bool} (ha : s.arriving k = some (.resolution l i idx n pres)) :
    Completes (.resolutionArrival k) s
      (GroupIs (s.deliver k) l i (fun g => g.modMember idx (fun m => { m with sees := m.sees ++ [(n, pres)] }))) := by
  refine ⟨_, ?_, groupIs_modGroup (s.deliver k) l i fun _ => ⟨rfl, rfl⟩⟩
  rw [exec_resolutionArrival, execResolutionArrival, ha]
  exact if_neg (by rw [groupEvicted_of hg he]; decide)

/-- The signals that a member's core holds as its own at the start of an instant (R320). -/
def mineNow (s : State) (g : Group) (m : Member) (l idx : Nat) : BitVec 256 :=
  if m.react = .left then 0 else (s.launch l).mayEmit ((s.launch l).recOf g) idx

/-- A resumption at a member. -/
theorem resumption_completes {inst : W32} (ha : s.arriving k = some (.resume l i idx inst)) (hm : g.member? idx = some m) :
    Completes (.resumptionArrival k) s (fun t =>
      (∀ j, t.strand? j = if j = m.sid then (s.strand? j).map (·.wake .instant (.ok [])) else s.strand? j) ∧
      (∃ h a, t.group? l i = some h ∧ h.member? idx = some a ∧ a.sees = [] ∧ a.mine = mineNow s g m l idx) ∧
      t = { s.deliver k with me := t.me, rest := t.rest, groups := t.groups }) := by
  let f : Member → Member := fun p => { p with sees := [], mine := mineNow s g m l idx }
  let w := (s.deliver k).modGroup l i (fun g => g.modMember idx f)
  refine ⟨w.modStrand m.sid (·.wake .instant (.ok [])), ?_, fun j => ?_, ⟨_, f m, group?_modMember (s := s.deliver k) hg idx _,
    Group.member?_modMember hm fun _ => rfl, rfl, rfl⟩, rfl⟩
  · rw [exec_resumptionArrival, execResumptionArrival, ha]
    refine (if_neg (by rw [groupEvicted_of hg he]; decide)).trans ?_
    rw [hg, Option.bind_some, hm]
    rfl
  · rw [State.strand?_modStrand w m.sid j (·.wake .instant (.ok [])) fun _ => rfl]
    split
    · next h => rw [h]; rfl
    · rfl

end

end Sys2Proof.Safety

/-! SUPPORT. The causality cycle, and CAUSE at its member (R318, R319). -/

namespace Sys2Proof.Machine

/-- What the home of a stalled domain sends to a member (R319). -/
def Group.causeTo (g : Group) (m : Member) : Option Body :=
  match m.react with
  | .blockedSig x => some (.cause g.launch g.gid m.idx (causeInfo g.inst g.waitedOn.length false x))
  | .blockedPort _ => some (.cause g.launch g.gid m.idx (causeInfo g.inst g.waitedOn.length true 0))
  | _ => none

/-- A member after the causality cycle. -/
def Member.unstall (m : Member) : Member := if m.react.blocked then { m with react := .running } else m

theorem unstall_runs (m : Member) : m.unstall.react.blocked = false := by
  unfold Member.unstall
  split
  · rfl
  · next h => simpa using h

theorem exec_causalityCycle_stalled {s : State} {key : Nat} {g : Group} (hk : s.groups[key]? = some g) (hs : s.stalled g = true) :
    exec (.causalityCycle key) s = .next ((s.tell g g.causeTo g.members).modGroup g.launch g.gid (fun g =>
      { g with members := g.members.map .unstall })) := by
  rw [exec_causalityCycle, execCausalityCycle, hk]
  refine (if_neg (by rw [hs]; decide)).trans ?_
  have hstep : (fun (s : State) (m : Member) => (g.causeTo m).elim s (s.toMember g m)) = fun s m =>
      match m.react with
      | .blockedSig x => s.toMember g m (.cause g.launch g.gid m.idx (causeInfo g.inst g.waitedOn.length false x))
      | .blockedPort _ => s.toMember g m (.cause g.launch g.gid m.idx (causeInfo g.inst g.waitedOn.length true 0))
      | _ => s := by
    funext s m
    unfold Group.causeTo
    cases m.react <;> rfl
  rw [State.tell, hstep] <;> rfl

/-! ## What a member is blocked on -/

section
variable {s : State} {p : Pend} (hown : s.ownOffer = none) (hpend : s.me.pendOf = some p)

theorem Strand.blockedThere_signal {c : Strand} {p : Pend} {n : Nat} (hpend : c.pendOf = some p) (hon : p.on = .signal n) :
    c.blockedThere = true := by
  rw [Strand.blockedThere, hpend, Option.any_some, hon]

include hown hpend

theorem testing_signal {n : Nat} (hon : p.on = .signal n) : s.testing = some (false, n) := by
  unfold State.testing
  rw [hown]
  dsimp only
  rw [hpend, Option.bind_some, hon]

theorem testing_port {n : Nat} {b : Option W64} (hon : p.on = .port n) (ho : AMap.get s.me.ports n = some (.offered b false)) :
    s.testing = some (true, n) := by
  unfold State.testing
  rw [hown]
  dsimp only
  rw [hpend, Option.bind_some, hon]
  dsimp only
  rw [ho]

end

/-- The report of a blocked member that runs again is a packet, and nothing else. -/
theorem unblocked_shape (s : State) : s.unblocked = { s with net := s.unblocked.net } := by
  unfold State.unblocked
  split
  · split <;> rfl
  · rfl

theorem unblocked_report {s : State} {g : Group} {m : Member} (hf : s.flaggedOf s.me.id = some (g, m)) (hr : g.reactive = true)
    (hb : s.me.blockedThere = true) : s.unblocked = s.report g (.unblock g.launch g.gid m.idx) := by
  unfold State.unblocked
  rw [hf]
  exact if_pos (by rw [hb, hr]; rfl)

/-- The state after an offer has been asked back (R209). -/
def withdrawn (s : State) (idx : Nat) (b : Option W64) (w : W64) : State :=
  (s.modMe (fun c => { c with ports := AMap.put c.ports idx (.offered b true) })).toPillow (PortRec.ofWord w)
    (.withdraw (PortRec.ofWord w).hvc (PortRec.ofWord w).conn (PortRec.ofWord w).lidx s.me.id idx)

theorem withdrawPort_out {s : State} {idx : Nat} {b : Option W64} {w : W64} (ho : AMap.get s.me.ports idx = some (.offered b false))
    (hw : s.myLaunch.pool[idx]? = some w) : s.withdrawPort idx = withdrawn s idx b w := by
  unfold State.withdrawPort
  rw [ho, hw]
  rfl

/-- EINFO of CAUSE by its fields. -/
theorem causeInfo_fields (inst : W32) {n lo : Nat} (hn : n < 256) (hlo : lo < 65536) {port : Bool} {sig : Nat}
    (hl : (if port then 256 else 0) + sig = lo) :
    causeInfo inst n port sig = inst ++ (BitVec.ofNat 16 n ++ BitVec.ofNat 16 lo) := by
  refine BitVec.eq_of_toNat_eq ?_
  have hi := inst.isLt
  have h1 : (BitVec.ofNat 16 n ++ BitVec.ofNat 16 lo).toNat = n * 2 ^ 16 + lo := by
    rw [BitVec.toNat_append, BitVec.toNat_ofNat, BitVec.toNat_ofNat, Nat.mod_eq_of_lt (by omega), Nat.mod_eq_of_lt hlo,
      ← Nat.shiftLeft_add_eq_or_of_lt (by omega), Nat.shiftLeft_eq]
  rw [BitVec.toNat_append, h1, ← Nat.shiftLeft_add_eq_or_of_lt (by omega), Nat.shiftLeft_eq, causeInfo, BitVec.toNat_ofNat,
    Nat.mod_eq_of_lt (by omega)]
  omega

end Sys2Proof.Machine

namespace Sys2Proof.Safety

open Sys2Proof.Machine

/-- The causality cycle of a stalled domain. -/
theorem causality_completes {s : State} {key : Nat} {g : Group} (hk : s.groups[key]? = some g)
    (hg : s.group? g.launch g.gid = some g) (hs : s.stalled g = true) : Completes (.causalityCycle key) s (fun t =>
      (∀ h, t.group? g.launch g.gid = some h → ∀ a ∈ h.members, a.react.blocked = false) ∧
      (∀ a ∈ g.members, ∀ b, g.causeTo a = some b → s.Told t g a b) ∧
      t = { s with groups := t.groups, net := t.net }) := by
  refine ⟨_, exec_causalityCycle_stalled hk hs, fun h hh a ha => ?_, fun a ha b hb => tell_told s ha hb, by rw [tell_shape]; rfl⟩
  have hg' : (s.tell g g.causeTo g.members).group? g.launch g.gid = some g := by rw [tell_shape]; exact hg
  rw [State.group?_modGroup _ _ _ _ _ (f := fun g => { g with members := g.members.map .unstall }) (fun _ => ⟨rfl, rfl⟩),
    if_pos ⟨rfl, rfl⟩, hg'] at hh
  cases hh
  obtain ⟨m, -, rfl⟩ := List.mem_map.1 ha
  exact unstall_runs m

/-- The causality cycle of a domain that is not stalled. -/
theorem causality_idle {s : State} {key : Nat} {g : Group} (hk : s.groups[key]? = some g) (hs : s.stalled g = false) :
    Completes (.causalityCycle key) s (fun t => t = s) := by
  refine ⟨s, ?_, rfl⟩
  rw [exec_causalityCycle, execCausalityCycle, hk]
  exact if_pos (by rw [hs]; rfl)

section
variable {s : State} {k l i idx : Nat} {e : W64} {g : Group} {m : Member}
  (hg : s.group? l i = some g) (he : s.evictedAt l g.home = false)
  (ha : s.arriving k = some (.cause l i idx e)) (hm : g.member? idx = some m) (hme : m.sid = s.me.id)
  (alone : ∀ r ∈ s.rest, r.id ≠ s.me.id)
include hg he ha hm hme alone

/-- CAUSE at the executing context. -/
theorem exec_causeArrival_me (hrest : ((s.deliver k).takeCause e).rest = s.rest) :
    exec (.causeArrival k) s = .next ((s.deliver k).takeCause e) := by
  rw [exec_causeArrival, execCauseArrival, ha]
  refine (if_neg (by rw [groupEvicted_of hg he]; decide)).trans ?_
  rw [hg, Option.bind_some, hm]
  refine congrArg Host.Outcome.next ?_
  rw [hme]
  exact State.asStrand_me (s := s.deliver k) (·.takeCause e) alone hrest

/-- CAUSE of a context that waits for nothing is not delivered. -/
theorem cause_idle (hown : s.ownOffer = none) (hp : s.me.pendOf = none) : Completes (.causeArrival k) s (fun t => t = s.deliver k) := by
  have ht : (s.deliver k).takeCause e = s.deliver k := by
    have : (s.deliver k).testing = none := by
      show (match s.ownOffer with | some idx => _ | none => _) = _
      rw [hown]
      show s.me.pendOf.bind _ = none
      rw [hp]
      rfl
    rw [State.takeCause, this]
  exact ⟨_, (exec_causeArrival_me hg he ha hm hme alone (by rw [ht]; rfl)).trans (by rw [ht]), rfl⟩

/-- CAUSE of a context that is blocked on a signal: the trap, once its home knows that it runs (R315). -/
theorem cause_signal {n : Nat} (hu : s.me.id.unit = .compute) (hown : s.ownOffer = none)
    (hp : s.me.pendOf.map Pend.on = some (.signal n)) (h8 : e.getLsbD 8 = false) : Completes (.causeArrival k) s (fun t =>
      TakesTrap { s.deliver k with net := t.net } Cause.cause (BitVec.ofNat 64 n) e t ∧
      (g.reactive = true → s.flaggedOf s.me.id = some (g, m) → Reported (s.deliver k) t g.home (.unblock g.launch g.gid m.idx))) := by
  obtain ⟨p, hpend, hon⟩ := Option.map_eq_some_iff.1 hp
  have ht : (s.deliver k).takeCause e = (s.deliver k).unblocked.takeTrap (.of Cause.cause (BitVec.ofNat 64 n) e) := by
    rw [State.takeCause, testing_signal (s := s.deliver k) hown hpend hon]
    exact if_neg (by rw [h8]; decide)
  have htake := takeTrap_takes (s.deliver k).unblocked (.of Cause.cause (BitVec.ofNat 64 n) e)
    (by rw [unblocked_shape]; exact hu) rfl (by decide : Cause.cause < 256)
  have hnet : ((s.deliver k).takeCause e).net = (s.deliver k).unblocked.net := by rw [ht, htake.others]
  refine ⟨_, exec_causeArrival_me hg he ha hm hme alone ?_, ?_, fun hr hf => ⟨s.next, Nat.le_refl _, ?_⟩⟩
  · rw [ht, htake.others, unblocked_shape]; rfl
  · rw [hnet, ht, ← unblocked_shape]
    exact htake
  · rw [hnet]
    exact congrArg State.net (unblocked_report (s := s.deliver k) hf hr (Strand.blockedThere_signal hpend hon))

/-- CAUSE of a context that is blocked at a clocked port: its offer is withdrawn first. -/
theorem cause_port {port : Nat} {by_ : Option W64} {w : W64} (hown : s.ownOffer = none)
    (hp : s.me.pendOf.map Pend.on = some (.port port)) (ho : AMap.get s.me.ports port = some (.offered by_ false))
    (h8 : e.getLsbD 8 = true) (hw : s.myLaunch.pool[port]? = some w) : Completes (.causeArrival k) s (fun t =>
      t.me = { s.me with ports := t.me.ports, causeDue := some (BitVec.ofNat 64 port, e) } ∧
      (∀ j, AMap.get t.me.ports j = if j = port then some (.offered by_ true) else AMap.get s.me.ports j) ∧
      (∃ p ∈ t.net, p.body = .withdraw (PortRec.ofWord w).hvc (PortRec.ofWord w).conn (PortRec.ofWord w).lidx s.me.id port) ∧
      t = { s.deliver k with me := t.me, net := t.net }) := by
  obtain ⟨p, hpend, hon⟩ := Option.map_eq_some_iff.1 hp
  have ht : (s.deliver k).takeCause e = (withdrawn (s.deliver k) port by_ w).modMe
      (fun c => { c with causeDue := some (BitVec.ofNat 64 port, e) }) := by
    rw [State.takeCause, testing_port (s := s.deliver k) hown hpend hon ho]
    refine (if_pos h8).trans ?_
    rw [withdrawPort_out (s := s.deliver k) ho hw]
  refine ⟨_, exec_causeArrival_me hg he ha hm hme alone (by rw [ht]; rfl), ?_⟩
  rw [ht]
  refine ⟨rfl, fun j => ?_, ⟨_, List.mem_append_right _ List.mem_cons_self, rfl⟩, rfl⟩
  simp only [@eq_comm _ j port]
  exact AMap.get_put s.me.ports port j (.offered by_ true)

end

end Sys2Proof.Safety

/-! O47. The end of an instant (R320), and the statement of a domain's home. -/

namespace Sys2Proof.Machine

/-! ## The commit of the delay registers -/

theorem commitZ_twice (c : Strand) : c.commitZ.commitZ = c.commitZ := by
  have h : ∀ i : Fin 8, (Vector.replicate 8 false).get i = false := by decide
  have hz : Vector.ofFn (fun i : Fin 8 => if c.commitZ.zw.get i then c.commitZ.zp.get i else c.commitZ.zc.get i) = c.commitZ.zc := by
    ext i hi
    rw [Vector.getElem_ofFn, if_neg]
    · rfl
    · exact Bool.eq_false_iff.1 (h ⟨i, hi⟩)
  exact congrArg (fun z => { c.commitZ with zc := z }) hz

theorem commitZ_get (c : Strand) (i : Fin 8) :
    c.commitZ.zc.get i = (if c.zw.get i then c.zp.get i else c.zc.get i) ∧ c.commitZ.zw.get i = false := by
  refine ⟨?_, ?_⟩
  · exact Vector.getElem_ofFn (f := fun i : Fin 8 => if c.zw.get i then c.zp.get i else c.zc.get i) i.isLt
  · exact Vector.getElem_replicate i.isLt

/-- The delay registers of members committed. -/
def State.commitAll (ms : List Member) (s : State) : State := ms.foldl (fun s m => s.modStrand m.sid Strand.commitZ) s

theorem commitAll_shape (ms : List Member) (s : State) :
    s.commitAll ms = { s with me := (s.commitAll ms).me, rest := (s.commitAll ms).rest } := by
  induction ms generalizing s with
  | nil => rfl
  | cons m ms ih => exact ih (s.modStrand m.sid Strand.commitZ)

/-- A context once the members in a list are committed. -/
theorem commitAll_strand? (ms : List Member) (s : State) (j : Sid) :
    (s.commitAll ms).strand? j = if j ∈ ms.map (·.sid) then (s.strand? j).map Strand.commitZ else s.strand? j := by
  induction ms generalizing s with
  | nil => rfl
  | cons m ms ih =>
    have hid : Strand.commitZ ∘ Strand.commitZ = Strand.commitZ := funext commitZ_twice
    show ((s.modStrand m.sid Strand.commitZ).commitAll ms).strand? j = _
    rw [ih, State.strand?_modStrand s m.sid j Strand.commitZ fun _ => rfl]
    by_cases hj : j = m.sid <;> by_cases hm : j ∈ ms.map (·.sid) <;> simp_all

theorem commitAll_coreOf (ms : List Member) (s : State) : (s.commitAll ms).coreOf = s.coreOf := by
  funext j d
  unfold State.coreOf
  rw [commitAll_strand?]
  split
  · rw [Option.map_map]; rfl
  · rfl

/-! ## The start of the next instant -/

/-- A domain at the start of an instant, before absence is decided (R320). -/
def Group.restart (l : Launch) (g : Group) : Group :=
  { g with inst := nextInst g.inst, members := g.members.map (Member.restart l (l.recOf g)), signals := g.signals.map Signal.restart }

/-- The members that take part in the instant that ends. -/
def Group.enders (g : Group) : List Member := g.current.filter (fun m => decide (m.react ≠ .left))

/-- What the home sends to a member when an instant ends. -/
def Group.resumeTo (g : Group) (m : Member) : Option Body :=
  if m.react = .left then none else some (.resume g.launch g.gid m.idx (nextInst g.inst))

/-- The state when the members are told of the next instant, before absence is decided. -/
def State.nextInstant (s : State) (g : Group) : State :=
  (((s.commitAll g.enders).modGroup g.launch g.gid (.restart (s.launch g.launch))).unevaluated g.launch g.gid).tell g g.resumeTo g.members

theorem exec_instantEnd_over {s : State} {key : Nat} {g : Group} (hk : s.groups[key]? = some g) (ho : s.instantOver g = true) :
    exec (.instantEnd key) s = .next ((s.nextInstant g).absences g.launch g.gid) := by
  rw [exec_instantEnd, execInstantEnd, hk]
  refine (if_neg (by rw [ho]; decide)).trans ?_
  have hstep : (fun (s : State) (m : Member) => (g.resumeTo m).elim s (s.toMember g m)) = fun s m =>
      if m.react = .left then s else s.toMember g m (.resume g.launch g.gid m.idx (nextInst g.inst)) := by
    funext s m
    unfold Group.resumeTo
    split <;> rfl
  rw [State.nextInstant, State.tell, hstep] <;> rfl

section
variable {s : State} {g : Group} (hg : s.group? g.launch g.gid = some g)

theorem nextInstant_shape (s : State) (g : Group) : s.nextInstant g =
    { s with me := (s.commitAll g.enders).me, rest := (s.commitAll g.enders).rest, groups := (s.nextInstant g).groups,
             connectors := (s.nextInstant g).connectors, net := (s.nextInstant g).net } := by
  have h : s.nextInstant g = { ((s.commitAll g.enders).modGroup g.launch g.gid (.restart (s.launch g.launch))).unevaluated
      g.launch g.gid with net := (s.nextInstant g).net } := tell_shape ..
  rw [h, commitAll_shape]
  rfl

include hg in
theorem nextInstant_group : (s.nextInstant g).group? g.launch g.gid = some (g.restart (s.launch g.launch)) := by
  have h : (s.commitAll g.enders).group? g.launch g.gid = some g := by rw [commitAll_shape]; exact hg
  have hm := State.group?_modGroup (s.commitAll g.enders) g.launch g.gid g.launch g.gid (f := .restart (s.launch g.launch))
    (fun _ => ⟨rfl, rfl⟩)
  rw [if_pos ⟨rfl, rfl⟩, h] at hm
  rw [State.nextInstant, tell_shape]
  exact hm

theorem nextInstant_connectors (s : State) (g : Group) : ∀ y ∈ (s.nextInstant g).connectors, y.2.launch = g.launch → y.2.clocked = true →
    y.2.cgrp = g.gid → y.2.evaluated = false := by
  rw [State.nextInstant, tell_shape]
  intro y hy hl hc hi
  obtain ⟨x, -, rfl⟩ := List.mem_map.1 hy
  split at hl
  · next h => rw [if_pos h]
  · next h =>
    rw [if_neg h] at hc hi ⊢
    exact absurd (by simp [hl, hc, hi]) h

theorem nextInstant_told {a : Member} (ha : a ∈ g.members) {b : Body} (hb : g.resumeTo a = some b) : s.Told (s.nextInstant g) g a b := by
  have h := tell_told (g := g) (((s.commitAll g.enders).modGroup g.launch g.gid (.restart (s.launch g.launch))).unevaluated g.launch g.gid) ha hb
  unfold State.Told at h ⊢
  have hc : (((s.commitAll g.enders).modGroup g.launch g.gid (.restart (s.launch g.launch))).unevaluated g.launch g.gid).coreOf =
      s.coreOf := commitAll_coreOf g.enders s
  rw [hc] at h
  exact h

end

/-- A member at its index, where indices are unique. -/
theorem Group.member?_of_mem {g : Group} (hn : (g.members.map (·.idx)).Nodup) {a : Member} (ha : a ∈ g.members) :
    g.member? a.idx = some a := by
  unfold Group.member?
  generalize g.members = ms at hn ha
  induction ms with
  | nil => cases ha
  | cons m ms ih =>
    obtain ⟨hne, hn⟩ := List.nodup_cons.1 hn
    rcases List.mem_cons.1 ha with rfl | ha
    · exact List.find?_cons_of_pos (by simp)
    · rw [List.find?_cons_of_neg, ih hn ha]
      intro h
      have h : m.idx = a.idx := by simpa using h
      exact hne (List.mem_map.2 ⟨a, ha, h.symm⟩)

theorem restart_idx (l : Launch) (r : GroupRec) (m : Member) : (m.restart l r).idx = m.idx := by
  unfold Member.restart
  split <;> rfl

/-- The state and the may-emit set of a member in the next instant. -/
theorem restart_fields (l : Launch) (r : GroupRec) (m : Member) :
    (m.restart l r).react = (if m.react = .paused then .running else if m.react = .leaving then .left else m.react) ∧
    (m.restart l r).may = (if m.react = .paused then l.mayEmit r m.idx else 0) := by
  unfold Member.restart
  cases m.react <;> exact ⟨rfl, rfl⟩

section
variable {s : State} {g : Group} {l : Launch}

/-- Every member is paused, leaving or left when an instant is over. -/
theorem instantOver_members (h : s.instantOver g = true) : ∀ a ∈ g.members, a.react = .paused ∨ a.react = .leaving ∨ a.react = .left := by
  unfold State.instantOver at h
  simp only [Bool.and_eq_true, List.all_eq_true, Bool.or_eq_true, decide_eq_true_eq] at h
  intro a ha
  have := h.1.1.2 a ha
  tauto

theorem restart_member? (hn : (g.members.map (·.idx)).Nodup) {a : Member} (ha : a ∈ g.members) :
    (g.restart l).member? a.idx = some (a.restart l (l.recOf g)) := by
  have hp : ((fun m : Member => m.idx == a.idx) ∘ Member.restart l (l.recOf g)) = fun m : Member => m.idx == a.idx := by
    funext m
    simp only [Function.comp_apply, restart_idx]
  have h := Group.member?_of_mem hn ha
  unfold Group.member? at h ⊢
  rw [Group.restart, List.find?_map, hp, h]
  rfl

theorem restart_signal? {n : Nat} {x : Signal} (hx : g.signal? n = some x) : (g.restart l).signal? n = some x.restart := by
  have hp : ((fun y : Signal => y.num == n) ∘ Signal.restart) = fun y : Signal => y.num == n := rfl
  unfold Group.signal? at hx ⊢
  rw [Group.restart, List.find?_map, hp, hx]
  rfl

/-- Nobody may emit a signal in the next instant exactly when no member that goes on has it in its set. -/
theorem restart_mayCount {n : Nat} : (g.restart l).mayCount n = 0 ↔
    ∀ a ∈ g.members, a.react = .paused → (l.mayEmit (l.recOf g) a.idx).getLsbD n = false := by
  rw [Group.mayCount_zero, Group.restart, List.forall_mem_map]
  refine forall₂_congr fun a _ => ?_
  rw [(restart_fields l (l.recOf g) a).2]
  split
  · next h => simp [h]
  · next h => simp [h]

/-- A signal in the next instant. -/
theorem restart_resolved_signal {n : Nat} {x : Signal} (hx : g.signal? n = some x) :
    ∃ y, ((g.restart l).resolveAll (g.restart l).silent).signal? n = some y ∧ y.prevVal = x.value ∧
      (y.prevPresent = true ↔ x.status = .present) ∧ y.value = 0 ∧ y.comb = x.comb ∧
      ((∀ a ∈ g.members, a.react = .paused → (l.mayEmit (l.recOf g) a.idx).getLsbD n = false) → y.status = .absent) ∧
      ((¬ ∀ a ∈ g.members, a.react = .paused → (l.mayEmit (l.recOf g) a.idx).getLsbD n = false) → y.status = .unknown) := by
  have hr := restart_signal? (l := l) hx
  rw [← restart_mayCount]
  by_cases hc : (g.restart l).mayCount n = 0
  · exact ⟨_, (silent_absent hr rfl hc).2, rfl, decide_eq_true_iff, rfl, rfl, fun _ => rfl, fun h => absurd hc h⟩
  · exact ⟨_, (silent_keeps hc).trans hr, rfl, decide_eq_true_iff, rfl, rfl, fun h => absurd h hc, fun _ => rfl⟩

/-- A member in the next instant, with absence decided. -/
theorem restart_resolved_member (ho : s.instantOver g = true) (hn : (g.members.map (·.idx)).Nodup) {a : Member} (ha : a ∈ g.members) :
    ((g.restart l).resolveAll (g.restart l).silent).member? a.idx = some (a.restart l (l.recOf g)) := by
  obtain ⟨b, hb, -, hf⟩ := (resolveAll_freed (g.restart l).silent (g.restart l)).member? (restart_member? (l := l) hn ha)
  rw [hb, hf]
  rw [(restart_fields l (l.recOf g) a).1]
  rcases instantOver_members ho a ha with h | h | h <;> rw [h] <;> rfl

end

end Sys2Proof.Machine

namespace Sys2Proof.Safety

open Sys2Proof.Machine

/-- The may-emit set of a member in the next instant (R313). -/
def mayNext (s : State) (g : Group) (a : Member) : BitVec 256 := (s.launch g.launch).mayEmit ((s.launch g.launch).recOf g) a.idx

section
variable {s : State} {key : Nat} {g : Group}

/-- The end of an instant that is over. -/
theorem instantEnd_completes (hk : s.groups[key]? = some g) (hg : s.group? g.launch g.gid = some g) (ho : s.instantOver g = true)
    (hn : (g.members.map (·.idx)).Nodup) : Completes (.instantEnd key) s (fun t =>
      (∃ h, t.group? g.launch g.gid = some h ∧ h.inst = nextInst g.inst ∧
        (∀ a ∈ g.members, ∃ b, h.member? a.idx = some b ∧
          b.react = (if a.react = .paused then .running else if a.react = .leaving then .left else a.react) ∧
          b.may = (if a.react = .paused then mayNext s g a else 0)) ∧
        (∀ n x, g.signal? n = some x → ∃ y, h.signal? n = some y ∧ y.prevVal = x.value ∧ (y.prevPresent = true ↔ x.status = .present) ∧
          y.value = 0 ∧ y.comb = x.comb ∧
          ((∀ a ∈ g.members, a.react = .paused → (mayNext s g a).getLsbD n = false) → y.status = .absent) ∧
          ((¬ ∀ a ∈ g.members, a.react = .paused → (mayNext s g a).getLsbD n = false) → y.status = .unknown))) ∧
      (∀ a ∈ g.members, a.react ≠ .left → s.Told t g a (.resume g.launch g.gid a.idx (nextInst g.inst))) ∧
      (∀ j, t.strand? j = if j ∈ g.enders.map (·.sid) then (s.strand? j).map Strand.commitZ else s.strand? j) ∧
      (∀ y ∈ t.connectors, y.2.launch = g.launch → y.2.clocked = true → y.2.cgrp = g.gid → y.2.evaluated = false) ∧
      t = { s with me := t.me, rest := t.rest, groups := t.groups, connectors := t.connectors, net := t.net }) := by
  have hgroup := absences_group (nextInstant_group hg)
  have hfreed := resolveAll_freed (g.restart (s.launch g.launch)).silent (g.restart (s.launch g.launch))
  refine ⟨_, exec_instantEnd_over hk ho, ⟨_, hgroup, ?_, fun a ha => ⟨_, restart_resolved_member ho hn ha, restart_fields _ _ a⟩,
    fun n x hx => restart_resolved_signal hx⟩, fun a ha hl => ?_, fun j => ?_, ?_, ?_⟩
  · rw [hfreed.shape]; rfl
  · exact (nextInstant_told ha (if_neg hl)).mono (absences_grows _ _ _)
  · rw [← commitAll_strand?, absences_shape, nextInstant_shape]; rfl
  · rw [absences_shape]
    exact nextInstant_connectors s g
  · rw [absences_shape, nextInstant_shape]

/-- The end of an instant that is not over. -/
theorem instantEnd_idle (hk : s.groups[key]? = some g) (ho : s.instantOver g = false) :
    Completes (.instantEnd key) s (fun t => t = s) := by
  refine ⟨s, ?_, rfl⟩
  rw [exec_instantEnd, execInstantEnd, hk]
  exact if_pos (by rw [ho]; rfl)

/-- The members that take part in an instant's end, by name. -/
theorem mem_enders {j : Sid} : j ∈ g.enders.map (·.sid) ↔ ∃ a ∈ g.members, a.inside = true ∧ a.react ≠ .left ∧ a.sid = j := by
  simp [Group.enders, Group.current, and_assoc, and_left_comm]

end

/-- Settles O47: each report by what it does to its group, the causality cycle and the end of an instant by the packets they
send and the groups they leave. -/
theorem instants : Obligations.Instants := by
  unfold Obligations.Instants
  intro k key l i idx n port v pres e inst g m x by_ w s
  refine ⟨fun ⟨ha, hg, he⟩ hx => ?_, fun ⟨ha, hg, he⟩ _ hm hx hu hn => retract_completes hg he ha hm hx hu hn,
    fun ⟨ha, hg, he⟩ _ hm => pause_completes hg he ha hm, fun ⟨ha, hg, he⟩ _ hm => leaveReport_completes hg he ha hm,
    fun ⟨ha, hg, he⟩ _ hm hx => blockSig_completes hg he ha hm hx, fun ⟨ha, hg, he⟩ _ hm hp => blockPort_completes hg he ha hp,
    fun ⟨ha, hg, he⟩ _ hm => unblock_completes hg he ha hm, fun ⟨ha, hg, he⟩ => resolution_completes hg he ha,
    fun ⟨hk, hg⟩ hs => ?_, fun ⟨hk, _⟩ hs => causality_idle hk hs,
    fun ⟨ha, hg, he⟩ hm hme alone hu hown => ⟨fun hp h8 => cause_signal hg he ha hm hme alone hu hown hp h8,
      fun hp ho h8 hw => cause_port hg he ha hm hme alone hown hp ho h8 hw, fun hp => cause_idle hg he ha hm hme alone hown hp⟩,
    fun ⟨hk, hg⟩ ho hn => ?_, fun ⟨hk, _⟩ ho => instantEnd_idle hk ho, fun ⟨ha, hg, he⟩ hm => resumption_completes hg he ha hm⟩
  · rw [← combine_eq]
    exact emit_completes hg he ha hx
  · obtain ⟨t, ht, hb, htold, hframe⟩ := causality_completes hk hg hs
    refine ⟨t, ht, hb, fun a ha y hy hy256 hn256 => ?_, fun a ha y hy hn256 => ?_, hframe⟩
    · refine htold a ha _ ?_
      rw [Group.causeTo, hy]
      exact congrArg (fun e => some (Body.cause g.launch g.gid a.idx e))
        (causeInfo_fields g.inst hn256 (lo := y) (port := false) (sig := y) (by omega) (by simp))
    · refine htold a ha _ ?_
      rw [Group.causeTo, hy]
      exact congrArg (fun e => some (Body.cause g.launch g.gid a.idx e))
        (causeInfo_fields g.inst hn256 (lo := 256) (port := true) (sig := 0) (by omega) (by simp))
  · obtain ⟨t, ht, ⟨h, hh, hinst, hmem, hsig⟩, htold, hstr, hconn, hframe⟩ := instantEnd_completes hk hg ho hn
    refine ⟨t, ht, ⟨h, hh, hinst, hmem, fun hx => ?_⟩, htold, fun j hj => ?_, fun a ha hi hl c hc => ?_, hconn, hframe⟩
    · obtain ⟨y, hy, hpv, hpp, hval, hcomb, habs, hunk⟩ := hsig n x hx
      refine ⟨y, hy, hpv, hpp, hval, hcomb, ?_⟩
      split
      · next hall => exact habs hall
      · next hall => exact hunk hall
    · rw [hstr, if_neg]
      rw [mem_enders]
      rintro ⟨a, ha, hi, hl, hsid⟩
      exact hj a ha hi hl hsid
    · refine ⟨c.commitZ, ?_, commitZ_get c⟩
      rw [hstr, if_pos (mem_enders.2 ⟨a, ha, hi, hl, rfl⟩), hc]
      rfl

end Sys2Proof.Safety

/-! SUPPORT. A graph node's test (R279). -/

namespace Sys2Proof.Machine

/-- What a unique key finds in a list. -/
theorem find?_of_key {α β : Type} (key : α → β) {l : List α} (hn : (l.map key).Nodup) {a : α} (ha : a ∈ l) {p : α → Bool}
    (hp : ∀ x, p x = true ↔ key x = key a) : l.find? p = some a := by
  induction l with
  | nil => cases ha
  | cons x xs ih =>
    obtain ⟨hne, hn⟩ := List.nodup_cons.1 hn
    rcases List.mem_cons.1 ha with rfl | ha
    · exact List.find?_cons_of_pos ((hp a).2 rfl)
    · rw [List.find?_cons_of_neg, ih hn ha]
      exact fun h => hne (List.mem_map.2 ⟨a, ha, ((hp x).1 h).symm⟩)

theorem State.modGraph_get (s : State) (k : Nat) (f : Graph → Graph) :
    AMap.get (s.modGraph k f).graphs k = (AMap.get s.graphs k).map f := by
  unfold State.modGraph
  generalize s.graphs = gs
  induction gs with
  | nil => rfl
  | cons e gs ih =>
    obtain ⟨a, g⟩ := e
    by_cases h : a = k <;> simp [AMap.get, h, ih]

/-- A graph after passes of the graph engine: every node is there, and one that is complete or skipped stays so. -/
def Graph.Advances (g h : Graph) : Prop :=
  ∃ f : GNode → GNode, h.nodes = g.nodes.map f ∧ ∀ n, (f n).num = n.num ∧ (n.st = .complete ∨ n.st = .skipped → (f n).st = n.st)

theorem Graph.Advances.refl (g : Graph) : g.Advances g := ⟨id, (List.map_id _).symm, fun _ => ⟨rfl, fun _ => rfl⟩⟩

theorem Graph.Advances.trans {a b c : Graph} (h : a.Advances b) (k : b.Advances c) : a.Advances c := by
  obtain ⟨f, hf, hff⟩ := h
  obtain ⟨f', hf', hff'⟩ := k
  refine ⟨f' ∘ f, by rw [hf', hf, List.map_map], fun n => ⟨(hff' _).1.trans (hff n).1, fun hn => ?_⟩⟩
  have h1 := (hff n).2 hn
  exact ((hff' (f n)).2 (by rw [h1]; exact hn)).trans h1

/-- A node under a number, where it is complete or skipped. -/
theorem Graph.Advances.settled {g h : Graph} (ha : g.Advances h) {num : Nat} {n : GNode}
    (hn : g.nodes.find? (fun x => x.num == num) = some n) (hst : n.st = .complete ∨ n.st = .skipped) :
    ∃ y, h.nodes.find? (fun x => x.num == num) = some y ∧ y.st = n.st := by
  obtain ⟨f, hf, hff⟩ := ha
  have hp : ((fun x : GNode => x.num == num) ∘ f) = fun x : GNode => x.num == num := by
    funext x
    simp only [Function.comp_apply, (hff x).1]
  exact ⟨f n, by rw [hf, List.find?_map, hp, hn]; rfl, (hff n).2 hst⟩

theorem reportLaunch_graphs (s : State) (u status : Nat) : (s.reportLaunch u status).graphs = s.graphs := by
  unfold State.reportLaunch
  dsimp only
  split <;> rfl

/-- What a pass makes of one node. -/
def State.passNode (s : State) (g : Graph) (n : GNode) : GNode :=
  { n with st := if decide (s.nodeNext g n = .ready) && n.launch.any (fun u => (s.launch u).threads == 0) then .complete else s.nodeNext g n }

theorem passNode_settled {s : State} {g : Graph} {n : GNode} (h : n.st = .complete ∨ n.st = .skipped) : (s.passNode g n).st = n.st := by
  have hn : s.nodeNext g n = n.st := by
    unfold State.nodeNext
    exact if_pos (by rcases h with h | h <;> rw [h] <;> decide)
  unfold State.passNode
  rw [hn]
  rcases h with h | h <;> rw [h] <;> rfl

/-- One launch of a graph once its node is over. -/
def State.nodeOver (g : Graph) (s : State) (n : GNode) : State :=
  match n.launch with
  | some u =>
    if decide (n.st = .complete) || decide (n.st = .skipped) then
      let s := (s.unqueue u).modLaunch u (fun l => { l with state := .done })
      if g.looping n.num then s else s.reportLaunch u (s.launch u).status
    else s
  | none => s

theorem nodeOver_graphs (g : Graph) (s : State) (n : GNode) : (State.nodeOver g s n).graphs = s.graphs := by
  unfold State.nodeOver
  split
  · split
    · dsimp only
      split
      · rfl
      · exact reportLaunch_graphs ..
    · rfl
  · rfl

theorem foldl_nodeOver_graphs (g : Graph) (ns : List GNode) (s : State) : (ns.foldl (State.nodeOver g) s).graphs = s.graphs := by
  induction ns generalizing s with
  | nil => rfl
  | cons n ns ih => exact (ih _).trans (nodeOver_graphs g s n)

theorem graphPass_eq {s : State} {k : Nat} {g : Graph} (hg : AMap.get s.graphs k = some g) :
    s.graphPass k = (g.nodes.map (s.passNode g)).foldl (State.nodeOver { g with nodes := g.nodes.map (s.passNode g) })
      (s.modGraph k fun _ => { g with nodes := g.nodes.map (s.passNode g) }) := by
  unfold State.graphPass
  rw [hg]
  show (match AMap.get (s.modGraph k fun _ => { g with nodes := g.nodes.map (s.passNode g) }).graphs k with | none => _ | some g => _) = _
  rw [State.modGraph_get, hg] <;> rfl

theorem graphPass_advances {s : State} {k : Nat} {g : Graph} (hg : AMap.get s.graphs k = some g) :
    ∃ h, AMap.get (s.graphPass k).graphs k = some h ∧ g.Advances h := by
  rw [graphPass_eq hg, foldl_nodeOver_graphs, State.modGraph_get, hg]
  exact ⟨_, rfl, s.passNode g, rfl, fun n => ⟨rfl, passNode_settled⟩⟩

theorem passes_advances {s : State} {k : Nat} {g : Graph} (hg : AMap.get s.graphs k = some g) (xs : List Nat) :
    ∃ h, AMap.get (xs.foldl (fun s _ => s.graphPass k) s).graphs k = some h ∧ g.Advances h := by
  induction xs generalizing s g with
  | nil => exact ⟨g, hg, .refl g⟩
  | cons x xs ih =>
    obtain ⟨h, hh, ha⟩ := graphPass_advances hg
    obtain ⟨h', hh', ha'⟩ := ih hh
    exact ⟨h', hh', ha.trans ha'⟩

theorem advance_advances {s : State} {k : Nat} {g : Graph} (hg : AMap.get s.graphs k = some g) :
    ∃ h, AMap.get (s.advance k).graphs k = some h ∧ g.Advances h := passes_advances hg _

/-- What the test of a node that chooses makes of a node. -/
def GNode.choose (n : GNode) (c : Nat) (m : GNode) : GNode :=
  if n.successors.contains m.num && m.num != c && decide (m.st = .waiting) then { m with st := .skipped } else m

/-- A graph after the test of a node that chooses, before the graph engine goes on. -/
def Graph.testNode (n : GNode) (c : Nat) (g : Graph) : Graph :=
  { g.modNode n.num (fun m => { m with st := .complete }) with
    nodes := (g.modNode n.num (fun m => { m with st := .complete })).nodes.map (n.choose c) }

theorem testNode_nodes (n : GNode) (c : Nat) (g : Graph) : (g.testNode n c).nodes =
    g.nodes.map (fun m => n.choose c (if m.num = n.num then { m with st := .complete } else m)) := List.map_map

section
variable {g : Graph} {n : GNode} {c num : Nat}

theorem choose_num (n : GNode) (c : Nat) (m : GNode) : (n.choose c m).num = m.num := by
  unfold GNode.choose
  split <;> rfl

/-- A node after the test, under its number. -/
theorem testNode_find {x : GNode} (hx : g.nodes.find? (fun y => y.num == num) = some x) :
    (g.testNode n c).nodes.find? (fun y => y.num == num) = some (n.choose c (if x.num = n.num then { x with st := .complete } else x)) := by
  have hp : ((fun y : GNode => y.num == num) ∘ fun m => n.choose c (if m.num = n.num then { m with st := .complete } else m)) =
      fun y : GNode => y.num == num := by
    funext m
    simp only [Function.comp_apply, choose_num]
    split <;> rfl
  rw [testNode_nodes, List.find?_map, hp, hx]
  rfl

/-- A node under its number, where numbers are unique. -/
theorem node_find (hn : (g.nodes.map (·.num)).Nodup) {x : GNode} (hx : x ∈ g.nodes) :
    g.nodes.find? (fun y => y.num == x.num) = some x := find?_of_key (·.num) hn hx fun y => by simp

end

end Sys2Proof.Machine

namespace Sys2Proof.Safety

open Sys2Proof.Machine

section
variable {s : State} {graph node word : Nat} {g : Graph} {n : GNode}
  (hg : AMap.get s.graphs graph = some g) (hn : g.nodes.find? (fun x => x.num == node) = some n)
include hg hn

/-- The test of a ready conditional or switch node. -/
theorem nodeTest_completes (hr : n.st = .ready) (hu : (g.nodes.map (·.num)).Nodup) (hk : n.kind = 1 ∨ n.kind = 2)
    (hw : s.nodeWord g n = word) : Completes (.graphNodeTest graph node) s (fun t =>
      ∃ r, AMap.get t.graphs graph = some r ∧ (∃ x, r.nodes.find? (fun x => x.num == node) = some x ∧ x.st = .complete) ∧
        ∀ x ∈ g.nodes, x.st = .waiting → x.num ∈ n.successors → x.num ≠ n.chosen word → x.num ≠ node →
          ∃ y, r.nodes.find? (fun y => y.num == x.num) = some y ∧ y.st = .skipped) := by
  have hnum : n.num = node := by simpa using List.find?_some hn
  have hget : AMap.get (s.modGraph graph (.testNode n (n.chosen word))).graphs graph = some (g.testNode n (n.chosen word)) := by
    rw [State.modGraph_get, hg]; rfl
  obtain ⟨r, hr', ha⟩ := advance_advances hget
  refine ⟨_, ?_, r, hr', ?_, fun x hx hst hs hc hne => ?_⟩
  · rw [exec_graphNodeTest, execGraphNodeTest, hg]
    dsimp only
    rw [hn]
    refine (if_pos ?_).trans (congrArg Host.Outcome.next ((if_pos hk).trans (by rw [hw]; rfl)))
    rcases hk with hk | hk <;> simp [hr, hk]
  · have hnew := testNode_find (n := n) (c := n.chosen word) hn
    have hch : n.choose (n.chosen word) { n with st := .complete } = { n with st := .complete } := if_neg (by simp)
    rw [if_pos rfl, hch] at hnew
    exact ha.settled hnew (.inl rfl)
  · have hnew := testNode_find (n := n) (c := n.chosen word) (node_find hu hx)
    have hch : n.choose (n.chosen word) x = { x with st := .skipped } := if_pos (by simp [hs, hc, hst])
    rw [if_neg (by rw [hnum]; exact hne), hch] at hnew
    exact ha.settled hnew (.inr rfl)

/-- No test of a node that is not ready, or of a launch node. -/
theorem nodeTest_idle (h : n.st ≠ .ready ∨ n.kind = 0) : Completes (.graphNodeTest graph node) s (fun t => t = s) := by
  refine ⟨s, ?_, rfl⟩
  rw [exec_graphNodeTest, execGraphNodeTest, hg]
  dsimp only
  rw [hn]
  refine if_neg ?_
  rcases h with h | h <;> simp [h]

end

end Sys2Proof.Safety

/-! SUPPORT. A strand that starts in a free slot (R27, R283). -/

namespace Sys2Proof.Machine

/-! ## Memory cleared -/

/-- A byte whose key no cell has reads as zero. -/
theorem Memory.get_of_absent {m : List Host.Cell} {k : Nat} (h : ∀ c ∈ m, c.1 ≠ k) : Memory.get m k = 0 := by
  induction m with
  | nil => rfl
  | cons c m ih =>
    obtain ⟨a, b⟩ := c
    obtain ⟨hne, hm⟩ := List.forall_mem_cons.1 h
    rw [Memory.get, if_neg (Ne.symm hne), ih hm, ite_self]

/-- No cell of memory has a key in a range. -/
def State.Clear (s : State) (k n : Nat) : Prop := ∀ c ∈ s.mem, ¬ (k ≤ c.1 ∧ c.1 < k + n)

theorem State.Clear.get {s : State} {k n x : Nat} (h : s.Clear k n) (hk : k ≤ x) (hn : x < k + n) : Memory.get s.mem x = 0 :=
  Memory.get_of_absent fun c hc he => h c hc ⟨he ▸ hk, he ▸ hn⟩

theorem clearRange_clear (s : State) (k n : Nat) : (s.clearRange k n).Clear k n := by
  intro c hc ⟨hk, hn⟩
  have := (List.mem_filter.1 hc).2
  simp only [Bool.or_eq_true, decide_eq_true_eq] at this
  omega

/-- What is clear stays clear where memory loses cells. -/
theorem State.Clear.of_sub {s t : State} {k n : Nat} (h : s.Clear k n) (hm : ∀ c ∈ t.mem, c ∈ s.mem) : t.Clear k n :=
  fun c hc => h c (hm c hc)

/-- A core's part of memory, by an offset. -/
theorem spKey_add (g a b : Nat) : spKey g (a + b) = spKey g a + b := by
  unfold spKey
  omega

/-! ## The start of a strand -/

theorem learn_shape (s : State) (g : Nat) : s.learn g = { s with cores := (s.learn g).cores } := by
  unfold State.learn
  dsimp only
  split <;> rfl

/-- The record of a strand that starts (R8, R27). -/
def State.starter (s : State) (u vc g slot t : Nat) : Strand :=
  { (Strand.fresh { launch := u, seat := .placed t, unit := .compute } { pkg := g / 2048, core := g % 2048, slot, vc }).setX 10
      (BitVec.ofNat 64 t) with
    pc := nth (s.launch u).words.toList 0 0, sqcap := BitVec.ofNat 64 (s.launch u).sqcap, racecfg := (s.launch u).racecfg,
    live := true, synced := s.codeLog.length }

/-- The state with a strand started, before the checkpoint of a pair moves. -/
def State.started (s : State) (u vc g slot t : Nat) : State :=
  let w := ((s.freshSlice g slot).learn g).modCore g (fun k => { k with slotw := (s.launch u).slotw, slotwNew := none })
  ({ w with rest := w.rest ++ [s.starter u vc g slot t], queues := AMap.put w.queues (u, .placed t) .empty } : State).modLaunch u
    (fun l => { l with started := l.started ++ [t] })

section
variable {s : State} {u vc g slot t : Nat}

theorem started_shape (s : State) (u vc g slot t : Nat) : s.started u vc g slot t =
    { s with rest := s.rest ++ [s.starter u vc g slot t], queues := AMap.put s.queues (u, .placed t) .empty,
             launches := (s.modLaunch u (fun l => { l with started := l.started ++ [t] })).launches,
             cores := (s.started u vc g slot t).cores, mem := (s.freshSlice g slot).mem, poison := (s.freshSlice g slot).poison,
             races := (s.freshSlice g slot).races, shadows := (s.freshSlice g slot).shadows } := by
  unfold State.started
  rw [learn_shape]
  rfl

theorem started_launch : (s.started u vc g slot t).launch u = { s.launch u with started := (s.launch u).started ++ [t] } := by
  rw [started_shape]
  exact (State.launch_modLaunch s u u (fun l => { l with started := l.started ++ [t] })).trans (if_pos rfl)

/-- The start of a strand of a launch that is in no graph. -/
theorem startStrand_eq (hg : (s.launch u).graph = none) : s.startStrand u vc g slot t = (s.started u vc g slot t).advanceCheckpoint g := by
  have hgr : (s.started u vc g slot t).graphOf u = none := by
    unfold State.graphOf
    rw [started_launch]
    show (s.launch u).graph.bind _ = none
    rw [hg]
    rfl
  show (match (s.started u vc g slot t).graphOf u with | some (_, gr) => _ | none => _ : State).advanceCheckpoint g = _
  rw [hgr] <;> rfl

/-- The slice of a started strand is clear. -/
theorem started_clear : (s.started u vc g slot t).Clear (spKey g (0x5_0000 + slot * 0x4000)) 0x4000 := by
  have h : (s.started u vc g slot t).mem = (s.clearRange (spKey g (0x5_0000 + slot * 0x4000)) 0x4000).mem := by
    rw [started_shape]; rfl
  exact (clearRange_clear s _ _).of_sub fun c hc => h ▸ hc

theorem started_strand? (h : s.strand? { launch := u, seat := .placed t, unit := .compute } = none) :
    (s.started u vc g slot t).strand? { launch := u, seat := .placed t, unit := .compute } = some (s.starter u vc g slot t) := by
  have hid : (s.starter u vc g slot t).id = { launch := u, seat := .placed t, unit := .compute } := by
    rw [State.starter, Strand.setX_shape]; rfl
  rw [started_shape]
  show (s.contexts ++ [s.starter u vc g slot t]).find? _ = _
  rw [List.find?_append, show s.contexts.find? _ = none from h, Option.none_or]
  exact List.find?_cons_of_pos (by simp [hid])

theorem starter_getX (r : Reg) : (s.starter u vc g slot t).getX r =
    if r = 10 then BitVec.ofNat 64 t else if r = 2 then 0xF000_0000_0000_4000 else 0 := by
  refine (Strand.getX_setX _ 10 (BitVec.ofNat 64 t) r).trans ?_
  rw [(Safety.fresh_registers _ _ r).1]
  by_cases h : r = 0
  · subst h; rfl
  · rw [if_neg h]

end

end Sys2Proof.Machine

namespace Sys2Proof.Safety

open Sys2Proof.Machine

section
variable {s : State} {u v core slot tid : Nat} {rest : List Nat}
  (hh : s.holder (core / 16) = some (u, v))
include hh

/-- A slot that is not to be filled. -/
theorem strandPlace_idle (h : (s.freeSlots u core).head? ≠ some slot ∨ (s.launch u).stopping.contains v = true ∨ (s.core core).shifting = true) :
    Completes (.strandPlace core slot) s (fun t => t = s) := by
  refine ⟨s, ?_, rfl⟩
  rw [exec_strandPlace, execStrandPlace, hh]
  refine if_neg ?_
  rintro ⟨-, hf, hs, hc⟩
  rcases h with h | h | h
  · exact h hf
  · rw [h] at hs; cases hs
  · rw [h] at hc; cases hc

/-- An unstarted strand starts in the lowest free slot. -/
theorem strandPlace_starts (hb : (s.launch u).bind[v]? = some (core / 16)) (hf : (s.freeSlots u core).head? = some slot)
    (hheld : (s.launch u).heldFor (v * 16 + core % 16) = none) (hst : (s.launch u).stopping.contains v = false)
    (hsh : (s.core core).shifting = false) (harr : (s.core core).arrivals = [])
    (hun : (s.launch u).unstarted (v * 16 + core % 16) = tid :: rest)
    (hno : s.strand? { launch := u, seat := .placed tid, unit := .compute } = none) (hgr : (s.launch u).graph = none) :
    Completes (.strandPlace core slot) s (fun t =>
      t.strand? { launch := u, seat := .placed tid, unit := .compute } = some (s.starter u (v * 16 + core % 16) core slot tid) ∧
      (∀ o, o < 0x4000 → Memory.get t.mem (spKey core (0x5_0000 + slot * 0x4000 + o)) = 0) ∧
      tid ∈ (t.launch u).started ∧ t.slotq u (.placed tid) = SlotQueues.empty) := by
  obtain ⟨l, hl⟩ := advanceCheckpoint_locks (s.started u (v * 16 + core % 16) core slot tid) core
  refine ⟨{ s.started u (v * 16 + core % 16) core slot tid with locks := l }, ?_, started_strand? hno, fun o ho => ?_, ?_, ?_⟩
  · rw [exec_strandPlace, execStrandPlace, hh]
    refine (if_pos ⟨hb, hf, by rw [hst]; rfl, by rw [hsh]; rfl⟩).trans ?_
    rw [State.fillSlot, hheld]
    dsimp only
    rw [harr, List.find?_nil]
    dsimp only
    rw [hun]
    dsimp only
    rw [startStrand_eq hgr, hl]
  · rw [spKey_add]
    exact (started_clear (s := s) (u := u) (vc := v * 16 + core % 16) (t := tid)).get (Nat.le_add_right _ _) (Nat.add_lt_add_left ho _)
  · show tid ∈ ((s.started u (v * 16 + core % 16) core slot tid).launch u).started
    rw [started_launch]
    exact List.mem_append_right _ List.mem_cons_self
  · show (s.started u (v * 16 + core % 16) core slot tid).slotq u (.placed tid) = _
    unfold State.slotq
    rw [started_shape]
    show (AMap.get (AMap.put s.queues (u, .placed tid) .empty) (u, .placed tid)).getD .empty = _
    rw [AMap.get_put, if_pos rfl]
    rfl

end

/-- What the record of a strand that starts holds. -/
theorem starter_fields (s : State) (u vc g slot t : Nat) :
    let c := s.starter u vc g slot t
    c.pc = (s.launch u).words[0] ∧ c.level = .s ∧ c.live = true ∧
      c.place = { pkg := g / 2048, core := g % 2048, slot := slot, vc := vc } ∧ c.res = .resident ∧
      (∀ r, c.getX r = if r = 10 then BitVec.ofNat 64 t else if r = 2 then 0xF000_0000_0000_4000 else 0) ∧ (∀ r, c.getV r = 0) ∧
      c.fcr = 0 ∧ c.fstat = 0 ∧ c.sqcap = BitVec.ofNat 64 (s.launch u).sqcap ∧ c.racecfg = (s.launch u).racecfg ∧ c.grp = 0xFFFF ∧
      c.unack = 0 := by
  have hpc : nth (s.launch u).words.toList 0 0 = (s.launch u).words[0] := by
    simp [nth]
  refine ⟨hpc, ?_, rfl, ?_, ?_, starter_getX, fun r => ?_, ?_, ?_, rfl, rfl, ?_, ?_⟩
  case refine_4 =>
    refine Eq.trans ?_ (fresh_registers { launch := u, seat := .placed t, unit := .compute }
      { pkg := g / 2048, core := g % 2048, slot := slot, vc := vc } r).2
    rw [State.starter, Strand.setX_shape]
    rfl
  all_goals
    rw [State.starter, Strand.setX_shape]
    rfl

end Sys2Proof.Safety

/-! SUPPORT. The binding of a launch head, and its cores made ready (R233, R237, R277). -/

namespace Sys2Proof.Machine

/-! ## What a binding leaves alone -/

/-- The launches and the windows' slices are the same. -/
def State.SameTables (s t : State) : Prop := t.launches = s.launches ∧ t.exports = s.exports

theorem State.SameTables.trans {s t u : State} (h : s.SameTables t) (k : t.SameTables u) : s.SameTables u :=
  ⟨k.1.trans h.1, k.2.trans h.2⟩

theorem foldl_sameTables {α : Type} {f : State → α → State} (hf : ∀ (s : State) a, s.SameTables (f s a)) (l : List α) (s : State) :
    s.SameTables (l.foldl f s) := by
  induction l generalizing s with
  | nil => exact ⟨rfl, rfl⟩
  | cons a l ih => exact (hf s a).trans (ih _)

theorem agentWrite_sameTables (s : State) (k : Nat) (bs : List Byte) : s.SameTables (s.agentWrite k bs) := by
  have hc : ∀ w : State, w.SameTables (w.cleanse k bs.length) := fun w => by
    unfold State.cleanse
    split <;> exact ⟨rfl, rfl⟩
  unfold State.agentWrite
  refine State.SameTables.trans ?_ (hc _)
  split <;> exact ⟨rfl, rfl⟩

theorem writeGlobal_sameTables (s : State) (pkg vf va : Nat) (bs : List Byte) : s.SameTables (s.writeGlobal pkg vf va bs) := by
  unfold State.writeGlobal
  refine foldl_sameTables (fun s x => ?_) _ s
  dsimp only
  split
  · exact agentWrite_sameTables ..
  · exact ⟨rfl, rfl⟩

/-! ## A core made ready -/

/-- No window holds a slice of a launch. -/
def State.NoExports (s : State) (u : Nat) : Prop := ∀ x ∈ s.exports, x.launch ≠ u

theorem clearFree_eq {s : State} {u : Nat} (h : s.NoExports u) (k n : Nat) : s.clearFree u k n = s.clearRange k n := by
  have he : s.heldIn u k n = [] := by
    rw [State.heldIn, List.filter_eq_nil_iff]
    intro x hx
    simp [h x hx]
  unfold State.clearFree
  rw [he]
  rfl

/-- A core's record when it is made ready for a launch. -/
def Core.readyFor (l : Launch) (c : Core) : Core :=
  { c with htab := Vector.ofFn (fun i => HEntry.reset i.val), rq := [], kick := Vector.replicate 8 none, waitList := [],
           slotw := l.slotw, slotwNew := none, half0 := 0, half1 := 0, pressure := false, chHolds := [], istore := l.helper,
           fwd := [], arrivals := [] }

/-- A core is ready for its launch: its scratchpad is clear but for the slices of its slots, and its record starts anew. -/
structure State.CoreReady (s : State) (u g : Nat) : Prop where
  low : s.Clear (spKey g 0) 0x5_0000
  high : s.Clear (spKey g 0x6_0000) 0x2_0000
  slotw : (s.core g).slotw = (s.launch u).slotw
  htab : (s.core g).htab = Vector.ofFn (fun i => HEntry.reset i.val)
  rq : (s.core g).rq = []
  kick : (s.core g).kick = Vector.replicate 8 none

theorem readyCore_eq {s : State} {u : Nat} (h : s.NoExports u) (g : Nat) : s.readyCore u g =
    ((s.clearRange (spKey g 0) 0x5_0000).clearRange (spKey g 0x6_0000) 0x2_0000).modCore g (.readyFor (s.launch u)) := by
  unfold State.readyCore
  dsimp only
  rw [clearFree_eq h, clearFree_eq (s := s.clearRange (spKey g 0) 0x5_0000) h]
  rfl

/-- One virtual core of a launch that is bound. -/
def State.readyVc (u : Nat) (l : Launch) (s : State) (vc : Nat) : State :=
  match l.coreOf vc with
  | some g =>
    let s := s.readyCore u g
    let s := { s with rest := s.rest ++ l.handlersFor u vc g s.codeLog.length }
    if l.lockstep then { s with locks := AMap.put s.locks g (s.snapshot g) } else s
  | none => s

theorem readyCores_eq (s : State) (u : Nat) :
    s.readyCores u = (List.range (s.launch u).vcores).foldl (State.readyVc u (s.launch u)) s := rfl

/-- One state's memory, cores, launches and windows as another's. -/
def State.SameReady (s t : State) : Prop := t.mem = s.mem ∧ t.cores = s.cores ∧ s.SameTables t

theorem State.CoreReady.of_same {s t : State} {u g : Nat} (h : s.CoreReady u g) (hs : s.SameReady t) : t.CoreReady u g := by
  obtain ⟨hm, hc, hl, -⟩ := hs
  have hcore : t.core g = s.core g := by unfold State.core; rw [hc]
  have hlaunch : t.launch u = s.launch u := by unfold State.launch; rw [hl]
  exact ⟨h.low.of_sub fun c => hm ▸ id, h.high.of_sub fun c => hm ▸ id, by rw [hcore, hlaunch]; exact h.slotw,
    by rw [hcore]; exact h.htab, by rw [hcore]; exact h.rq, by rw [hcore]; exact h.kick⟩

section
variable {s : State} {u : Nat} (h : s.NoExports u)
include h

theorem readyCore_ready (g : Nat) : (s.readyCore u g).CoreReady u g := by
  rw [readyCore_eq h]
  have hc : (((s.clearRange (spKey g 0) 0x5_0000).clearRange (spKey g 0x6_0000) 0x2_0000).modCore g (.readyFor (s.launch u))).core g =
      Core.readyFor (s.launch u) (s.core g) := by
    rw [State.core_modCore, if_pos rfl]; rfl
  refine ⟨?_, clearRange_clear _ _ _, ?_, ?_, ?_, ?_⟩
  · exact (clearRange_clear s _ _).of_sub fun c hc => (List.mem_filter.1 hc).1
  all_goals
    rw [hc]
    rfl

/-- A core that is ready stays so when a core is made ready. -/
theorem readyCore_keeps {g' : Nat} (hr : s.CoreReady u g') (g : Nat) : (s.readyCore u g).CoreReady u g' := by
  by_cases hg : g' = g
  · rw [hg]
    exact readyCore_ready h g
  · have hsub : ∀ c ∈ (s.readyCore u g).mem, c ∈ s.mem := by
      rw [readyCore_eq h]
      exact fun c hc => (List.mem_filter.1 (List.mem_filter.1 hc).1).1
    have hc : (s.readyCore u g).core g' = s.core g' := by
      rw [readyCore_eq h, State.core_modCore, if_neg hg]; rfl
    have hl : (s.readyCore u g).launch u = s.launch u := by rw [readyCore_eq h]; rfl
    exact ⟨hr.low.of_sub hsub, hr.high.of_sub hsub, by rw [hc, hl]; exact hr.slotw, by rw [hc]; exact hr.htab,
      by rw [hc]; exact hr.rq, by rw [hc]; exact hr.kick⟩

omit h in
theorem readyVc_same (l : Launch) {vc g : Nat} (hg : l.coreOf vc = some g) : (s.readyCore u g).SameReady (State.readyVc u l s vc) := by
  unfold State.readyVc
  rw [hg]
  dsimp only
  split <;> exact ⟨rfl, rfl, rfl, rfl⟩

theorem readyVc_tables (l : Launch) (vc : Nat) : s.SameTables (State.readyVc u l s vc) := by
  cases hg : l.coreOf vc with
  | none =>
    unfold State.readyVc
    rw [hg]
    exact ⟨rfl, rfl⟩
  | some g =>
    refine State.SameTables.trans ?_ (readyVc_same l hg).2.2
    rw [readyCore_eq h]
    exact ⟨rfl, rfl⟩

theorem readyVc_keeps (l : Launch) (vc : Nat) {g' : Nat} (hr : s.CoreReady u g') : (State.readyVc u l s vc).CoreReady u g' := by
  cases hg : l.coreOf vc with
  | none =>
    unfold State.readyVc
    rw [hg]
    exact hr
  | some g => exact (readyCore_keeps h hr g).of_same (readyVc_same l hg)

end

/-- The virtual cores in a list made ready. -/
theorem readyVcs {u : Nat} (l : Launch) (vcs : List Nat) {s : State} (h : s.NoExports u) :
    s.SameTables (vcs.foldl (State.readyVc u l) s) ∧
    (∀ g, s.CoreReady u g → (vcs.foldl (State.readyVc u l) s).CoreReady u g) ∧
    ∀ vc ∈ vcs, ∀ g, l.coreOf vc = some g → (vcs.foldl (State.readyVc u l) s).CoreReady u g := by
  induction vcs generalizing s with
  | nil => exact ⟨⟨rfl, rfl⟩, fun _ hr => hr, fun _ hv => absurd hv List.not_mem_nil⟩
  | cons v vs ih =>
    have ht := readyVc_tables h l v
    have hx : (State.readyVc u l s v).NoExports u := by
      unfold State.NoExports
      rw [ht.2]
      exact h
    obtain ⟨hs, hk, hv⟩ := ih hx
    refine ⟨ht.trans hs, fun g hr => hk g (readyVc_keeps h l v hr), fun vc hvc g hg => ?_⟩
    rcases List.mem_cons.1 hvc with rfl | hvc
    · exact hk g ((readyCore_ready h g).of_same (readyVc_same l hg))
    · exact hv vc hvc g hg

/-- Every core of a launch made ready. -/
theorem readyCores_ready {s : State} {u : Nat} (h : s.NoExports u) :
    (s.readyCores u).launch u = s.launch u ∧ ∀ vc g, (s.launch u).coreOf vc = some g → (s.readyCores u).CoreReady u g := by
  obtain ⟨hs, -, hv⟩ := readyVcs (s.launch u) (List.range (s.launch u).vcores) h
  refine ⟨?_, fun vc g hg => hv vc (List.mem_range.2 ?_) g hg⟩
  · unfold State.launch
    rw [readyCores_eq, hs.1]
  · by_contra hn
    rw [Launch.coreOf, if_neg hn] at hg
    cases hg

/-- A launch with its record as the binding leaves it, and its cores made ready. -/
theorem bound_of {s v w : State} {u : Nat} {l : Launch} {clusters : List Nat} (h : s.NoExports u) (hw : v.SameTables w)
    (hl : v.launches = AMap.put s.launches u l) (he : v.exports = s.exports) (hst : l.state = .bound) (hb : l.bind = clusters) :
    ((w.readyCores u).launch u).state = .bound ∧ ((w.readyCores u).launch u).bind = clusters ∧
      ∀ vc g, ((w.readyCores u).launch u).coreOf vc = some g → (w.readyCores u).CoreReady u g := by
  have hx : w.NoExports u := by
    unfold State.NoExports
    rw [hw.2, he]
    exact h
  have hwl : w.launch u = l := by
    unfold State.launch
    rw [hw.1, hl, AMap.get_put, if_pos rfl]
    rfl
  obtain ⟨hlaunch, hready⟩ := readyCores_ready hx
  rw [hlaunch, hwl]
  exact ⟨hst, hb, fun vc g hg => hready vc g (hwl ▸ hg)⟩

/-- A launch that has been bound: its record, and its cores, which are ready. -/
theorem bindTo_bound {s w : State} {u : Nat} {clusters : List Nat} (h : s.NoExports u) (hw : s.bindTo u clusters = some w) :
    (w.launch u).state = .bound ∧ (w.launch u).bind = clusters ∧ ∀ vc g, (w.launch u).coreOf vc = some g → w.CoreReady u g := by
  unfold State.bindTo at hw
  dsimp only at hw
  split at hw
  · cases hw
  next ps _ =>
  split at hw
  · cases hw
  split at hw
  · cases hw
  next gs _ =>
  split at hw
  · cases hw
  cases hw
  exact bound_of h (foldl_sameTables (fun v p => foldl_sameTables (fun v b => writeGlobal_sameTables ..) ps v) _ _) rfl rfl rfl rfl

end Sys2Proof.Machine

namespace Sys2Proof.Safety

open Sys2Proof.Machine

section
variable {s : State} {pkg : Nat}

/-- No head is ready. -/
theorem launchSelect_idle (h : rankBy (s.rank pkg) (s.heads pkg) = []) : Completes (.launchSelect pkg) s (fun t => t = s) := by
  refine ⟨s, ?_, rfl⟩
  rw [exec_launchSelect, execLaunchSelect, h]
  rfl

/-- The rotations of a package after a head (R277). -/
def rotate (h : Nat × Nat × Nat) (p : Package) : Package :=
  { p with lastVf := some h.2.1, lastQ := AMap.put p.lastQ h.2.1 h.2.2 }

theorem unqueue_exports (s : State) (u : Nat) : (s.unqueue u).exports = s.exports := rfl

theorem bindHead_some {h : Nat × Nat × Nat} {clusters : List Nat} {w : State}
    (hw : ((s.modPkg pkg (rotate h)).unqueue h.1).bindTo h.1 clusters = some w) : s.bindHead pkg h clusters = w := by
  show (match ((s.modPkg pkg (rotate h)).unqueue h.1).bindTo h.1 clusters with | some t => t | none => _) = w
  rw [hw]

/-- The first head that finds its clusters free is bound to them. -/
theorem launchSelect_binds {h : Nat × Nat × Nat} {hs : List (Nat × Nat × Nat)} {p : Plan} {w : State}
    (hh : rankBy (s.rank pkg) (s.heads pkg) = h :: hs) (hp : s.headPlan (s.launch h.1) = some p) (hgone : p.gone = [])
    (hx : s.NoExports h.1)
    (hok : s.pillowShareOk { s.launch h.1 with bind := p.primary (s.launch h.1).lockstep } h.1 = true)
    (hw : ((s.modPkg pkg (rotate h)).unqueue h.1).bindTo h.1
      (p.primary (s.launch h.1).lockstep) = some w) :
    exec (.launchSelect pkg) s = .next w ∧ (w.launch h.1).state = .bound ∧ (w.launch h.1).bind = p.primary (s.launch h.1).lockstep ∧
      ∀ vc c, (w.launch h.1).coreOf vc = some c → w.CoreReady h.1 c := by
  have hx' : State.NoExports ((s.modPkg pkg (rotate h)).unqueue h.1) h.1 := by
    unfold State.NoExports
    rw [unqueue_exports]
    exact hx
  refine ⟨?_, bindTo_bound hx' hw⟩
  rw [exec_launchSelect, execLaunchSelect, hh]
  refine congrArg Host.Outcome.next ?_
  rw [State.selectFrom, hp]
  have hn : ¬ (!s.pillowShareOk { s.launch h.1 with bind := p.primary (s.launch h.1).lockstep } h.1) = true := by
    rw [hok]; decide
  have hg : p.gone.isEmpty = true := by rw [hgone]; rfl
  refine (if_neg hn).trans ((if_pos hg).trans ?_)
  exact bindHead_some hw

/-- What a core holds that is ready. -/
theorem coreReady_fields {t : State} {u c : Nat} (h : t.CoreReady u c) :
    (∀ o, o < 0x5_0000 ∨ (0x6_0000 ≤ o ∧ o < 0x8_0000) → Memory.get t.mem (spKey c o) = 0) ∧
      (t.core c).slotw = (t.launch u).slotw ∧ (∀ i : Fin 64, (t.core c).htab.get i = HEntry.reset i.val) ∧
      (t.core c).rq = [] ∧ (∀ i : Fin 8, (t.core c).kick.get i = none) := by
  refine ⟨fun o ho => ?_, h.slotw, fun i => ?_, h.rq, fun i => ?_⟩
  · have ha : spKey c o = spKey c 0 + o := by rw [← spKey_add, Nat.zero_add]
    have hb : spKey c 0x6_0000 = spKey c 0 + 0x6_0000 := by rw [← spKey_add]
    rcases ho with ho | ⟨ho, ho'⟩
    · exact h.low.get (by omega) (by omega)
    · exact h.high.get (by omega) (by omega)
  · rw [h.htab]
    exact Vector.getElem_ofFn (f := fun i : Fin 64 => HEntry.reset i.val) i.isLt
  · rw [h.kick]
    exact Vector.getElem_replicate i.isLt

end

end Sys2Proof.Safety

/-! SUPPORT. The completion of a launch (R193, R394). -/

namespace Sys2Proof.Machine

/-- A core of a launch that leaves the machine. -/
def State.leaveCore (u : Nat) (s : State) (g : Nat) : State :=
  match s.holder (g / 16) with
  | some (w, _) => if w = u then
      (s.modRq g (fun _ => [])).modCore g (fun (c : Core) =>
        { c with kick := Vector.replicate 8 none, waitList := [], istore := none, fwd := [], arrivals := [], chHolds := [],
                 banks := Vector.ofFn (fun b => match c.banks.get b with
                   | .held i => if i.launch = u then .clearing else .held i
                   | .leaving i => if i.launch = u then .clearing else .leaving i
                   | x => x) })
    else s
  | none => s

theorem leaveCore_shape (u : Nat) (s : State) (g : Nat) :
    State.leaveCore u s g = { s with cores := (State.leaveCore u s g).cores, net := (State.leaveCore u s g).net } := by
  unfold State.leaveCore
  split
  · split
    · rw [modRq_changes]; rfl
    · rfl
  · rfl

theorem leaveCores_shape (u : Nat) (gs : List Nat) (s : State) : gs.foldl (State.leaveCore u) s =
    { s with cores := (gs.foldl (State.leaveCore u) s).cores, net := (gs.foldl (State.leaveCore u) s).net } := by
  induction gs generalizing s with
  | nil => rfl
  | cons g gs ih =>
    rw [List.foldl_cons, ih, leaveCore_shape]

/-- A launch's record once it has left the machine. -/
def Launch.dissolved (l : Launch) : Launch := { l with granules := [], bind := [], evicted := [], stopping := [] }

/-- What a launch that leaves the machine takes with it. -/
structure State.Dissolved (s : State) (u : Nat) (w : State) : Prop where
  launch : w.launch u = (s.launch u).dissolved
  rest : w.rest = s.rest.filter (fun c => c.id.launch != u)
  groups : w.groups = s.groups.filter (fun g => g.launch != u)
  connectors : w.connectors = s.connectors.filter (fun c => c.2.launch != u)
  toHost : w.toHost = s.toHost
  unacked : w.unacked = s.unacked

theorem dissolveLaunch_dissolved (s : State) (u : Nat) : s.Dissolved u (s.dissolveLaunch u) := by
  let w := (s.launch u).cores.foldl (State.leaveCore u) s
  have h : w = { s with cores := w.cores, net := w.net } := leaveCores_shape u (s.launch u).cores s
  have hl : (s.dissolveLaunch u).launch u = (w.launch u).dissolved :=
    (State.launch_modLaunch w u u Launch.dissolved).trans (if_pos rfl)
  have hr : (s.dissolveLaunch u).rest = w.rest.filter (fun c => c.id.launch != u) := rfl
  have hg : (s.dissolveLaunch u).groups = w.groups.filter (fun g => g.launch != u) := rfl
  have hc : (s.dissolveLaunch u).connectors = w.connectors.filter (fun c => c.2.launch != u) := rfl
  have ht : (s.dissolveLaunch u).toHost = w.toHost := rfl
  have hu : (s.dissolveLaunch u).unacked = w.unacked := rfl
  rw [h] at hl hr hg hc ht hu
  exact ⟨hl, hr, hg, hc, ht, hu⟩

/-- A launch's record once it has run. -/
def Launch.hasRun (l : Launch) : Launch := { l with ran := true }

/-- The report of a launch that is over and in no graph (R193, R394). -/
theorem launchOver_reports {w : State} {u : Nat} (hg : (w.launch u).graph = none) (hr : (w.launch u).reported = false) :
    w.launchOver u = ((w.modLaunch u (fun l => { l with state := .done, ran := true })).hostEvent (w.launch u).vf 1
      (completion (w.launch u).serial (w.launch u).hasRun.status
        (if (w.launch u).hasRun.status = 4 ∨ (w.launch u).hasRun.status = 5 then (w.launch u).firstFault else none))).modLaunch u
          (fun l => { l with reported := true }) := by
  let v := w.modLaunch u (fun l => { l with state := .done, ran := true })
  have hv : v.launch u = { w.launch u with state := .done, ran := true } :=
    (State.launch_modLaunch w u u (fun l => { l with state := .done, ran := true })).trans (if_pos rfl)
  have hgr : v.graphOf u = none := by
    unfold State.graphOf
    rw [hv]
    show (w.launch u).graph.bind _ = none
    rw [hg]
    rfl
  show (match v.graphOf u with | some _ => _ | none => v.reportLaunch u (v.launch u).status) = _
  rw [hgr]
  show v.reportLaunch u (v.launch u).status = _
  unfold State.reportLaunch
  rw [hv]
  exact if_neg (by show ¬ (w.launch u).reported = true; rw [hr]; decide)

/-- STATUS of a launch that has run (R357, R363, R394). -/
theorem status_ran (l : Launch) : l.hasRun.status = match l.firstFault with | some f => if f.mchk then 5 else 4 | none => 0 := by
  unfold Launch.status
  rfl

/-- The fault that a completion report carries. -/
theorem status_fault (l : Launch) :
    (if l.hasRun.status = 4 ∨ l.hasRun.status = 5 then l.firstFault else none) =
      if l.firstFault.isSome then l.firstFault else none := by
  rw [status_ran]
  cases l.firstFault with
  | none => rfl
  | some f => cases h : f.mchk <;> simp [h]

theorem hostHeader_length (op tag len vf : Nat) : (hostHeader op tag len vf).length = 32 := by
  simp [hostHeader, leBytes_length]

/-- A host's datagram after its header. -/
theorem hostHeader_drop (op tag len vf : Nat) (bs : List Byte) : (hostHeader op tag len vf ++ bs).drop 32 = bs := by
  rw [← hostHeader_length op tag len vf, List.drop_left]

end Sys2Proof.Machine

namespace Sys2Proof.Safety

open Sys2Proof.Machine

section
variable {s : State} {u : Nat} (hreset : ∀ q ∈ (s.launch u).pkgs, (s.vfun q (s.launch u).vf).resetting = false)
include hreset

theorem exec_launchComplete_running :
    exec (.launchComplete u) s = if s.mayComplete u then .next ((s.dissolveLaunch u).launchOver u) else .next s := by
  have hf : (s.launch u).pkgs.find? (fun p => (s.vfun p (s.launch u).vf).resetting) = none := by
    rw [List.find?_eq_none]
    intro q hq
    rw [hreset q hq]
    decide
  rw [exec_launchComplete, execLaunchComplete, hf]

/-- A launch that may not complete yet. -/
theorem launchComplete_idle (h : s.mayComplete u = false) : Completes (.launchComplete u) s (fun t => t = s) :=
  ⟨s, (exec_launchComplete_running hreset).trans (if_neg (by rw [h]; decide)), rfl⟩

/-- A launch that is over leaves the machine and is reported. -/
theorem launchComplete_reports (h : s.mayComplete u = true) (hg : (s.launch u).graph = none) (hr : (s.launch u).reported = false) :
    Completes (.launchComplete u) s (fun t => (t.launch u).state = .done ∧ (t.launch u).ran = true ∧ (t.launch u).reported = true ∧
      (∀ c ∈ t.rest, c.id.launch ≠ u) ∧ (∀ x ∈ t.groups, x.launch ≠ u) ∧ (∀ x ∈ t.connectors, x.2.launch ≠ u) ∧
      (∃ x : HostMsg, t.toHost = s.toHost ++ [x] ∧ t.unacked = s.unacked ++ [x] ∧ x.vf = (s.launch u).vf ∧
        x.bytes.drop 32 = completion (s.launch u).serial (match (s.launch u).firstFault with | some f => if f.mchk then 5 else 4 | none => 0)
          (if (s.launch u).firstFault.isSome then (s.launch u).firstFault else none))) := by
  have hd := dissolveLaunch_dissolved s u
  have hover := launchOver_reports (w := s.dissolveLaunch u) (u := u) (by rw [hd.launch]; exact hg) (by rw [hd.launch]; exact hr)
  let v := (s.dissolveLaunch u).modLaunch u (fun l => { l with state := .done, ran := true })
  have hv : v.launch u = { (s.launch u).dissolved with state := .done, ran := true } := by
    rw [← hd.launch]
    exact (State.launch_modLaunch (s.dissolveLaunch u) u u (fun l => { l with state := .done, ran := true })).trans (if_pos rfl)
  have hl : ((s.dissolveLaunch u).launchOver u).launch u = { v.launch u with reported := true } := by
    rw [hover, State.launch_modLaunch, if_pos rfl]
    rfl
  have hrest : ((s.dissolveLaunch u).launchOver u).rest = (s.dissolveLaunch u).rest := by rw [hover]; rfl
  have hgroups : ((s.dissolveLaunch u).launchOver u).groups = (s.dissolveLaunch u).groups := by rw [hover]; rfl
  have hconn : ((s.dissolveLaunch u).launchOver u).connectors = (s.dissolveLaunch u).connectors := by rw [hover]; rfl
  rw [status_fault, status_ran, hd.launch] at hover
  have hto : ∃ x : HostMsg, ((s.dissolveLaunch u).launchOver u).toHost = (s.dissolveLaunch u).toHost ++ [x] ∧
      ((s.dissolveLaunch u).launchOver u).unacked = (s.dissolveLaunch u).unacked ++ [x] ∧ x.vf = (s.launch u).vf ∧
      x.bytes.drop 32 = completion (s.launch u).serial (match (s.launch u).firstFault with | some f => if f.mchk then 5 else 4 | none => 0)
        (if (s.launch u).firstFault.isSome then (s.launch u).firstFault else none) := by
    rw [hover]
    exact ⟨_, rfl, rfl, rfl, hostHeader_drop ..⟩
  rw [hd.toHost, hd.unacked] at hto
  refine ⟨_, (exec_launchComplete_running hreset).trans (if_pos h), by rw [hl, hv], by rw [hl, hv], by rw [hl], fun c hc => ?_,
    fun x hx => ?_, fun x hx => ?_, hto⟩
  · rw [hrest, hd.rest] at hc
    simpa using (List.mem_filter.1 hc).2
  · rw [hgroups, hd.groups] at hx
    simpa using (List.mem_filter.1 hx).2
  · rw [hconn, hd.connectors] at hx
    simpa using (List.mem_filter.1 hx).2

end

end Sys2Proof.Safety

/-! SUPPORT. Eviction: the contexts of a placement set stop, and its cores are saved (R289). -/

namespace Sys2Proof.Machine

/-! ## Contexts with distinct names -/

/-- No two contexts share a name. -/
def State.Distinct (s : State) : Prop := (s.contexts.map (·.id)).Nodup

theorem State.Distinct.alone {s : State} (h : s.Distinct) : ∀ r ∈ s.rest, r.id ≠ s.me.id := by
  intro r hr he
  exact (List.nodup_cons.1 h).1 (List.mem_map.2 ⟨r, hr, he⟩)

theorem State.Distinct.strand? {s : State} (h : s.Distinct) {c : Strand} (hc : c ∈ s.contexts) : s.strand? c.id = some c :=
  find?_of_key (l := s.contexts) (fun c : Strand => c.id) h hc fun x => by simp

theorem State.Distinct.of_ids {s t : State} (h : s.Distinct) (hm : t.me.id = s.me.id) (hr : t.rest.map (·.id) = s.rest.map (·.id)) :
    t.Distinct := by
  show (t.me.id :: t.rest.map (·.id)).Nodup
  rw [hm, hr]
  exact h

theorem State.Distinct.modStrand {s : State} (h : s.Distinct) {i : Sid} {f : Strand → Strand} (hf : ∀ c, (f c).id = c.id) :
    (s.modStrand i f).Distinct := by
  refine h.of_ids ?_ ?_
  · show (if s.me.id = i then f s.me else s.me).id = s.me.id
    split
    · exact hf _
    · rfl
  · show (s.rest.map (fun c => if c.id = i then f c else c)).map (·.id) = _
    rw [List.map_map]
    refine List.map_congr_left fun x _ => ?_
    simp only [Function.comp_apply]
    split
    · exact hf _
    · rfl

theorem State.Distinct.focus {s : State} (h : s.Distinct) (i : Sid) : (s.focus i).Distinct := by
  unfold State.focus
  split
  · next c hc =>
    have hid : c.id = i := by simpa using List.find?_some hc
    have hmem : c ∈ s.rest := List.mem_of_find?_eq_some hc
    obtain ⟨hme, hrest⟩ := List.nodup_cons.1 h
    have hne : s.me.id ≠ i := fun e => hme (List.mem_map.2 ⟨c, hmem, hid.trans e.symm⟩)
    have hmap : (s.rest.map (fun x => if x.id = i then s.me else x)).map (·.id) =
        (s.rest.map (·.id)).map (fun a => if a = i then s.me.id else a) := by
      rw [List.map_map, List.map_map]
      refine List.map_congr_left fun x _ => ?_
      simp only [Function.comp_apply]
      split <;> rfl
    show (c.id :: (s.rest.map (fun x => if x.id = i then s.me else x)).map (·.id)).Nodup
    rw [hmap, hid, List.nodup_cons]
    refine ⟨fun hin => ?_, hrest.map_on fun a ha b hb hab => ?_⟩
    · obtain ⟨a, -, ha⟩ := List.mem_map.1 hin
      split at ha
      · exact hne ha
      · next hai => exact hai ha
    · by_cases hai : a = i <;> by_cases hbi : b = i
      · rw [hai, hbi]
      · rw [if_pos hai, if_neg hbi] at hab
        exact absurd (show s.me.id ∈ s.rest.map (·.id) by rw [hab]; exact hb) hme
      · rw [if_neg hai, if_pos hbi] at hab
        exact absurd (show s.me.id ∈ s.rest.map (·.id) by rw [← hab]; exact ha) hme
      · rwa [if_neg hai, if_neg hbi] at hab
  · exact h

/-- A change that a context makes to itself, with packets that it sends. -/
def State.OwnChange (f : State → State) : Prop := ∀ s, f s = { s with me := (f s).me, net := (f s).net } ∧ (f s).me.id = s.me.id

section
variable {s : State} {i : Sid} {f : State → State} (h : s.Distinct) (hf : State.OwnChange f)
include h hf

theorem OwnChange.focus_distinct : (f (s.focus i)).Distinct :=
  (h.focus i).of_ids (hf _).2 (by rw [(hf (s.focus i)).1])

theorem asStrand_distinct : (s.asStrand i f).Distinct := (OwnChange.focus_distinct h hf).focus _

/-- Contexts after one has changed itself. -/
theorem asStrand_strand? {c : Strand} (hc : s.strand? i = some c) (j : Sid) :
    (s.asStrand i f).strand? j = if j = i then some (f (s.focus i)).me else s.strand? j := by
  have hme : (s.focus i).me = c := State.focus_me hc h.alone
  have hid : c.id = i := by simpa using List.find?_some hc
  have hfid : (f (s.focus i)).me.id = i := by rw [(hf _).2, hme, hid]
  rw [State.asStrand, State.strand?_focus _ _ _ (OwnChange.focus_distinct h hf).alone]
  by_cases hj : j = i
  · have hself := State.strand?_me (f (s.focus i))
    rw [if_pos hj, hj]
    rwa [hfid] at hself
  · rw [if_neg hj, State.strand?_of_ne (by rw [hfid]; exact hj), ← State.strand?_focus s i j h.alone,
      State.strand?_of_ne (by rw [hme, hid]; exact hj), (hf (s.focus i)).1]

end

/-! ## A context stops (R289 steps 1 and 2) -/

theorem withdrawPort_own (idx : Nat) : State.OwnChange (·.withdrawPort idx) := by
  intro s
  dsimp only
  unfold State.withdrawPort
  split <;> exact ⟨rfl, rfl⟩

theorem State.OwnChange.comp {f k : State → State} (hf : State.OwnChange f) (hk : State.OwnChange k) : State.OwnChange (fun s => k (f s)) := by
  intro s
  obtain ⟨h1, h2⟩ := hf s
  obtain ⟨k1, k2⟩ := hk (f s)
  refine ⟨?_, k2.trans h2⟩
  dsimp only
  rw [k1, h1]

theorem withdrawAll_own : State.OwnChange State.withdrawAll := by
  have h : ∀ (ps : AMap Nat PortState), State.OwnChange (fun s => ps.foldl (fun s p => s.withdrawPort p.1) s) := by
    intro ps
    induction ps with
    | nil => exact fun s => ⟨rfl, rfl⟩
    | cons p ps ih => exact (withdrawPort_own p.1).comp ih
  exact fun s => h s.me.ports s

theorem cancelPend_own : State.OwnChange State.cancelPend := by
  intro s
  unfold State.cancelPend
  split
  · exact ⟨rfl, rfl⟩
  · split
    · exact ⟨rfl, rfl⟩
    · split <;> exact ⟨rfl, rfl⟩

/-- A context at the start of its eviction takes back what it has asked for. -/
def State.giveUp (s : State) : State := s.withdrawAll.cancelPend

theorem giveUp_own : State.OwnChange State.giveUp := withdrawAll_own.comp cancelPend_own

/-- A context with nothing to take back. -/
def Strand.Idle (c : Strand) : Prop := c.ports = [] ∧ c.pend = []

theorem giveUp_idle {s : State} (h : s.me.Idle) : s.giveUp = s := by
  obtain ⟨hp, hq⟩ := h
  have hw : s.withdrawAll = s := by
    unfold State.withdrawAll
    rw [hp]
    rfl
  unfold State.giveUp
  rw [hw, State.cancelPend, Strand.asksFor, hq]
  rfl

theorem stop_eq (s : State) (i : Sid) :
    s.stop i = ((s.asStrand i State.giveUp).unhold i).modStrand i (fun c => { c with res := .evicted }) := rfl

section
variable {s : State} {i : Sid} (h : s.Distinct)
include h

theorem stop_distinct : (s.stop i).Distinct := by
  have hu : ((s.asStrand i State.giveUp).unhold i).Distinct := by
    rw [State.unhold_shape]
    exact asStrand_distinct h giveUp_own
  exact hu.modStrand (f := fun c => { c with res := .evicted }) fun _ => rfl

/-- Contexts after one has stopped. -/
theorem stop_strand? {c : Strand} (hc : s.strand? i = some c) (j : Sid) :
    (s.stop i).strand? j = if j = i then some { (s.focus i).giveUp.me with res := .evicted } else s.strand? j := by
  rw [stop_eq, State.strand?_modStrand _ _ _ (fun c => { c with res := .evicted }) (fun _ => rfl), State.strand?_unhold,
    State.strand?_unhold, asStrand_strand? h giveUp_own hc, asStrand_strand? h giveUp_own hc, if_pos rfl]
  split <;> rfl

theorem stop_strand?_idle {c : Strand} (hc : s.strand? i = some c) (hi : c.Idle) :
    (s.stop i).strand? i = some { c with res := .evicted } := by
  have hme : (s.focus i).me = c := State.focus_me hc h.alone
  rw [stop_strand? h hc, if_pos rfl, giveUp_idle (hme.symm ▸ hi), hme]

/-- Contexts of a list stop: an idle one that is among them, or has stopped before, has only stopped. -/
theorem stops_idle {is : List Sid} (his : ∀ i ∈ is, (s.strand? i).isSome = true) {j : Sid} {c : Strand} (hc : s.strand? j = some c)
    (hi : c.Idle) (hj : j ∈ is ∨ c.res = .evicted) :
    ∃ d, (is.foldl State.stop s).strand? j = some d ∧ d.res = .evicted ∧ d.x = c.x ∧ d.pc = c.pc := by
  induction is generalizing s c with
  | nil => exact ⟨c, hc, hj.resolve_left List.not_mem_nil, rfl, rfl⟩
  | cons i is ih =>
    obtain ⟨a, ha⟩ := Option.isSome_iff_exists.1 (his i List.mem_cons_self)
    have hsome : ∀ k ∈ is, ((s.stop i).strand? k).isSome = true := by
      intro k hk
      rw [stop_strand? h ha]
      split
      · rfl
      · exact his k (List.mem_cons_of_mem _ hk)
    by_cases hji : j = i
    · subst hji
      exact ih (c := { c with res := .evicted }) (stop_distinct h) hsome (stop_strand?_idle h hc hi) hi (.inr rfl)
    · refine ih (stop_distinct h) hsome ?_ hi (hj.imp_left fun hm => (List.mem_cons.1 hm).resolve_left hji)
      rw [stop_strand? h ha, if_neg hji]
      exact hc

/-- An idle context of a placement set that stops. -/
theorem stopSet_idle {u : Nat} {vs : List Nat} {c : Strand} (hc : c ∈ s.setContexts u vs) (hr : c.res = .resident) (hi : c.Idle) :
    ∃ d, (s.stopSet u vs).strand? c.id = some d ∧ d.res = .evicted ∧ d.x = c.x ∧ d.pc = c.pc := by
  have hctx : ∀ a ∈ s.setContexts u vs, a ∈ s.contexts := fun a ha => (List.mem_filter.1 ha).1
  refine stops_idle h (is := ((s.setContexts u vs).filter (fun c => decide (c.res = .resident))).map (·.id)) ?_
    (h.strand? (hctx c hc)) hi (.inl ?_)
  · intro i hin
    obtain ⟨a, ha, rfl⟩ := List.mem_map.1 hin
    rw [h.strand? (hctx a (List.mem_filter.1 ha).1)]
    rfl
  · exact List.mem_map.2 ⟨c, List.mem_filter.2 ⟨hc, decide_eq_true hr⟩, rfl⟩

end

/-! ## Cores saved (R289 steps 3 and 4) -/

/-- The context of a virtual core is in its save area, and its core's scratchpad is clear. -/
structure State.VcSaved (s : State) (u x c : Nat) : Prop where
  core : (AMap.get s.savedCores (u, x)).isSome = true
  mem : (AMap.get s.savedMem (u, x)).isSome = true
  clear : s.Clear (spKey c 0) (2 ^ 19)

/-- A virtual core saved, where it has a core. -/
def State.saveVc (u : Nat) (s : State) (vc : Nat) : State :=
  match (s.launch u).coreOf vc with
  | some g => s.saveCore u vc g
  | none => s

theorem AMap.isSome_put {κ ν : Type} [DecidableEq κ] {m : AMap κ ν} {j : κ} (k : κ) (v : ν) (h : (AMap.get m j).isSome = true) :
    (AMap.get (AMap.put m k v) j).isSome = true := by
  rw [AMap.get_put]
  split
  · rfl
  · exact h

section
variable (s : State) (u vc g : Nat)

theorem saveCore_launches : (s.saveCore u vc g).launches = s.launches := by
  unfold State.saveCore
  dsimp only
  rw [modRq_changes]
  rfl

theorem saveCore_mem : ∀ c ∈ (s.saveCore u vc g).mem, c ∈ s.mem := by
  unfold State.saveCore
  dsimp only
  rw [modRq_changes]
  exact fun c hc => (List.mem_filter.1 hc).1

theorem saveCore_saved : (s.saveCore u vc g).VcSaved u vc g := by
  refine ⟨?_, ?_, ?_⟩
  · unfold State.saveCore
    dsimp only
    rw [modRq_changes]
    show (AMap.get (AMap.put s.savedCores (u, vc) _) (u, vc)).isSome = true
    rw [AMap.get_put, if_pos rfl]
    rfl
  · unfold State.saveCore
    dsimp only
    rw [modRq_changes]
    show (AMap.get (AMap.put s.savedMem (u, vc) _) (u, vc)).isSome = true
    rw [AMap.get_put, if_pos rfl]
    rfl
  · exact clearRange_clear _ _ _

variable {s}

theorem saveCore_keeps {x c : Nat} (h : s.VcSaved u x c) : (s.saveCore u vc g).VcSaved u x c := by
  refine ⟨?_, ?_, h.clear.of_sub (saveCore_mem s u vc g)⟩
  · unfold State.saveCore
    dsimp only
    rw [modRq_changes]
    exact AMap.isSome_put _ _ h.core
  · unfold State.saveCore
    dsimp only
    rw [modRq_changes]
    exact AMap.isSome_put _ _ h.mem

end

theorem saveVc_launches (u : Nat) (s : State) (vc : Nat) : (State.saveVc u s vc).launches = s.launches := by
  unfold State.saveVc
  split
  · exact saveCore_launches ..
  · rfl

theorem saveVc_keeps {u : Nat} {s : State} (vc : Nat) {x c : Nat} (h : s.VcSaved u x c) : (State.saveVc u s vc).VcSaved u x c := by
  unfold State.saveVc
  split
  · exact saveCore_keeps u vc _ h
  · exact h

theorem launch_of_launches {s t : State} (h : t.launches = s.launches) (u : Nat) : t.launch u = s.launch u := by
  unfold State.launch
  rw [h]

/-- Virtual cores saved, one after another. -/
theorem saveVcs (u : Nat) (vcs : List Nat) (s : State) :
    (vcs.foldl (State.saveVc u) s).launches = s.launches ∧
    (∀ x c, s.VcSaved u x c → (vcs.foldl (State.saveVc u) s).VcSaved u x c) ∧
    ∀ x ∈ vcs, ∀ c, (s.launch u).coreOf x = some c → (vcs.foldl (State.saveVc u) s).VcSaved u x c := by
  induction vcs generalizing s with
  | nil => exact ⟨rfl, fun _ _ h => h, fun _ hx => absurd hx List.not_mem_nil⟩
  | cons v vs ih =>
    obtain ⟨hl, hk, hv⟩ := ih (State.saveVc u s v)
    have hstep := saveVc_launches u s v
    refine ⟨hl.trans hstep, fun x c h => hk x c (saveVc_keeps v h), fun x hx c hc => ?_⟩
    rcases List.mem_cons.1 hx with rfl | hx
    · refine hk x c ?_
      unfold State.saveVc
      rw [hc]
      exact saveCore_saved s u x c
    · exact hv x hx c (by rw [launch_of_launches hstep]; exact hc)

/-- A placement set saved. -/
theorem saveSet_saved (s : State) (u : Nat) (vs : List Nat) : ((s.saveSet u vs).launch u).evicted = (s.launch u).evicted ++ vs ∧
    ∀ x ∈ vcoresOf vs, ∀ c, (s.launch u).coreOf x = some c → (s.saveSet u vs).VcSaved u x c := by
  obtain ⟨hl, -, hv⟩ := saveVcs u (vcoresOf vs) s
  refine ⟨?_, fun x hx c hc => ⟨(hv x hx c hc).core, (hv x hx c hc).mem, (hv x hx c hc).clear⟩⟩
  have h := State.launch_modLaunch ((vcoresOf vs).foldl (State.saveVc u) s) u u (fun l =>
    { l with evicted := l.evicted ++ vs, stopping := l.stopping.filter (fun v => !vs.contains v) })
  rw [if_pos rfl, launch_of_launches hl] at h
  exact congrArg Launch.evicted h

end Sys2Proof.Machine

namespace Sys2Proof.Safety

open Sys2Proof.Machine

section
variable {s : State} {key : Nat}

theorem exec_eviction_bound (hb : (s.launch (key / 128)).state = .bound)
    (he : (s.launch (key / 128)).evicted.contains (key % 128) = false) : exec (.eviction key) s = .next
      (let w := s.stopSet (key / 128) (s.keptSet (key / 128) (key % 128))
       if w.setSettled (key / 128) (s.keptSet (key / 128) (key % 128)) then w.saveSet (key / 128) (s.keptSet (key / 128) (key % 128)) else w) := by
  rw [exec_eviction, execEviction]
  exact congrArg Host.Outcome.next (if_neg (by rw [he, hb]; decide))

/-- An evicted placement set is not evicted again. -/
theorem eviction_idle (he : (s.launch (key / 128)).evicted.contains (key % 128) = true) :
    Completes (.eviction key) s (fun t => t = s) := by
  refine ⟨s, ?_, rfl⟩
  rw [exec_eviction, execEviction]
  exact congrArg Host.Outcome.next (if_pos (by rw [he]; rfl))

end

end Sys2Proof.Safety

/-! O48. Restore (R289, R322), and the statement of the scheduler. -/

namespace Sys2Proof.Machine

/-- The launches are the same, and no context is new. -/
def State.NoneNew (s t : State) : Prop := t.launches = s.launches ∧ ∀ c ∈ t.contexts, c ∈ s.contexts

theorem State.NoneNew.trans {s t u : State} (h : s.NoneNew t) (k : t.NoneNew u) : s.NoneNew u :=
  ⟨k.1.trans h.1, fun c hc => h.2 c (k.2 c hc)⟩

theorem State.NoneNew.of_same {s t : State} (hl : t.launches = s.launches) (hm : t.me = s.me) (hr : t.rest = s.rest) : s.NoneNew t := by
  refine ⟨hl, fun c hc => ?_⟩
  unfold State.contexts at hc ⊢
  rwa [hm, hr] at hc

theorem foldl_noneNew {α : Type} {f : State → α → State} (hf : ∀ (s : State) a, s.NoneNew (f s a)) (l : List α) (s : State) :
    s.NoneNew (l.foldl f s) := by
  induction l generalizing s with
  | nil => exact .of_same rfl rfl rfl
  | cons a l ih => exact (hf s a).trans (ih _)

theorem loadCore_noneNew (s : State) (u vc g : Nat) : s.NoneNew (s.loadCore u vc g) := by
  unfold State.loadCore
  split
  · dsimp only
    rw [learn_shape, modRq_changes]
    exact .of_same rfl rfl rfl
  · exact .of_same rfl rfl rfl

theorem pairUp_noneNew (s : State) (g : Nat) : s.NoneNew (s.pairUp g) := by
  unfold State.pairUp
  split <;> exact .of_same rfl rfl rfl

theorem commands_noneNew (s : State) (ref : Nat) : s.NoneNew (s.commands ref) := by
  unfold State.commands
  split
  · next op _ => exact foldl_noneNew (f := fun s g => s.command ref op g) (fun s a => .of_same rfl rfl rfl) _ s
  · exact .of_same rfl rfl rfl

theorem focus_noneNew (s : State) (i : Sid) : s.NoneNew (s.focus i) := by
  unfold State.focus
  split
  · next c hc =>
    refine ⟨rfl, fun x hx => ?_⟩
    rcases List.mem_cons.1 hx with rfl | hx
    · exact List.mem_cons_of_mem _ (List.mem_of_find?_eq_some hc)
    · obtain ⟨y, hy, rfl⟩ := List.mem_map.1 hx
      split
      · exact List.mem_cons_self
      · exact List.mem_cons_of_mem _ hy
  · exact .of_same rfl rfl rfl

theorem asStrand_noneNew {f : State → State} (hf : ∀ s : State, s.NoneNew (f s)) (s : State) (i : Sid) : s.NoneNew (s.asStrand i f) :=
  ((focus_noneNew s i).trans (hf _)).trans (focus_noneNew _ _)

theorem renewMembers_noneNew (s : State) (u : Nat) (mine : Sid → Bool) : s.NoneNew (s.renewMembers u mine) := by
  unfold State.renewMembers
  refine foldl_noneNew (fun s g => foldl_noneNew (fun s m => ?_) _ s) _ s
  have h : s.NoneNew (s.modGroup g.launch g.gid (fun g => g.modMember m.idx (fun m => { m with renew := true }))) := .of_same rfl rfl rfl
  exact h.trans (asStrand_noneNew (f := fun s => s.report g (.unblock g.launch g.gid m.idx)) (fun s => .of_same rfl rfl rfl) _ _)

/-- A context of a restored set resumes. -/
def Strand.resumeIn (u : Nat) (vs : List Nat) (c : Strand) : Strand :=
  if c.id.launch = u ∧ vs.contains (c.place.vc / 16) then c.resume else c

/-- A context of a restored set is evicted no more. -/
theorem resumeIn_res {u : Nat} {vs : List Nat} {c : Strand} (hl : (c.resumeIn u vs).id.launch = u)
    (hv : (c.resumeIn u vs).place.vc / 16 ∈ vs) : (c.resumeIn u vs).res ≠ .evicted := by
  unfold Strand.resumeIn at hl hv ⊢
  split
  · show (if c.res = .evicted then .resident else c.res) ≠ .evicted
    split
    · nofun
    · next h => exact h
  · next h =>
    rw [if_neg h] at hl hv
    exact absurd ⟨hl, by simpa using hv⟩ h

/-- A virtual core's context comes back, where it has a core. -/
def State.loadVc (u : Nat) (s : State) (vc : Nat) : State :=
  match (s.launch u).coreOf vc with
  | some g => s.loadCore u vc g
  | none => s

theorem loadVc_noneNew (u : Nat) (s : State) (vc : Nat) : s.NoneNew (State.loadVc u s vc) := by
  unfold State.loadVc
  split
  · exact loadCore_noneNew ..
  · exact .of_same rfl rfl rfl

/-- The contexts of a restored set resume. -/
def State.resumeSet (s : State) (u : Nat) (vs : List Nat) : State :=
  { s with me := s.me.resumeIn u vs, rest := s.rest.map (.resumeIn u vs) }

theorem resumeSet_res {s : State} {u : Nat} {vs : List Nat} : ∀ c ∈ (s.resumeSet u vs).contexts, c.id.launch = u →
    c.place.vc / 16 ∈ vs → c.res ≠ .evicted := by
  intro c hc hl hv
  have hm : c ∈ s.contexts.map (.resumeIn u vs) := hc
  obtain ⟨d, -, rfl⟩ := List.mem_map.1 hm
  exact resumeIn_res hl hv

/-- The pairs of a restored set run in lock step again. -/
def State.pairSet (s : State) (u : Nat) (vs : List Nat) : State :=
  if (s.launch u).lockstep then
    (vcoresOf vs).foldl (fun s vc => match (s.launch u).coreOf vc with
      | some g => s.pairUp g
      | none => s) s
  else s

theorem pairSet_noneNew (s : State) (u : Nat) (vs : List Nat) : s.NoneNew (s.pairSet u vs) := by
  unfold State.pairSet
  split
  · refine foldl_noneNew (fun s vc => ?_) _ s
    split
    · exact pairUp_noneNew ..
    · exact .of_same rfl rfl rfl
  · exact .of_same rfl rfl rfl

/-- A launch without virtual clusters among its evicted ones. -/
def Launch.back (vs : List Nat) (l : Launch) : Launch := { l with evicted := l.evicted.filter (fun v => !vs.contains v) }

theorem loadSet_eq (s : State) (u : Nat) (vs : List Nat) : ∃ mine : Sid → Bool, s.loadSet u vs =
    (((((vcoresOf vs).foldl (State.loadVc u) s).resumeSet u vs).pairSet u vs).modLaunch u (.back vs) |>.recommand mine).renewMembers u mine :=
  ⟨fun i => i.launch == u && (((vcoresOf vs).foldl (State.loadVc u) s).strand? i).any (fun (c : Strand) => vs.contains (c.place.vc / 16)), rfl⟩

/-- A placement set restored: its clusters are evicted no more, and none of its contexts is. -/
theorem loadSet_restores (s : State) (u : Nat) (vs : List Nat) :
    ((s.loadSet u vs).launch u).evicted = (s.launch u).evicted.filter (fun x => !vs.contains x) ∧
    ∀ c ∈ (s.loadSet u vs).contexts, c.id.launch = u → c.place.vc / 16 ∈ vs → c.res ≠ .evicted := by
  obtain ⟨mine, he⟩ := loadSet_eq s u vs
  let a := (vcoresOf vs).foldl (State.loadVc u) s
  let b := (a.resumeSet u vs).pairSet u vs
  let c := b.modLaunch u (.back vs)
  have ha : s.NoneNew a := foldl_noneNew (loadVc_noneNew u) _ s
  have hb : (a.resumeSet u vs).NoneNew b := pairSet_noneNew ..
  have hc : c.NoneNew (c.recommand mine) := foldl_noneNew (f := fun s (o : Nat × EngOp) => s.commands o.1) (fun s o => commands_noneNew s o.1) _ c
  have ht : c.NoneNew (s.loadSet u vs) := by
    rw [he]
    exact hc.trans (renewMembers_noneNew _ _ _)
  refine ⟨?_, fun x hx => ?_⟩
  · have hl : b.launch u = s.launch u := launch_of_launches (hb.1.trans ha.1) u
    rw [launch_of_launches ht.1, State.launch_modLaunch, if_pos rfl, hl]
    rfl
  · have hx : x ∈ b.contexts := ht.2 x hx
    exact resumeSet_res x (hb.2 x hx)

end Sys2Proof.Machine

namespace Sys2Proof.Safety

open Sys2Proof.Machine

section
variable {s : State} {key : Nat}

/-- The next placement set comes back. -/
theorem restore_completes (h : s.mayRestore (key / 128) (key % 128) = true) : Completes (.restore key) s (fun t =>
    (t.launch (key / 128)).evicted = (s.launch (key / 128)).evicted.filter (fun x => !(s.savedSet (key / 128) (key % 128)).contains x) ∧
    ∀ c ∈ t.contexts, c.id.launch = key / 128 → c.place.vc / 16 ∈ s.savedSet (key / 128) (key % 128) → c.res ≠ .evicted) := by
  refine ⟨_, ?_, loadSet_restores s (key / 128) (s.savedSet (key / 128) (key % 128))⟩
  rw [exec_restore, execRestore]
  exact if_pos h

/-- A placement set that is not the next to come back. -/
theorem restore_idle (h : s.mayRestore (key / 128) (key % 128) = false) : Completes (.restore key) s (fun t => t = s) := by
  refine ⟨s, ?_, rfl⟩
  rw [exec_restore, execRestore]
  exact if_neg (by rw [h]; decide)

/-- An eviction begun or carried on. -/
theorem eviction_completes (hb : (s.launch (key / 128)).state = .bound)
    (he : (s.launch (key / 128)).evicted.contains (key % 128) = false) {vs : List Nat} {stopped : State}
    (hvs : vs = s.keptSet (key / 128) (key % 128)) (hst : stopped = s.stopSet (key / 128) vs) :
    (stopped.setSettled (key / 128) vs = false → Completes (.eviction key) s (fun t => t = stopped)) ∧
    (stopped.setSettled (key / 128) vs = true → Completes (.eviction key) s (fun t =>
      (t.launch (key / 128)).evicted = (stopped.launch (key / 128)).evicted ++ vs ∧
      ∀ x ∈ vcoresOf vs, ∀ c, (stopped.launch (key / 128)).coreOf x = some c →
        (AMap.get t.savedCores (key / 128, x)).isSome = true ∧ (AMap.get t.savedMem (key / 128, x)).isSome = true ∧
        ∀ o, o < 2 ^ 19 → Memory.get t.mem (spKey c o) = 0)) := by
  have hexec := exec_eviction_bound hb he
  subst hvs hst
  dsimp only at hexec
  refine ⟨fun h => ⟨_, hexec.trans (by rw [h]; rfl), rfl⟩, fun h => ?_⟩
  rw [if_pos h] at hexec
  obtain ⟨hev, hsaved⟩ := saveSet_saved (s.stopSet (key / 128) (s.keptSet (key / 128) (key % 128))) (key / 128)
    (s.keptSet (key / 128) (key % 128))
  refine ⟨_, hexec, hev, fun x hx c hc => ⟨(hsaved x hx c hc).core, (hsaved x hx c hc).mem, fun o ho => ?_⟩⟩
  have ha : spKey c o = spKey c 0 + o := by rw [← spKey_add, Nat.zero_add]
  exact (hsaved x hx c hc).clear.get (by omega) (by omega)

end

/-- Settles O48: each event by the branch that its hypotheses choose, with what the branch leaves in the launch, its cores and its
contexts. -/
theorem scheduling : Obligations.Scheduling := by
  unfold Obligations.Scheduling
  intro pkg u v core slot tid graph node k key h hs p w g n word m tag rest s
  refine ⟨launchSelect_idle, fun hh hp hgone hx hok hw => ?_, fun hh hb hf hheld hst hsh harr hun hno hgr _ => ?_,
    fun hc hh => strandPlace_idle hh hc, fun hg hn hr hu hk hw => nodeTest_completes hg hn hr hu hk hw, fun hk => ?_,
    fun hg hn hc => nodeTest_idle hg hn hc, fun hreset hm hgr hrep => launchComplete_reports hreset hm hgr hrep,
    fun hreset hm => launchComplete_idle hreset hm, fun hk => ?_, ⟨_, rfl, rfl, rfl⟩, fun hb he => ?_, eviction_idle,
    restore_completes, restore_idle⟩
  · obtain ⟨hexec, hst, hb, hready⟩ := launchSelect_binds hh hp hgone hx hok hw
    exact ⟨w, hexec, rfl, hst, hb, fun vc c hc => coreReady_fields (hready vc c hc)⟩
  · obtain ⟨t, ht, hstrand, hmem, hstarted, hq⟩ := strandPlace_starts hh hb hf hheld hst hsh harr hun hno hgr
    obtain ⟨hpc, hlevel, hlive, hplace, hres, hx, hv, hfcr, hfstat, hsq, hrace, hgrp, hun⟩ :=
      starter_fields s u (v * 16 + core % 16) core slot tid
    exact ⟨t, ht, _, hstrand, hpc, hlevel, hlive, hplace, hres, hx, hv, hfcr, hfstat, hsq, hrace, hgrp, hun, hmem, hstarted, hq⟩
  · exact if_pos hk
  · refine ⟨{ s with toHost := s.toHost ++ [m] }, ?_, rfl, rfl⟩
    rw [exec_eventRetransmit, execEventRetransmit, hk]
  · obtain ⟨hwait, hsave⟩ := eviction_completes hb he rfl rfl
    exact ⟨hwait, hsave, fun hd c hc hr hp hq => stopSet_idle hd hc hr ⟨hp, hq⟩⟩

end Sys2Proof.Safety

/-! SUPPORT. The two-source integer arithmetic as bit-vector operations (R30, R81, R82). -/

namespace Sys2Proof.Machine

/-! ## Sums, differences and products -/

theorem asInt_toNat {n : Nat} (h : 0 < n) (A : BitVec n) : asInt true n A.toNat = A.toInt := by
  rw [asInt_true n _ h, BitVec.ofNat_toNat, BitVec.setWidth_eq]

theorem ofNat_add_toNat {n : Nat} (A B : BitVec n) : BitVec.ofNat n ((A.toNat + B.toNat) % 2 ^ n) = A + B :=
  BitVec.eq_of_toNat_eq (by simp)

theorem ofNat_sub_toNat {n : Nat} (A B : BitVec n) : BitVec.ofNat n ((A.toNat + 2 ^ n - B.toNat) % 2 ^ n) = A - B := by
  refine BitVec.eq_of_toNat_eq ?_
  have hB := B.isLt
  rw [BitVec.toNat_ofNat, Nat.mod_mod, BitVec.toNat_sub]
  congr 1
  omega

theorem ofNat_mul_toNat {n : Nat} (A B : BitVec n) : BitVec.ofNat n (A.toNat * B.toNat % 2 ^ n) = A * B :=
  BitVec.eq_of_toNat_eq (by simp)

theorem two_pow_double (n : Nat) : 2 ^ (2 * n) = 2 ^ n * 2 ^ n := by rw [two_mul, Nat.pow_add]

theorem emod_square_ediv (z : Int) {m : Int} (h : 0 < m) : z % (m * m) / m % m = z / m % m := by
  rw [Int.emod_def z, mul_assoc, mul_comm m (m * _), Int.sub_mul_ediv_right _ _ h.ne', Int.sub_mul_emod_self_left]

/-- The upper half of an integer of two widths is its quotient by `2 ^ n`. -/
theorem extract_high_ofInt (n : Nat) (z : Int) :
    (BitVec.ofInt (2 * n) z).extractLsb' n n = BitVec.ofInt n (z / (2 ^ n : Nat)) := by
  refine BitVec.eq_of_toNat_eq (Int.ofNat.inj ?_)
  have hpos : (0 : Int) < (2 ^ n : Nat) := by positivity
  simp only [BitVec.extractLsb'_toNat, BitVec.toNat_ofInt, Nat.shiftRight_eq_div_pow, Int.ofNat_eq_natCast]
  rw [Int.natCast_mod, Int.natCast_div, Int.toNat_of_nonneg (Int.emod_nonneg _ (by positivity)),
    Int.toNat_of_nonneg (Int.emod_nonneg _ hpos.ne'), two_pow_double, Int.natCast_mul]
  exact emod_square_ediv z hpos

theorem ofNat_mulh {n : Nat} (h : 0 < n) (A B : BitVec n) :
    BitVec.ofNat n (wrap n (asInt true n A.toNat * asInt true n B.toNat / (2 ^ n : Nat))) =
      (A.signExtend (2 * n) * B.signExtend (2 * n)).extractLsb' n n := by
  rw [ofNat_wrap, asInt_toNat h, asInt_toNat h, ← extract_high_ofInt, BitVec.ofInt_mul]
  rfl

theorem ofNat_mulhn {n : Nat} (A B : BitVec n) :
    BitVec.ofNat n (A.toNat * B.toNat / 2 ^ n) = (A.setWidth (2 * n) * B.setWidth (2 * n)).extractLsb' n n := by
  refine BitVec.eq_of_toNat_eq ?_
  have hle : 2 ^ n ≤ 2 ^ (2 * n) := Nat.pow_le_pow_right (by decide) (by omega)
  have hprod : A.toNat * B.toNat < 2 ^ (2 * n) := by
    rw [two_pow_double]
    exact Nat.mul_lt_mul'' A.isLt B.isLt
  rw [BitVec.toNat_ofNat, BitVec.extractLsb'_toNat, BitVec.toNat_mul, BitVec.toNat_setWidth, BitVec.toNat_setWidth,
    Nat.mod_eq_of_lt (A.isLt.trans_le hle), Nat.mod_eq_of_lt (B.isLt.trans_le hle), Nat.mod_eq_of_lt hprod,
    Nat.shiftRight_eq_div_pow]

/-! ## Quotients and remainders -/

theorem toNat_eq_zero {n : Nat} (B : BitVec n) : B.toNat = 0 ↔ B = 0 :=
  ⟨fun h => BitVec.eq_of_toNat_eq (by simpa using h), fun h => by rw [h]; rfl⟩

theorem ofNat_divS {n : Nat} (h : 0 < n) (A B : BitVec n) :
    BitVec.ofNat n (divS n A.toNat B.toNat) = if B = 0 then BitVec.allOnes n else A.sdiv B := by
  simp only [divS, toNat_eq_zero]
  split
  · exact BitVec.eq_of_toNat_eq (by simp)
  · rw [onSigned, ofNat_wrap, asInt_toNat h, asInt_toNat h]
    exact BitVec.eq_of_toInt_eq (by rw [BitVec.toInt_ofInt, BitVec.toInt_sdiv])

theorem ofNat_divU {n : Nat} (A B : BitVec n) :
    BitVec.ofNat n (divU n A.toNat B.toNat) = if B = 0 then BitVec.allOnes n else A / B := by
  simp only [divU, toNat_eq_zero]
  split
  · exact BitVec.eq_of_toNat_eq (by simp)
  · exact BitVec.eq_of_toNat_eq (by rw [BitVec.toNat_udiv, BitVec.toNat_ofNat,
      Nat.mod_eq_of_lt ((Nat.div_le_self _ _).trans_lt A.isLt)])

theorem ofNat_remS {n : Nat} (h : 0 < n) (A B : BitVec n) :
    BitVec.ofNat n (remS n A.toNat B.toNat) = if B = 0 then A else A.srem B := by
  simp only [remS, toNat_eq_zero]
  split
  · rw [BitVec.ofNat_toNat, BitVec.setWidth_eq]
  · rw [onSigned, ofNat_wrap, asInt_toNat h, asInt_toNat h, ← BitVec.toInt_srem, BitVec.ofInt_toInt]

theorem ofNat_remU {n : Nat} (A B : BitVec n) :
    BitVec.ofNat n (remU n A.toNat B.toNat) = if B = 0 then A else A % B := by
  simp only [remU, toNat_eq_zero]
  split
  · rw [BitVec.ofNat_toNat, BitVec.setWidth_eq]
  · rw [← BitVec.toNat_umod, BitVec.ofNat_toNat, BitVec.setWidth_eq]

end Sys2Proof.Machine

namespace Sys2Proof.Safety

open Sys2Proof.Machine

/-- A two-source integer instruction writes its operation on the narrowed operands, extended by the type (R81). -/
theorem int2_writes {i : Instr} {f : Nat → Nat → Nat → Nat} {t : Ty} {d a : Reg} {b : SrcB} {s : State}
    (hi : exec i s = int2 f t d a b s) {r : BitVec t.bits}
    (hr : BitVec.ofNat t.bits (f t.bits (narrow t (s.x a)).toNat (narrow t (bval s b)).toNat) = r) :
    Completes i s (WritesX s d (wide t r) (blen 4 b)) := by
  obtain ⟨u, hu, hw⟩ := putX_writes s d (wide t r) (blen 4 b)
  refine ⟨u, hi.trans (Eq.trans ?_ hu), hw⟩
  rw [int2, low_eq, low_eq, ext_wide, hr]
  rfl

/-- Settles O1: each operation of the model on natural numbers is the bit-vector operation of its width. -/
theorem integerArithmetic : Obligations.IntegerArithmetic := by
  unfold Obligations.IntegerArithmetic
  refine ⟨fun t d a b s => ⟨?_, ?_, ?_, ?_, ?_⟩, fun t d a b s => ⟨?_, ?_, ?_, ?_⟩⟩
  · exact int2_writes (exec_add ..) (ofNat_add_toNat _ _)
  · exact int2_writes (exec_sub ..) (ofNat_sub_toNat _ _)
  · exact int2_writes (exec_mul ..) (ofNat_mul_toNat _ _)
  · exact int2_writes (exec_mulh ..) (ofNat_mulh (bits_pos t) _ _)
  · exact int2_writes (exec_mulhn ..) (ofNat_mulhn _ _)
  · exact int2_writes (exec_div ..) (ofNat_divS (bits_pos t) _ _)
  · exact int2_writes (exec_divn ..) (ofNat_divU _ _)
  · exact int2_writes (exec_rem ..) (ofNat_remS (bits_pos t) _ _)
  · exact int2_writes (exec_remn ..) (ofNat_remU _ _)

end Sys2Proof.Safety

/-! SUPPORT. The element-wise float instructions and VACCS (R37, R38, R141, R157). -/

namespace Sys2Proof.Machine

/-- The end that the element-wise instructions share: the flags of the active elements, the merged destination, the sources
taken, the retirement. -/
def M.putElems (m : BitVec 16) (z : Bool) (n : Nat) (d : Reg) (old : V128) (rs : List (Nat × Fl)) (l : List VSrc) (len : Nat) :
    M Unit := do
  M.flags (flagsOf m n rs)
  modify (·.setV d (merge m z n old (rs.map (·.1))))
  M.takeSources l
  M.retire len

theorem vec2_eq (f : ElemOp) (t : Ty) (q : Qual) (d : Reg) (a b : VSrc) (len : Nat) (s : State) :
    vec2 f t q d a b len s = M.run (M.vsrcs t a b >>= fun p => M.putElems (s.me.getM q.mask) q.z t.bits d (s.v d)
      (List.zipWith (f (fctxOf s.me.fcr) t) (lanes t.bits p.1) (lanes t.bits p.2)) [a, b] len) s := rfl

theorem execVfma_eq (t : Ty) (q : Qual) (d : Reg) (a : VSrc) (c : Reg) (b : VSrc) (s : State) :
    execVfma t q d a c b s = M.run (M.vsrcs t a b >>= fun p => M.putElems (s.me.getM q.mask) q.z t.bits d (s.v d)
      ((List.zip (lanes t.bits p.1) (List.zip (lanes t.bits (s.v c)) (lanes t.bits p.2))).map
        (fun x => fMa (fctxOf s.me.fcr) t x.1 x.2.1 x.2.2)) [a, b] (vlen b)) s := rfl

/-- The sources of a VEC form are registers. -/
theorem vsrcs_regs (t : Ty) (a b : Reg) (s : State) : M.vsrcs t (.reg a) (.reg b) s = .ok (s.v a, s.v b) s := rfl

/-- Reading a single source only holds what it will take. -/
theorem source_holds {t : Ty} {a : VSrc} {s u : State} {v : V128} (h : M.source t a s = .ok v u) : HoldsOnly s u := by
  obtain ⟨_, s1, hv, h1⟩ := M.bind_ok.1 h
  obtain ⟨_, s2, ht, h2⟩ := M.bind_ok.1 h1
  rw [← (M.pure_ok.1 h2).2, takables_state ht]
  exact vsrc_holds hv

/-- Flags none of which is enabled are set. -/
theorem flags_ok {fl : Fl} {s : State} (h : fpeOf s.me.fcr fl = false) : M.flags fl s = .ok () (s.modMe (·.raise fl)) := by
  rw [M.flags, M.bind_next (M.get_ok.2 ⟨rfl, rfl⟩)]
  exact M.bind_next (a := ()) (M.trapIf_ok.2 ⟨h, rfl⟩)

/-- A flag that is enabled traps. -/
theorem flags_error {fl : Fl} {s : State} (h : fpeOf s.me.fcr fl = true) : M.flags fl s = .error (.trap (.fpe fl)) s := by
  rw [M.flags, M.bind_next (M.get_ok.2 ⟨rfl, rfl⟩)]
  exact M.bind_error (M.trapIf_error s h)

theorem fpeOf_none (fcr : W64) : fpeOf fcr 0 = false := by
  unfold fpeOf
  rw [show (0 : Fl) = 0#5 from rfl, BitVec.and_zero]; rfl

end Sys2Proof.Machine

namespace Sys2Proof.Safety

open Sys2Proof.Machine

/-- A vector register and flags written, then the retirement. -/
theorem raise_setV_retire_writes (w : State) (d : Reg) (v : V128) (fl : Fl) (n : Nat) :
    WritesVF w d v fl n ((w.modMe (fun c => (c.raise fl).setV d v)).retire n) :=
  ⟨fun r => Strand.getV_setV (w.me.raise fl) d v r, rfl, retiresAs_modMe (s := w) (fun c => (c.raise fl).setV d v) n rfl rfl⟩

/-- A write that sets no flag leaves FSTAT. -/
theorem WritesVF.writesV {u t : State} {d : Reg} {v : V128} {n : Nat} (h : WritesVF u d v 0 n t) : WritesV u d v n t := by
  obtain ⟨hregs, hflags, hrest⟩ := h
  have hf : t.me.fstat = u.me.fstat := by rw [hflags]; exact BitVec.or_zero
  refine ⟨hregs, ?_⟩
  rwa [hf] at hrest

/-! ## The shared end -/

section
variable {α : Type} {i : Instr} {s u : State} {src : M α} {x : α} {k : α → M Unit} {m : BitVec 16} {z : Bool} {n len : Nat} {d : Reg}
  {rs : List (Nat × Fl)} {l : List VSrc}

/-- Flags set, a vector register written, the sources taken, the retirement. -/
theorem flags_setV_ok {fl : Fl} {v : V128} (he : fpeOf u.me.fcr fl = false) :
    (do M.flags fl; modify (·.setV d v); M.takeSources l; M.retire len : M Unit) u =
      .ok () (((taken u l).modMe (fun c => (c.raise fl).setV d v)).retire len) := by
  rw [M.bind_next (flags_ok he), M.modify_next]
  exact takeSources_retire (fun c => (c.raise fl).setV d v) u l len rfl rfl

/-- The shared end, where the flags meet no enable. -/
theorem putElems_ok {old : V128} (he : fpeOf u.me.fcr (flagsOf m n rs) = false) : M.putElems m z n d old rs l len u =
    .ok () (((taken u l).modMe (fun c => (c.raise (flagsOf m n rs)).setV d (merge m z n old (rs.map (·.1))))).retire len) :=
  flags_setV_ok he

/-- The shared end, where a flag meets an enable. -/
theorem putElems_error {old : V128} (he : fpeOf u.me.fcr (flagsOf m n rs) = true) :
    M.putElems m z n d old rs l len u = .error (.trap (.fpe (flagsOf m n rs))) u := M.bind_error (flags_error he)

/-- An instruction whose sources give their value and whose flags meet no enable. -/
theorem putElems_writes (hi : Machine.exec i s = M.run (src >>= k) s) (h : Gives src s x u) (hu : HoldsOnly s u)
    (hk : k x = M.putElems m z n d (s.v d) rs l len) (he : fpeOf s.me.fcr (flagsOf m n rs) = false) :
    Completes i s (WritesVF (taken u l) d (merge m z n (s.v d) (rs.map (·.1))) (flagsOf m n rs) len) := by
  rw [← hu.me] at he
  have hrun := (M.bind_next (f := k) h).trans ((congrFun hk u).trans (putElems_ok he))
  exact ⟨_, hi.trans (M.run_ok hrun), raise_setV_retire_writes _ d _ _ _⟩

/-- An instruction whose sources give their value and one of whose flags meets an enable (R38). -/
theorem putElems_traps (hi : Machine.exec i s = M.run (src >>= k) s) (h : Gives src s x u) (hu : HoldsOnly s u)
    (hk : k x = M.putElems m z n d (s.v d) rs l len) (he : fpeOf s.me.fcr (flagsOf m n rs) = true)
    (hc : s.me.id.unit = .compute) : Traps i s Cause.fpe 0 ((flagsOf m n rs).setWidth 64) := by
  rw [← hu.me] at he
  have hrun := (M.bind_next (f := k) h).trans ((congrFun hk u).trans (putElems_error he))
  exact traps_of_exec (t := .fpe (flagsOf m n rs)) (hi.trans (M.run_trap hrun)) hc rfl (by decide : Cause.fpe < 256)

end

/-! ## Elements one by one -/

/-- The list holds the elements `new`, one for each element of a vector. -/
def ListsElems (n : Nat) (rs : List (Nat × Fl)) (new : Nat → Nat × Fl) : Prop :=
  rs.length = 128 / n ∧ ∀ j, j < 128 / n → rs[j]? = some (new j)

theorem getElem?_lanes {n : Nat} (v : V128) {j : Nat} (h : j < 128 / n) : (lanes n v)[j]? = some (lane n v j).toNat := by
  rw [lane_toNat]; simp [lanes, h]

theorem listsElems_zipWith (n : Nat) (f : Nat → Nat → Nat × Fl) (va vb : V128) :
    ListsElems n (List.zipWith f (lanes n va) (lanes n vb)) (fun j => f (lane n va j).toNat (lane n vb j).toNat) := by
  refine ⟨by simp [lanes_length], fun j h => ?_⟩
  rw [List.getElem?_zipWith, getElem?_lanes va h, getElem?_lanes vb h]

theorem listsElems_zip3 (n : Nat) (f : Nat → Nat → Nat → Nat × Fl) (va vc vb : V128) :
    ListsElems n ((List.zip (lanes n va) (List.zip (lanes n vc) (lanes n vb))).map (fun x => f x.1 x.2.1 x.2.2))
      (fun j => f (lane n va j).toNat (lane n vc j).toNat (lane n vb j).toNat) := by
  refine ⟨by simp [lanes_length], fun j h => ?_⟩
  have hz : (List.zip (lanes n va) (List.zip (lanes n vc) (lanes n vb)))[j]? =
      some ((lane n va j).toNat, (lane n vc j).toNat, (lane n vb j).toNat) := by
    rw [List.getElem?_zip_eq_some, List.getElem?_zip_eq_some]
    exact ⟨getElem?_lanes va h, getElem?_lanes vc h, getElem?_lanes vb h⟩
  rw [List.getElem?_map, hz]; rfl

/-- The union of the flags of the active elements (R37). -/
theorem ListsElems.flagsOf {n : Nat} {rs : List (Nat × Fl)} {new : Nat → Nat × Fl} (h : ListsElems n rs new) {m : BitVec 16} {fl : Fl}
    (hfl : ∀ k, k < 5 → (fl.getLsbD k = true ↔
      ∃ j, j < 128 / n ∧ m.getLsbD (j * n / 8) = true ∧ (new j).2.getLsbD k = true)) : Machine.flagsOf m n rs = fl := by
  obtain ⟨hlen, hget⟩ := h
  refine BitVec.eq_of_getLsbD_eq fun k hk => ?_
  rw [Bool.eq_iff_iff, flagsOf_bit, hfl k hk]
  constructor
  · rintro ⟨j, r, hr, ha, hb⟩
    have hj : j < 128 / n := hlen ▸ (List.getElem?_eq_some_iff.1 hr).1
    rw [hget j hj] at hr
    exact ⟨j, hj, ha, by rwa [← Option.some.inj hr] at hb⟩
  · rintro ⟨j, hj, ha, hb⟩
    exact ⟨j, _, hget j hj, ha, hb⟩

/-- The destination after the merge, element by element (R137). -/
theorem ListsElems.masked {n : Nat} {rs : List (Nat × Fl)} {new : Nat → Nat × Fl} (h : ListsElems n rs new) (m : BitVec 16)
    (z : Bool) (old : V128) : Masked n m z old (merge m z n old (rs.map (·.1))) (fun j => BitVec.ofNat n (new j).1) := by
  intro j hj
  have hn : nth (rs.map (·.1)) j 0 = (new j).1 := by
    rw [nth, List.getElem?_map, h.2 j hj]; rfl
  have hm := masked_merge m z old (rs.map (·.1)) j hj
  simp only [hn] at hm
  exact hm

section
variable {α : Type} {i : Instr} {s u : State} {src : M α} {x : α} {k : α → M Unit} {m : BitVec 16} {z : Bool} {n len : Nat} {d : Reg}
  {rs : List (Nat × Fl)} {l : List VSrc} {new : Nat → Nat × Fl}

/-- An instruction that ends in its elements does what R37, R38 and R137 say of them. -/
theorem putElems_floatLanes (hrs : ListsElems n rs new) (hi : Machine.exec i s = M.run (src >>= k) s) (h : Gives src s x u)
    (hu : HoldsOnly s u) (hk : k x = M.putElems m z n d (s.v d) rs l len) : FloatLanes i s (taken u l) d n m z new len := by
  intro fl hfl
  have hf := hrs.flagsOf hfl
  subst hf
  exact ⟨fun he => ⟨_, hrs.masked m z (s.v d), putElems_writes hi h hu hk he⟩, fun he hc => putElems_traps hi h hu hk he hc⟩

/-- Where no element raises a flag, only the vector register is written. -/
theorem putElems_writesLanes (hrs : ListsElems n rs new) (hfl : ∀ j, j < 128 / n → (new j).2 = 0)
    (hi : Machine.exec i s = M.run (src >>= k) s) (h : Gives src s x u) (hu : HoldsOnly s u)
    (hk : k x = M.putElems m z n d (s.v d) rs l len) :
    WritesLanes i s (taken u l) d n m z (fun j => BitVec.ofNat n (new j).1) len := by
  have hf : flagsOf m n rs = 0 := by
    refine hrs.flagsOf fun k _ => ⟨fun hk => by simp at hk, ?_⟩
    rintro ⟨j, hj, -, hb⟩
    rw [hfl j hj] at hb
    simp at hb
  obtain ⟨t, ht, hw⟩ := putElems_writes hi h hu hk (hf ▸ fpeOf_none s.me.fcr)
  exact ⟨_, hrs.masked m z (s.v d), t, ht, (hf ▸ hw).writesV⟩

/-- A two-source element-wise instruction in its masked form and in its VEC form. -/
theorem vec2_floatLanes {ix iv : Instr} {f : ElemOp} {g : Nat → Nat → Nat × Fl} {t : Ty} {q : Qual} {d ra rb : Reg} {a b : VSrc}
    {va vb : V128} {s u : State} (hx : Machine.exec ix s = vec2 f t q d a b (vlen b) s)
    (hv : Machine.exec iv s = vec2 f t everyLane d (.reg ra) (.reg rb) 4 s) (hg : f (fctxOf s.me.fcr) t = g) :
    (Gives (M.vsrcs t a b) s (va, vb) u →
      FloatLanes ix s (taken u [a, b]) d t.bits (s.me.getM q.mask) q.z
        (fun j => g (lane t.bits va j).toNat (lane t.bits vb j).toNat) (vlen b)) ∧
    FloatLanes iv s (s.unhold s.me.id) d t.bits 0xFFFF false
      (fun j => g (lane t.bits (s.v ra) j).toNat (lane t.bits (s.v rb) j).toNat) 4 := by
  subst hg
  refine ⟨fun h => ?_, ?_⟩
  · exact putElems_floatLanes (listsElems_zipWith ..) (hx.trans (vec2_eq ..)) h (vsrcs_holds h) rfl
  · exact putElems_floatLanes (l := [.reg ra, .reg rb]) (listsElems_zipWith ..) (hv.trans (vec2_eq ..)) (vsrcs_regs t ra rb s) (.refl s) rfl

/-! ## VACCS (R157) -/

/-- What VACCS does with a chunk. -/
def M.addChunk (t : Ty) (q : Qual) (d : Reg) (c : Chan) (s : State) (x : V128) : M Unit :=
  if picot x then do
    M.takeSources [.chan c]
    M.retire 12
  else M.putElems (s.me.getM q.mask) q.z t.bits d (s.v d)
    (List.zipWith (vAdd false (fctxOf s.me.fcr) t) (lanes t.bits (s.v d)) (lanes t.bits x)) [.chan c] 0

theorem exec_vaccs_addChunk (t : Ty) (q : Qual) (d : Reg) (c : Chan) (s : State) :
    Machine.exec (.vaccs t q d c) s = M.run (M.source t (.chan c) >>= M.addChunk t q d c s) s := rfl

theorem addChunk_adds {x : V128} (hx : picot x = false) (t : Ty) (q : Qual) (d : Reg) (c : Chan) (s : State) :
    M.addChunk t q d c s x = M.putElems (s.me.getM q.mask) q.z t.bits d (s.v d)
      (List.zipWith (vAdd false (fctxOf s.me.fcr) t) (lanes t.bits (s.v d)) (lanes t.bits x)) [.chan c] 0 := by
  rw [M.addChunk, hx, if_neg Bool.false_ne_true]

/-- The end word is taken, adds nothing and ends the instruction. -/
theorem vaccs_ends {t : Ty} {q : Qual} {d : Reg} {c : Chan} {x : V128} {s u : State} (h : Gives (M.source t (.chan c)) s x u)
    (hx : picot x = true) : Completes (.vaccs t q d c) s (WritesNothing (taken u [.chan c]) 12) := by
  refine ⟨_, (exec_vaccs_addChunk t q d c s).trans (M.run_ok ?_), retire_retires (taken u [.chan c]) 12⟩
  rw [M.bind_next h, M.addChunk, if_pos hx]
  rfl

theorem isFlt_of_isInt {t : Ty} (h : t.isInt = true) : t.isFlt = false := by
  revert h
  cases t <;> decide

/-- An integer addition of elements wraps (R142). -/
theorem vAdd_wraps {t : Ty} (ht : t.isInt = true) (c : FCtx) (x y : BitVec t.bits) :
    (BitVec.ofNat t.bits (vAdd false c t x.toNat y.toNat).1, (vAdd false c t x.toNat y.toNat).2) = (x + y, 0) := by
  have hf := isFlt_of_isInt ht
  have hv : ∀ z : BitVec t.bits, BitVec.ofInt t.bits (val t z) = z := fun z => by
    unfold val
    split
    · exact BitVec.ofInt_toInt
    · rw [BitVec.ofInt_natCast, BitVec.ofNat_toNat, BitVec.setWidth_eq]
  rw [vAdd, hf, if_neg Bool.false_ne_true, fit, if_neg Bool.false_ne_true, ofNat_wrap, rd_eq_val, rd_eq_val, BitVec.ofInt_add, hv, hv]

end

/-- Settles O23: each instruction ends in the shared end with its elements; VACCS by whether the chunk is the end word. -/
theorem vectorFloats : Obligations.VectorFloats := by
  unfold Obligations.VectorFloats
  refine ⟨fun t q d ra rb c a b va vb s u ht => ⟨?_, ?_, ?_, ?_, ?_, fun h => ?_⟩, fun t q d c x s u _ h => ⟨fun hx => ?_, fun hx hi => ?_, fun hx hf => ?_⟩⟩
  · exact vec2_floatLanes (exec_vaddX ..) (exec_vadd ..) (by funext x y; rw [vAdd, if_pos ht])
  · exact vec2_floatLanes (exec_vsubX ..) (exec_vsub ..) (by funext x y; rw [vSub, if_pos ht])
  · exact vec2_floatLanes (exec_vmulX ..) (exec_vmul ..) (by funext x y; rw [vMul, if_pos ht])
  · exact vec2_floatLanes (exec_vminX ..) (exec_vmin ..) (by funext x y; rw [vMin, if_pos ht])
  · exact vec2_floatLanes (exec_vmaxX ..) (exec_vmax ..) (by funext x y; rw [vMax, if_pos ht])
  · exact putElems_floatLanes (listsElems_zip3 t.bits (fMa (fctxOf s.me.fcr) t) va (s.v c) vb)
      ((exec_vfma ..).trans (execVfma_eq ..)) h (vsrcs_holds h) rfl
  · exact vaccs_ends h (beq_iff_eq.2 hx)
  · have hadd (j : Nat) := Prod.mk.inj (vAdd_wraps hi (fctxOf s.me.fcr) (lane t.bits (s.v d) j) (lane t.bits x j))
    have hlanes := putElems_writesLanes (listsElems_zipWith t.bits (vAdd false (fctxOf s.me.fcr) t) (s.v d) x) (fun j _ => (hadd j).2)
      (exec_vaccs_addChunk t q d c s) h (source_holds h) (addChunk_adds (beq_eq_false_iff_ne.2 hx) t q d c s)
    simp only [(hadd _).1] at hlanes
    exact hlanes
  · have hadd : vAdd false (fctxOf s.me.fcr) t = fAdd (fctxOf s.me.fcr) t := by funext x y; rw [vAdd, if_pos hf]
    have hlanes := putElems_floatLanes (listsElems_zipWith t.bits (vAdd false (fctxOf s.me.fcr) t) (s.v d) x)
      (exec_vaccs_addChunk t q d c s) h (source_holds h) (addChunk_adds (beq_eq_false_iff_ne.2 hx) t q d c s)
    simp only [hadd] at hlanes
    exact hlanes

end Sys2Proof.Safety

/-! SUPPORT. The float formats: an encoding by its fields, its value, and the encodings next to it (R31, R40). -/

namespace Sys2Proof.Machine

theorem isFlt_iff {t : Ty} : t.isFlt = true ↔ t = .bf16 ∨ t = .f32 := by
  cases t <;> decide

/-- The fields of an encoding put together from its fields (R31). -/
theorem fpack_fields {t : Ty} (ht : t.isFlt = true) (neg : Bool) {e r : Nat} (he : e < 256) (hr : r < 2 ^ fracBits t) :
    fneg t (fpack t neg e r) = neg ∧ fexp t (fpack t neg e r) = e ∧ ffrac t (fpack t neg e r) = r ∧ fpack t neg e r < 2 ^ t.bits := by
  rcases isFlt_iff.1 ht with rfl | rfl <;> cases neg <;>
    simp only [fpack, fneg, fexp, ffrac, fracBits, Ty.bits, beq_iff_eq, beq_eq_false_iff_ne, if_true, if_false, reduceCtorEq,
      Bool.false_eq_true] at hr ⊢ <;> omega

/-- An encoding is put together from its own fields. -/
theorem fpack_of_fields {t : Ty} (ht : t.isFlt = true) {w : Nat} (h : w < 2 ^ t.bits) :
    fpack t (fneg t w) (fexp t w) (ffrac t w) = w := by
  rcases isFlt_iff.1 ht with rfl | rfl <;>
    simp only [fpack, fneg, fexp, ffrac, fracBits, Ty.bits, beq_iff_eq, if_true, if_false, reduceCtorEq] at h ⊢ <;>
    split <;> omega

end Sys2Proof.Machine

namespace Sys2Proof.Safety

open Sys2Proof.Machine

/-- The value of an encoding by its fields. -/
theorem floatVal_fields (t : Ty) (w : Nat) : floatVal t w = (if fneg t w then -1 else 1) *
    ((ffrac t w + if fexp t w = 0 then 0 else 2 ^ fracBits t : Nat) : ℚ) * 2 ^ ((max 1 (fexp t w) : Nat) - 127 - fracBits t : ℤ) := by
  simp only [fneg, beq_iff_eq]
  rfl

/-- The sign of an encoding as a factor. -/
noncomputable def sgnOf (neg : Bool) : ℝ := if neg then -1 else 1

theorem abs_sgnOf (neg : Bool) : |sgnOf neg| = 1 := by
  cases neg <;> simp [sgnOf]

/-- The unit in the last place at exponent field `b + 1`, which is that of the subnormals for `b = 0`. -/
noncomputable def ulp (t : Ty) (b : Nat) : ℝ := 2 ^ ((b : ℤ) - 126 - fracBits t)

theorem ulp_pos (t : Ty) (b : Nat) : 0 < ulp t b := by unfold ulp; positivity

theorem ulp_succ (t : Ty) (b : Nat) : ulp t (b + 1) = 2 * ulp t b := by
  unfold ulp
  rw [← zpow_one_add₀ two_ne_zero]
  congr 1
  push_cast
  ring

theorem floatVal_of_fields {t : Ty} {w b n : Nat} {neg : Bool} (hneg : fneg t w = neg)
    (hn : ffrac t w + (if fexp t w = 0 then 0 else 2 ^ fracBits t) = n) (he : max 1 (fexp t w) = b + 1) :
    (floatVal t w : ℝ) = sgnOf neg * n * ulp t b := by
  rw [floatVal_fields, hn, he, hneg, ulp, sgnOf]
  push_cast
  rw [apply_ite (Rat.cast : ℚ → ℝ)]
  push_cast
  congr 2
  ring

/-- The value of an encoding in units of the last place: `n` counts them from zero, from `2 ^ f` for the normal ones. The
infinities count on from the largest finite value. -/
theorem floatVal_fpack {t : Ty} (ht : t.isFlt = true) (neg : Bool) {b n : Nat} (hb : b ≤ 253) (hlo : 2 ^ fracBits t ≤ n ∨ b = 0)
    (hhi : n ≤ 2 ^ (fracBits t + 1)) : (floatVal t (fpack t neg b n) : ℝ) = sgnOf neg * n * ulp t b := by
  have hp : 2 ^ (fracBits t + 1) = 2 * 2 ^ fracBits t := Nat.pow_succ'
  have hpos : 0 < 2 ^ fracBits t := Nat.two_pow_pos _
  rcases Nat.lt_or_ge n (2 ^ fracBits t) with h | h
  · obtain rfl : b = 0 := by omega
    obtain ⟨hneg, he, hf, -⟩ := fpack_fields ht neg (e := 0) (by decide) h
    exact floatVal_of_fields hneg (by rw [hf, he, if_pos rfl, Nat.add_zero]) (by rw [he]; rfl)
  rcases Nat.lt_or_ge n (2 ^ (fracBits t + 1)) with h' | h'
  · obtain ⟨hneg, he, hf, -⟩ := fpack_fields ht neg (e := b + 1) (r := n - 2 ^ fracBits t) (by omega) (by omega)
    have hw : fpack t neg b n = fpack t neg (b + 1) (n - 2 ^ fracBits t) := by simp only [fpack, Nat.succ_mul]; omega
    rw [hw]
    exact floatVal_of_fields hneg (by rw [hf, he, if_neg (by omega)]; omega) (by rw [he]; omega)
  · obtain rfl : n = 2 ^ (fracBits t + 1) := by omega
    obtain ⟨hneg, he, hf, -⟩ := fpack_fields ht neg (e := b + 2) (r := 0) (by omega) hpos
    have hw : fpack t neg b (2 ^ (fracBits t + 1)) = fpack t neg (b + 2) 0 := by
      rw [hp]; simp only [fpack, Nat.add_mul]; omega
    rw [hw, floatVal_of_fields (b := b + 1) hneg (n := 2 ^ fracBits t) (by rw [hf, he, if_neg (by omega), Nat.zero_add]) (by rw [he]; omega),
      ulp_succ, hp]
    push_cast
    ring

theorem abs_floatVal_fpack {t : Ty} (ht : t.isFlt = true) (neg : Bool) {b n : Nat} (hb : b ≤ 253) (hlo : 2 ^ fracBits t ≤ n ∨ b = 0)
    (hhi : n ≤ 2 ^ (fracBits t + 1)) : |(floatVal t (fpack t neg b n) : ℝ)| = n * ulp t b := by
  rw [floatVal_fpack ht neg hb hlo hhi, abs_mul, abs_mul, abs_sgnOf, abs_of_pos (ulp_pos t b), Nat.abs_cast, one_mul]

/-- The encoding after a normal one is one unit further from zero, or more where the exponent grows. -/
theorem floatVal_next {t : Ty} (ht : t.isFlt = true) (neg : Bool) {b n : Nat} (hb : b ≤ 253) (hlo : 2 ^ fracBits t ≤ n)
    (hhi : n ≤ 2 ^ (fracBits t + 1)) (htop : n < 2 ^ (fracBits t + 1) ∨ b ≤ 252) :
    (n + 1 : ℝ) * ulp t b ≤ |(floatVal t (fpack t neg b n + 1) : ℝ)| := by
  have hp : 2 ^ (fracBits t + 1) = 2 * 2 ^ fracBits t := Nat.pow_succ'
  have hpos := ulp_pos t b
  rcases Nat.lt_or_ge n (2 ^ (fracBits t + 1)) with h | h
  · rw [show fpack t neg b n + 1 = fpack t neg b (n + 1) from rfl, abs_floatVal_fpack ht neg hb (by omega) (by omega)]
    push_cast
    exact le_refl _
  · obtain rfl : n = 2 ^ (fracBits t + 1) := by omega
    have hw : fpack t neg b (2 ^ (fracBits t + 1)) + 1 = fpack t neg (b + 1) (2 ^ fracBits t + 1) := by
      rw [hp]; simp only [fpack, Nat.succ_mul]; omega
    rw [hw, abs_floatVal_fpack ht neg (by omega) (by omega) (by have := Nat.one_le_two_pow (n := fracBits t); omega), ulp_succ, hp]
    push_cast
    nlinarith

/-- Above the bottom of a binade the encoding before is one unit nearer to zero. -/
theorem floatVal_prev_eq {t : Ty} (ht : t.isFlt = true) (neg : Bool) {b n : Nat} (hb : b ≤ 253) (hlo : 2 ^ fracBits t < n)
    (hhi : n ≤ 2 ^ (fracBits t + 1)) : |(floatVal t (fpack t neg b n - 1) : ℝ)| = (n - 1) * ulp t b := by
  rw [show fpack t neg b n - 1 = fpack t neg b (n - 1) by simp only [fpack]; omega,
    abs_floatVal_fpack ht neg hb (by omega) (by omega), Nat.cast_sub (by omega)]
  push_cast
  rfl

/-- The encoding before a normal one is nearer to zero. -/
theorem floatVal_prev {t : Ty} (ht : t.isFlt = true) (neg : Bool) {b n : Nat} (hb : b ≤ 253) (hlo : 2 ^ fracBits t ≤ n)
    (hhi : n ≤ 2 ^ (fracBits t + 1)) : |(floatVal t (fpack t neg b n - 1) : ℝ)| < n * ulp t b := by
  have hp : 2 ^ (fracBits t + 1) = 2 * 2 ^ fracBits t := Nat.pow_succ'
  have hone := Nat.one_le_two_pow (n := fracBits t)
  rcases Nat.lt_or_ge (2 ^ fracBits t) n with h | h
  · rw [floatVal_prev_eq ht neg hb h hhi]
    have := ulp_pos t b
    nlinarith
  obtain rfl : n = 2 ^ fracBits t := by omega
  cases b with
  | zero =>
    rw [show fpack t neg 0 (2 ^ fracBits t) - 1 = fpack t neg 0 (2 ^ fracBits t - 1) by simp only [fpack]; omega,
      abs_floatVal_fpack ht neg hb (.inr rfl) (by omega), Nat.cast_sub hone]
    have := ulp_pos t 0
    push_cast
    nlinarith
  | succ b =>
    have hw : fpack t neg (b + 1) (2 ^ fracBits t) - 1 = fpack t neg b (2 ^ (fracBits t + 1) - 1) := by
      rw [hp]; simp only [fpack, Nat.succ_mul]; omega
    rw [hw, abs_floatVal_fpack ht neg (by omega) (by omega) (by omega), ulp_succ, Nat.cast_sub (by omega), hp]
    have := ulp_pos t b
    push_cast
    nlinarith

end Sys2Proof.Safety

/-! SUPPORT. One rounding (R36): a shifted integer rounded by a mode, and the encoding that it gives. -/

namespace Sys2Proof.Safety

open Sys2Proof.Machine

/-- `q` is the value `z`, a magnitude of the sign `neg`, rounded to an integer by a mode, and `nx` says whether it is not `z`. -/
structure RoundsInt (rm : Nat) (neg : Bool) (z : ℝ) (q : Nat) (nx : Bool) : Prop where
  exact_ : nx = false ↔ (q : ℝ) = z
  nearest : rm = 0 → 2 * (q : ℝ) - 1 ≤ 2 * z ∧ 2 * z ≤ 2 * q + 1 ∧ (q % 2 = 1 → 2 * (q : ℝ) - 1 ≠ 2 * z ∧ 2 * z ≠ 2 * q + 1)
  up : (rm = 2 ∧ neg = false) ∨ (rm = 3 ∧ neg = true) → (q : ℝ) - 1 < z ∧ z ≤ q
  down : rm = 1 ∨ (rm = 2 ∧ neg = true) ∨ (rm = 3 ∧ neg = false) → (q : ℝ) ≤ z ∧ z < q + 1

/-- An integer stands for a real value: it is the value, or it is odd and the value lies between its even neighbours. -/
def StandsFor (m : Nat) (y : ℝ) : Prop := y = m ∨ (m % 2 = 1 ∧ (m : ℝ) - 1 < y ∧ y < m + 1)

/-- Against the even numbers the value compares as the integer that stands for it. -/
theorem StandsFor.compare {m : Nat} {y : ℝ} (h : StandsFor m y) {n : Nat} (hn : y = m ∨ n % 2 = 0) :
    (n < m → (n : ℝ) < y) ∧ (m < n → y < n) ∧ (n = m → y = n) := by
  by_cases he : y = m
  · rw [he]
    exact ⟨fun h => by exact_mod_cast h, fun h => by exact_mod_cast h, fun h => by rw [h]⟩
  · obtain ⟨hodd, hlo, hhi⟩ := h.resolve_left he
    have hev := hn.resolve_left he
    refine ⟨fun h => ?_, fun h => ?_, fun h => by omega⟩
    · have : (n : ℝ) + 1 ≤ m := by exact_mod_cast h
      linarith
    · have : (m : ℝ) + 1 ≤ n := by exact_mod_cast h
      linarith

/-- What a mode decides about the part below the last place. -/
def roundsUp (rm : Nat) (neg : Bool) (q r k : Nat) : Bool :=
  match rm with
  | 0 => decide (2 ^ k < 2 * r) || (2 * r == 2 ^ k && q % 2 == 1)
  | 1 => false
  | 2 => r != 0 && !neg
  | _ => r != 0 && neg

theorem roundShift_left (rm : Nat) (neg : Bool) (m : Nat) {k : Int} (h : k ≤ 0) :
    roundShift rm neg m false k = (m * 2 ^ (-k).toNat, false) := by
  rw [roundShift, if_pos h]

theorem roundShift_right (rm : Nat) (neg : Bool) (m k : Nat) : roundShift rm neg m false ((k + 1 : Nat) : Int) =
    (if roundsUp rm neg (m / 2 ^ (k + 1)) (m % 2 ^ (k + 1)) (k + 1) then m / 2 ^ (k + 1) + 1 else m / 2 ^ (k + 1),
      m % 2 ^ (k + 1) != 0) := by
  rw [roundShift, if_neg (by omega)]
  simp only [Int.toNat_natCast, Bool.or_false, Bool.false_or] <;> rfl

/-- An integer that nothing was lost of. -/
theorem roundsInt_exact (rm : Nat) (neg : Bool) (q : Nat) : RoundsInt rm neg q q false := by
  refine ⟨by simp, fun _ => ⟨by linarith, by linarith, fun _ => ⟨by linarith, by linarith⟩⟩, fun _ => ⟨by linarith, le_refl _⟩, fun _ => ⟨le_refl _, by linarith⟩⟩

/-- Where a value lies between the integer below it and the one above, by the remainder that was cut off. -/
structure LiesAt (z : ℝ) (q r k : Nat) : Prop where
  below : r ≠ 0 → (q : ℝ) < z
  above : z < q + 1
  equal : r = 0 → z = q
  low : 2 * r < 2 ^ k → 2 * z < 2 * q + 1
  half : 2 * r = 2 ^ k → 2 * z = 2 * q + 1
  high : 2 ^ k < 2 * r → 2 * (q : ℝ) + 1 < 2 * z

/-- The integer below, where the mode does not go up. -/
theorem roundsInt_below {z : ℝ} {q rm : Nat} {neg : Bool} (hlo : (q : ℝ) < z) (hhi : z < q + 1)
    (hn : rm = 0 → 2 * z ≤ 2 * q + 1 ∧ (2 * z = 2 * q + 1 → q % 2 = 0)) (hu : ¬ ((rm = 2 ∧ neg = false) ∨ (rm = 3 ∧ neg = true))) :
    RoundsInt rm neg z q true := by
  refine ⟨by simp [hlo.ne], fun h => ?_, fun h => absurd h hu, fun _ => ⟨hlo.le, hhi⟩⟩
  obtain ⟨hle, heven⟩ := hn h
  exact ⟨by linarith, hle, fun hodd => ⟨by linarith, fun e => by have := heven e; omega⟩⟩

/-- The integer above, where the mode does not go down. -/
theorem roundsInt_above {z : ℝ} {q rm : Nat} {neg : Bool} (hlo : (q : ℝ) < z) (hhi : z < q + 1)
    (hn : rm = 0 → 2 * (q : ℝ) + 1 ≤ 2 * z ∧ (2 * z = 2 * q + 1 → q % 2 = 1))
    (hd : ¬ (rm = 1 ∨ (rm = 2 ∧ neg = true) ∨ (rm = 3 ∧ neg = false))) : RoundsInt rm neg z (q + 1) true := by
  have hc : ((q + 1 : Nat) : ℝ) = q + 1 := by push_cast; rfl
  refine ⟨by rw [hc]; simp [hhi.ne'], fun h => ?_, fun _ => by rw [hc]; exact ⟨by linarith, hhi.le⟩, fun h => absurd h hd⟩
  obtain ⟨hle, hodd⟩ := hn h
  rw [hc]
  exact ⟨by linarith, by linarith, fun heven => ⟨fun e => by have := hodd (by linarith); omega, by linarith⟩⟩

/-- A quotient rounded by what a mode decides about its remainder. -/
theorem LiesAt.rounds {z : ℝ} {q r k : Nat} (h : LiesAt z q r k) {rm : Nat} (hrm : rm < 4) (neg : Bool) :
    RoundsInt rm neg z (if roundsUp rm neg q r k then q + 1 else q) (r != 0) := by
  obtain ⟨hbelow, habove, hequal, hlow, hhalf, hhigh⟩ := h
  by_cases hr : r = 0
  · subst hr
    have hup : roundsUp rm neg q 0 k = false := by
      have hpos := Nat.two_pow_pos k
      unfold roundsUp
      split <;> simp
      omega
    rw [hup, hequal rfl]
    exact roundsInt_exact rm neg q
  rw [show (r != 0) = true by simpa using hr]
  have hhi : rm = 0 → 2 ^ k < 2 * r → 2 * (q : ℝ) + 1 ≤ 2 * z ∧ (2 * z = 2 * q + 1 → q % 2 = 1) := fun _ h =>
    ⟨(hhigh h).le, fun e => absurd e (hhigh h).ne'⟩
  cases hup : roundsUp rm neg q r k with
  | true =>
    refine roundsInt_above (hbelow hr) habove (fun h0 => ?_) fun hd => ?_
    · subst h0
      simp only [roundsUp, Bool.or_eq_true, decide_eq_true_eq, Bool.and_eq_true, beq_iff_eq] at hup
      rcases hup with hup | ⟨hup, hodd⟩
      · exact hhi rfl hup
      · exact ⟨(hhalf hup).ge, fun _ => hodd⟩
    · rcases hd with rfl | ⟨rfl, rfl⟩ | ⟨rfl, rfl⟩ <;> simp [roundsUp] at hup
  | false =>
    rw [if_neg Bool.false_ne_true]
    refine roundsInt_below (hbelow hr) habove (fun h0 => ?_) fun hu => ?_
    · subst h0
      simp only [roundsUp, Bool.or_eq_false_iff, decide_eq_false_iff_not, Bool.and_eq_false_iff, beq_eq_false_iff_ne] at hup
      obtain ⟨hle, hne⟩ := hup
      rcases Nat.lt_or_ge (2 * r) (2 ^ k) with hlt | hge
      · exact ⟨(hlow hlt).le, fun e => absurd e (hlow hlt).ne⟩
      · have heq : 2 * r = 2 ^ k := by omega
        exact ⟨(hhalf heq).le, fun _ => by omega⟩
    · rcases hu with ⟨rfl, rfl⟩ | ⟨rfl, rfl⟩ <;> simp [roundsUp, hr] at hup

/-- The value that an integer stands for, cut at a place of two bits or more. -/
theorem StandsFor.liesAt {m : Nat} {y : ℝ} (h : StandsFor m y) {k : Nat} (hk : y = m ∨ 2 ≤ k) (hk1 : 1 ≤ k) :
    LiesAt (y / 2 ^ k) (m / 2 ^ k) (m % 2 ^ k) k := by
  obtain ⟨j, rfl⟩ : ∃ j, k = j + 1 := ⟨k - 1, by omega⟩
  have hpow : 2 ^ (j + 1) = 2 * 2 ^ j := Nat.pow_succ'
  have hH : (0 : ℝ) < 2 ^ j := by positivity
  have hdiv := Nat.div_add_mod m (2 ^ (j + 1))
  have hlt := Nat.mod_lt m (Nat.two_pow_pos (j + 1))
  generalize m / 2 ^ (j + 1) = q at *
  generalize m % 2 ^ (j + 1) = r at *
  have heven : y = m ∨ 2 ^ j % 2 = 0 := hk.imp_right fun h => by
    obtain ⟨i, rfl⟩ : ∃ i, j = i + 1 := ⟨j - 1, by omega⟩
    rw [Nat.pow_succ', Nat.mul_mod_right]
  have hmul (c : Nat) : y = m ∨ c * 2 ^ j % 2 = 0 := heven.imp_right fun h => by rw [Nat.mul_mod, h, Nat.mul_zero]
  obtain ⟨hq, -, hqe⟩ := h.compare (hmul (2 * q))
  obtain ⟨hh, hh', hhe⟩ := h.compare (hmul (2 * q + 1))
  obtain ⟨-, hn, -⟩ := h.compare (hmul (2 * q + 2))
  have hz : y = y / 2 ^ (j + 1) * (2 * 2 ^ j) := by rw [pow_succ']; field_simp
  generalize y / 2 ^ (j + 1) = z at *
  have hm : m = 2 * (q * 2 ^ j) + r := by rw [← hdiv, hpow]; ring
  simp only [Nat.add_mul, Nat.mul_assoc, Nat.one_mul] at hq hqe hh hh' hhe hn
  push_cast at hq hqe hh hh' hhe hn
  have hlt' {a b : ℝ} (h : a * 2 ^ j < b * 2 ^ j) : a < b := lt_of_mul_lt_mul_right h hH.le
  have heq' {a b : ℝ} (h : a * 2 ^ j = b * 2 ^ j) : a = b := mul_right_cancel₀ hH.ne' h
  refine ⟨fun hr => hlt' ?_, hlt' ?_, fun hr => heq' ?_, fun hr => hlt' ?_, fun hr => heq' ?_, fun hr => hlt' ?_⟩
  · linarith [hq (by omega)]
  · linarith [hn (by omega)]
  · linarith [hqe (by omega)]
  · linarith [hh' (by omega)]
  · linarith [hhe (by omega)]
  · linarith [hh (by omega)]

/-- The integer that a shift and a rounding give (R36). -/
theorem roundShift_rounds {m : Nat} {y : ℝ} (h : StandsFor m y) {k : Int} (hk : y = m ∨ 2 ≤ k) {rm : Nat} (hrm : rm < 4) (neg : Bool) :
    RoundsInt rm neg (y / 2 ^ k) (roundShift rm neg m false k).1 (roundShift rm neg m false k).2 := by
  rcases le_or_gt k 0 with hle | hgt
  · obtain ⟨n, rfl⟩ : ∃ n : Nat, k = -n := ⟨(-k).toNat, by omega⟩
    have hy := hk.resolve_right (by omega)
    rw [roundShift_left rm neg m hle, neg_neg, Int.toNat_natCast, hy]
    have hz : (m : ℝ) / 2 ^ (-(n : ℤ)) = ((m * 2 ^ n : Nat) : ℝ) := by
      rw [zpow_neg, div_inv_eq_mul, zpow_natCast]
      push_cast
      rfl
    rw [hz]
    exact roundsInt_exact rm neg _
  · obtain ⟨n, rfl⟩ : ∃ n : Nat, k = (n + 1 : Nat) := ⟨(k - 1).toNat, by omega⟩
    rw [roundShift_right, zpow_natCast]
    exact (h.liesAt (hk.imp_right fun h => by omega) (by omega)).rounds hrm neg

/-- A normal encoding below the infinities. -/
theorem fpack_normal {t : Ty} (ht : t.isFlt = true) (neg : Bool) {b q : Nat} (hb : b ≤ 253) (hq : q ≤ 2 ^ (fracBits t + 1))
    (htop : q < 2 ^ (fracBits t + 1) ∨ b ≤ 252) : fpack t neg b q < 2 ^ (if t = .bf16 then 16 else 32) ∧
      FiniteVal t (fpack t neg b q) ∧ fpack t neg b q % 2 = q % 2 := by
  rcases isFlt_iff.1 ht with rfl | rfl <;> cases neg <;>
    simp only [FiniteVal, fpack, fracBits, if_true, if_false, reduceCtorEq, Bool.false_eq_true] at hq htop ⊢ <;> omega

theorem sgnOf_neg_iff {neg : Bool} {a : ℝ} (h : 0 < a) : sgnOf neg * a < 0 ↔ neg = true := by
  cases neg <;> simp [sgnOf, h, h.le]

theorem sgnOf_pos_iff {neg : Bool} {a : ℝ} (h : 0 < a) : 0 < sgnOf neg * a ↔ neg = false := by
  cases neg <;> simp [sgnOf, h, h.le]

theorem abs_sgnOf_mul {neg : Bool} {a : ℝ} (h : 0 < a) : |sgnOf neg * a| = a := by
  rw [abs_mul, abs_sgnOf, one_mul, abs_of_pos h]

theorem sgnOf_mul_inj {neg : Bool} {a b : ℝ} : sgnOf neg * a = sgnOf neg * b ↔ a = b := by
  cases neg <;> simp [sgnOf]

/-- A magnitude of one binade rounded to a whole number of units is its encoding (R36). -/
theorem RoundsInt.rounded {t : Ty} (ht : t.isFlt = true) {fcr : W64} {x z : ℝ} {b q : Nat} {neg nx : Bool}
    (h : RoundsInt (fcr.toNat % 4) neg z q nx) (hx : x = sgnOf neg * (z * ulp t b)) (hb : b ≤ 253)
    (hq : 2 ^ fracBits t ≤ q) (hq' : q ≤ 2 ^ (fracBits t + 1)) (htop : q < 2 ^ (fracBits t + 1) ∨ b ≤ 252)
    (hz : (2 : ℝ) ^ fracBits t ≤ z) :
    Rounded t fcr x (fpack t neg b q) (if nx then 16 else 0) := by
  have hu := ulp_pos t b
  have hz0 : 0 < z := lt_of_lt_of_le (by positivity) hz
  have hq0 : (0 : ℝ) < q := by exact_mod_cast (Nat.two_pow_pos _).trans_le hq
  obtain ⟨hsize, hfinite, hpar⟩ := fpack_normal ht neg hb hq' htop
  have hv : (floatVal t (fpack t neg b q) : ℝ) = sgnOf neg * (q * ulp t b) := by
    rw [floatVal_fpack ht neg hb (.inl hq) hq', mul_assoc]
  have hav : |(floatVal t (fpack t neg b q) : ℝ)| = q * ulp t b := by rw [hv, abs_sgnOf_mul (by positivity)]
  have hax : |x| = z * ulp t b := by rw [hx, abs_sgnOf_mul (by positivity)]
  have hprev := floatVal_prev ht neg hb hq hq'
  have hnext := floatVal_next ht neg hb hq hq' htop
  have hneg : x < 0 ↔ neg = true := by rw [hx]; exact sgnOf_neg_iff (by positivity)
  have hpos : 0 < x ↔ neg = false := by rw [hx]; exact sgnOf_pos_iff (by positivity)
  have hbottom : ((q : ℝ) ≤ z ∧ q = 2 ^ fracBits t) ∨
      (2 ^ fracBits t < q ∧ |(floatVal t (fpack t neg b q - 1) : ℝ)| = (q - 1) * ulp t b) := by
    rcases hq.eq_or_lt with he | hl
    · exact .inl ⟨by rw [← he]; exact_mod_cast hz, he.symm⟩
    · exact .inr ⟨hl, floatVal_prev_eq ht neg hb hl hq'⟩
  refine ⟨hsize, hfinite, ?_, ?_, fun hm => ?_, fun hm => ?_, fun hm => ?_⟩
  · rw [hneg, hv, sgnOf_neg_iff (by positivity)]
  · have he : nx = false ↔ (floatVal t (fpack t neg b q) : ℝ) = x := by
      rw [hv, hx, sgnOf_mul_inj, mul_left_inj' hu.ne', h.exact_]
    cases nx with
    | true => exact (if_neg fun e => Bool.noConfusion (he.2 e)).symm
    | false => exact (if_pos (he.1 rfl)).symm
  · obtain ⟨hlo, hhi, hodd⟩ := h.nearest hm
    rw [hpar, hav, hax]
    have hbefore : |(floatVal t (fpack t neg b q - 1) : ℝ)| + q * ulp t b ≤ 2 * (z * ulp t b) ∧
        (q % 2 = 1 → |(floatVal t (fpack t neg b q - 1) : ℝ)| + q * ulp t b < 2 * (z * ulp t b)) := by
      rcases hbottom with ⟨hge, -⟩ | ⟨-, he⟩
      · have := mul_le_mul_of_nonneg_right hge hu.le
        exact ⟨by linarith, fun _ => by linarith⟩
      · rw [he]
        refine ⟨by nlinarith, fun ho => ?_⟩
        have := lt_of_le_of_ne hlo (hodd ho).1
        nlinarith
    have hafter : 2 * (z * ulp t b) ≤ q * ulp t b + (q + 1) * ulp t b ∧
        (q % 2 = 1 → 2 * (z * ulp t b) < q * ulp t b + (q + 1) * ulp t b) := by
      refine ⟨by nlinarith, fun ho => ?_⟩
      have := lt_of_le_of_ne hhi (hodd ho).2
      nlinarith
    exact ⟨hbefore.1, hafter.1.trans (by linarith), fun ho => ⟨(hbefore.2 ho).ne, ((hafter.2 ho).trans_le (by linarith)).ne⟩⟩
  · rw [hpos, hneg] at hm
    obtain ⟨hlo, hhi⟩ := h.up hm
    rw [hav, hax]
    refine ⟨?_, mul_le_mul_of_nonneg_right hhi hu.le⟩
    rcases hbottom with ⟨hge, -⟩ | ⟨-, he⟩
    · exact hprev.trans_le (mul_le_mul_of_nonneg_right hge hu.le)
    · rw [he]
      exact mul_lt_mul_of_pos_right hlo hu
  · rw [hpos, hneg] at hm
    obtain ⟨hlo, hhi⟩ := h.down hm
    rw [hav, hax]
    exact ⟨mul_le_mul_of_nonneg_right hlo hu.le, (mul_lt_mul_of_pos_right hhi hu).trans_le hnext⟩

/-! ## The rounding of an exact value (R36) -/

/-- An encoding by the exponent field that a rounding carries into, as the units of the binade below count it. -/
theorem fpack_carry (t : Ty) (neg : Bool) {b q : Nat} (hq : 2 ^ fracBits t ≤ q) :
    fpack t neg (b + 1 + if q = 2 ^ (fracBits t + 1) then 1 else 0) (if q = 2 ^ (fracBits t + 1) then 0 else q - 2 ^ fracBits t) =
      fpack t neg b q := by
  have hp : 2 ^ (fracBits t + 1) = 2 * 2 ^ fracBits t := Nat.pow_succ'
  split
  · next h => rw [h, hp]; simp only [fpack, Nat.add_mul]; omega
  · simp only [fpack, Nat.add_mul]; omega

/-- A rounding that ends in the normal range. -/
theorem roundF_normal {c : FCtx} {t : Ty} {neg : Bool} {m b q : Nat} {e k : Int} {nx : Bool} (hm : m ≠ 0)
    (hk : k = (bitLen m : Int) - (fracBits t + 1 : Nat)) (hq : roundShift c.rm neg m false k = (q, nx)) (he : e + k = (b : Int) - 126 - fracBits t)
    (hb : b ≤ 253) (hlo : 2 ^ fracBits t ≤ q) (htop : q < 2 ^ (fracBits t + 1) ∨ b ≤ 252) :
    roundF c t neg m e = (fpack t neg b q, if nx then 16 else 0) := by
  have hexp : e + k + fracBits t + (if q = 2 ^ (fracBits t + 1) then 1 else 0) =
      ((b + 1 + if q = 2 ^ (fracBits t + 1) then 1 else 0 : Nat) : Int) - 127 := by
    split <;> push_cast <;> omega
  have hle : (b + 1 + if q = 2 ^ (fracBits t + 1) then 1 else 0) ≤ 254 := by split <;> omega
  rw [roundF, if_neg hm]
  simp only [← hk, hq, beq_iff_eq, hexp]
  rw [if_neg (by omega), if_neg (by omega), Int.sub_add_cancel, Int.toNat_natCast, fpack_carry t neg hlo]
  rfl

theorem RoundsInt.close {rm : Nat} (hrm : rm < 4) {neg : Bool} {z : ℝ} {q : Nat} {nx : Bool} (h : RoundsInt rm neg z q nx) :
    (q : ℝ) - 1 < z ∧ z < q + 1 := by
  by_cases h0 : rm = 0
  · obtain ⟨hlo, hhi, -⟩ := h.nearest h0
    exact ⟨by linarith, by linarith⟩
  by_cases hu : (rm = 2 ∧ neg = false) ∨ (rm = 3 ∧ neg = true)
  · obtain ⟨hlo, hhi⟩ := h.up hu
    exact ⟨hlo, by linarith⟩
  · obtain ⟨hlo, hhi⟩ := h.down (by cases neg <;> simp at hu ⊢ <;> omega)
    exact ⟨by linarith, hhi⟩

theorem RoundsInt.ge {rm : Nat} (hrm : rm < 4) {neg : Bool} {z : ℝ} {q n : Nat} {nx : Bool} (h : RoundsInt rm neg z q nx)
    (hn : (n : ℝ) ≤ z) : n ≤ q := by
  have : (n : ℝ) < q + 1 := hn.trans_lt (h.close hrm).2
  exact Nat.lt_succ_iff.1 (by exact_mod_cast this)

theorem RoundsInt.le {rm : Nat} (hrm : rm < 4) {neg : Bool} {z : ℝ} {q n : Nat} {nx : Bool} (h : RoundsInt rm neg z q nx)
    (hn : z ≤ n) : q ≤ n := by
  have : (q : ℝ) < n + 1 := by linarith [(h.close hrm).1]
  exact Nat.lt_succ_iff.1 (by exact_mod_cast this)

/-- The value lies between the powers of two around the integer that stands for it. -/
theorem StandsFor.binade {m : Nat} {y : ℝ} (h : StandsFor m y) (hm : m ≠ 0) (hbig : y = m ∨ 2 ≤ m) :
    (2 : ℝ) ^ Nat.log2 m ≤ y ∧ y < 2 ^ (Nat.log2 m + 1) := by
  have hlo := Nat.log2_self_le hm
  have hhi := Nat.lt_log2_self (n := m)
  have hone : y = m ∨ 1 ≤ Nat.log2 m := hbig.imp_right fun h => (Nat.le_log2 hm).2 h
  obtain ⟨ha, -, hc⟩ := h.compare (n := 2 ^ Nat.log2 m) (hone.imp_right fun h => by
    obtain ⟨i, hi⟩ : ∃ i, Nat.log2 m = i + 1 := ⟨Nat.log2 m - 1, by omega⟩
    rw [hi, Nat.pow_succ', Nat.mul_mod_right])
  obtain ⟨-, hb, -⟩ := h.compare (n := 2 ^ (Nat.log2 m + 1)) (.inr (by rw [Nat.pow_succ', Nat.mul_mod_right]))
  push_cast at ha hb hc
  refine ⟨?_, hb hhi⟩
  rcases hlo.lt_or_eq with h | h
  · exact (ha h).le
  · exact (hc h).ge

/-- Magnitudes whose rounding is normal and finite. -/
def NormalMag (t : Ty) (a : ℝ) : Prop := (2 : ℝ) ^ (-126 : ℤ) ≤ a ∧ a ≤ (2 ^ (fracBits t + 1) - 1) * 2 ^ ((127 : ℤ) - fracBits t)

/-- The binade of a normal magnitude. -/
theorem NormalMag.binade {t : Ty} {z : ℝ} {j : Int} (h : NormalMag t (z * 2 ^ j)) (hz : (2 : ℝ) ^ fracBits t ≤ z)
    (hz' : z < 2 ^ (fracBits t + 1)) : ∃ b : Nat, j = (b : Int) - 126 - fracBits t ∧ b ≤ 253 ∧
      (b ≤ 252 ∨ z ≤ ((2 ^ (fracBits t + 1) - 1 : Nat) : ℝ)) := by
  obtain ⟨hlo, hhi⟩ := h
  have hj : (0 : ℝ) < 2 ^ j := by positivity
  have hnat : ((2 ^ (fracBits t + 1) - 1 : Nat) : ℝ) = 2 ^ (fracBits t + 1) - 1 := by
    rw [Nat.cast_sub Nat.one_le_two_pow]; push_cast; rfl
  have hbelow : (-126 : ℤ) < (fracBits t + 1 : Nat) + j := by
    rw [← zpow_lt_zpow_iff_right₀ (one_lt_two (α := ℝ)), zpow_add₀ two_ne_zero, zpow_natCast]
    exact hlo.trans_lt (mul_lt_mul_of_pos_right hz' hj)
  have habove : (fracBits t : ℤ) + j < 128 := by
    rw [← zpow_lt_zpow_iff_right₀ (one_lt_two (α := ℝ)), zpow_add₀ two_ne_zero, zpow_natCast]
    refine ((mul_le_mul_of_nonneg_right hz hj.le).trans hhi).trans_lt ?_
    have hsplit : (2 : ℝ) ^ (128 : ℤ) = 2 ^ (fracBits t + 1) * 2 ^ ((127 : ℤ) - fracBits t) := by
      rw [← zpow_natCast, ← zpow_add₀ two_ne_zero]
      congr 1
      push_cast
      ring
    rw [hsplit]
    exact mul_lt_mul_of_pos_right (by linarith) (by positivity)
  refine ⟨(j + 126 + fracBits t).toNat, by omega, by omega, ?_⟩
  by_cases hb : (j + 126 + fracBits t).toNat ≤ 252
  · exact .inl hb
  · obtain rfl : j = 127 - fracBits t := by omega
    rw [hnat]
    exact .inr (le_of_mul_le_mul_right hhi (by positivity))

theorem rm_fctxOf (fcr : W64) : (fctxOf fcr).rm = fcr.toNat % 4 := by
  simp [fctxOf, wbits, bits]

/-- The rounding of an integer times a power of two that stands for a value in the normal range is the value rounded once (R36). -/
theorem roundF_rounded {t : Ty} (ht : t.isFlt = true) (fcr : W64) {x y : ℝ} {m : Nat} {e : Int} {neg : Bool} (hm : m ≠ 0)
    (h : StandsFor m y) (hbig : y = m ∨ 2 ^ (fracBits t + 2) ≤ m) (hx : x = sgnOf neg * (y * 2 ^ e)) (hn : NormalMag t (y * 2 ^ e)) :
    Rounded t fcr x (roundF (fctxOf fcr) t neg m e).1 (roundF (fctxOf fcr) t neg m e).2 := by
  have hbig2 : y = m ∨ 2 ≤ m := hbig.imp_right fun h => by
    have : 2 ^ (fracBits t + 2) = 2 * 2 ^ (fracBits t + 1) := Nat.pow_succ'
    have := Nat.one_le_two_pow (n := fracBits t + 1)
    omega
  obtain ⟨hylo, hyhi⟩ := h.binade hm hbig2
  obtain ⟨k, hk⟩ : ∃ k : Int, k = (bitLen m : Int) - (fracBits t + 1 : Nat) := ⟨_, rfl⟩
  have hlen : bitLen m = Nat.log2 m + 1 := if_neg hm
  have hlog : (Nat.log2 m : Int) = k + fracBits t := by omega
  have hk2 : y = m ∨ 2 ≤ k := hbig.imp_right fun h => by
    have := (Nat.le_log2 hm).2 h
    omega
  have hpow : (0 : ℝ) < 2 ^ k := by positivity
  have hz : (2 : ℝ) ^ fracBits t ≤ y / 2 ^ k := by
    rw [le_div_iff₀ hpow, ← zpow_natCast, ← zpow_add₀ two_ne_zero, add_comm, ← hlog, zpow_natCast]
    exact hylo
  have hz' : y / 2 ^ k < 2 ^ (fracBits t + 1) := by
    rw [div_lt_iff₀ hpow, ← zpow_natCast, ← zpow_add₀ two_ne_zero,
      show ((fracBits t + 1 : Nat) : Int) + k = (Nat.log2 m + 1 : Nat) by omega, zpow_natCast]
    exact hyhi
  have hval : y * 2 ^ e = y / 2 ^ k * 2 ^ (e + k) := by
    rw [zpow_add₀ two_ne_zero, mul_comm ((2 : ℝ) ^ e), ← mul_assoc, div_mul_cancel₀ _ hpow.ne']
  rw [hval] at hn hx
  obtain ⟨b, hj, hb, htop⟩ := hn.binade hz hz'
  have hrm : (fctxOf fcr).rm < 4 := by rw [rm_fctxOf]; exact Nat.mod_lt _ (by decide)
  have hr := roundShift_rounds h hk2 hrm neg
  obtain ⟨q, nx, hqn⟩ : ∃ q nx, roundShift (fctxOf fcr).rm neg m false k = (q, nx) := ⟨_, _, rfl⟩
  rw [hqn] at hr
  have hqlo : 2 ^ fracBits t ≤ q := hr.ge hrm (by push_cast; exact hz)
  have hqhi : q ≤ 2 ^ (fracBits t + 1) := hr.le hrm (by push_cast; exact hz'.le)
  have hqtop : q < 2 ^ (fracBits t + 1) ∨ b ≤ 252 := htop.symm.imp_left fun h => by
    have := hr.le hrm h
    have := Nat.one_le_two_pow (n := fracBits t + 1)
    omega
  rw [roundF_normal hm hk hqn hj hb hqlo hqtop]
  rw [rm_fctxOf] at hr
  refine hr.rounded ht ?_ hb hqlo hqhi hqtop hz
  rw [hx, hj]
  rfl

end Sys2Proof.Safety

/-! SUPPORT. What the operands of a float instruction are: flushed under FZ, unpacked, with their values (R31, R39, R40). -/

namespace Sys2Proof.Machine

theorem low_lt (t : Ty) (w : W64) : low t w < 2 ^ t.bits := Nat.mod_lt _ (Nat.two_pow_pos _)

theorem isNanF_eq_false_iff {t : Ty} {w : Nat} : isNanF t w = false ↔ (fexp t w = 255 → ffrac t w = 0) := by
  simp [isNanF]

/-- The exact value that an unpacked encoding stands for; an infinity counts as the power of two beyond the finite values. -/
noncomputable def FV.value : FV → ℝ
  | .nan _ => 0
  | .inf n => Safety.sgnOf n * 2 ^ (128 : ℤ)
  | .fin n m e => Safety.sgnOf n * m * 2 ^ e

/-- The significand of a finite encoding. -/
def mant (t : Ty) (w : Nat) : Nat := ffrac t w + if fexp t w = 0 then 0 else 2 ^ fracBits t

/-- The power of two of its last place. -/
def expo (t : Ty) (w : Nat) : Int := (max 1 (fexp t w) : Nat) - 127 - fracBits t

theorem unpackF_finite {t : Ty} {w : Nat} (h : fexp t w < 255) : unpackF t w = .fin (fneg t w) (mant t w) (expo t w) := by
  rw [unpackF, if_neg (by omega), mant, expo]
  split
  · next he => rw [he]; simp; omega
  · next he => rw [Nat.max_eq_right (by omega), Nat.add_comm]; simp; omega

theorem unpackF_inf {t : Ty} {w : Nat} (he : fexp t w = 255) (hf : ffrac t w = 0) : unpackF t w = .inf (fneg t w) := by
  rw [unpackF, if_pos he, if_pos hf]

end Sys2Proof.Machine

namespace Sys2Proof.Safety

open Sys2Proof.Machine

theorem fexp_lt (t : Ty) (w : Nat) : fexp t w < 256 := Nat.mod_lt _ (by decide)

theorem ffrac_lt (t : Ty) (w : Nat) : ffrac t w < 2 ^ fracBits t := Nat.mod_lt _ (Nat.two_pow_pos _)

theorem finiteVal_iff {t : Ty} {w : Nat} : FiniteVal t w ↔ fexp t w < 255 := Iff.rfl

theorem floatVal_mant (t : Ty) (w : Nat) : (floatVal t w : ℝ) = sgnOf (fneg t w) * mant t w * 2 ^ expo t w := by
  obtain ⟨b, hb⟩ : ∃ b, max 1 (fexp t w) = b + 1 := ⟨max 1 (fexp t w) - 1, by omega⟩
  rw [floatVal_of_fields (n := mant t w) rfl rfl hb, ulp, expo, hb]
  congr 2
  push_cast
  ring

/-- An encoding that is no NaN unpacks to its value. -/
theorem floatVal_unpackF {t : Ty} {w : Nat} (h : isNanF t w = false) : (floatVal t w : ℝ) = (unpackF t w).value := by
  by_cases he : fexp t w < 255
  · rw [unpackF_finite he, floatVal_mant]; rfl
  · have he' : fexp t w = 255 := by have := fexp_lt t w; omega
    have hf := isNanF_eq_false_iff.1 h he'
    rw [unpackF_inf he' hf, floatVal_mant, mant, expo, hf, he', if_neg (by decide), FV.value, mul_assoc, Nat.zero_add]
    push_cast
    rw [← zpow_natCast, ← zpow_add₀ two_ne_zero]
    congr 2
    norm_num

theorem isNanF_of_finite {t : Ty} {w : Nat} (h : FiniteVal t w) : isNanF t w = false :=
  isNanF_eq_false_iff.2 fun he => absurd (finiteVal_iff.1 h) (by omega)

/-- A finite value is below the power of two that stands for the infinities. -/
theorem mant_mul_lt {t : Ty} {w : Nat} (h : fexp t w < 255) : (mant t w : ℝ) * 2 ^ expo t w < 2 ^ (128 : ℤ) := by
  have hm : mant t w < 2 ^ (fracBits t + 1) := by
    have := ffrac_lt t w
    rw [mant, Nat.pow_succ']
    split <;> omega
  have he : expo t w ≤ 127 - fracBits t := by unfold expo; omega
  calc (mant t w : ℝ) * 2 ^ expo t w < 2 ^ (fracBits t + 1) * 2 ^ expo t w :=
        mul_lt_mul_of_pos_right (by exact_mod_cast hm) (by positivity)
    _ ≤ 2 ^ (fracBits t + 1) * 2 ^ (127 - fracBits t : ℤ) :=
        mul_le_mul_of_nonneg_left (zpow_le_zpow_right₀ one_le_two he) (by positivity)
    _ = 2 ^ (128 : ℤ) := by
        rw [← zpow_natCast, ← zpow_add₀ two_ne_zero]
        congr 1
        push_cast
        ring

/-! ## FZ (R40) -/

/-- A subnormal that FZ flushes is a zero of its sign, and any other encoding is left. -/
theorem flushIn_eq {t : Ty} (ht : t.isFlt = true) (fcr : W64) {w : Nat} (h : w < 2 ^ t.bits) :
    flushIn (fctxOf fcr) t w = flushed fcr t w := by
  have hw := fpack_of_fields ht h
  have hpack (he : fexp t w = 0) : fpack t (fneg t w) 0 0 = w - ffrac t w := by
    rw [he] at hw
    simp only [fpack] at hw ⊢
    omega
  have hcond : (fcr.getLsbD 2 = true ∧ fexp t w = 0) ↔ ((fctxOf fcr).fz && isSub t w) = true ∨
      (fcr.getLsbD 2 = true ∧ fexp t w = 0 ∧ ffrac t w = 0) := by
    simp only [fctxOf, isSub, Bool.and_eq_true, beq_iff_eq, bne_iff_ne, ne_eq]
    tauto
  show _ = if fcr.getLsbD 2 = true ∧ fexp t w = 0 then w - ffrac t w else w
  rw [flushIn]
  by_cases hs : ((fctxOf fcr).fz && isSub t w) = true
  · have hc := hcond.2 (.inl hs)
    rw [if_pos hs, if_pos hc, hpack hc.2]
  · rw [if_neg hs]
    split
    · next hc =>
      obtain ⟨-, -, h0⟩ := (hcond.1 hc).resolve_left hs
      rw [h0, Nat.sub_zero]
    · rfl

theorem flushed_lt {t : Ty} (fcr : W64) {w : Nat} (h : w < 2 ^ t.bits) : flushed fcr t w < 2 ^ t.bits := by
  show (if fcr.getLsbD 2 = true ∧ fexp t w = 0 then w - ffrac t w else w) < _
  split
  · exact (Nat.sub_le _ _).trans_lt h
  · exact h

/-! ## Results of operands that are no NaN (R36, R39) -/

theorem withNans_none {c : FCtx} {t : Ty} {ops : List (Ty × Nat)} {extra : Fl} {f : Nat × Fl}
    (h : ∀ o ∈ ops, isNanF o.1 o.2 = false) : withNans c t ops extra f = f :=
  if_neg fun hc => by
    obtain ⟨o, ho, hn⟩ := List.any_eq_true.1 hc
    rw [h o ho] at hn
    exact Bool.noConfusion hn

/-- A term of an exact sum over the power of two of its last place. -/
theorem signedM_scaled (n : Bool) (m : Nat) {e lo : Int} (h : lo ≤ e) :
    (signedM n (m * 2 ^ (e - lo).toNat) : ℝ) * 2 ^ lo = sgnOf n * m * 2 ^ e := by
  have hs : (signedM n (m * 2 ^ (e - lo).toNat) : ℝ) = sgnOf n * (m * 2 ^ (e - lo).toNat : Nat) := by
    unfold signedM sgnOf
    cases n <;> simp
  have hp : (2 : ℝ) ^ e = 2 ^ (e - lo).toNat * 2 ^ lo := by
    rw [← zpow_natCast, ← zpow_add₀ two_ne_zero, Int.toNat_of_nonneg (by omega), Int.sub_add_cancel]
  rw [hs, hp]
  push_cast
  ring

theorem InRange.normalMag {t : Ty} {x : ℚ} (h : InRange t x) : NormalMag t |(x : ℝ)| := by
  obtain ⟨hlo, hhi⟩ := h
  have hmax : (2 - 2 ^ (if t = .bf16 then (-7 : ℤ) else -23)) * 2 ^ 127 =
      ((2 : ℝ) ^ (fracBits t + 1) - 1) * 2 ^ ((127 : ℤ) - fracBits t) := by
    unfold fracBits
    split <;> norm_num
  refine ⟨?_, ?_⟩
  · have : ((2 ^ (-126 : ℤ) : ℚ) : ℝ) ≤ ((|x| : ℚ) : ℝ) := by exact_mod_cast hlo
    push_cast at this
    exact this
  · have : ((|x| : ℚ) : ℝ) ≤ (((2 - 2 ^ (if t = .bf16 then (-7 : ℤ) else -23)) * 2 ^ 127 : ℚ) : ℝ) := by exact_mod_cast hhi
    push_cast at this
    rw [← hmax]
    exact this

theorem NormalMag.ne_zero {t : Ty} {x : ℝ} (h : NormalMag t |x|) : x ≠ 0 := by
  rintro rfl
  have : (0 : ℝ) < 2 ^ (-126 : ℤ) := by positivity
  have := h.1
  rw [abs_zero] at this
  linarith

end Sys2Proof.Safety

/-! SUPPORT. The operations on finite values, rounded once (R36, R87, R89). -/

namespace Sys2Proof.Safety

open Sys2Proof.Machine

/-- A result and its flags are the value `x` rounded once by FCR. -/
def RoundedPair (t : Ty) (fcr : W64) (x : ℝ) (r : Nat × Fl) : Prop := Rounded t fcr x r.1 r.2

section
variable {t : Ty} {fcr : W64}

/-- The value of a finite unpacked encoding by its sign. -/
theorem value_fin (n : Bool) (m : Nat) (e : Int) : (FV.fin n m e).value = sgnOf n * (m * 2 ^ e) := mul_assoc ..

/-- An exact value as an integer times a power of two (R36). -/
theorem roundF_int (ht : t.isFlt = true) {i lo : Int} {x : ℝ} (hx : x = i * 2 ^ lo) (hn : NormalMag t |x|) :
    RoundedPair t fcr x (roundF (fctxOf fcr) t (decide (i < 0)) i.natAbs lo) := by
  have hi : i ≠ 0 := by
    rintro rfl
    exact hn.ne_zero (by rw [hx]; simp)
  have hp : (0 : ℝ) < 2 ^ lo := by positivity
  have hc : ((i.natAbs : Nat) : ℝ) = |(i : ℝ)| := by rw [Nat.cast_natAbs, Int.cast_abs]
  have habs : |x| = (i.natAbs : ℝ) * 2 ^ lo := by rw [hx, abs_mul, abs_of_pos hp, hc]
  have hsx : x = sgnOf (decide (i < 0)) * ((i.natAbs : ℝ) * 2 ^ lo) := by
    rw [hc, hx]
    rcases lt_or_ge i 0 with h | h
    · have : (i : ℝ) < 0 := by exact_mod_cast h
      rw [decide_eq_true h, abs_of_neg this, sgnOf, if_pos rfl]; ring
    · have : (0 : ℝ) ≤ i := by exact_mod_cast h
      rw [decide_eq_false (by omega), abs_of_nonneg this, sgnOf, if_neg Bool.false_ne_true, one_mul]
  exact roundF_rounded ht fcr (by omega) (.inl rfl) (.inl rfl) hsx (habs ▸ hn)

/-- A magnitude of a sign (R36). -/
theorem roundF_nat (ht : t.isFlt = true) {n : Bool} {m : Nat} {e : Int} {x : ℝ} (hx : x = (FV.fin n m e).value) (hn : NormalMag t |x|) :
    RoundedPair t fcr x (roundF (fctxOf fcr) t n m e) := by
  have hm : m ≠ 0 := by
    rintro rfl
    exact hn.ne_zero (by rw [hx, value_fin]; simp)
  have hpos : (0 : ℝ) < m * 2 ^ e := by
    have : (0 : ℝ) < m := by exact_mod_cast Nat.pos_of_ne_zero hm
    positivity
  rw [value_fin] at hx
  refine roundF_rounded ht fcr hm (.inl rfl) (.inl rfl) hx ?_
  rwa [hx, abs_sgnOf_mul hpos] at hn

/-- The exact sum of two finite values (R36). -/
theorem addV_rounded (ht : t.isFlt = true) {a b : Bool} {m n : Nat} {e f : Int} {x : ℝ}
    (hx : x = (FV.fin a m e).value + (FV.fin b n f).value) (hn : NormalMag t |x|) :
    RoundedPair t fcr x (addV (fctxOf fcr) t (.fin a m e) (.fin b n f)) := by
  obtain ⟨i, hi⟩ : ∃ i, i = signedM a (m * 2 ^ (e - min e f).toNat) + signedM b (n * 2 ^ (f - min e f).toNat) := ⟨_, rfl⟩
  have hxi : x = i * 2 ^ min e f := by
    rw [hi, Int.cast_add, add_mul, signedM_scaled a m (min_le_left e f), signedM_scaled b n (min_le_right e f)]
    exact hx
  have hi0 : i ≠ 0 := by
    intro h
    exact hn.ne_zero (by rw [hxi, h]; simp)
  have hr : addV (fctxOf fcr) t (.fin a m e) (.fin b n f) = roundF (fctxOf fcr) t (decide (i < 0)) i.natAbs (min e f) := by
    have hs : addV (fctxOf fcr) t (.fin a m e) (.fin b n f) = sumF (fctxOf fcr) t [(a, m, e), (b, n, f)] := rfl
    rw [hs, sumF]
    simp only [List.foldl_cons, List.foldl_nil, List.head?_cons, Option.map_some, Option.getD_some, min_self, zero_add, ← hi]
    exact if_neg hi0
  rw [hr]
  exact roundF_int ht hxi hn

theorem value_negate (v : FV) : v.negate.value = -v.value := by
  have hs (n : Bool) : sgnOf (!n) = -sgnOf n := by cases n <;> simp [sgnOf]
  cases v with
  | nan s => exact neg_zero.symm
  | inf n => rw [FV.negate, FV.value, FV.value, hs]; ring
  | fin n m e => rw [FV.negate, FV.value, FV.value, hs]; ring

theorem sgnOf_xor (a b : Bool) : sgnOf (a != b) = sgnOf a * sgnOf b := by
  cases a <;> cases b <;> simp [sgnOf]

/-- The exact product of two finite values. -/
theorem value_product (a b : Bool) (m n : Nat) (e f : Int) :
    (FV.fin (a != b) (m * n) (e + f)).value = (FV.fin a m e).value * (FV.fin b n f).value := by
  rw [FV.value, FV.value, FV.value, sgnOf_xor, zpow_add₀ two_ne_zero]
  push_cast
  ring

/-! ## The quotient -/

theorem lt_two_pow_bitLen {m : Nat} (h : m ≠ 0) : m < 2 ^ bitLen m ∧ 2 ^ (bitLen m - 1) ≤ m := by
  rw [bitLen, if_neg h]
  exact ⟨Nat.lt_log2_self, Nat.log2_self_le h⟩

/-- An integer quotient with a sticky bit stands for twice the quotient. -/
theorem standsFor_quotient (a : Nat) {n : Nat} (hn : n ≠ 0) :
    StandsFor (2 * (a / n) + if a % n = 0 then 0 else 1) (2 * (a / n : ℝ)) := by
  have hn0 : (0 : ℝ) < n := by exact_mod_cast Nat.pos_of_ne_zero hn
  have hdiv : (a : ℝ) = n * (a / n : Nat) + (a % n : Nat) := by exact_mod_cast (Nat.div_add_mod a n).symm
  split
  · next h =>
    refine .inl ?_
    rw [h] at hdiv
    push_cast at hdiv ⊢
    rw [hdiv]
    field_simp
    ring
  · next h =>
    have hlt : ((a % n : Nat) : ℝ) < n := by exact_mod_cast Nat.mod_lt a (Nat.pos_of_ne_zero hn)
    have hpos : (0 : ℝ) < (a % n : Nat) := by exact_mod_cast Nat.pos_of_ne_zero h
    have hlo : ((a / n : Nat) : ℝ) < a / n := by rw [lt_div_iff₀ hn0]; linarith
    have hhi : (a / n : ℝ) < (a / n : Nat) + 1 := by rw [div_lt_iff₀ hn0]; linarith
    refine .inr ⟨by omega, ?_, ?_⟩ <;> push_cast <;> linarith

/-- The quotient of the model has at least 26 bits. -/
theorem quotient_big {m n : Nat} (hm : m ≠ 0) (hn : n ≠ 0) (hlen : bitLen m ≤ bitLen n + 27) :
    2 ^ 26 ≤ m * 2 ^ (bitLen n + 27 - bitLen m) / n := by
  obtain ⟨-, hmlo⟩ := lt_two_pow_bitLen hm
  obtain ⟨hnhi, -⟩ := lt_two_pow_bitLen hn
  have hm1 : 1 ≤ bitLen m := by rw [bitLen, if_neg hm]; omega
  rw [Nat.le_div_iff_mul_le (Nat.pos_of_ne_zero hn)]
  calc 2 ^ 26 * n ≤ 2 ^ 26 * 2 ^ bitLen n := Nat.mul_le_mul_left _ hnhi.le
    _ = 2 ^ (bitLen m - 1) * 2 ^ (bitLen n + 27 - bitLen m) := by rw [← Nat.pow_add, ← Nat.pow_add]; congr 1; omega
    _ ≤ m * 2 ^ (bitLen n + 27 - bitLen m) := Nat.mul_le_mul_right _ hmlo

theorem bitLen_le {m k : Nat} (h : m < 2 ^ k) : bitLen m ≤ k := by
  unfold bitLen
  split
  · exact Nat.zero_le k
  · next hm => exact Nat.succ_le_of_lt ((Nat.log2_lt hm).2 h)

theorem fracBits_le (t : Ty) : fracBits t ≤ 23 := by unfold fracBits; split <;> decide

/-- The quotient of two finite values, the divisor no zero (R36). -/
theorem quotient_rounded (ht : t.isFlt = true) {a b : Bool} {m n : Nat} {e f : Int} {x : ℝ} (hn : n ≠ 0) (hm : m ≠ 0)
    (hlen : bitLen m ≤ bitLen n + 27) (hx : x = (FV.fin a m e).value / (FV.fin b n f).value) (hr : NormalMag t |x|) :
    RoundedPair t fcr x (roundF (fctxOf fcr) t (a != b) (2 * (m * 2 ^ (bitLen n + 27 - bitLen m) / n) +
      (if m * 2 ^ (bitLen n + 27 - bitLen m) % n = 0 then 0 else 1)) (e - f - (bitLen n + 27 - bitLen m : Nat) - 1)) := by
  generalize hk : bitLen n + 27 - bitLen m = k
  have hbig := quotient_big hm hn hlen
  rw [hk] at hbig
  have hpow : 2 ^ (fracBits t + 2) ≤ 2 ^ 25 := Nat.pow_le_pow_right (by decide) (by have := fracBits_le t; omega)
  have hn0 : (0 : ℝ) < n := by exact_mod_cast Nat.pos_of_ne_zero hn
  have hm0 : (0 : ℝ) < m := by exact_mod_cast Nat.pos_of_ne_zero hm
  have hsb : sgnOf b * sgnOf b = 1 := by cases b <;> simp [sgnOf]
  have hmag : 2 * ((m * 2 ^ k : Nat) / n : ℝ) * 2 ^ (e - f - k - 1) = m * 2 ^ e / (n * 2 ^ f) := by
    rw [zpow_sub₀ two_ne_zero, zpow_sub₀ two_ne_zero, zpow_sub₀ two_ne_zero, zpow_natCast, zpow_one]
    push_cast
    field_simp
  have hval : x = sgnOf (a != b) * (2 * ((m * 2 ^ k : Nat) / n : ℝ) * 2 ^ (e - f - k - 1)) := by
    have hinv : (sgnOf b)⁻¹ = sgnOf b := inv_eq_of_mul_eq_one_left hsb
    rw [hx, hmag, sgnOf_xor, value_fin, value_fin, mul_div_mul_comm, div_eq_mul_inv (sgnOf a), hinv]
  have hpos : 0 < 2 * ((m * 2 ^ k : Nat) / n : ℝ) * 2 ^ (e - f - k - 1) := by rw [hmag]; positivity
  refine roundF_rounded ht fcr (by omega) (standsFor_quotient _ hn) (.inr (by omega)) hval ?_
  rwa [hval, abs_sgnOf_mul hpos] at hr

/-! ## The square root -/

/-- The bits found make the integer square root. -/
theorem isqrt_spec (n : Nat) : ∀ fuel r, r ^ 2 ≤ n → n < (r + 2 ^ fuel) ^ 2 →
    (isqrt n fuel r) ^ 2 ≤ n ∧ n < (isqrt n fuel r + 1) ^ 2
  | 0, r, hlo, hhi => ⟨hlo, hhi⟩
  | fuel + 1, r, hlo, hhi => by
    rw [isqrt]
    split
    · next h => exact isqrt_spec n fuel _ h (by rwa [Nat.pow_succ 2 fuel, Nat.mul_two, ← Nat.add_assoc] at hhi)
    · next h => exact isqrt_spec n fuel r hlo (Nat.lt_of_not_le h)

/-- An integer square root with a sticky bit stands for twice the root. -/
theorem standsFor_sqrt {n r : Nat} (hlo : r ^ 2 ≤ n) (hhi : n < (r + 1) ^ 2) :
    StandsFor (2 * r + if r * r = n then 0 else 1) (2 * Real.sqrt n) := by
  split
  · next h =>
    refine .inl ?_
    have : Real.sqrt n = r := by rw [← h]; push_cast; exact Real.sqrt_mul_self (Nat.cast_nonneg r)
    rw [this]; push_cast; ring
  · next h =>
    have hlt : r ^ 2 < n := lt_of_le_of_ne hlo (by rwa [pow_two])
    have h1 : (r : ℝ) < Real.sqrt n := by
      rw [Real.lt_sqrt (Nat.cast_nonneg r)]; exact_mod_cast hlt
    have h2 : Real.sqrt n < r + 1 := by
      rw [Real.sqrt_lt' (by positivity)]; exact_mod_cast hhi
    refine .inr ⟨by omega, ?_, ?_⟩ <;> push_cast <;> linarith

/-- The root of an integer times an even power of two. -/
theorem sqrt_scaled (n : Nat) (e : Int) (he : e % 2 = 0) : Real.sqrt (n * 2 ^ e) = Real.sqrt n * 2 ^ (e / 2) := by
  rw [Real.sqrt_mul (Nat.cast_nonneg n)]
  congr 1
  have : (2 : ℝ) ^ e = (2 ^ (e / 2)) ^ 2 := by
    rw [← zpow_natCast, ← zpow_mul]
    congr 1
    push_cast
    omega
  rw [this, Real.sqrt_sq (by positivity)]

/-- The root of a finite value with an even exponent (R36). -/
theorem root_rounded (ht : t.isFlt = true) {m : Nat} {e : Int} (he : e % 2 = 0) (hm : m ≠ 0) (hlt : m < 2 ^ 25)
    (hn : NormalMag t (Real.sqrt (m * 2 ^ e))) : RoundedPair t fcr (Real.sqrt (m * 2 ^ e)) (roundF (fctxOf fcr) t false
      (2 * isqrt (m * 2 ^ 56) 42 0 + if isqrt (m * 2 ^ 56) 42 0 * isqrt (m * 2 ^ 56) 42 0 = m * 2 ^ 56 then 0 else 1)
      ((e - 56) / 2 - 1)) := by
  obtain ⟨hlo, hhi⟩ := isqrt_spec (m * 2 ^ 56) 42 0 (by omega) (by omega)
  have hs := standsFor_sqrt hlo hhi
  have hbig : 2 ^ 28 ≤ isqrt (m * 2 ^ 56) 42 0 := by
    by_contra hc
    have hle : isqrt (m * 2 ^ 56) 42 0 + 1 ≤ 2 ^ 28 := by omega
    have := Nat.pow_le_pow_left hle 2
    omega
  have hpow : 2 ^ (fracBits t + 2) ≤ 2 ^ 25 := Nat.pow_le_pow_right (by decide) (by have := fracBits_le t; omega)
  generalize isqrt (m * 2 ^ 56) 42 0 = r at *
  have hval : Real.sqrt (m * 2 ^ e) = 2 * Real.sqrt (m * 2 ^ 56 : Nat) * 2 ^ ((e - 56) / 2 - 1) := by
    have hscale : (m : ℝ) * 2 ^ e = ((m * 2 ^ 56 : Nat) : ℝ) * 2 ^ (e - 56) := by
      rw [zpow_sub₀ two_ne_zero]
      push_cast
      norm_num
      ring
    rw [hscale, sqrt_scaled _ _ (by omega), zpow_sub₀ two_ne_zero, zpow_one]
    ring
  rw [hval] at hn ⊢
  refine roundF_rounded ht fcr (by omega) hs (.inr (by omega)) ?_ hn
  rw [sgnOf, if_neg Bool.false_ne_true, one_mul]

end

end Sys2Proof.Safety

/-! SUPPORT. The float operations of the model on operands that are no NaN, and on NaNs (R36, R39, R87, R89). -/

namespace Sys2Proof.Safety

open Sys2Proof.Machine

section
variable {t : Ty} {fcr : W64}

/-! ## Finite operands -/

theorem mant_lt (t : Ty) (w : Nat) : mant t w < 2 ^ 24 := by
  have hf := ffrac_lt t w
  have hp : 2 ^ (fracBits t + 1) ≤ 2 ^ 24 := Nat.pow_le_pow_right (by decide) (by have := fracBits_le t; omega)
  have hs : 2 ^ (fracBits t + 1) = 2 * 2 ^ fracBits t := Nat.pow_succ'
  rw [mant]
  split <;> omega

/-- A finite encoding is zero exactly where its significand is. -/
theorem mant_eq_zero_iff {w : Nat} : mant t w = 0 ↔ floatVal t w = 0 := by
  have hp : (0 : ℝ) < 2 ^ expo t w := by positivity
  have hs : sgnOf (fneg t w) ≠ 0 := by unfold sgnOf; split <;> norm_num
  rw [← Rat.cast_eq_zero (α := ℝ), floatVal_mant]
  simp [hs, hp.ne']

theorem floatVal_finite {w : Nat} (h : FiniteVal t w) : (floatVal t w : ℝ) = (FV.fin (fneg t w) (mant t w) (expo t w)).value := by
  rw [floatVal_unpackF (isNanF_of_finite h), unpackF_finite (finiteVal_iff.1 h)]

/-- The operands of a float instruction are flushed first. -/
theorem fAdd_finite {a b : Nat} (ha : FiniteVal t (flushIn (fctxOf fcr) t a)) (hb : FiniteVal t (flushIn (fctxOf fcr) t b)) :
    fAdd (fctxOf fcr) t a b = addV (fctxOf fcr) t (unpackF t (flushIn (fctxOf fcr) t a)) (unpackF t (flushIn (fctxOf fcr) t b)) :=
  withNans_none (by simp [isNanF_of_finite ha, isNanF_of_finite hb])

theorem fSub_finite {a b : Nat} (ha : FiniteVal t (flushIn (fctxOf fcr) t a)) (hb : FiniteVal t (flushIn (fctxOf fcr) t b)) :
    fSub (fctxOf fcr) t a b =
      addV (fctxOf fcr) t (unpackF t (flushIn (fctxOf fcr) t a)) (unpackF t (flushIn (fctxOf fcr) t b)).negate :=
  withNans_none (by simp [isNanF_of_finite ha, isNanF_of_finite hb])

/-- The root of a positive finite value lies well inside the normal range. -/
theorem sqrt_normalMag {w : Nat} (h : FiniteVal t w) (hpos : 0 < (mant t w : ℝ) * 2 ^ expo t w) :
    NormalMag t (Real.sqrt (mant t w * 2 ^ expo t w)) := by
  have hm : (1 : ℝ) ≤ mant t w := by
    have : mant t w ≠ 0 := by rintro h0; rw [h0] at hpos; simp at hpos
    exact_mod_cast Nat.pos_of_ne_zero this
  have he : -149 ≤ expo t w := by have := fracBits_le t; unfold expo; omega
  have hf := fracBits_le t
  constructor
  · refine Real.le_sqrt_of_sq_le ?_
    calc ((2 : ℝ) ^ (-126 : ℤ)) ^ 2 ≤ 2 ^ (-149 : ℤ) := by norm_num
      _ ≤ 2 ^ expo t w := zpow_le_zpow_right₀ one_le_two he
      _ ≤ mant t w * 2 ^ expo t w := le_mul_of_one_le_left (by positivity) hm
  · refine Real.sqrt_le_iff.2 ⟨?_, ?_⟩
    · have : (1 : ℝ) ≤ 2 ^ (fracBits t + 1) := one_le_pow₀ one_le_two
      have : (0 : ℝ) < 2 ^ ((127 : ℤ) - fracBits t) := by positivity
      exact mul_nonneg (by linarith) this.le
    · have h1 : (1 : ℝ) ≤ 2 ^ (fracBits t + 1) - 1 := by
        have : (2 : ℝ) ^ 1 ≤ 2 ^ (fracBits t + 1) := pow_le_pow_right₀ one_le_two (by omega)
        linarith
      have h2 : (2 : ℝ) ^ (64 : ℤ) ≤ 2 ^ ((127 : ℤ) - fracBits t) := zpow_le_zpow_right₀ one_le_two (by omega)
      have h3 : (2 : ℝ) ^ (64 : ℤ) ≤ (2 ^ (fracBits t + 1) - 1) * 2 ^ ((127 : ℤ) - fracBits t) := by nlinarith
      calc (mant t w : ℝ) * 2 ^ expo t w ≤ 2 ^ (128 : ℤ) := (mant_mul_lt (finiteVal_iff.1 h)).le
        _ = (2 ^ (64 : ℤ)) ^ 2 := by norm_num
        _ ≤ _ := pow_le_pow_left₀ (by positivity) h3 2

variable (ht : t.isFlt = true)
include ht

theorem fAdd_rounded {a b A B : Nat} (hA : flushIn (fctxOf fcr) t a = A) (hB : flushIn (fctxOf fcr) t b = B) (ha : FiniteVal t A)
    (hb : FiniteVal t B) (h : InRange t (floatVal t A + floatVal t B)) :
    RoundedPair t fcr ((floatVal t A + floatVal t B : ℚ) : ℝ) (fAdd (fctxOf fcr) t a b) := by
  subst hA hB
  rw [fAdd_finite ha hb, unpackF_finite ha, unpackF_finite hb]
  refine addV_rounded ht ?_ h.normalMag
  rw [Rat.cast_add, floatVal_finite ha, floatVal_finite hb]

theorem fSub_rounded {a b A B : Nat} (hA : flushIn (fctxOf fcr) t a = A) (hB : flushIn (fctxOf fcr) t b = B) (ha : FiniteVal t A)
    (hb : FiniteVal t B) (h : InRange t (floatVal t A - floatVal t B)) :
    RoundedPair t fcr ((floatVal t A - floatVal t B : ℚ) : ℝ) (fSub (fctxOf fcr) t a b) := by
  subst hA hB
  rw [fSub_finite ha hb, unpackF_finite ha, unpackF_finite hb]
  refine addV_rounded ht ?_ h.normalMag
  rw [Rat.cast_sub, floatVal_finite ha, floatVal_finite hb, sub_eq_add_neg, ← value_negate]
  rfl

theorem fMul_rounded {a b A B : Nat} (hA : flushIn (fctxOf fcr) t a = A) (hB : flushIn (fctxOf fcr) t b = B) (ha : FiniteVal t A)
    (hb : FiniteVal t B) (h : InRange t (floatVal t A * floatVal t B)) :
    RoundedPair t fcr ((floatVal t A * floatVal t B : ℚ) : ℝ) (fMul (fctxOf fcr) t a b) := by
  have he : fMul (fctxOf fcr) t a b = roundV (fctxOf fcr) t (mulV (unpackF t A) (unpackF t B)) := by
    subst hA hB
    exact withNans_none (by simp [isNanF_of_finite ha, isNanF_of_finite hb])
  rw [he, unpackF_finite ha, unpackF_finite hb]
  refine roundF_nat ht ?_ h.normalMag
  rw [Rat.cast_mul, floatVal_finite ha, floatVal_finite hb, value_product]

theorem fMa_rounded {a m b A C B : Nat} (hA : flushIn (fctxOf fcr) t a = A) (hC : flushIn (fctxOf fcr) t m = C)
    (hB : flushIn (fctxOf fcr) t b = B) (ha : FiniteVal t A) (hc : FiniteVal t C) (hb : FiniteVal t B)
    (h : InRange t (floatVal t A * floatVal t C + floatVal t B)) :
    RoundedPair t fcr ((floatVal t A * floatVal t C + floatVal t B : ℚ) : ℝ) (fMa (fctxOf fcr) t a m b) := by
  have he : fMa (fctxOf fcr) t a m b = addV (fctxOf fcr) t (.fin (fneg t A != fneg t C) (mant t A * mant t C) (expo t A + expo t C))
      (unpackF t B) := by
    subst hA hB hC
    refine (withNans_none (by simp [isNanF_of_finite ha, isNanF_of_finite hb, isNanF_of_finite hc])).trans ?_
    rw [unpackF_finite ha, unpackF_finite hc]
    rfl
  rw [he, unpackF_finite hb]
  refine addV_rounded ht ?_ h.normalMag
  rw [Rat.cast_add, Rat.cast_mul, floatVal_finite ha, floatVal_finite hb, floatVal_finite hc, value_product]

theorem fDiv_rounded {a b A B : Nat} (hA : flushIn (fctxOf fcr) t a = A) (hB : flushIn (fctxOf fcr) t b = B) (ha : FiniteVal t A)
    (hb : FiniteVal t B) (h0 : floatVal t B ≠ 0) (h : InRange t (floatVal t A / floatVal t B)) :
    RoundedPair t fcr ((floatVal t A / floatVal t B : ℚ) : ℝ) (fDiv (fctxOf fcr) t a b) := by
  have hn : mant t B ≠ 0 := mt mant_eq_zero_iff.1 h0
  have hm : mant t A ≠ 0 := by
    intro hz
    refine h.normalMag.ne_zero ?_
    rw [mant_eq_zero_iff.1 hz, zero_div, Rat.cast_zero]
  have he : fDiv (fctxOf fcr) t a b = roundF (fctxOf fcr) t (fneg t A != fneg t B)
      (2 * (mant t A * 2 ^ (bitLen (mant t B) + 27 - bitLen (mant t A)) / mant t B) +
        (if mant t A * 2 ^ (bitLen (mant t B) + 27 - bitLen (mant t A)) % mant t B = 0 then 0 else 1))
      (expo t A - expo t B - (bitLen (mant t B) + 27 - bitLen (mant t A) : Nat) - 1) := by
    subst hA hB
    refine (withNans_none (by simp [isNanF_of_finite ha, isNanF_of_finite hb])).trans ?_
    rw [unpackF_finite ha, unpackF_finite hb]
    dsimp only
    rw [if_neg hn, if_neg hm]
  rw [he]
  refine quotient_rounded ht hn hm ((bitLen_le (mant_lt t A)).trans (by omega)) ?_ h.normalMag
  rw [Rat.cast_div, floatVal_finite ha, floatVal_finite hb]

theorem fSqrt_rounded {a A : Nat} (hA : flushIn (fctxOf fcr) t a = A) (ha : FiniteVal t A) (h : 0 < floatVal t A) :
    RoundedPair t fcr (Real.sqrt (floatVal t A)) (fSqrt (fctxOf fcr) t a) := by
  have hv : (0 : ℝ) < floatVal t A := by exact_mod_cast h
  have hm : mant t A ≠ 0 := mt mant_eq_zero_iff.1 h.ne'
  have hpos : 0 < (mant t A : ℝ) * 2 ^ expo t A := by
    have : (0 : ℝ) < mant t A := by exact_mod_cast Nat.pos_of_ne_zero hm
    positivity
  have hneg : fneg t A = false := by
    rw [floatVal_finite ha, value_fin] at hv
    exact (sgnOf_pos_iff hpos).1 hv
  have hval : (floatVal t A : ℝ) = mant t A * 2 ^ expo t A := by
    rw [floatVal_finite ha, value_fin, hneg, sgnOf, if_neg Bool.false_ne_true, one_mul]
  have hn := sqrt_normalMag ha hpos
  have hlt := mant_lt t A
  have he : fSqrt (fctxOf fcr) t a = if expo t A % 2 = 0 then
      roundF (fctxOf fcr) t false (2 * isqrt (mant t A * 2 ^ 56) 42 0 +
        if isqrt (mant t A * 2 ^ 56) 42 0 * isqrt (mant t A * 2 ^ 56) 42 0 = mant t A * 2 ^ 56 then 0 else 1) ((expo t A - 56) / 2 - 1)
      else roundF (fctxOf fcr) t false (2 * isqrt (2 * mant t A * 2 ^ 56) 42 0 +
        if isqrt (2 * mant t A * 2 ^ 56) 42 0 * isqrt (2 * mant t A * 2 ^ 56) 42 0 = 2 * mant t A * 2 ^ 56 then 0 else 1)
          ((expo t A - 1 - 56) / 2 - 1) := by
    subst hA
    refine (withNans_none (by simp [isNanF_of_finite ha])).trans ?_
    rw [unpackF_finite ha]
    dsimp only
    rw [if_neg hm, hneg, if_neg Bool.false_ne_true]
    split <;> rfl
  rw [he, hval]
  split
  · next hev => exact root_rounded ht hev hm (by omega) hn
  · next hodd =>
    have hscale : (mant t A : ℝ) * 2 ^ expo t A = (2 * mant t A : Nat) * 2 ^ (expo t A - 1) := by
      rw [zpow_sub₀ two_ne_zero, zpow_one]
      push_cast
      ring
    rw [hscale] at hn ⊢
    exact root_rounded ht (by omega) (by omega) (by omega) hn

end

end Sys2Proof.Safety

/-! SUPPORT. NaN operands, the order of two values, and the special operands of FSQRT (R39, R87). -/

namespace Sys2Proof.Machine

/-! ## NaNs (R39) -/

theorem or_one_eq (c : Nat) : c ||| 1 = 2 * (c / 2) + 1 := by
  have hd : (c ||| 1) / 2 = c / 2 := by rw [Nat.or_div_two]; simp
  have hm : (c ||| 1) % 2 = 1 := Nat.or_mod_two_eq_one.2 (.inr rfl)
  omega

theorem or_two_pow_eq (a k : Nat) : a ||| 2 ^ k = 2 ^ k * (2 * (a / 2 ^ k / 2) + 1) + a % 2 ^ k := by
  rw [← Nat.div_add_mod (a ||| 2 ^ k) (2 ^ k), Nat.or_mod_two_pow, Nat.or_div_two_pow, Nat.mod_self, Nat.or_zero,
    Nat.div_self (Nat.two_pow_pos k), or_one_eq]

/-- A NaN made quiet in its own format has its top fraction bit set. -/
theorem quieten_self {t : Ty} (ht : t.isFlt = true) {w : Nat} (hw : w < 2 ^ t.bits) (h : isNanF t w = true) :
    quieten t t w = w ||| 2 ^ (fracBits t - 1) := by
  have hf : ffrac t w ≠ 0 := by simp [isNanF] at h; exact h.2
  have he : fexp t w = 255 := by simp [isNanF] at h; exact h.1
  have hpack := fpack_of_fields ht hw
  rw [he] at hpack
  rw [quieten, if_pos (le_refl _), Nat.sub_self, Nat.pow_zero, Nat.mul_one, if_neg hf, or_two_pow_eq]
  rcases isFlt_iff.1 ht with rfl | rfl <;>
    simp only [fpack, ffrac, fracBits, if_true, if_false, reduceCtorEq, Nat.reduceSub, Nat.reduceAdd, Nat.reducePow] at hpack ⊢ <;>
    omega

/-- The NaN that two operands deliver, one of them a NaN. -/
theorem nanOf_two {c : FCtx} {t : Ty} (ht : t.isFlt = true) {a b : Nat} (ha : a < 2 ^ t.bits) (hb : b < 2 ^ t.bits)
    (h : isNanF t a = true ∨ isNanF t b = true) : nanOf c t [(t, a), (t, b)] = if c.dn then canonNan t
      else if isNanF t a then a ||| 2 ^ (fracBits t - 1) else b ||| 2 ^ (fracBits t - 1) := by
  rw [nanOf]
  congr 1
  cases hn : isNanF t a with
  | true => simp [hn, quieten_self ht ha hn]
  | false =>
    have hn' := h.resolve_left (by simp [hn])
    simp [hn, hn', quieten_self ht hb hn']

/-- NV rises for a signalling NaN. -/
theorem nvOf_two {t : Ty} {a b : Nat} {fl : Fl} (hs : isSnan t a = true ∨ isSnan t b = true → fl = Fl.nv)
    (hq : isSnan t a = false → isSnan t b = false → fl = 0) : nvOf [(t, a), (t, b)] = fl := by
  cases ha : isSnan t a with
  | true => simp [nvOf, ha, hs (.inl ha)]
  | false =>
    cases hb : isSnan t b with
    | true => simp [nvOf, hb, hs (.inr hb)]
    | false => simp [nvOf, ha, hb, hq ha hb]

theorem withNans_two {c : FCtx} {t : Ty} (ht : t.isFlt = true) {a b : Nat} (ha : a < 2 ^ t.bits) (hb : b < 2 ^ t.bits)
    (h : isNanF t a = true ∨ isNanF t b = true) {fl : Fl} (hs : isSnan t a = true ∨ isSnan t b = true → fl = Fl.nv)
    (hq : isSnan t a = false → isSnan t b = false → fl = 0) (f : Nat × Fl) :
    withNans c t [(t, a), (t, b)] 0 f = (if c.dn then canonNan t
      else if isNanF t a then a ||| 2 ^ (fracBits t - 1) else b ||| 2 ^ (fracBits t - 1), fl) := by
  have hany : [(t, a), (t, b)].any (fun o => isNanF o.1 o.2) = true := by
    rcases h with h | h <;> simp [h]
  rw [withNans, if_pos hany, nanOf_two ht ha hb h, nvOf_two hs hq]
  congr 1
  exact BitVec.or_zero

end Sys2Proof.Machine

namespace Sys2Proof.Safety

open Sys2Proof.Machine

section
variable {t : Ty} {fcr : W64}

/-! ## The order of two values (R39) -/

theorem cmpV_fin_inf (a : Bool) (m : Nat) (e : Int) (y : Bool) : cmpV (.fin a m e) (.inf y) = if y then 1 else -1 := rfl

theorem cmpV_inf_fin (x b : Bool) (n : Nat) (f : Int) : cmpV (.inf x) (.fin b n f) = if x then -1 else 1 := rfl

/-- The sign of a comparison is that of the difference. -/
theorem cmpV_scaled {A B : Nat} (ha : isNanF t A = false) (hb : isNanF t B = false) : ∃ p : ℝ, 0 < p ∧
    (floatVal t A : ℝ) - floatVal t B = cmpV (unpackF t A) (unpackF t B) * p := by
  have hinf {w : Nat} (hw : isNanF t w = false) (h : ¬ fexp t w < 255) : unpackF t w = .inf (fneg t w) := by
    have he : fexp t w = 255 := by have := fexp_lt t w; omega
    exact unpackF_inf he (isNanF_eq_false_iff.1 hw he)
  have hbound {w : Nat} (h : fexp t w < 255) : |(floatVal t w : ℝ)| < 2 ^ (128 : ℤ) := by
    rw [floatVal_mant, mul_assoc, abs_mul, abs_sgnOf, one_mul, abs_of_nonneg (by positivity)]
    exact mant_mul_lt h
  have h128 : (0 : ℝ) < 2 ^ (128 : ℤ) := by positivity
  by_cases hA : fexp t A < 255 <;> by_cases hB : fexp t B < 255
  · refine ⟨2 ^ min (expo t A) (expo t B), by positivity, ?_⟩
    rw [floatVal_mant, floatVal_mant, unpackF_finite hA, unpackF_finite hB, ← signedM_scaled _ _ (min_le_left (expo t A) (expo t B)),
      ← signedM_scaled _ _ (min_le_right (expo t A) (expo t B)), ← sub_mul, cmpV, Int.cast_sub]
  · have hlt := abs_lt.1 (hbound hA)
    rw [floatVal_unpackF hb, hinf hb hB, unpackF_finite hA, FV.value, cmpV_fin_inf]
    refine ⟨2 ^ (128 : ℤ) - sgnOf (fneg t B) * floatVal t A, ?_, ?_⟩ <;> cases fneg t B <;>
      simp only [sgnOf, if_true, if_false, Bool.false_eq_true] <;> push_cast <;> linarith
  · have hlt := abs_lt.1 (hbound hB)
    rw [floatVal_unpackF ha, hinf ha hA, unpackF_finite hB, FV.value, cmpV_inf_fin]
    refine ⟨2 ^ (128 : ℤ) - sgnOf (fneg t A) * floatVal t B, ?_, ?_⟩ <;> cases fneg t A <;>
      simp only [sgnOf, if_true, if_false, Bool.false_eq_true] <;> push_cast <;> linarith
  · rw [floatVal_unpackF ha, floatVal_unpackF hb, hinf ha hA, hinf hb hB, FV.value, FV.value, cmpV]
    refine ⟨2 ^ (128 : ℤ), h128, ?_⟩
    rw [← sub_mul]
    cases fneg t A <;> cases fneg t B <;> norm_num [sgnOf]

theorem cmpV_neg_iff {A B : Nat} (ha : isNanF t A = false) (hb : isNanF t B = false) :
    cmpV (unpackF t A) (unpackF t B) < 0 ↔ floatVal t A < floatVal t B := by
  obtain ⟨p, hp, h⟩ := cmpV_scaled ha hb
  rw [← Rat.cast_lt (K := ℝ), ← sub_neg (a := (floatVal t A : ℝ)), h, ← Int.cast_lt_zero (R := ℝ)]
  exact ⟨fun hc => mul_neg_of_neg_of_pos hc hp, fun hc => lt_of_mul_lt_mul_right (by rwa [zero_mul]) hp.le⟩

theorem cmpV_zero_iff {A B : Nat} (ha : isNanF t A = false) (hb : isNanF t B = false) :
    cmpV (unpackF t A) (unpackF t B) = 0 ↔ floatVal t A = floatVal t B := by
  obtain ⟨p, hp, h⟩ := cmpV_scaled ha hb
  rw [← Rat.cast_inj (α := ℝ), ← sub_eq_zero (a := (floatVal t A : ℝ)), h, mul_eq_zero, or_iff_left hp.ne', Int.cast_eq_zero]

/-- Does FMIN take its first operand, −0 below +0? -/
def firstBelow (t : Ty) (A B : Nat) : Bool :=
  let o := cmpV (unpackF t A) (unpackF t B)
  if o = 0 then fneg t A || !fneg t B else decide (o < 0)

theorem fMinMax_numbers {a b A B : Nat} (hA : flushIn (fctxOf fcr) t a = A) (hB : flushIn (fctxOf fcr) t b = B)
    (ha : isNanF t A = false) (hb : isNanF t B = false) (max : Bool) :
    fMinMax (fctxOf fcr) t max a b = (if firstBelow t A B != max then A else B, 0) := by
  subst hA hB
  rw [fMinMax]
  simp only [ha, hb, Bool.or_self, Bool.false_eq_true, if_false]
  rfl

/-- The sign bit of an encoding as a number. -/
theorem sign_eq (ht : t.isFlt = true) {w : Nat} (h : w < 2 ^ t.bits) : w / 2 ^ (t.bits - 1) = if fneg t w then 1 else 0 := by
  rcases isFlt_iff.1 ht with rfl | rfl <;>
    simp only [fneg, fracBits, Ty.bits, beq_iff_eq, if_true, if_false, reduceCtorEq] at h ⊢ <;> split <;> omega

/-- Where the first operand is taken it is no greater; where the values are equal it has the sign bit of a minimum. -/
theorem firstBelow_spec {A B : Nat} (ha : isNanF t A = false) (hb : isNanF t B = false) :
    (firstBelow t A B = true → floatVal t A ≤ floatVal t B ∧ (floatVal t A = floatVal t B → fneg t A = true ∨ fneg t B = false)) ∧
    (firstBelow t A B = false → floatVal t B ≤ floatVal t A ∧ (floatVal t A = floatVal t B → fneg t A = false ∧ fneg t B = true)) := by
  have hz := cmpV_zero_iff ha hb
  have hn := cmpV_neg_iff ha hb
  unfold firstBelow
  dsimp only
  split
  · next h0 =>
    have he := hz.1 h0
    refine ⟨fun h => ⟨he.le, fun _ => by simpa using h⟩, fun h => ⟨he.ge, fun _ => by simpa using h⟩⟩
  · next h0 =>
    have hne := mt hz.2 h0
    refine ⟨fun h => ⟨(hn.1 (of_decide_eq_true h)).le, fun e => absurd e hne⟩, fun h => ⟨?_, fun e => absurd e hne⟩⟩
    exact not_lt.1 (mt hn.2 (of_decide_eq_false h))

/-- One quiet NaN gives the other operand (R39). -/
theorem fMinMax_quiet {a b A B : Nat} (hA : flushIn (fctxOf fcr) t a = A) (hB : flushIn (fctxOf fcr) t b = B)
    (hsa : isSnan t A = false) (hsb : isSnan t B = false) (h : isNanF t A = !isNanF t B) (max : Bool) :
    fMinMax (fctxOf fcr) t max a b = (if isNanF t A then B else A, 0) := by
  subst hA hB
  rw [fMinMax]
  simp only [hsa, hsb, h]
  cases isNanF t (flushIn (fctxOf fcr) t b) <;> simp

theorem isSnan_of_number {w : Nat} (h : isNanF t w = false) : isSnan t w = false := by rw [isSnan, h]; rfl

/-! ## FSQRT of zeros, infinities and negative values (R87) -/

theorem fSqrt_unchanged (ht : t.isFlt = true) {a A : Nat} (hA : flushIn (fctxOf fcr) t a = A)
    (h : floatVal t A = 0 ∨ A = finf t false) : fSqrt (fctxOf fcr) t a = (A, 0) := by
  rcases h with h | h
  · have hm := mant_eq_zero_iff.2 h
    have he : fexp t A < 255 := by
      by_contra hc
      have := Nat.two_pow_pos (fracBits t)
      rw [mant, if_neg (by omega)] at hm
      omega
    subst hA
    refine (withNans_none (by simp [isNanF_of_finite (finiteVal_iff.2 he)])).trans ?_
    rw [unpackF_finite he]
    dsimp only
    rw [if_pos hm]
  · obtain ⟨hneg, he, hf, -⟩ := fpack_fields ht false (e := 255) (r := 0) (by decide) (Nat.two_pow_pos _)
    rw [show fpack t false 255 0 = A from h.symm] at hneg he hf
    subst hA
    refine (withNans_none (by simp [isNanF_eq_false_iff.2 fun _ => hf])).trans ?_
    rw [unpackF_inf he hf, hneg]
    rfl

theorem fSqrt_negative {a A : Nat} (hA : flushIn (fctxOf fcr) t a = A) (hn : isNanF t A = false) (h : floatVal t A < 0) :
    fSqrt (fctxOf fcr) t a = (canonNan t, Fl.nv) := by
  have hneg : fneg t A = true := by
    by_contra hc
    have : (floatVal t A : ℝ) < 0 := by exact_mod_cast h
    rw [floatVal_mant, eq_false_of_ne_true hc, sgnOf, if_neg Bool.false_ne_true, one_mul] at this
    exact absurd this (not_lt.2 (by positivity))
  have hm : mant t A ≠ 0 := mt mant_eq_zero_iff.1 h.ne
  subst hA
  refine (withNans_none (by simp [hn])).trans ?_
  by_cases he : fexp t (flushIn (fctxOf fcr) t a) < 255
  · rw [unpackF_finite he]
    dsimp only
    rw [if_neg hm, if_pos hneg]
  · have he' : fexp t (flushIn (fctxOf fcr) t a) = 255 := by have := fexp_lt t (flushIn (fctxOf fcr) t a); omega
    rw [unpackF_inf he' (isNanF_eq_false_iff.1 hn he')]
    exact if_pos hneg

end

end Sys2Proof.Safety

/-! O5. The scalar float instructions (R36-R40, R86, R87, R89). -/

namespace Sys2Proof.Safety

open Sys2Proof.Machine

/-- A register and flags written, then the retirement. -/
theorem raise_setX_retire_writes (w : State) (d : Reg) (v : W64) (fl : Fl) (n : Nat) :
    WritesXF w d v fl n ((w.modMe (fun c => (c.raise fl).setX d v)).retire n) := by
  have hpc : ((w.me.raise fl).setX d v).pc = w.me.pc := by unfold Strand.setX; split <;> rfl
  have hpend : ((w.me.raise fl).setX d v).pend = w.me.pend := by unfold Strand.setX; split <;> rfl
  have hf : ((w.me.raise fl).setX d v).fstat = w.me.fstat ||| fl.setWidth 64 := by unfold Strand.setX; split <;> rfl
  have he : (w.me.raise fl).setX d v =
      { w.me with x := ((w.me.raise fl).setX d v).x, fstat := ((w.me.raise fl).setX d v).fstat } := by
    unfold Strand.setX; split <;> rfl
  refine ⟨fun r => Strand.getX_setX (w.me.raise fl) d v r, hf, ?_⟩
  have h := retiresAs_modMe (s := w) (fun c => (c.raise fl).setX d v) n hpc hpend
  rw [he] at h
  exact h

/-- The end of every float instruction: FPE where a flag is enabled, else the result and the flags (R35, R38). -/
theorem putF_floatX {i : Instr} {s : State} {d : Reg} {r : Nat × Fl} {n : Nat}
    (hi : Machine.exec i s = putF s d (BitVec.ofNat 64 r.1) r.2 n) : FloatX i s d r n := by
  have hwrite : ((s.modMe (·.raise r.2)).setX d (BitVec.ofNat 64 r.1)).retire n =
      (s.modMe (fun c => (c.raise r.2).setX d (BitVec.ofNat 64 r.1))).retire n := rfl
  refine ⟨fun h => ⟨_, hi.trans ((if_neg (by rw [h]; decide)).trans (congrArg _ hwrite)), raise_setX_retire_writes s d _ _ n⟩,
    fun h hu => ?_⟩
  exact traps_of_exec (t := .fpe r.2) (hi.trans (if_pos h)) hu rfl (by decide : Cause.fpe < 256)

section
variable {t : Ty} {d a c : Reg} {b : SrcB} {s : State} {r : Nat × Fl}

theorem fadd_floatX (h : fAdd (fctxOf s.me.fcr) t (low t (s.x a)) (low t (bval s b)) = r) : FloatX (.fadd t d a b) s d r (blen 4 b) :=
  h ▸ putF_floatX rfl
theorem fsub_floatX (h : fSub (fctxOf s.me.fcr) t (low t (s.x a)) (low t (bval s b)) = r) : FloatX (.fsub t d a b) s d r (blen 4 b) :=
  h ▸ putF_floatX rfl
theorem fmul_floatX (h : fMul (fctxOf s.me.fcr) t (low t (s.x a)) (low t (bval s b)) = r) : FloatX (.fmul t d a b) s d r (blen 4 b) :=
  h ▸ putF_floatX rfl
theorem fdiv_floatX (h : fDiv (fctxOf s.me.fcr) t (low t (s.x a)) (low t (bval s b)) = r) : FloatX (.fdiv t d a b) s d r (blen 4 b) :=
  h ▸ putF_floatX rfl
theorem fmin_floatX (h : fMinMax (fctxOf s.me.fcr) t false (low t (s.x a)) (low t (bval s b)) = r) :
    FloatX (.fmin t d a b) s d r (blen 4 b) := h ▸ putF_floatX rfl
theorem fmax_floatX (h : fMinMax (fctxOf s.me.fcr) t true (low t (s.x a)) (low t (bval s b)) = r) :
    FloatX (.fmax t d a b) s d r (blen 4 b) := h ▸ putF_floatX rfl
theorem fsqrt_floatX (h : fSqrt (fctxOf s.me.fcr) t (low t (s.x a)) = r) : FloatX (.fsqrt t d a) s d r 4 := h ▸ putF_floatX rfl
theorem fma_floatX (h : fMa (fctxOf s.me.fcr) t (low t (s.x a)) (low t (s.x c)) (low t (bval s b)) = r) :
    FloatX (.fma t d a c b) s d r (blen 12 b) := h ▸ putF_floatX rfl

end

/-- A result that is an exact value rounded once. -/
theorem RoundedPair.roundsTo {i : Instr} {s : State} {t : Ty} {d : Reg} {x : ℝ} {r : Nat × Fl} {n : Nat}
    (h : RoundedPair t s.me.fcr x r) (hi : FloatX i s d r n) : RoundsTo i s t d x n := ⟨r.1, r.2, h, hi⟩

/-- Without FZ an operand is taken as it is (R40). -/
theorem flushIn_off {fcr : W64} (h : fcr.getLsbD 2 = false) (t : Ty) (w : Nat) : flushIn (fctxOf fcr) t w = w :=
  if_neg fun hc => by
    rw [show (fctxOf fcr).fz = false from h] at hc
    exact Bool.noConfusion hc

/-- The sign bits of the two operands where the first is taken as the least. -/
theorem sign_max {p q : Bool} (h : p = true ∨ q = false) :
    (if p then 1 else 0) = max (if p then 1 else 0) (if q then 1 else 0) ∧
      (if q then 1 else 0) = min (if p then 1 else 0) (if q then 1 else 0) := by
  revert h
  cases p <;> cases q <;> decide

section
variable {t : Ty} {d a : Reg} {b : SrcB} {s : State}

/-- FMIN of two operands that are no NaN. -/
theorem fmin_numbers (ht : t.isFlt = true) {A B : Nat} (hA : flushIn (fctxOf s.me.fcr) t (low t (s.x a)) = A)
    (hB : flushIn (fctxOf s.me.fcr) t (low t (bval s b)) = B) (hA' : A < 2 ^ t.bits) (hB' : B < 2 ^ t.bits)
    (ha : isNanF t A = false) (hb : isNanF t B = false) :
    ∃ r, (r = A ∨ r = B) ∧ floatVal t r ≤ floatVal t A ∧ floatVal t r ≤ floatVal t B ∧
      (floatVal t A = floatVal t B → r / 2 ^ (t.bits - 1) = max (A / 2 ^ (t.bits - 1)) (B / 2 ^ (t.bits - 1))) ∧
      FloatX (.fmin t d a b) s d (r, 0) (blen 4 b) := by
  obtain ⟨hfirst, hsecond⟩ := firstBelow_spec ha hb
  have hr := fMinMax_numbers hA hB ha hb false
  rw [sign_eq ht hA', sign_eq ht hB']
  cases hf : firstBelow t A B with
  | true =>
    obtain ⟨hle, hs⟩ := hfirst hf
    rw [hf] at hr
    refine ⟨A, .inl rfl, le_refl _, hle, fun e => ?_, fmin_floatX hr⟩
    rw [sign_eq ht hA']
    exact (sign_max (hs e)).1
  | false =>
    obtain ⟨hle, hs⟩ := hsecond hf
    rw [hf] at hr
    refine ⟨B, .inr rfl, hle, le_refl _, fun e => ?_, fmin_floatX hr⟩
    rw [sign_eq ht hB', (hs e).1, (hs e).2]
    rfl

/-- FMAX of two operands that are no NaN. -/
theorem fmax_numbers (ht : t.isFlt = true) {A B : Nat} (hA : flushIn (fctxOf s.me.fcr) t (low t (s.x a)) = A)
    (hB : flushIn (fctxOf s.me.fcr) t (low t (bval s b)) = B) (hA' : A < 2 ^ t.bits) (hB' : B < 2 ^ t.bits)
    (ha : isNanF t A = false) (hb : isNanF t B = false) :
    ∃ r, (r = A ∨ r = B) ∧ floatVal t A ≤ floatVal t r ∧ floatVal t B ≤ floatVal t r ∧
      (floatVal t A = floatVal t B → r / 2 ^ (t.bits - 1) = min (A / 2 ^ (t.bits - 1)) (B / 2 ^ (t.bits - 1))) ∧
      FloatX (.fmax t d a b) s d (r, 0) (blen 4 b) := by
  obtain ⟨hfirst, hsecond⟩ := firstBelow_spec ha hb
  have hr := fMinMax_numbers hA hB ha hb true
  rw [sign_eq ht hA', sign_eq ht hB']
  cases hf : firstBelow t A B with
  | true =>
    obtain ⟨hle, hs⟩ := hfirst hf
    rw [hf] at hr
    refine ⟨B, .inr rfl, hle, le_refl _, fun e => ?_, fmax_floatX hr⟩
    rw [sign_eq ht hB']
    exact (sign_max (hs e)).2
  | false =>
    obtain ⟨hle, hs⟩ := hsecond hf
    rw [hf] at hr
    refine ⟨A, .inl rfl, le_refl _, hle, fun e => ?_, fmax_floatX hr⟩
    rw [sign_eq ht hA', (hs e).1, (hs e).2]
    rfl

end

/-- Settles O5: each instruction by the operation it ends in, whose result is the exact value rounded once, or the NaN, minimum,
maximum or special root that R39 and R87 name. -/
theorem floatArithmetic : Obligations.FloatArithmetic := by
  unfold Obligations.FloatArithmetic
  refine ⟨fun t d a c b s => ?_, fun t d a b s ht hz => ?_, fun t d a c b s ht => ?_⟩
  · intro C A B
    exact ⟨fadd_floatX rfl, fsub_floatX rfl, fmul_floatX rfl, fdiv_floatX rfl, fmin_floatX rfl, fmax_floatX rfl, fsqrt_floatX rfl,
      fma_floatX rfl⟩
  · intro A B q res fl hnan hs hq
    have hA : flushIn (fctxOf s.me.fcr) t A = A := flushIn_off hz t A
    have hB : flushIn (fctxOf s.me.fcr) t B = B := flushIn_off hz t B
    have hres (f : Nat × Fl) : withNans (fctxOf s.me.fcr) t [(t, A), (t, B)] 0 f = (res, fl) :=
      withNans_two ht (low_lt t _) (low_lt t _) hnan hs hq f
    refine ⟨fadd_floatX ?_, fsub_floatX ?_, fmul_floatX ?_, fdiv_floatX ?_⟩
    · rw [fAdd, hA, hB]; exact hres _
    · rw [fSub, hA, hB]; exact hres _
    · rw [fMul, hA, hB]; exact hres _
    · rw [fDiv, hA, hB]; exact hres _
  · intro A B C sgn v
    have hA : flushIn (fctxOf s.me.fcr) t (low t (s.x a)) = A := flushIn_eq ht s.me.fcr (low_lt t _)
    have hB : flushIn (fctxOf s.me.fcr) t (low t (bval s b)) = B := flushIn_eq ht s.me.fcr (low_lt t _)
    have hC : flushIn (fctxOf s.me.fcr) t (low t (s.x c)) = C := flushIn_eq ht s.me.fcr (low_lt t _)
    have hA' : A < 2 ^ t.bits := flushed_lt s.me.fcr (low_lt t _)
    have hB' : B < 2 ^ t.bits := flushed_lt s.me.fcr (low_lt t _)
    have quiet (hsa : isSnan t A = false) (hsb : isSnan t B = false) (h : isNanF t A = !isNanF t B) (m : Bool) :=
      fMinMax_quiet hA hB hsa hsb h m
    refine ⟨fun ha hb => ⟨fun h => ?_, fun h => ?_, fun h => ?_, fun h0 h => ?_, fun hc h => ?_⟩, fun ha hb => ⟨?_, ?_⟩,
      fun ha hsa hb => ?_, fun ha hb hsb => ?_, fun ha h => ?_, fun h => ?_, fun hn h => ?_⟩
    · exact (fAdd_rounded ht hA hB ha hb h).roundsTo (fadd_floatX rfl)
    · exact (fSub_rounded ht hA hB ha hb h).roundsTo (fsub_floatX rfl)
    · exact (fMul_rounded ht hA hB ha hb h).roundsTo (fmul_floatX rfl)
    · exact (fDiv_rounded ht hA hB ha hb h0 h).roundsTo (fdiv_floatX rfl)
    · exact (fMa_rounded ht hA hC hB ha hc hb h).roundsTo (fma_floatX rfl)
    · exact fmin_numbers ht hA hB hA' hB' ha hb
    · exact fmax_numbers ht hA hB hA' hB' ha hb
    · have hr := quiet hsa (isSnan_of_number hb) (by rw [ha, hb]; rfl)
      rw [if_pos ha] at hr
      exact ⟨fmin_floatX (hr false), fmax_floatX (hr true)⟩
    · have hr := quiet (isSnan_of_number ha) hsb (by rw [ha, hb]; rfl)
      rw [ha, if_neg Bool.false_ne_true] at hr
      exact ⟨fmin_floatX (hr false), fmax_floatX (hr true)⟩
    · exact (fSqrt_rounded ht hA ha h).roundsTo (fsqrt_floatX rfl)
    · exact fsqrt_floatX (fSqrt_unchanged ht hA h)
    · exact fsqrt_floatX (fSqrt_negative hA hn h)

end Sys2Proof.Safety

/-! SUPPORT. Accumulator cells and banks after the writes of the matrix array (R161-R165, R168, R338). -/

namespace Sys2Proof.Machine

/-! ## Tables -/

theorem AMap.get_filter {κ ν : Type} [DecidableEq κ] (p : κ → Bool) (m : AMap κ ν) (k : κ) :
    AMap.get (m.filter (fun e => p e.1)) k = if p k then AMap.get m k else none := by
  induction m with
  | nil => simp [AMap.get]
  | cons e m ih =>
    obtain ⟨a, b⟩ := e
    by_cases hk : a = k
    · subst hk
      cases hp : p a with
      | true => rw [List.filter_cons_of_pos (by exact hp), AMap.get, if_pos rfl, if_pos rfl, AMap.get, if_pos rfl]
      | false => rw [List.filter_cons_of_neg (by rw [hp]; decide), ih, hp, if_neg Bool.false_ne_true, if_neg Bool.false_ne_true]
    · have hget : AMap.get ((a, b) :: m) k = AMap.get m k := if_neg hk
      rw [hget, ← ih]
      cases hp : p a with
      | true => rw [List.filter_cons_of_pos (by exact hp), AMap.get, if_neg hk]
      | false => rw [List.filter_cons_of_neg (by rw [hp]; decide)]

theorem AMap.mem_of_get {κ ν : Type} [DecidableEq κ] {m : AMap κ ν} {k : κ} {v : ν} (h : AMap.get m k = some v) : (k, v) ∈ m := by
  induction m with
  | nil => cases h
  | cons e m ih =>
    obtain ⟨a, b⟩ := e
    rw [AMap.get] at h
    split at h
    · next hk => cases h; rw [hk]; exact List.mem_cons_self
    · exact List.mem_cons_of_mem _ (ih h)

theorem AMap.mem_put {κ ν : Type} [DecidableEq κ] {m : AMap κ ν} {k : κ} {v : ν} {e : κ × ν} (h : e ∈ AMap.put m k v) :
    e = (k, v) ∨ e ∈ m := by
  induction m with
  | nil => exact .inl (List.mem_singleton.1 h)
  | cons d m ih =>
    obtain ⟨a, b⟩ := d
    rw [AMap.put] at h
    split at h
    · next hk =>
      rcases List.mem_cons.1 h with h | h
      · exact .inl (by rw [h, hk])
      · exact .inr (List.mem_cons_of_mem _ h)
    · rcases List.mem_cons.1 h with h | h
      · exact .inr (h ▸ List.mem_cons_self)
      · exact (ih h).imp_right (List.mem_cons_of_mem _)

/-- A table whose values are changed in place. -/
theorem AMap.get_mapValues {κ ν : Type} [DecidableEq κ] (f : ν → ν) (m : AMap κ ν) (k : κ) :
    AMap.get (m.map (fun e => (e.1, f e.2))) k = (AMap.get m k).map f := by
  induction m with
  | nil => rfl
  | cons e m ih =>
    obtain ⟨a, b⟩ := e
    rw [List.map_cons, AMap.get, AMap.get, ih]
    split <;> rfl

/-! ## Cells (R12, R164) -/

/-- Cells of a bank have keys of their own. -/
theorem cellKey_inj {x b i j : Nat} (hi : i < 512) (hj : j < 512) : x * 512 + j = b * 512 + i ↔ x = b ∧ j = i := by omega

theorem cell_setCell (c : Core) (b : Nat) {i : Nat} (v : W32) (x : Nat) {j : Nat} (hi : i < 512) (hj : j < 512) :
    (c.setCell b i v).cell x j = if x = b ∧ j = i then v else c.cell x j := by
  have hk : b * 512 + i = x * 512 + j ↔ x = b ∧ j = i := eq_comm.trans (cellKey_inj hi hj)
  rw [Core.cell, Core.setCell]
  dsimp only
  split
  · next h => rw [AMap.get_drop, if_congr hk rfl rfl]; split <;> simp [Core.cell, h]
  · rw [AMap.get_put, if_congr hk rfl rfl]; split <;> rfl

/-- A core with other cells. -/
def Core.CellsOnly (c u : Core) : Prop := u = { c with cells := u.cells, cellPoison := u.cellPoison }

theorem Core.CellsOnly.refl (c : Core) : c.CellsOnly c := rfl

theorem Core.CellsOnly.setCell {c u : Core} (h : c.CellsOnly u) (b i : Nat) (v : W32) : c.CellsOnly (u.setCell b i v) := by
  unfold Core.CellsOnly at h ⊢
  rw [h]
  rfl

theorem Core.CellsOnly.poison {c u : Core} (h : c.CellsOnly u) (l : List Nat) : c.CellsOnly { u with cellPoison := l } := by
  unfold Core.CellsOnly at h ⊢
  rw [h]

theorem cell_zeroBanks (c : Core) (b n x : Nat) {i : Nat} (hi : i < 512) :
    (c.zeroBanks b n).cell x i = if b ≤ x ∧ x < b + n then 0 else c.cell x i := by
  have hout : (!(decide (b * 512 ≤ x * 512 + i) && decide (x * 512 + i < (b + n) * 512))) = !decide (b ≤ x ∧ x < b + n) := by
    rw [← Bool.decide_and]
    congr 2
    simp only [eq_iff_iff]
    omega
  rw [Core.cell, Core.zeroBanks]
  dsimp only
  rw [AMap.get_filter (fun k => !(decide (b * 512 ≤ k) && decide (k < (b + n) * 512))), hout]
  by_cases h : b ≤ x ∧ x < b + n <;> simp [h, Core.cell]

/-- Cells written in a row of one bank. -/
theorem cell_setCells (b k : Nat) (v : Nat → W32) (c : Core) : ∀ n, k + n ≤ 512 → ∀ x j, j < 512 →
    ((List.range n).foldl (fun c i => c.setCell b (k + i) (v i)) c).cell x j =
      if x = b ∧ k ≤ j ∧ j < k + n then v (j - k) else c.cell x j
  | 0, _, x, j, _ => by rw [if_neg (by omega)]; rfl
  | n + 1, h, x, j, hj => by
    rw [List.range_succ, List.foldl_append, List.foldl_cons, List.foldl_nil, cell_setCell _ _ _ _ (by omega) hj,
      cell_setCells b k v c n (by omega) x j hj]
    by_cases hx : x = b ∧ j = k + n
    · rw [if_pos hx, if_pos (by omega), hx.2, Nat.add_sub_cancel_left]
    · rw [if_neg hx]
      congr 1
      simp only [eq_iff_iff]
      omega

/-! ## Banks (R161, R162) -/

theorem bankState_eq (c : Core) {x : Nat} (h : x < 128) : c.bankState x = c.banks.get ⟨x, h⟩ := by
  simp [Core.bankState, nth, h, Vector.get]

theorem bankState_setBanks (c : Core) (b n : Nat) (st : BankState) {x : Nat} (h : x < 128) :
    (c.setBanks b n st).bankState x = if b ≤ x ∧ x < b + n then st else c.bankState x := by
  rw [bankState_eq _ h, bankState_eq _ h, Core.setBanks]
  simp

theorem cell_setBanks (c : Core) (b n : Nat) (st : BankState) (x i : Nat) : (c.setBanks b n st).cell x i = c.cell x i := by
  have hcells : (c.setBanks b n st).cells = c.cells := by rw [Core.setBanks]
  rw [Core.cell, hcells, Core.cell]

/-- The banks that their strand has given up are cleared, one after the other (R162). -/
def Core.clearLeft (i : Sid) (b : Nat) (c : Core) (n : Nat) : Core :=
  (List.range n).foldl (fun c k => if c.bankState (b + k) = .leaving i then c.setBanks (b + k) 1 .clearing else c) c

/-- A core with other bank states. -/
def Core.BanksOnly (c u : Core) : Prop := u = { c with banks := u.banks }

theorem clearLeft_spec (i : Sid) (b : Nat) (c : Core) : ∀ n, c.BanksOnly (c.clearLeft i b n) ∧ ∀ x, x < 128 →
    (c.clearLeft i b n).bankState x = if b ≤ x ∧ x < b + n ∧ c.bankState x = .leaving i then .clearing else c.bankState x
  | 0 => ⟨rfl, fun x _ => by rw [if_neg (by omega)]; rfl⟩
  | n + 1 => by
    obtain ⟨hc, hst⟩ := clearLeft_spec i b c n
    have hstep : c.clearLeft i b (n + 1) = if (c.clearLeft i b n).bankState (b + n) = .leaving i
        then (c.clearLeft i b n).setBanks (b + n) 1 .clearing else c.clearLeft i b n := by
      rw [Core.clearLeft, List.range_succ, List.foldl_append]; rfl
    rw [hstep]
    have hbn : b + n < 128 → (c.clearLeft i b n).bankState (b + n) = c.bankState (b + n) := fun h => by
      rw [hst _ h, if_neg (by omega)]
    split
    · next hl =>
      refine ⟨?_, fun x hx => ?_⟩
      · unfold Core.BanksOnly at hc ⊢
        rw [hc]; rfl
      · rw [bankState_setBanks _ _ _ _ hx, hst x hx]
        by_cases hxn : x = b + n
        · subst hxn
          rw [hbn hx] at hl
          rw [if_pos (by omega), if_pos ⟨by omega, by omega, hl⟩]
        · rw [if_neg (by omega)]
          congr 1
          simp only [eq_iff_iff]
          constructor <;> rintro ⟨h1, h2, h3⟩ <;> exact ⟨h1, by omega, h3⟩
    · next hl =>
      refine ⟨hc, fun x hx => ?_⟩
      rw [hst x hx]
      congr 1
      simp only [eq_iff_iff]
      constructor
      · rintro ⟨h1, h2, h3⟩
        exact ⟨h1, by omega, h3⟩
      · rintro ⟨h1, h2, h3⟩
        refine ⟨h1, ?_, h3⟩
        by_contra hn
        obtain rfl : x = b + n := by omega
        exact hl ((hbn hx).trans h3)

end Sys2Proof.Machine

/-! SUPPORT. The queues of the matrix array: one instruction found and changed in place, and the entry of a row of activations
(R168, R339, R342). -/

namespace Sys2Proof.Machine

/-! ## A row enters the cells (R42, R43, R168) -/

/-- One cell takes its part of a row. -/
def Core.enterCell (x : MatrixCtx) (t : Tile) (acts : List Nat) (bad : Bool) (b k : Nat) (c : Core) (j : Nat) : Core :=
  let u := c.setCell b (k + j) (BitVec.ofNat 32 (chainCell x t acts j (c.cell b (k + j)).toNat))
  if bad || c.cellPoison.contains (b * 512 + (k + j)) then { u with cellPoison := u.cellPoison ++ [b * 512 + (k + j)] } else u

section
variable (x : MatrixCtx) (t : Tile) (acts : List Nat) (bad : Bool) (b k : Nat)

theorem enterRow_eq {x : MatrixCtx} {t : Tile} (h : x.tile = some t) (c : Core) (bank r : Nat) (poison : Bool) :
    c.enterRow x bank r acts poison =
      (List.range 32).foldl (Core.enterCell x t acts (poison || t.poison) (bank + r / 16) (r % 16 * 32)) c := by
  rw [Core.enterRow, h]
  rfl

theorem enterCell_cellsOnly {c u : Core} (h : c.CellsOnly u) (j : Nat) : c.CellsOnly (u.enterCell x t acts bad b k j) := by
  rw [Core.enterCell]
  split
  · exact (h.setCell ..).poison _
  · exact h.setCell ..

theorem cell_enterCell (c : Core) (j y : Nat) {i : Nat} (hj : k + j < 512) (hi : i < 512) :
    (c.enterCell x t acts bad b k j).cell y i = if y = b ∧ i = k + j
      then BitVec.ofNat 32 (chainCell x t acts j (c.cell b (k + j)).toNat) else c.cell y i := by
  rw [← cell_setCell c b _ y hj hi, Core.enterCell]
  split <;> rfl

theorem poison_enterCell_self (c : Core) (j : Nat) (hbad : bad = true) :
    b * 512 + (k + j) ∈ (c.enterCell x t acts bad b k j).cellPoison := by
  rw [Core.enterCell, if_pos (by rw [hbad]; rfl)]
  exact List.mem_append_right _ (List.mem_singleton.2 rfl)

theorem poison_enterCell_of_ne (c : Core) (j : Nat) {m : Nat} (hm : m ≠ b * 512 + (k + j)) (h : m ∈ c.cellPoison) :
    m ∈ (c.enterCell x t acts bad b k j).cellPoison := by
  have hs : m ∈ (c.setCell b (k + j) (BitVec.ofNat 32 (chainCell x t acts j (c.cell b (k + j)).toNat))).cellPoison :=
    List.mem_filter.2 ⟨h, by simpa using hm⟩
  rw [Core.enterCell]
  split
  · exact List.mem_append_left _ hs
  · exact hs

/-- The first `n` cells of a row have taken their part: each by its chain, the others as they were. -/
structure Core.Entered (c u : Core) (n : Nat) : Prop where
  only : c.CellsOnly u
  new : ∀ j, j < n → u.cell b (k + j) = BitVec.ofNat 32 (chainCell x t acts j (c.cell b (k + j)).toNat)
  old : ∀ y i, i < 512 → (y ≠ b ∨ i < k ∨ k + n ≤ i) → u.cell y i = c.cell y i
  poison : bad = true → ∀ j, j < n → b * 512 + (k + j) ∈ u.cellPoison

theorem entered_enterCells (c : Core) : ∀ n, k + n ≤ 512 →
    Core.Entered x t acts bad b k c ((List.range n).foldl (Core.enterCell x t acts bad b k) c) n
  | 0, _ => ⟨.refl c, fun _ h => absurd h (Nat.not_lt_zero _), fun _ _ _ _ => rfl, fun _ _ h => absurd h (Nat.not_lt_zero _)⟩
  | n + 1, hn => by
    have ih := entered_enterCells c n (by omega)
    rw [List.range_succ, List.foldl_append, List.foldl_cons, List.foldl_nil]
    refine ⟨enterCell_cellsOnly x t acts bad b k ih.only n, fun j hj => ?_, fun y i hi h => ?_, fun hbad j hj => ?_⟩
    · rw [cell_enterCell _ _ _ _ _ _ _ _ _ (by omega) (by omega)]
      by_cases hjn : j = n
      · rw [if_pos ⟨rfl, by omega⟩, hjn, ih.old b (k + n) (by omega) (by omega)]
      · rw [if_neg (by omega), ih.new j (by omega)]
    · rw [cell_enterCell _ _ _ _ _ _ _ _ _ (by omega) hi, if_neg (by omega)]
      exact ih.old y i hi (by omega)
    · by_cases hjn : j = n
      · rw [hjn]
        exact poison_enterCell_self x t acts bad b k _ n hbad
      · exact poison_enterCell_of_ne x t acts bad b k _ n (by omega) (ih.poison hbad j (by omega))

end

/-! ## An instruction in the queues (R175, R342) -/

/-- An instruction changed in a core's queues. -/
def Core.modMatrix (c : Core) (ref : Nat) (f : MatOp → MatOp) : Core :=
  { c with mq0 := c.mq0.map (fun o => if o.ref == ref then f o else o),
           mq1 := c.mq1.map (fun o => if o.ref == ref then f o else o) }

theorem map_ref_of_ne {l : List MatOp} {ref : Nat} (f : MatOp → MatOp) (h : ∀ p ∈ l, p.ref ≠ ref) :
    l.map (fun o => if o.ref == ref then f o else o) = l :=
  (List.map_congr_left fun p hp => if_neg (by simpa using h p hp)).trans (List.map_id' l)

theorem Core.modMatrix_of_ne {c : Core} {ref : Nat} (f : MatOp → MatOp) (h : ∀ p ∈ c.mq0 ++ c.mq1, p.ref ≠ ref) :
    c.modMatrix ref f = c := by
  rw [Core.modMatrix, map_ref_of_ne f fun p hp => h p (List.mem_append_left _ hp),
    map_ref_of_ne f fun p hp => h p (List.mem_append_right _ hp)]

theorem modMatrix_eq (s : State) (ref : Nat) (f : MatOp → MatOp) :
    s.modMatrix ref f = { s with cores := s.cores.map (fun e => (e.1, e.2.modMatrix ref f)) } := by
  have hmap : s.cores.map (fun e => (e.1, e.2.modMatrix ref f)) =
      s.cores.map (fun c => if (c.2.matrix? ref).isSome then (c.1, c.2.modMatrix ref f) else c) := by
    refine List.map_congr_left fun e _ => ?_
    split
    · rfl
    · next h =>
      rw [Option.not_isSome_iff_eq_none, Core.matrix?, List.find?_eq_none] at h
      rw [Core.modMatrix_of_ne f fun p hp => by simpa using h p hp]
  rw [hmap]
  rfl

theorem core_modMatrix (s : State) (ref : Nat) (f : MatOp → MatOp) (h : Nat) :
    (s.modMatrix ref f).core h = (s.core h).modMatrix ref f := by
  rw [modMatrix_eq, State.core, State.core]
  dsimp only
  rw [AMap.get_mapValues (fun c => Core.modMatrix c ref f)]
  cases AMap.get s.cores h with
  | none => rfl
  | some c => rfl

/-- An instruction is in the queues of one core, and no other has its reference. -/
structure Alone (s : State) (g : Nat) (o : MatOp) : Prop where
  has : o ∈ (s.core g).mq0 ++ (s.core g).mq1
  only : ∀ e ∈ s.cores, ∀ p ∈ e.2.mq0 ++ e.2.mq1, p.ref = o.ref → e.1 = g ∧ p = o

/-- A core that is not in the table has empty queues. -/
theorem entry_of_mem_queues {s : State} {g : Nat} {o : MatOp} (h : o ∈ (s.core g).mq0 ++ (s.core g).mq1) :
    (g, s.core g) ∈ s.cores := by
  cases hg : AMap.get s.cores g with
  | none =>
    rw [State.core, hg] at h
    cases h
  | some c =>
    rw [State.core, hg]
    exact AMap.mem_of_get hg

theorem Alone.of_core {s : State} {g : Nat} {o : MatOp} (h : Alone s g o) {x : Nat} {p : MatOp}
    (hp : p ∈ (s.core x).mq0 ++ (s.core x).mq1) (hr : p.ref = o.ref) : x = g ∧ p = o :=
  h.only _ (entry_of_mem_queues hp) p hp hr

theorem Alone.of_cores {s t : State} {g : Nat} {o : MatOp} (h : Alone s g o) (ht : t.cores = s.cores) : Alone t g o := by
  obtain ⟨has, only⟩ := h
  rw [State.core, ← ht] at has
  exact ⟨has, ht ▸ only⟩

theorem Alone.matrix? {s : State} {g : Nat} {o : MatOp} (h : Alone s g o) : s.matrix? o.ref = some o := by
  cases hs : s.matrix? o.ref with
  | none =>
    rw [State.matrix?, List.findSome?_eq_none_iff] at hs
    have hnone := hs _ (entry_of_mem_queues h.has)
    rw [Core.matrix?, List.find?_eq_none] at hnone
    exact absurd (beq_self_eq_true o.ref) (hnone o h.has)
  | some p =>
    obtain ⟨e, he, hp⟩ := List.exists_of_findSome?_eq_some hs
    rw [(h.only e he p (List.mem_of_find?_eq_some hp) (by simpa using List.find?_some hp)).2]

/-- The other cores do not have the instruction. -/
theorem Alone.core_modMatrix_of_ne {s : State} {g : Nat} {o : MatOp} (h : Alone s g o) (f : MatOp → MatOp) {x : Nat} (hx : x ≠ g) :
    (s.modMatrix o.ref f).core x = s.core x := by
  rw [core_modMatrix, Core.modMatrix_of_ne f fun p hp hr => hx (h.of_core hp hr).1]

theorem mem_modMatrix {c : Core} {ref : Nat} {f : MatOp → MatOp} {p : MatOp}
    (h : p ∈ (c.modMatrix ref f).mq0 ++ (c.modMatrix ref f).mq1) :
    ∃ q ∈ c.mq0 ++ c.mq1, p = if q.ref == ref then f q else q := by
  rw [Core.modMatrix] at h
  dsimp only at h
  rw [← List.map_append] at h
  obtain ⟨q, hq, rfl⟩ := List.mem_map.1 h
  exact ⟨q, hq, rfl⟩

theorem Alone.modMatrix {s : State} {g : Nat} {o : MatOp} (h : Alone s g o) {f : MatOp → MatOp} (hf : (f o).ref = o.ref) :
    Alone (s.modMatrix o.ref f) g (f o) where
  has := by
    rw [core_modMatrix, Core.modMatrix]
    dsimp only
    rw [← List.map_append]
    exact List.mem_map.2 ⟨o, h.has, if_pos (beq_self_eq_true _)⟩
  only e he p hp hr := by
    rw [modMatrix_eq] at he
    obtain ⟨d, hd, rfl⟩ := List.mem_map.1 he
    obtain ⟨q, hq, rfl⟩ := mem_modMatrix hp
    split at hr
    · next hqr =>
      obtain ⟨hd1, rfl⟩ := h.only d hd q hq (by simpa using hqr)
      exact ⟨hd1, if_pos hqr⟩
    · next hqr => exact absurd (hr.trans hf) (by simpa using hqr)

/-- A change of the core that leaves its queues as they are. -/
theorem Alone.modCore {s : State} {g : Nat} {o : MatOp} (h : Alone s g o) {f : Core → Core}
    (h0 : (f (s.core g)).mq0 = (s.core g).mq0) (h1 : (f (s.core g)).mq1 = (s.core g).mq1) : Alone (s.modCore g f) g o where
  has := by
    rw [State.core_modCore, if_pos rfl, h0, h1]
    exact h.has
  only e he p hp hr := by
    rcases AMap.mem_put he with rfl | he
    · rw [h0, h1] at hp
      exact ⟨rfl, (h.of_core hp hr).2⟩
    · exact h.only e he p hp hr

/-- The instruction leaves the queues. -/
theorem dropMatrix_left (s : State) (g ref : Nat) :
    (∀ p ∈ ((s.dropMatrix g ref).core g).mq0 ++ ((s.dropMatrix g ref).core g).mq1, p.ref ≠ ref) := by
  intro p hp
  rw [State.dropMatrix, State.core_modCore, if_pos rfl] at hp
  dsimp only at hp
  rw [← List.filter_append] at hp
  simpa using (List.mem_filter.1 hp).2

theorem core_dropMatrix_of_ne (s : State) {g h : Nat} (ref : Nat) (hh : h ≠ g) : (s.dropMatrix g ref).core h = s.core h := by
  rw [State.dropMatrix, State.core_modCore, if_neg hh]

theorem cell_dropMatrix (s : State) (g ref x i : Nat) : ((s.dropMatrix g ref).core g).cell x i = (s.core g).cell x i := by
  rw [State.dropMatrix, State.core_modCore, if_pos rfl]
  rfl

theorem bankState_dropMatrix (s : State) (g ref x : Nat) :
    ((s.dropMatrix g ref).core g).bankState x = (s.core g).bankState x := by
  rw [State.dropMatrix, State.core_modCore, if_pos rfl]
  rfl

/-! ## The entry of a whole row (R168, R339) -/

/-- A row has entered the cells of its banks' row, by their chains; it is counted, and no part of the next one has come. -/
def RowEntered (s : State) (g : Nat) (o : MatOp) (t8 : Tile) (int : Bool) (bytes : List Byte) (poison : Bool) (t : State) : Prop :=
  (∀ j, j < 32 → (t.core g).cell (o.base + o.row / 16) (o.row % 16 * 32 + j) =
    BitVec.ofNat 32 (chainCell (s.mctxOf o) t8 (rowElems int bytes) j
      ((s.core g).cell (o.base + o.row / 16) (o.row % 16 * 32 + j)).toNat)) ∧
  (∀ x i, (x ≠ o.base + o.row / 16 ∨ i / 32 ≠ o.row % 16) → x < 128 → i < 512 → (t.core g).cell x i = (s.core g).cell x i) ∧
  (∀ j, j < 32 → poison = true ∨ t8.poison = true →
    (o.base + o.row / 16) * 512 + (o.row % 16 * 32 + j) ∈ (t.core g).cellPoison) ∧
  (∃ p, t.matrix? o.ref = some p ∧ p.row = o.row + 1 ∧ p.buf = []) ∧ (∀ h, h ≠ g → t.core h = s.core h)

/-- A state in which an instruction stands changed, where the cells, the other cores and the strands' matrix contexts are as in
another. -/
structure Ready (s : State) (g : Nat) (o : MatOp) (u : State) (p : MatOp) : Prop where
  alone : Alone u g p
  ref : p.ref = o.ref
  row : p.row = o.row
  cells : (u.core g).cells = (s.core g).cells
  others : ∀ h, h ≠ g → u.core h = s.core h
  ctx : u.mctxOf o = s.mctxOf o

theorem Ready.refl {s : State} {g : Nat} {o : MatOp} (h : Alone s g o) : Ready s g o s o := ⟨h, rfl, rfl, rfl, fun _ _ => rfl, rfl⟩

theorem Ready.modMatrix {s u : State} {g : Nat} {o p : MatOp} (h : Ready s g o u p) {f : MatOp → MatOp} (hf : (f p).ref = p.ref)
    (hrow : (f p).row = p.row) : Ready s g o (u.modMatrix o.ref f) (f p) where
  alone := h.ref ▸ h.alone.modMatrix hf
  ref := hf.trans h.ref
  row := hrow.trans h.row
  cells := by rw [core_modMatrix]; exact h.cells
  others x hx := (h.ref ▸ h.alone.core_modMatrix_of_ne f hx).trans (h.others x hx)
  ctx := (by rw [modMatrix_eq]; rfl : (u.modMatrix o.ref f).mctxOf o = u.mctxOf o).trans h.ctx

/-- The core of the array after a row has entered. -/
theorem core_rowIn (u : State) (g : Nat) (o : MatOp) (int : Bool) (bs : List Byte) (poison : Bool) (h : Nat) :
    (u.rowIn g o int bs poison).core h = Core.modMatrix (if h = g
      then (u.core g).enterRow (u.mctxOf o) o.base o.row (rowElems int bs) poison else u.core h) o.ref
        (fun o => { o with row := o.row + 1, buf := [] }) := by
  rw [State.rowIn, core_modMatrix, State.core_modCore]

theorem rowIn_shape (u : State) (g : Nat) (o : MatOp) (int : Bool) (bs : List Byte) (poison : Bool) :
    u.rowIn g o int bs poison = { u with cores := (u.rowIn g o int bs poison).cores } := by
  rw [State.rowIn, modMatrix_eq]
  rfl

theorem entered_enterRow {x : MatrixCtx} {t : Tile} (ht : x.tile = some t) (c : Core) (bank r : Nat) (acts : List Nat) (poison : Bool) :
    Core.Entered x t acts (poison || t.poison) (bank + r / 16) (r % 16 * 32) c (c.enterRow x bank r acts poison) 32 := by
  rw [enterRow_eq acts ht]
  exact entered_enterCells x t acts _ _ _ c 32 (by omega)

section
variable {s u : State} {g : Nat} {o p : MatOp} {t8 : Tile} (h : Ready s g o u p) (ht : (s.mctxOf o).tile = some t8)
  (int : Bool) (bs : List Byte) (poison : Bool)
include h ht

theorem Ready.alone_rowIn : Alone (u.rowIn g o int bs poison) g { p with row := p.row + 1, buf := [] } := by
  have only := (entered_enterRow (h.ctx ▸ ht) (u.core g) o.base o.row (rowElems int bs) poison).only
  have hmid : Alone (u.modCore g (fun c => c.enterRow (u.mctxOf o) o.base o.row (rowElems int bs) poison)) g p :=
    h.alone.modCore (by rw [only]) (by rw [only])
  rw [State.rowIn, ← h.ref]
  exact hmid.modMatrix rfl

theorem Ready.matrix?_rowIn :
    (u.rowIn g o int bs poison).matrix? o.ref = some { p with row := p.row + 1, buf := [] } :=
  h.ref ▸ (h.alone_rowIn ht int bs poison).matrix?

/-- What the entry of a row does. -/
theorem Ready.rowEntered : RowEntered s g o t8 int bs poison (u.rowIn g o int bs poison) := by
  have hu : (u.mctxOf o).tile = some t8 := h.ctx ▸ ht
  have ent := entered_enterRow hu (u.core g) o.base o.row (rowElems int bs) poison
  have hcell : ∀ x i, ((u.rowIn g o int bs poison).core g).cell x i =
      ((u.core g).enterRow (u.mctxOf o) o.base o.row (rowElems int bs) poison).cell x i := fun x i => by
    rw [core_rowIn, if_pos rfl]; rfl
  have hbase : ∀ x i, (u.core g).cell x i = (s.core g).cell x i := fun x i => by rw [Core.cell, h.cells]; rfl
  refine ⟨fun j hj => ?_, fun x i hx _ hi => ?_, fun j hj hp => ?_, ⟨_, h.matrix?_rowIn ht int bs poison, ?_, rfl⟩, fun x hx => ?_⟩
  · rw [hcell, ent.new j hj, hbase, h.ctx]
  · rw [hcell, ent.old x i hi (by omega), hbase]
  · rw [core_rowIn, if_pos rfl]
    exact ent.poison (by simpa using hp) j hj
  · rw [h.row]
  · rw [core_rowIn, if_neg hx, Core.modMatrix_of_ne _ fun q hq hr => hx (h.alone.of_core hq (hr.trans h.ref.symm)).1, h.others x hx]

end

/-- The entry of a row leaves the rest of the core's record. -/
theorem rq_rowIn {u : State} {g : Nat} {o : MatOp} {t8 : Tile} (ht : (u.mctxOf o).tile = some t8) (int : Bool) (bs : List Byte)
    (poison : Bool) : ((u.rowIn g o int bs poison).core g).rq = (u.core g).rq := by
  rw [core_rowIn, if_pos rfl, Core.modMatrix,
    (entered_enterRow ht (u.core g) o.base o.row (rowElems int bs) poison).only]

end Sys2Proof.Machine

/-! SUPPORT. Starting an instruction of the array, and a drain's sectors (R172, R173, R342). -/

namespace Sys2Proof.Machine

/-- The instruction that the array has begun. -/
def MatOp.begun (o : MatOp) : MatOp := { o with started := true, parked := false }

/-- A drain on its way, with the number of its sectors. -/
def MatOp.drained (o : MatOp) (n : Nat) : MatOp := { o with row := n }

end Sys2Proof.Machine

namespace Sys2Proof.Safety

open Sys2Proof.Machine

/-! ## Reads of the array -/

/-- With no core pair in lockstep nothing waits for its checkpoint (R368). -/
theorem matrixWaits_of_no_locks {s : State} (h : s.locks = []) (g : Nat) (o : MatOp) : s.matrixWaits g o = false := by
  rw [State.matrixWaits, State.loggedAny, h]
  rfl

/-- A byte read in order, where no buffer is shadowed. -/
theorem engineByte_fst {s : State} (h : s.shadows = []) (k : Nat) : (s.engineByte [] k).1 = Memory.get s.mem k := by
  rw [State.engineByte, activeKey_quiet h]
  rfl

theorem map_engineByte_fst {s : State} (h : s.shadows = []) (keys : List Nat) :
    (keys.map (s.engineByte [])).map (·.1) = keys.map (Memory.get s.mem) := by
  rw [List.map_map]
  exact List.map_congr_left fun k _ => engineByte_fst h k

/-- Where no sector is poisoned, no byte read is. -/
theorem any_engineByte_snd {s : State} (h : s.poison = []) (olds : List Old) (keys : List Nat) :
    (keys.map (s.engineByte olds)).any (·.2) = false := by
  rw [List.any_map, List.any_eq_false]
  intro k _
  simp [State.engineByte, State.poisoned, h]

theorem mem_queues_of_mem_mq {c : Core} {t : Bool} {o : MatOp} (h : o ∈ c.mq t) : o ∈ c.mq0 ++ c.mq1 := by
  rw [Core.mq] at h
  split at h
  · exact List.mem_append_right _ h
  · exact List.mem_append_left _ h

theorem modMatrix_shape (s : State) (ref : Nat) (f : MatOp → MatOp) :
    s.modMatrix ref f = { s with cores := (s.modMatrix ref f).cores } := by
  rw [modMatrix_eq]

/-! ## Start (R342) -/

section
variable {s : State} {g ten : Nat} {o : MatOp}

theorem matrixOpStart_busy (h : running ((s.core g).mq (ten == 1)) ≠ none) :
    Completes (.matrixOpStart g ten) s (fun t => t = s) := by
  refine ⟨s, ?_, rfl⟩
  rw [exec_matrixOpStart, execMatrixOpStart]
  exact if_pos (Option.isSome_iff_ne_none.2 h)

theorem matrixOpStart_plain (ha : Alone s g o) (hr : running ((s.core g).mq (ten == 1)) = none)
    (hn : s.nextMatrix g ((s.core g).mq (ten == 1)) [] [] = some o) (hk : ∀ a b c d e f h, o.kind ≠ .mdrain a b c d e f h) :
    Completes (.matrixOpStart g ten) s (fun t => t.matrix? o.ref = some o.begun ∧ t = { s with cores := t.cores }) := by
  refine ⟨s.modMatrix o.ref MatOp.begun, ?_, (ha.modMatrix rfl : Alone _ g o.begun).matrix?, modMatrix_shape ..⟩
  rw [exec_matrixOpStart, execMatrixOpStart]
  dsimp only
  rw [hr, hn]
  dsimp only
  split
  · next h => cases h
  · split
    · next h => exact absurd h (hk _ _ _ _ _ _ _)
    · rfl

/-! ## The sectors of a drain (R173, R344) -/

/-- The packet that takes the bytes of one sector to its bank. -/
def sectorPacket (s : State) (src ref seg : Nat) (dst : Runs) (bs : List (Bit8 × Bool)) (x : Nat) : Packet :=
  { vn := .blk, src := src, dst := unitIn dst (32 * x), after := none, sent := s.tick,
    body := .sector ref seg ((bs.filter (fun b => b.1.key / 32 == x)).map (·.1)) ((bs.filter (fun b => b.1.key / 32 == x)).any (·.2)) }

/-- The packet of one sector sent. -/
def sendSector (src ref seg : Nat) (dst : Runs) (bs : List (Bit8 × Bool)) (s : State) (x : Nat) : State :=
  s.sendPacket (sectorPacket s src ref seg dst bs x)

theorem sendSectors_eq (s : State) (src ref seg : Nat) (dst : Runs) (bs : List (Bit8 × Bool)) :
    s.sendSectors src ref seg dst bs = { s with net := s.net ++ (sectorsOf bs).map (sectorPacket s src ref seg dst bs) } := by
  have sends : ∀ (xs : List Nat) (u : State), u.tick = s.tick → xs.foldl (sendSector src ref seg dst bs) u =
      { u with net := u.net ++ xs.map (sectorPacket s src ref seg dst bs) } := by
    intro xs
    induction xs with
    | nil => intro u _; rw [List.map_nil, List.append_nil]; rfl
    | cons x xs ih =>
      intro u hu
      have hx : sectorPacket u src ref seg dst bs x = sectorPacket s src ref seg dst bs x := by rw [sectorPacket, hu]; rfl
      rw [List.foldl_cons, ih (sendSector src ref seg dst bs u x) hu, List.map_cons, List.append_cons, sendSector, hx]
      rfl
  exact sends _ s rfl

/-- Every byte leaves, in the packet of its sector. -/
theorem sendSectors_byte {s : State} {src ref seg : Nat} {dst : Runs} {bs : List (Bit8 × Bool)} (hclean : ∀ b ∈ bs, b.2 = false)
    {b : Bit8} (hb : (b, false) ∈ bs) : ∃ p ∈ (s.sendSectors src ref seg dst bs).net, ∃ l, p.body = .sector ref seg l false ∧ b ∈ l := by
  have hx : b.key / 32 ∈ sectorsOf bs := List.mem_eraseDups.2 (List.mem_map.2 ⟨(b, false), hb, rfl⟩)
  have hany : (bs.filter (fun d => d.1.key / 32 == b.key / 32)).any (·.2) = false :=
    List.any_eq_false.2 fun d hd => by rw [hclean d (List.mem_filter.1 hd).1]; exact Bool.false_ne_true
  refine ⟨sectorPacket s src ref seg dst bs (b.key / 32), ?_, (bs.filter (fun d => d.1.key / 32 == b.key / 32)).map (·.1), ?_, ?_⟩
  · rw [sendSectors_eq]
    exact List.mem_append_right _ (List.mem_map_of_mem hx)
  · rw [sectorPacket, hany]
  · exact List.mem_map.2 ⟨(b, false), List.mem_filter.2 ⟨hb, beq_self_eq_true _⟩, rfl⟩

/-! ## The bytes of an unscaled F32 drain (R172) -/

/-- The cell that a column of a drained row is read from. -/
def drainCell (c : Core) (o : MatOp) (w r j : Nat) : W32 :=
  c.cell (o.base + j / 32 * (o.banks / w) + r / 16) (r % 16 * 32 + j % 32)

/-- The bytes of a column's cell on their way. -/
def drainWord (v : W32) (keys : List Nat) : List (Bit8 × Bool) :=
  (keys.zip (wordBytes 4 v)).map (fun b => ({ key := b.1, byte := b.2, mask := 0xFF }, false))

theorem drainElem_f32 (rm v : Nat) : drainElem false .f32 rm v none = v := rfl

theorem drainRow_f32 {c : Core} {o : MatOp} (hl : o.laters = []) (hp : c.cellPoison = []) (s : State) (w rm r : Nat) (d : List Nat) :
    s.drainRow c o w false .f32 rm r d [] =
      (List.range (32 * w)).flatMap (fun j => drainWord (drainCell c o w r j) ((d.drop (4 * j)).take 4)) := by
  rw [State.drainRow, hl, hp]
  refine List.flatMap_congr fun j _ => ?_
  have hk : nth ([] : List (Option (Nat × Bool))) j none = none := rfl
  dsimp only
  rw [hk, Option.map_none, drainElem_f32]
  have h4 : Ty.f32.bytes = 4 := rfl
  rw [h4, leBytes_toNat 4, drainWord, Nat.mul_comm j 4]
  rfl

/-- The chunks of a list, in order, are its beginning. -/
theorem flatMap_chunks {α : Type} (m : Nat) (l : List α) (n : Nat) :
    (List.range n).flatMap (fun j => (l.drop (m * j)).take m) = l.take (m * n) := by
  induction n with
  | zero => rfl
  | succ n ih => rw [List.range_succ, List.flatMap_append, ih, List.flatMap_singleton, Nat.mul_succ, List.take_add]

theorem wordBytes_length (n : Nat) {w : Nat} (v : BitVec w) : (wordBytes n v).length = n := by
  rw [wordBytes, List.length_map, List.length_range]

/-- The bytes go to the keys given. -/
theorem drainWord_keys {v : W32} {keys : List Nat} (h : keys.length ≤ 4) : (drainWord v keys).map (·.1.key) = keys := by
  rw [drainWord, List.map_map]
  exact List.map_fst_zip (by rw [wordBytes_length]; exact h)

/-- The bytes of an unscaled F32 drain. -/
def drainBytes (c : Core) (o : MatOp) (w : Nat) (dst : List (List Nat)) : List (Bit8 × Bool) :=
  (dst.zipIdx.map (fun d => (List.range (32 * w)).flatMap (fun j =>
    drainWord (drainCell c o w d.2 j) ((d.1.drop (4 * j)).take 4)))).flatten

theorem drainBytes_clean {c : Core} {o : MatOp} {w : Nat} {dst : List (List Nat)} {b : Bit8 × Bool} (h : b ∈ drainBytes c o w dst) :
    b.2 = false := by
  obtain ⟨_, hl, hb⟩ := List.mem_flatten.1 h
  obtain ⟨d, _, rfl⟩ := List.mem_map.1 hl
  obtain ⟨j, _, hj⟩ := List.mem_flatMap.1 hb
  obtain ⟨_, _, rfl⟩ := List.mem_map.1 hj
  rfl

theorem drainRow_keys (c : Core) (o : MatOp) {w r : Nat} {d : List Nat} (h : d.length = 128 * w) :
    ((List.range (32 * w)).flatMap (fun j => drainWord (drainCell c o w r j) ((d.drop (4 * j)).take 4))).map (·.1.key) = d := by
  rw [List.map_flatMap, List.flatMap_congr fun j _ => drainWord_keys (List.length_take_le 4 _), flatMap_chunks]
  exact List.take_of_length_le (by omega)

theorem drainBytes_keys (c : Core) (o : MatOp) {w : Nat} {dst : List (List Nat)} (h : ∀ r ∈ dst, r.length = 128 * w) :
    (drainBytes c o w dst).map (·.1.key) = dst.flatten := by
  rw [drainBytes, List.map_flatten, List.map_map]
  congr 1
  calc dst.zipIdx.map _ = dst.zipIdx.map (·.1) :=
        List.map_congr_left fun d hd => drainRow_keys c o (h _ (List.fst_mem_of_mem_zipIdx hd))
    _ = dst := List.zipIdx_map_fst ..

theorem sectorsOf_drainBytes (c : Core) (o : MatOp) {w : Nat} {dst : List (List Nat)} (h : ∀ r ∈ dst, r.length = 128 * w) :
    sectorsOf (drainBytes c o w dst) = (dst.flatten.map (· / 32)).eraseDups := by
  rw [← drainBytes_keys c o h, List.map_map]
  rfl

/-- A byte of a cell is among them, with its key. -/
theorem mem_drainBytes (c : Core) (o : MatOp) {w : Nat} {dst : List (List Nat)} (h : ∀ r ∈ dst, r.length = 128 * w) {r j y : Nat}
    (hr : r < dst.length) (hj : j < 32 * w) (hy : y < 4) :
    (({ key := dst[r].getD (4 * j + y) 0, mask := 0xFF, byte := (drainCell c o w r j).extractLsb' (8 * y) 8 } : Bit8), false) ∈
      drainBytes c o w dst := by
  have hlen : 4 * j + y < dst[r].length := by rw [h _ (List.getElem_mem hr)]; omega
  refine List.mem_flatten.2 ⟨_, List.mem_map.2 ⟨(dst[r], r), List.mk_mem_zipIdx_iff_getElem?.2 (List.getElem?_eq_getElem hr), rfl⟩, ?_⟩
  refine List.mem_flatMap.2 ⟨j, List.mem_range.2 hj, List.mem_map.2 ⟨(dst[r].getD (4 * j + y) 0, _), ?_, rfl⟩⟩
  refine List.mem_of_getElem? (i := y) (List.getElem?_zip_eq_some.2 ⟨?_, ?_⟩)
  · rw [List.getElem?_take_of_lt hy, List.getElem?_drop, List.getD_eq_getElem _ _ hlen, List.getElem?_eq_getElem hlen]
  · rw [wordBytes, List.getElem?_map, List.getElem?_range hy]
    rfl

theorem startDrain_f32 {u : State} {o : MatOp} {w rm : Nat} {dst : List (List Nat)} (hl : o.laters = [])
    (hp : (u.core g).cellPoison = []) : u.startDrain g o w false .f32 rm dst none =
      (u.sendSectors (2 ^ 41 + g) o.ref 0 o.dst (drainBytes (u.core g) o w dst)).modMatrix o.ref
        (MatOp.drained · (sectorsOf (drainBytes (u.core g) o w dst)).length) := by
  have hbs : (dst.zipIdx.map (fun (d, r) => u.drainRow (u.core g) o w false .f32 rm r d [])).flatten = drainBytes (u.core g) o w dst :=
    congrArg List.flatten (List.map_congr_left fun d _ => drainRow_f32 hl hp u w rm d.2 d.1)
  rw [State.startDrain]
  dsimp only
  rw [hbs]
  rfl

theorem matrixOpStart_drain {w rm : Nat} {dst : List (List Nat)} {bar : Option Nat} (ha : Alone s g o)
    (hr : running ((s.core g).mq (ten == 1)) = none) (hn : s.nextMatrix g ((s.core g).mq (ten == 1)) [] [] = some o)
    (hlocks : s.locks = []) (hk : o.kind = .mdrain w false .f32 rm dst none bar) (hl : o.laters = [])
    (hp : (s.core g).cellPoison = []) (hlen : ∀ r ∈ dst, r.length = 128 * w) :
    Completes (.matrixOpStart g ten) s (fun t =>
      (∀ r (hr : r < dst.length), ∀ j, j < 32 * w → ∀ y, y < 4 → ∃ p ∈ t.net, ∃ l, p.body = .sector o.ref 0 l false ∧
        { key := dst[r].getD (4 * j + y) 0, mask := 0xFF, byte := (drainCell (s.core g) o w r j).extractLsb' (8 * y) 8 } ∈ l) ∧
      (∃ p, t.matrix? o.ref = some p ∧ p.started = true ∧ p.row = (dst.flatten.map (· / 32)).eraseDups.length) ∧
      t = { s with cores := t.cores, net := t.net }) := by
  have hexec : exec (.matrixOpStart g ten) s =
      .next ((s.modMatrix o.ref MatOp.begun).startDrain g o w false .f32 rm dst none) := by
    rw [exec_matrixOpStart, execMatrixOpStart]
    dsimp only
    rw [hr, hn]
    dsimp only
    rw [hk]
    dsimp only
    rw [matrixWaits_of_no_locks hlocks]
    rfl
  have hbytes : drainBytes ((s.modMatrix o.ref MatOp.begun).core g) o w dst = drainBytes (s.core g) o w dst := by
    rw [core_modMatrix]; rfl
  rw [startDrain_f32 hl (by rw [core_modMatrix]; exact hp), hbytes, sectorsOf_drainBytes _ _ hlen] at hexec
  have hsent : Alone ((s.modMatrix o.ref MatOp.begun).sendSectors (2 ^ 41 + g) o.ref 0 o.dst (drainBytes (s.core g) o w dst)) g o.begun :=
    (ha.modMatrix (f := MatOp.begun) rfl).of_cores (by rw [sendSectors_eq])
  refine ⟨_, hexec, fun r hr j hj y hy => ?_, ⟨_, (hsent.modMatrix rfl).matrix?, rfl, rfl⟩, ?_⟩
  · rw [modMatrix_shape]
    exact sendSectors_byte (fun _ => drainBytes_clean) (mem_drainBytes _ _ hlen hr hj hy)
  · rw [modMatrix_eq, sendSectors_eq, modMatrix_eq]

end

end Sys2Proof.Safety

/-! SUPPORT. Rows that enter the array, from memory, from pinned lines, from a queue and from a channel; the yield and the reads
ahead (R168-R170, R339, R342, R343). -/

namespace Sys2Proof.Safety

open Sys2Proof.Machine

section
variable {s : State} {g ten : Nat} {o : MatOp} {t8 : Tile} {int : Bool}

/-! ## Rows of memory (R168, R343) -/

theorem exec_rowEntry_memory {keys : List Nat} {rows : List (List Nat)} (hr : running ((s.core g).mq (ten == 1)) = some o)
    (hk : o.kind = .mmulMem int false (keys :: rows)) (hlocks : s.locks = []) :
    exec (.matrixRowEntry g ten) s = .next ((s.modMatrix o.ref (fun o => { o with kind := .mmulMem int false rows })).rowIn g o int
      ((keys.map (s.engineByte o.olds)).map (·.1)) ((keys.map (s.engineByte o.olds)).any (·.2))) := by
  rw [exec_matrixRowEntry, execMatrixRowEntry, hr]
  dsimp only
  rw [hk]
  dsimp only
  rw [matrixWaits_of_no_locks hlocks]
  rfl

theorem rowEntry_memory {keys : List Nat} {rows : List (List Nat)} (ha : Alone s g o)
    (hr : running ((s.core g).mq (ten == 1)) = some o) (ht : (s.mctxOf o).tile = some t8)
    (hk : o.kind = .mmulMem int false (keys :: rows)) (hlocks : s.locks = []) (hsh : s.shadows = []) (hp : s.poison = [])
    (hol : o.olds = []) : Completes (.matrixRowEntry g ten) s (fun t => RowEntered s g o t8 int (keys.map (Memory.get s.mem)) false t ∧
      (∀ p, t.matrix? o.ref = some p → p.kind = .mmulMem int false rows) ∧ t = { s with cores := t.cores }) := by
  have hexec := exec_rowEntry_memory hr hk hlocks
  rw [any_engineByte_snd hp, hol, map_engineByte_fst hsh] at hexec
  have ready := (Ready.refl ha).modMatrix (f := fun o => { o with kind := .mmulMem int false rows }) rfl rfl
  refine ⟨_, hexec, ready.rowEntered ht int _ _, fun p h => ?_, ?_⟩
  · rw [ready.matrix?_rowIn ht] at h
    cases h
    rfl
  · rw [rowIn_shape, modMatrix_eq]

/-! ## Rows read ahead (R343) -/

theorem mem_stillPinned {pins : List Pin} {rest : List (List Nat)} {x : Pin} (h : x ∈ stillPinned pins rest) :
    x ∈ pins ∧ x.line ∈ rest.flatMap rowLines := by
  obtain ⟨hx, hneed⟩ := List.mem_filter.1 h
  obtain ⟨r, hr, hl⟩ := List.mem_flatMap.1 (List.contains_iff_mem.1 hneed)
  exact ⟨hx, List.mem_flatMap.2 ⟨r, List.mem_of_mem_take hr, hl⟩⟩

/-- The lines of the next row stay pinned. -/
theorem stillPinned_head {pins : List Pin} {r : List Nat} {rest : List (List Nat)} {x : Pin} (hx : x ∈ pins) (hl : x.line ∈ rowLines r) :
    x ∈ stillPinned pins (r :: rest) := by
  refine List.mem_filter.2 ⟨hx, List.contains_iff_mem.2 ?_⟩
  rw [List.take_succ_cons, List.flatMap_cons]
  exact List.mem_append_left _ hl

/-- The instruction when a row read ahead enters. -/
def fetchedRow (int : Bool) (rows : List (List Nat)) (o : MatOp) : MatOp :=
  { o with kind := .mmulMem int true rows, pins := stillPinned o.pins rows }

theorem exec_rowEntry_fetched {keys : List Nat} {rows : List (List Nat)} {bs : List Byte} {bad : Bool}
    (hr : running ((s.core g).mq (ten == 1)) = some o) (hk : o.kind = .mmulMem int true (keys :: rows))
    (hf : o.fetched keys = some (bs, bad)) :
    exec (.matrixRowEntry g ten) s = .next ((s.modMatrix o.ref (fetchedRow int rows)).rowIn g o int bs bad) := by
  rw [exec_matrixRowEntry, execMatrixRowEntry, hr]
  dsimp only
  rw [hk]
  dsimp only
  rw [hf]
  rfl

theorem rowEntry_fetched {keys : List Nat} {rows : List (List Nat)} {bs : List Byte} {bad : Bool} (ha : Alone s g o)
    (hr : running ((s.core g).mq (ten == 1)) = some o) (ht : (s.mctxOf o).tile = some t8)
    (hk : o.kind = .mmulMem int true (keys :: rows)) (hf : o.fetched keys = some (bs, bad)) :
    Completes (.matrixRowEntry g ten) s (fun t => RowEntered s g o t8 int bs bad t ∧
      (∀ p, t.matrix? o.ref = some p → p.kind = .mmulMem int true rows ∧
        (∀ x ∈ p.pins, x ∈ o.pins ∧ x.line ∈ rows.flatMap rowLines) ∧
        ∀ x ∈ o.pins, ∀ r, rows.head? = some r → x.line ∈ rowLines r → x ∈ p.pins) ∧
      t = { s with cores := t.cores }) := by
  have ready := (Ready.refl ha).modMatrix (f := fetchedRow int rows) rfl rfl
  refine ⟨_, exec_rowEntry_fetched hr hk hf, ready.rowEntered ht int _ _, fun p h => ?_, ?_⟩
  · rw [ready.matrix?_rowIn ht] at h
    cases h
    refine ⟨rfl, fun x hx => mem_stillPinned hx, fun x hx r hhead hl => ?_⟩
    obtain ⟨rest, rfl⟩ := List.head?_eq_some_iff.1 hhead
    exact stillPinned_head hx hl
  · rw [rowIn_shape, modMatrix_eq]

theorem rowEntry_unfetched {keys : List Nat} {rows : List (List Nat)} (hr : running ((s.core g).mq (ten == 1)) = some o)
    (hk : o.kind = .mmulMem int true (keys :: rows)) (hf : o.fetched keys = none) :
    Completes (.matrixRowEntry g ten) s (fun t => t = s) := by
  refine ⟨s, ?_, rfl⟩
  rw [exec_matrixRowEntry, execMatrixRowEntry, hr]
  dsimp only
  rw [hk]
  dsimp only
  rw [hf]

/-! ## Rows that come chunk by chunk (R169, R170) -/

theorem vbytes_eq (v : V128) : vbytes v = wordBytes 16 v := leBytes_toNat 16 v

section
variable {u : State} {v : V128} {kind : Nat → MatKind} {left : Nat}

/-- A row that is not whole waits for its next chunk. -/
theorem chunkIn_part (h : o.buf.length + 16 < u.rowBytes o int) :
    u.chunkIn g o int v kind left = u.modMatrix o.ref (fun p => { p with buf := o.buf ++ wordBytes 16 v }) := by
  rw [State.chunkIn, vbytes_eq]
  exact if_pos (by rw [List.length_append, wordBytes_length]; exact h)

/-- A row enters with its last chunk. -/
theorem chunkIn_whole (h : u.rowBytes o int ≤ o.buf.length + 16) : u.chunkIn g o int v kind left =
    (u.modMatrix o.ref (fun p => { p with kind := kind (left - 1) })).rowIn g o int (o.buf ++ wordBytes 16 v) false := by
  rw [State.chunkIn, vbytes_eq]
  exact if_neg (by rw [List.length_append, wordBytes_length]; omega)

theorem chunkIn_shape : u.chunkIn g o int v kind left = { u with cores := (u.chunkIn g o int v kind left).cores } := by
  rcases Nat.lt_or_ge (o.buf.length + 16) (u.rowBytes o int) with h | h
  · rw [chunkIn_part h]
    exact modMatrix_shape ..
  · rw [chunkIn_whole h, rowIn_shape, modMatrix_eq]

variable (h : Ready s g o u o)
include h

theorem rowBytes_of_ready : u.rowBytes o int = s.rowBytes o int := by rw [State.rowBytes, h.ctx]; rfl

theorem matrix?_chunkIn_part (hb : o.buf.length + 16 < s.rowBytes o int) :
    (u.chunkIn g o int v kind left).matrix? o.ref = some { o with buf := o.buf ++ wordBytes 16 v } := by
  rw [chunkIn_part ((rowBytes_of_ready h).symm ▸ hb)]
  exact (h.alone.modMatrix (f := fun p => { p with buf := o.buf ++ wordBytes 16 v }) rfl).matrix?

theorem entered_chunkIn_whole (ht : (s.mctxOf o).tile = some t8) (hb : s.rowBytes o int ≤ o.buf.length + 16) :
    RowEntered s g o t8 int (o.buf ++ wordBytes 16 v) false (u.chunkIn g o int v kind left) ∧
    ∀ p, (u.chunkIn g o int v kind left).matrix? o.ref = some p → p.kind = kind (left - 1) := by
  have ready := h.modMatrix (f := fun p => { p with kind := kind (left - 1) }) rfl rfl
  rw [chunkIn_whole ((rowBytes_of_ready h).symm ▸ hb)]
  refine ⟨ready.rowEntered ht int _ _, fun p hp => ?_⟩
  rw [ready.matrix?_rowIn ht] at hp
  cases hp
  rfl

/-- Chunks leave the core's receive queue. -/
theorem rq_chunkIn (ht : (s.mctxOf o).tile = some t8) : ((u.chunkIn g o int v kind left).core g).rq = (u.core g).rq := by
  rcases Nat.lt_or_ge (o.buf.length + 16) (u.rowBytes o int) with hb | hb
  · rw [chunkIn_part hb, core_modMatrix]
    rfl
  · have ready := h.modMatrix (f := fun p => { p with kind := kind (left - 1) }) rfl rfl
    rw [chunkIn_whole hb, rq_rowIn (ready.ctx.symm ▸ ht), core_modMatrix]
    rfl

end

/-! ### From a queue register (R169) -/

/-- The state after the array has taken the head of a queue register. -/
def queueTaken (s : State) (o : MatOp) (q : Reg3) : State := s.modSlotq o.owner.launch o.owner.seat (fun x => x.pop q 1)

theorem ready_queueTaken (ha : Alone s g o) (q : Reg3) : Ready s g o (queueTaken s o q) o :=
  ⟨ha.of_cores rfl, rfl, rfl, rfl, fun _ _ => rfl, rfl⟩

/-- What the array may take from a queue is what the queue holds. -/
theorem arrayQueue_cons {q : Reg3} {v : V128} {l : List V128} (h : s.arrayQueue o q = v :: l) :
    (s.slotq o.owner.launch o.owner.seat).q.get q.toFin = v :: l := by
  rw [State.arrayQueue] at h
  split at h
  · cases h
  · exact h

theorem queueTaken_rest {q : Reg3} {v : V128} {l : List V128} (h : s.arrayQueue o q = v :: l) :
    ((queueTaken s o q).slotq o.owner.launch o.owner.seat).q.get q.toFin = l := by
  rw [queueTaken, State.slotq_modSlotq, if_pos ⟨rfl, rfl⟩, SlotQueues.pop_q, arrayQueue_cons h]
  exact Vector.getElem_set_self ..

theorem exec_rowEntry_queue {q : Reg3} {n : Nat} {v : V128} {l : List V128} (hr : running ((s.core g).mq (ten == 1)) = some o)
    (hk : o.kind = .mmulQueue int q (n + 1)) (hq : s.arrayQueue o q = v :: l) :
    exec (.matrixRowEntry g ten) s = .next ((queueTaken s o q).chunkIn g o int v (.mmulQueue int q) (n + 1)) := by
  rw [exec_matrixRowEntry, execMatrixRowEntry, hr]
  dsimp only
  rw [hk]
  dsimp only
  rw [hq]
  rfl

theorem rowEntry_queue {q : Reg3} {n : Nat} {v : V128} {l : List V128} (ha : Alone s g o)
    (hr : running ((s.core g).mq (ten == 1)) = some o) (ht : (s.mctxOf o).tile = some t8)
    (hk : o.kind = .mmulQueue int q (n + 1)) (hq : s.arrayQueue o q = v :: l) :
    Completes (.matrixRowEntry g ten) s (fun t =>
      (t.slotq o.owner.launch o.owner.seat).q.get q.toFin = l ∧
      (o.buf.length + 16 < s.rowBytes o int → t.matrix? o.ref = some { o with buf := o.buf ++ wordBytes 16 v }) ∧
      (s.rowBytes o int ≤ o.buf.length + 16 → RowEntered s g o t8 int (o.buf ++ wordBytes 16 v) false t ∧
        (∀ p, t.matrix? o.ref = some p → p.kind = .mmulQueue int q n)) ∧
      t = { s with queues := t.queues, cores := t.cores }) := by
  have ready := ready_queueTaken ha q
  refine ⟨_, exec_rowEntry_queue hr hk hq, ?_, matrix?_chunkIn_part ready, entered_chunkIn_whole ready ht, ?_⟩
  · rw [chunkIn_shape]
    exact queueTaken_rest hq
  · rw [chunkIn_shape]
    rfl

/-! ### From a channel (R170) -/

/-- The state after the array has taken a chunk of a channel's stream. -/
def streamTaken (s : State) (g ch : Nat) : State := s.modRq g (fun rq => takeStream ch rq 16)

theorem streamTaken_shape (s : State) (g ch : Nat) :
    streamTaken s g ch = { s with cores := (streamTaken s g ch).cores, net := (streamTaken s g ch).net } := by
  rw [streamTaken, modRq_changes]

theorem ready_streamTaken (ha : Alone s g o) (ch : Nat) : Ready s g o (streamTaken s g ch) o where
  alone := (ha.modCore (f := fun c => { c with
    rq := takeStream ch (s.core g).rq 16, pressure := (s.core g).pressureAt (takeStream ch (s.core g).rq 16).length }) rfl rfl).of_cores
      (by rw [streamTaken, modRq_changes])
  ref := rfl
  row := rfl
  cells := by rw [streamTaken, core_modRq, if_pos rfl]
  others h hh := by rw [streamTaken, core_modRq, if_neg hh]
  ctx := by rw [streamTaken_shape]; rfl

theorem rq_streamTaken (s : State) (g ch : Nat) : ((streamTaken s g ch).core g).rq = takeStream ch (s.core g).rq 16 := by
  rw [streamTaken, core_modRq, if_pos rfl]

/-- The state after a chunk of a channel: a picot word ends the instruction. -/
def streamChunk (s : State) (g : Nat) (o : MatOp) (int : Bool) (ch n : Nat) (v : V128) : State :=
  if picot v then (streamTaken s g ch).modMatrix o.ref (fun o => { o with kind := .mmuls int ch 0, buf := [] })
  else (streamTaken s g ch).chunkIn g o int v (.mmuls int ch) (n + 1)

theorem exec_rowEntry_stream {ch n : Nat} {v : V128} {l : List V128} (hr : running ((s.core g).mq (ten == 1)) = some o)
    (hk : o.kind = .mmuls int ch (n + 1)) (hq : (s.core g).arrayStream ch = v :: l) :
    exec (.matrixRowEntry g ten) s = .next (streamChunk s g o int ch n v) := by
  rw [exec_matrixRowEntry, execMatrixRowEntry, hr]
  dsimp only
  rw [hk]
  dsimp only
  rw [hq, streamChunk, apply_ite (f := Host.Outcome.next)]
  rfl

theorem rowEntry_stream {ch n : Nat} {v : V128} {l : List V128} (ha : Alone s g o)
    (hr : running ((s.core g).mq (ten == 1)) = some o) (ht : (s.mctxOf o).tile = some t8)
    (hk : o.kind = .mmuls int ch (n + 1)) (hq : (s.core g).arrayStream ch = v :: l) :
    Completes (.matrixRowEntry g ten) s (fun t =>
      (picot v = true → t.matrix? o.ref = some { o with kind := .mmuls int ch 0, buf := [] }) ∧
      (picot v = false → s.rowBytes o int ≤ o.buf.length + 16 → RowEntered s g o t8 int (o.buf ++ wordBytes 16 v) false t ∧
        (∀ p, t.matrix? o.ref = some p → p.kind = .mmuls int ch n)) ∧
      (t.core g).rq = takeStream ch (s.core g).rq 16 ∧ t = { s with cores := t.cores, net := t.net }) := by
  have ready := ready_streamTaken ha ch
  refine ⟨_, exec_rowEntry_stream hr hk hq, ?_⟩
  cases hv : picot v with
  | true =>
    rw [streamChunk, if_pos hv]
    refine ⟨fun _ => (ready.alone.modMatrix (f := fun o => { o with kind := .mmuls int ch 0, buf := [] }) rfl).matrix?,
      fun h => absurd h.symm Bool.false_ne_true, ?_, ?_⟩
    · rw [core_modMatrix]
      exact rq_streamTaken s g ch
    · rw [modMatrix_eq, streamTaken_shape]
  | false =>
    rw [streamChunk, if_neg (hv ▸ Bool.false_ne_true)]
    refine ⟨fun h => absurd h Bool.false_ne_true, fun _ => entered_chunkIn_whole ready ht, ?_, ?_⟩
    · rw [rq_chunkIn ready ht]
      exact rq_streamTaken s g ch
    · rw [chunkIn_shape, streamTaken_shape]

/-! ## Yield (R342) -/

theorem stallYield_absent (ha : Alone s g o) (hr : running ((s.core g).mq (ten == 1)) = some o) (hp : s.rowPresent g o = false)
    (hother : ∃ p ∈ (s.core g).mq (ten == 1), p.started = false ∧ p.owner ≠ o.owner) :
    Completes (.matrixStallYield g ten) s (fun t => t.matrix? o.ref = some { o with started := false, parked := true } ∧
      t = { s with cores := t.cores }) := by
  have hany : ((s.core g).mq (ten == 1)).any (fun p => !p.started && !decide (p.owner = o.owner)) = true := by
    obtain ⟨p, hp, hs, ho⟩ := hother
    exact List.any_eq_true.2 ⟨p, hp, by simp [hs, ho]⟩
  refine ⟨s.modMatrix o.ref (fun o => { o with started := false, parked := true }), ?_,
    (ha.modMatrix (f := fun o => { o with started := false, parked := true }) rfl).matrix?, modMatrix_shape ..⟩
  rw [exec_matrixStallYield, execMatrixStallYield]
  rw [hr]
  dsimp only
  rw [hp, hany]
  rfl

theorem stallYield_present (hr : running ((s.core g).mq (ten == 1)) = some o) (hp : s.rowPresent g o = true) :
    Completes (.matrixStallYield g ten) s (fun t => t = s) := by
  refine ⟨s, ?_, rfl⟩
  rw [exec_matrixStallYield, execMatrixStallYield]
  rw [hr]
  dsimp only
  rw [hp]
  rfl

/-! ## The tile fetch unit (R343) -/

/-- The line that is read next of a register-kind MMUL in the array. -/
theorem nextFetch_started {rows : List (List Nat)} {line pinned : Nat} (hk : o.kind = .mmulMem int true rows) (hs : o.started = true)
    (hline : (rows.flatMap rowLines).find? (fun x => !o.pins.any (fun p => p.line == x)) = some line)
    (hroom : pinned < 56 ∨ ∃ r, rows.head? = some r ∧ line ∈ rowLines r) : o.nextFetch pinned = some line := by
  have hto : o.toFetch.head? = some line := by
    rw [MatOp.toFetch, hk]
    dsimp only
    rw [if_pos hs, List.head?_filter, hline]
  have hok : (o.nextLines.contains line || decide (pinned < 56)) = true := by
    rcases hroom with h | ⟨r, hr, hl⟩
    · rw [decide_eq_true h, Bool.or_true]
    · obtain ⟨rest, rfl⟩ := List.head?_eq_some_iff.1 hr
      rw [MatOp.nextLines, hk]
      dsimp only
      rw [List.contains_iff_mem.2 hl, Bool.true_or]
  rw [MatOp.nextFetch, hto]
  exact if_pos hok

/-- A line read in order from memory that holds no poison. -/
def cleanPin (s : State) (line : Nat) : Pin := { line := line, bytes := bytesAt s (64 * line) 64, poison := false }

theorem engineLine {line : Nat} (hsh : s.shadows = []) (hp : s.poison = []) :
    let bs := (List.range 64).map (fun i => s.engineByte [] (64 * line + i))
    ({ line := line, bytes := bs.map (·.1), poison := bs.any (·.2) } : Pin) = cleanPin s line := by
  have hkeys : (List.range 64).map (fun i => s.engineByte [] (64 * line + i)) =
      ((List.range 64).map (64 * line + ·)).map (s.engineByte []) := by rw [List.map_map]; rfl
  dsimp only
  rw [hkeys, map_engineByte_fst hsh, any_engineByte_snd hp, List.map_map]
  rfl

theorem tileFetch {rows : List (List Nat)} {line : Nat} (ha : Alone s g o) (hmq : (s.core g).mq (ten == 1) = [o])
    (hk : o.kind = .mmulMem int true rows) (hs : o.started = true) (hord : o.rlx = true ∨ s.atomicsBefore o.owner o.ref = false)
    (hroom : (((s.core g).mq0 ++ (s.core g).mq1).map (fun p => p.pins.length)).sum < 56 ∨ ∃ r, rows.head? = some r ∧ line ∈ rowLines r)
    (hsh : s.shadows = []) (hp : s.poison = []) (hol : o.olds = [])
    (hline : (rows.flatMap rowLines).find? (fun x => !o.pins.any (fun p => p.line == x)) = some line) :
    Completes (.tileFetchRead g ten) s (fun t => t.matrix? o.ref =
      some { o with pins := o.pins ++ [{ line := line, bytes := bytesAt s (64 * line) 64, poison := false }] } ∧
      t = { s with cores := t.cores }) := by
  have hfree : (!o.rlx && s.atomicsBefore o.owner o.ref) = false := by
    rcases hord with h | h <;> rw [h]
    · rfl
    · exact Bool.and_false _
  have hpin := engineLine (line := line) hsh hp
  dsimp only at hpin
  refine ⟨s.modMatrix o.ref (fun o => { o with pins := o.pins ++ [cleanPin s line] }), ?_,
    (ha.modMatrix (f := fun o => { o with pins := o.pins ++ [cleanPin s line] }) rfl).matrix?, modMatrix_shape ..⟩
  rw [exec_tileFetchRead, execTileFetchRead]
  dsimp only
  rw [hmq, List.findSome?_singleton, hfree, if_neg Bool.false_ne_true, nextFetch_started hk hs hline hroom, Option.map_some]
  dsimp only
  rw [hol, hpin]

end

end Sys2Proof.Safety

/-! SUPPORT. The last step of each kind of matrix instruction, and the clearing of banks (R161-R167, R174, R342); MatrixEvents. -/

namespace Sys2Proof.Safety

open Sys2Proof.Machine

/-- An instruction has left the queues of its core, and no other core has changed. -/
def LeftQueue (s : State) (g : Nat) (o : MatOp) (t : State) : Prop :=
  (∀ p ∈ (t.core g).mq0 ++ (t.core g).mq1, p.ref ≠ o.ref) ∧ (∀ h, h ≠ g → t.core h = s.core h)

theorem leftQueue_dropMatrix {s u : State} {g : Nat} (o : MatOp) (h : ∀ x, x ≠ g → u.core x = s.core x) :
    LeftQueue s g o (u.dropMatrix g o.ref) :=
  ⟨dropMatrix_left u g o.ref, fun x hx => (core_dropMatrix_of_ne u o.ref hx).trans (h x hx)⟩

theorem core_modCore_of_ne (s : State) {g x : Nat} (f : Core → Core) (h : x ≠ g) : (s.modCore g f).core x = s.core x :=
  (State.core_modCore ..).trans (if_neg h)

theorem core_modCore_self (s : State) (g : Nat) (f : Core → Core) : (s.modCore g f).core g = f (s.core g) :=
  (State.core_modCore ..).trans (if_pos rfl)

/-! ## What the last steps do to cells and matrix contexts -/

/-- The four cells that an MWR writes. -/
def writeGroup (b grp : Nat) (v : V128) (c : Core) : Core :=
  (List.range 4).foldl (fun c i => c.setCell b (4 * grp + i) (v.extractLsb' (32 * i) 32)) c

theorem cell_writeGroup {grp : Nat} (hg : grp < 128) (b : Nat) (v : V128) (c : Core) (x : Nat) {i : Nat} (hi : i < 512) :
    (writeGroup b grp v c).cell x i = if x = b ∧ i / 4 = grp then lane 32 v (i % 4) else c.cell x i := by
  refine (cell_setCells b (4 * grp) (fun i => v.extractLsb' (32 * i) 32) c 4 (by omega) x i hi).trans ?_
  have hin : (x = b ∧ 4 * grp ≤ i ∧ i < 4 * grp + 4) ↔ (x = b ∧ i / 4 = grp) := by omega
  rw [if_congr hin rfl rfl]
  split
  · next h =>
    have hi4 : i - 4 * grp = i % 4 := by omega
    rw [lane, hi4, Nat.mul_comm]
  · rfl

theorem strand?_modMctx (s : State) (i : Sid) (f : MatrixCtx → MatrixCtx) :
    (s.modMctx i f).strand? i = (s.strand? i).map (fun c => { c with mctx := f c.mctx }) :=
  (State.strand?_modStrand s i i (fun c => { c with mctx := f c.mctx }) fun _ => rfl).trans (if_pos rfl)

/-- The 16-bit elements of bytes, in memory order. -/
theorem tileElems_bf16 {bs : List Byte} {j : Nat} (h : 2 * j + 1 < bs.length) :
    (tileElems .bf16 bs)[j]? = some (BitVec.ofNat 16 (leNat [bs[2 * j], bs[2 * j + 1]])) := by
  have hpair : (bs.drop (2 * j)).take 2 = [bs[2 * j], bs[2 * j + 1]] := by
    rw [List.drop_eq_getElem_cons (by omega), List.take_succ_cons, List.drop_eq_getElem_cons h, List.take_succ_cons, List.take_zero]
  have helems : tileElems .bf16 bs = (List.range (bs.length / 2)).map (fun i => BitVec.ofNat 16 (leNat ((bs.drop (2 * i)).take 2))) := rfl
  rw [helems, List.getElem?_map, List.getElem?_range (by omega), Option.map_some, hpair]

/-- The matrix context after a codebook was read. -/
def codebookRead (s : State) (o : MatOp) (src : List Nat) (x : MatrixCtx) : MatrixCtx :=
  { x with staged := tileElems .bf16 (src.map (Memory.get s.mem)), stagedPoison := (src.map (s.engineByte o.olds)).any (·.2) }

/-- The matrix context after a tile was latched. -/
def tileLatched (s : State) (o : MatOp) (fmt : WFmt) (kk : Nat) (rows : List (List Nat)) (x : MatrixCtx) : MatrixCtx :=
  { x with
    tile := some { s.readTile o fmt kk rows with poison := (s.readTile o fmt kk rows).poison || (fmt == .c4 && x.stagedPoison) },
    latched := if fmt = .c4 then x.staged else x.latched }

section
variable {s : State} {g ten : Nat} {o : MatOp}

/-- The instruction that completes is the first that has nothing left to do. -/
theorem exec_opComplete (hd : ((s.core g).mq (ten == 1)).find? (·.finishing) = some o) (hl : s.locks = []) {u : State}
    (hfin : s.finishMatrix g o = u) : exec (.matrixOpComplete g ten) s = .next (u.dropMatrix g o.ref) := by
  have hfind : ((s.core g).mq (ten == 1)).find? (fun o => o.finishing && !s.matrixWaits g o) = some o := by
    rw [← hd]
    congr 1
    funext p
    rw [matrixWaits_of_no_locks hl, Bool.not_false, Bool.and_true]
  rw [exec_matrixOpComplete, execMatrixOpComplete, hfind, ← hfin]

section
variable (hd : ((s.core g).mq (ten == 1)).find? (·.finishing) = some o) (hl : s.locks = [])
include hd hl

/-! ## Cells (R163, R165) -/

theorem opComplete_mzero (hk : o.kind = .mzero) : Completes (.matrixOpComplete g ten) s (fun t =>
    (∀ x i, i < 512 → (t.core g).cell x i = if o.base ≤ x ∧ x < o.base + o.banks then 0 else (s.core g).cell x i) ∧
    LeftQueue s g o t ∧ t = { s with cores := t.cores }) := by
  have hfin : s.finishMatrix g o = s.modCore g (·.zeroBanks o.base o.banks) := by rw [State.finishMatrix, hk]
  refine ⟨_, exec_opComplete hd hl hfin, fun x i hi => ?_, leftQueue_dropMatrix o fun x => core_modCore_of_ne s _, rfl⟩
  rw [cell_dropMatrix, core_modCore_self, cell_zeroBanks _ _ _ _ hi]

theorem opComplete_mwr {n : Nat} {v : V128} (hk : o.kind = .mwr n v) (hn : n < 128) : Completes (.matrixOpComplete g ten) s (fun t =>
    (∀ x i, i < 512 → (t.core g).cell x i = if x = o.base ∧ i / 4 = n then lane 32 v (i % 4) else (s.core g).cell x i) ∧
    LeftQueue s g o t ∧ t = { s with cores := t.cores }) := by
  have hfin : s.finishMatrix g o = s.modCore g (writeGroup o.base n v) := by rw [State.finishMatrix, hk]; rfl
  refine ⟨_, exec_opComplete hd hl hfin, fun x i hi => ?_, leftQueue_dropMatrix o fun x => core_modCore_of_ne s _, rfl⟩
  rw [cell_dropMatrix, core_modCore_self, cell_writeGroup hn _ _ _ _ hi]

/-! ## Codebooks and tiles (R166, R167) -/

theorem opComplete_mcbl {src : List Nat} (hk : o.kind = .mcbl src) (hsh : s.shadows = []) (hol : o.olds = []) (hlen : src.length = 32) :
    Completes (.matrixOpComplete g ten) s (fun t =>
      (∀ p, t.strand? o.owner = some p → ∀ j, j < 16 → p.mctx.staged[j]? = some (BitVec.ofNat 16
        (leNat [Memory.get s.mem (src.getD (2 * j) 0), Memory.get s.mem (src.getD (2 * j + 1) 0)]))) ∧
      LeftQueue s g o t ∧ t = { s with me := t.me, rest := t.rest, cores := t.cores }) := by
  have hfin : s.finishMatrix g o = s.modMctx o.owner (codebookRead s o src) := by
    have hread : codebookRead s o src = fun x => { x with
        staged := tileElems .bf16 ((src.map (s.engineByte o.olds)).map (·.1)),
        stagedPoison := (src.map (s.engineByte o.olds)).any (·.2) } := by
      rw [hol, map_engineByte_fst hsh, ← hol]
      rfl
    rw [State.finishMatrix, hk, hread]
  refine ⟨_, exec_opComplete hd hl hfin, fun p hp j hj => ?_, leftQueue_dropMatrix o fun _ _ => rfl, rfl⟩
  obtain ⟨c, _, rfl⟩ := Option.map_eq_some_iff.1 ((strand?_modMctx s o.owner (codebookRead s o src)).symm.trans hp)
  have hj2 : 2 * j + 1 < src.length := by omega
  rw [codebookRead, tileElems_bf16 (by rw [List.length_map]; exact hj2), List.getElem_map, List.getElem_map,
    List.getD_eq_getElem _ _ hj2, List.getD_eq_getElem _ _ (by omega : 2 * j < src.length)]

theorem opComplete_mwld {fmt : WFmt} {kk : Nat} {rows : List (List Nat)} (hk : o.kind = .mwld fmt kk rows) :
    Completes (.matrixOpComplete g ten) s (fun t =>
      (∀ p, s.strand? o.owner = some p → ∃ r, t.strand? o.owner = some r ∧
        r.mctx.tile = some { s.readTile o fmt kk rows with poison := (s.readTile o fmt kk rows).poison || (fmt == .c4 && p.mctx.stagedPoison) } ∧
        r.mctx.latched = (if fmt = .c4 then p.mctx.staged else p.mctx.latched) ∧ r.mctx.staged = p.mctx.staged) ∧
      LeftQueue s g o t ∧ t = { s with me := t.me, rest := t.rest, cores := t.cores }) := by
  have hfin : s.finishMatrix g o = s.modMctx o.owner (tileLatched s o fmt kk rows) := by
    rw [State.finishMatrix, hk]
    rfl
  refine ⟨_, exec_opComplete hd hl hfin, fun p hp => ?_, leftQueue_dropMatrix o fun _ _ => rfl, rfl⟩
  exact ⟨_, (strand?_modMctx s o.owner (tileLatched s o fmt kk rows)).trans (congrArg (Option.map _) hp), rfl, rfl, rfl⟩

/-! ## Banks, streams and drains (R162, R168, R174) -/

theorem opComplete_rel (hk : o.kind = .rel) : Completes (.matrixOpComplete g ten) s (fun t =>
    LeftQueue s g o t ∧ (∀ x i, (t.core g).cell x i = (s.core g).cell x i) ∧
    (∀ x, x < 128 → (t.core g).bankState x = if o.base ≤ x ∧ x < o.base + o.banks ∧ (s.core g).bankState x = .leaving o.owner
      then .clearing else (s.core g).bankState x) ∧
    t = { s with cores := t.cores }) := by
  obtain ⟨honly, hst⟩ := clearLeft_spec o.owner o.base (s.core g) o.banks
  have hfin : s.finishMatrix g o = s.modCore g (fun c => c.clearLeft o.owner o.base o.banks) := by rw [State.finishMatrix, hk]; rfl
  refine ⟨_, exec_opComplete hd hl hfin, leftQueue_dropMatrix o fun x => core_modCore_of_ne s _, fun x i => ?_, fun x hx => ?_, rfl⟩
  · rw [cell_dropMatrix, core_modCore_self, honly]
    rfl
  · rw [bankState_dropMatrix, core_modCore_self, hst x hx]

/-- A shape, or a stream with no row left, only leaves the queue. -/
theorem opComplete_empty (hfin : s.finishMatrix g o = s) : Completes (.matrixOpComplete g ten) s (fun t =>
    LeftQueue s g o t ∧ (∀ x i, (t.core g).cell x i = (s.core g).cell x i) ∧ t = { s with cores := t.cores }) :=
  ⟨_, exec_opComplete hd hl hfin, leftQueue_dropMatrix o fun _ _ => rfl, cell_dropMatrix s g o.ref, rfl⟩

theorem opComplete_mdrain {w rm : Nat} {int : Bool} {ty : Ty} {dst : List (List Nat)} {scale : Option (List Nat)} {bar : Option Nat}
    (hk : o.kind = .mdrain w int ty rm dst scale bar) : Completes (.matrixOpComplete g ten) s (fun t =>
      LeftQueue s g o t ∧ (bar = none → t.net = s.net) ∧
      (∀ x, bar = some x → Sent s t .ctl (s.ownerCore o.owner) (unitOf x) (.decrement o.owner.launch x)) ∧
      t = { s with cores := t.cores, net := t.net }) := by
  have hfin : s.finishMatrix g o = s.sendDecrement o.owner.launch (s.ownerCore o.owner) bar := by rw [State.finishMatrix, hk]
  refine ⟨_, exec_opComplete hd hl hfin, leftQueue_dropMatrix o fun x _ => ?_, ?_, ?_, ?_⟩
  · rw [sendDecrement_shape]
    rfl
  · rintro rfl
    rfl
  · rintro x rfl
    rfl
  · rw [sendDecrement_shape]
    rfl

end

/-! ## Clearing (R161) -/

theorem bankClear {b : Nat} (hc : (s.core g).bankState b = .clearing) : Completes (.bankClearDone g b) s (fun t =>
    (∀ x i, i < 512 → (t.core g).cell x i = if x = b then 0 else (s.core g).cell x i) ∧
    (∀ x, x < 128 → (t.core g).bankState x = if x = b then .free else (s.core g).bankState x) ∧
    (∀ h, h ≠ g → t.core h = s.core h) ∧ t = { s with cores := t.cores }) := by
  have hone : ∀ x, (b ≤ x ∧ x < b + 1) ↔ x = b := fun x => by omega
  refine ⟨s.modCore g (fun c => (c.zeroBanks b 1).setBanks b 1 .free), ?_, fun x i hi => ?_, fun x hx => ?_,
    fun x => core_modCore_of_ne s _, rfl⟩
  · rw [exec_bankClearDone, execBankClearDone]
    exact if_pos hc
  · rw [core_modCore_self, cell_setBanks, cell_zeroBanks _ _ _ _ hi, if_congr (hone x) rfl rfl]
  · rw [core_modCore_self, bankState_setBanks _ _ _ _ hx, if_congr (hone x) rfl rfl]
    rfl

end

/-- The instruction that a statement names is alone with its reference. -/
theorem alone_of_mine {s : State} {g : Nat} {t : Bool} {o : MatOp} (h : o ∈ (s.core g).mq t ∧
    ∀ e ∈ s.cores, ∀ p ∈ e.2.mq0 ++ e.2.mq1, p.ref = o.ref → e.1 = g ∧ p = o) : Alone s g o :=
  ⟨mem_queues_of_mem_mq h.1, h.2⟩

/-- Settles O42: an instruction with a reference of its own is found and changed in place (`Alone`), a row enters the cells
column by column (`Ready.rowEntered`), and each kind has one lemma for its last step. -/
theorem matrixEvents : Obligations.MatrixEvents := by
  unfold Obligations.MatrixEvents
  intro g ten b line int o keys rows bs bad q v l n ch w rm t8 fmt kk src ty dst scale bar s c mq mine free runs weights left entered done
  refine ⟨?start, ?drain, matrixOpStart_busy, ?memory, ?fetched, ?unfetched, ?queue, ?stream, ?absent, ?present, ?fetch, ?mzero, ?mwr, ?mcbl,
    ?mwld, ?rel, ?empty, ?mdrain, fun hc _ => bankClear hc⟩
  case start => exact fun ⟨hr, hn, hm⟩ => matrixOpStart_plain (alone_of_mine hm) hr hn
  case drain => exact fun ⟨hr, hn, hm⟩ => matrixOpStart_drain (alone_of_mine hm) hr hn
  case memory => exact fun ⟨hr, hm⟩ => rowEntry_memory (alone_of_mine hm) hr
  case fetched => exact fun ⟨hr, hm⟩ => rowEntry_fetched (alone_of_mine hm) hr
  case unfetched => exact fun ⟨hr, _⟩ => rowEntry_unfetched hr
  case queue => exact fun ⟨hr, hm⟩ => rowEntry_queue (alone_of_mine hm) hr
  case stream => exact fun ⟨hr, hm⟩ => rowEntry_stream (alone_of_mine hm) hr
  case absent => exact fun ⟨hr, hm⟩ => stallYield_absent (alone_of_mine hm) hr
  case present => exact fun ⟨hr, _⟩ => stallYield_present hr
  case fetch => exact fun hmq hm => tileFetch (alone_of_mine hm) hmq
  case mzero => exact fun ⟨hd, hl⟩ => opComplete_mzero hd hl
  case mwr => exact fun ⟨hd, hl⟩ => opComplete_mwr hd hl
  case mcbl => exact fun ⟨hd, hl⟩ => opComplete_mcbl hd hl
  case mwld => exact fun ⟨hd, hl⟩ => opComplete_mwld hd hl
  case rel => exact fun ⟨hd, hl⟩ => opComplete_rel hd hl
  case empty =>
    refine fun ⟨hd, hl⟩ hk => opComplete_empty hd hl ?_
    rw [State.finishMatrix]
    rcases hk with hk | hk | hk | hk <;> rw [hk]
  case mdrain => exact fun ⟨hd, hl⟩ => opComplete_mdrain hd hl

end Sys2Proof.Safety

/-! SUPPORT. Words and their fields (R46, R48, R51): a word and its fields are one another's image, and so are a list of words and
its pieces. -/

namespace Sys2Proof

/-! ## Words and fields -/

theorem toNat_append_add {m n : Nat} (x : BitVec m) (y : BitVec n) : (x ++ y).toNat = 2 ^ n * x.toNat + y.toNat := by
  rw [BitVec.toNat_append, ← Nat.shiftLeft_add_eq_or_of_lt y.isLt, Nat.shiftLeft_eq, Nat.mul_comm]

theorem F0.toNat_pack (f : F0) : f.pack.toNat = f.op.toNat * 2 ^ 26 + f.mod.toNat * 2 ^ 22 + f.b.toNat * 2 ^ 17 +
    f.a.toNat * 2 ^ 12 + f.d.toNat * 2 ^ 7 + f.maj.toNat * 2 ^ 2 + f.L.toNat := by
  show (f.op ++ f.mod ++ f.b ++ f.a ++ f.d ++ f.maj ++ f.L).toNat = _
  simp only [toNat_append_add]
  omega

theorem F1.toNat_pack (f : F1) : f.pack.toNat = f.c.toNat * 2 ^ 27 + f.e.toNat * 2 ^ 22 + f.mask.toNat * 2 ^ 19 +
    f.z.toNat * 2 ^ 18 + f.chan.toNat * 2 ^ 12 + f.ak.toNat * 2 ^ 10 + f.bk.toNat * 2 ^ 8 + f.ty.toNat * 2 ^ 4 +
    f.p.toNat * 2 ^ 3 + f.rsv.toNat := by
  show (f.c ++ f.e ++ f.mask ++ f.z ++ f.chan ++ f.ak ++ f.bk ++ f.ty ++ f.p ++ f.rsv).toNat = _
  simp only [toNat_append_add]
  omega

@[simp] theorem F0.unpack_pack (f : F0) : F0.unpack f.pack = f := by
  obtain ⟨op, mod, b, a, d, maj, L⟩ := f
  simp only [F0.unpack, F0.mk.injEq, ← BitVec.toNat_inj, BitVec.extractLsb'_toNat, F0.toNat_pack, Nat.shiftRight_eq_div_pow]
  omega

@[simp] theorem F0.pack_unpack (w : W32) : (F0.unpack w).pack = w := by
  show w.extractLsb' 26 6 ++ w.extractLsb' 22 4 ++ w.extractLsb' 17 5 ++ w.extractLsb' 12 5 ++ w.extractLsb' 7 5 ++
    w.extractLsb' 2 5 ++ w.extractLsb' 0 2 = w
  simp only [BitVec.extractLsb'_append_extractLsb'_eq_extractLsb']
  exact BitVec.extractLsb'_eq_self

@[simp] theorem F1.unpack_pack (f : F1) : F1.unpack f.pack = f := by
  obtain ⟨c, e, mask, z, chan, ak, bk, ty, p, rsv⟩ := f
  simp only [F1.unpack, F1.mk.injEq, ← BitVec.toNat_inj, BitVec.extractLsb'_toNat, F1.toNat_pack, Nat.shiftRight_eq_div_pow]
  omega

@[simp] theorem F1.pack_unpack (w : W32) : (F1.unpack w).pack = w := by
  show w.extractLsb' 27 5 ++ w.extractLsb' 22 5 ++ w.extractLsb' 19 3 ++ w.extractLsb' 18 1 ++ w.extractLsb' 12 6 ++
    w.extractLsb' 10 2 ++ w.extractLsb' 8 2 ++ w.extractLsb' 4 4 ++ w.extractLsb' 3 1 ++ w.extractLsb' 0 3 = w
  simp only [BitVec.extractLsb'_append_extractLsb'_eq_extractLsb']
  exact BitVec.extractLsb'_eq_self

/-- A literal is its two words, the low one first (R47). -/
@[simp] theorem lit_halves (v : W64) : v.extractLsb' 32 32 ++ v.extractLsb' 0 32 = v :=
  BitVec.extractLsb'_append_extractLsb' (w := 32) (len := 32) (x := v)

@[simp] theorem lit_low (hi lo : W32) : (hi ++ lo : W64).extractLsb' 0 32 = lo :=
  BitVec.extractLsb'_append_eq_right

@[simp] theorem lit_high (hi lo : W32) : (hi ++ lo : W64).extractLsb' 32 32 = hi :=
  BitVec.extractLsb'_append_eq_left

/-! ## The pieces of an instruction (R46) -/

/-- The pieces that L leaves out are zero (R46). -/
structure Raw.Canon (r : Raw) : Prop where
  ext : r.f0.L = 0 ∨ r.f0.L = 1 → r.f1 = f1Zero ∧ r.w2 = 0
  lit : r.f0.L = 0 ∨ r.f0.L = 2 → r.lit = 0

theorem L_cases (L : BitVec 2) : L = 0 ∨ L = 1 ∨ L = 2 ∨ L = 3 := by
  revert L; decide

theorem Raw.ofWords_words {r : Raw} (h : r.Canon) : Raw.ofWords r.words = some r := by
  obtain ⟨f0, f1, w2, lit⟩ := r
  obtain ⟨hext, hlit⟩ := h
  obtain hL | hL | hL | hL := L_cases f0.L <;> simp [hL] at hext hlit <;> simp [Raw.words, Raw.ofWords, hL, hext, hlit, f1Zero]

theorem Raw.words_of_ofWords {ws : List W32} {r : Raw} (h : Raw.ofWords ws = some r) :
    r.Canon ∧ r.words = ws.take (lengthOf (ws.headD 0)) := by
  cases ws with
  | nil => cases h
  | cons w0 ws =>
    have hlen : lengthOf w0 = wordsOf (F0.unpack w0).L := rfl
    rw [List.headD_cons, hlen]
    unfold Raw.ofWords at h
    dsimp only at h
    split at h
    all_goals cases h
    case h_1 hL =>
      have hL : (F0.unpack w0).L = 0 := BitVec.eq_of_toNat_eq hL
      exact ⟨⟨fun _ => ⟨rfl, rfl⟩, fun _ => rfl⟩, by simp [Raw.words, wordsOf, hL]⟩
    case h_2 hL =>
      have hL : (F0.unpack w0).L = 1 := BitVec.eq_of_toNat_eq hL
      exact ⟨⟨fun _ => ⟨rfl, rfl⟩, by simp [hL]⟩, by simp [Raw.words, wordsOf, hL]⟩
    case h_3 hL =>
      have hL : (F0.unpack w0).L = 2 := BitVec.eq_of_toNat_eq hL
      exact ⟨⟨by simp [hL], fun _ => rfl⟩, by simp [Raw.words, wordsOf, hL]⟩
    case h_4 hL =>
      have hL : (F0.unpack w0).L = 3 := BitVec.eq_of_toNat_eq hL
      exact ⟨⟨by simp [hL], by simp [hL]⟩, by simp [Raw.words, wordsOf, hL]⟩

theorem decode_words {r : Raw} (h : r.Canon) : decode r.words = decodeRaw r := by
  rw [decode, Raw.ofWords_words h]

/-! ## Codes (R23, R52, R66, R73, R166) -/

@[simp] theorem Ty.ofCode?_code (t : Ty) : Ty.ofCode? t.code = some t := by cases t <;> rfl
@[simp] theorem tyOf_code (t : Ty) : tyOf t.code = t := by cases t <;> rfl
@[simp] theorem badTy_code (ok : Ty → Bool) (t : Ty) : badTy ok t.code = !ok t := by simp [badTy]
theorem Ty.code_of_ofCode? {c : BitVec 4} {t : Ty} (h : Ty.ofCode? c = some t) : t.code = c := by
  revert c t
  decide

/-- A type field that names a type the instruction takes is that type's code. -/
theorem badTy_eq_false {ok : Ty → Bool} {c : BitVec 4} : badTy ok c = false ↔ ok (tyOf c) = true ∧ (tyOf c).code = c := by
  constructor
  · intro h
    unfold badTy at h
    cases hc : Ty.ofCode? c with
    | none => simp [hc] at h
    | some t =>
      have ht : tyOf c = t := by rw [tyOf, hc]; rfl
      rw [ht]
      exact ⟨by simpa [hc] using h, Ty.code_of_ofCode? hc⟩
  · rintro ⟨ht, hc⟩
    rw [← hc, badTy_code, ht]
    rfl

/-! ## Verdicts -/

/-- Every check of a list is passed. -/
def Passes (cs : List Check) : Prop := ∀ c ∈ cs, c.2.2 = false

@[simp] theorem passes_nil : Passes [] := fun _ h => absurd h List.not_mem_nil

@[simp] theorem passes_cons {c : Check} {cs : List Check} : Passes (c :: cs) ↔ c.2.2 = false ∧ Passes cs :=
  List.forall_mem_cons

@[simp] theorem passes_append {cs ds : List Check} : Passes (cs ++ ds) ↔ Passes cs ∧ Passes ds :=
  List.forall_mem_append

theorem verdict_ok {cs : List Check} {i j : Instr} : verdict cs i = .ok j ↔ Passes cs ∧ i = j := by
  unfold verdict
  cases h : cs.find? (fun c => c.2.2) with
  | none =>
    have hp : Passes cs := fun c hc => by simpa using List.find?_eq_none.1 h c hc
    simp [hp]
  | some c =>
    have hp : ¬ Passes cs := fun hp => by
      have hf := hp c (List.mem_of_find?_eq_some h)
      have ht := List.find?_some h
      rw [hf] at ht
      cases ht
    simp [hp]

/-- The pieces are those of an instruction that the decoder answers for them. -/
structure Raw.Reads (r : Raw) (i : Instr) : Prop where
  canon : r.Canon
  read : decodeRaw r = .ok i

/-- The instruction is well formed and no event, and its pieces are exactly these. -/
structure Raw.Spells (r : Raw) (i : Instr) : Prop where
  wf : WellFormed i = true
  instr : Machine.isEvent i = false
  raw : encodeRaw i = r

theorem decodeRaw_base {r : Raw} (h : r.f0.L = 0 ∨ r.f0.L = 1) : decodeRaw r = decodeBase r := by
  rcases h with h | h <;> simp [decodeRaw, h]

theorem decodeRaw_ext {r : Raw} (h : r.f0.L = 2 ∨ r.f0.L = 3) : decodeRaw r = decodeExt r := by
  rcases h with h | h <;> simp [decodeRaw, h]

theorem Raw.srcB_reg {r : Raw} (h : r.f0.L = 0 ∨ r.f0.L = 2) : r.srcB = .reg r.f0.b := by
  rcases h with h | h <;> simp [Raw.srcB, h]

theorem Raw.srcB_lit {r : Raw} (h : r.f0.L = 1 ∨ r.f0.L = 3) : r.srcB = .lit r.lit := by
  rcases h with h | h <;> simp [Raw.srcB, h]

end Sys2Proof

/-! SUPPORT. The base majors (R59-R70): what the decoder answers for the pieces of a base word spells them. -/

namespace Sys2Proof

open Machine (isEvent)

theorem eq_ofNat_of_toNat {w k : Nat} {x : BitVec w} (h : x.toNat = k) : x = BitVec.ofNat w k := by
  rw [← h, BitVec.ofNat_toNat, BitVec.setWidth_eq]

theorem canon_rform {maj op mod b a d} : (rform maj op mod b a d).Canon := ⟨fun _ => ⟨rfl, rfl⟩, fun _ => rfl⟩

theorem canon_rformB {kind maj op mod b a d} : (rformB kind maj op mod b a d).Canon := by
  cases b
  · exact canon_rform
  · exact ⟨fun _ => ⟨rfl, rfl⟩, by simp [rformB]⟩

/-! ## Fields written back -/

theorem bad3_eq_false {f : BitVec 5} : bad3 f = false ↔ (f.setWidth 3).setWidth 5 = f := by
  revert f; decide

theorem two_le_mod {m : BitVec 4} : decide (2 ≤ m.toNat) = false ↔ (flagBit (m.getLsbD 0)).setWidth 4 = m := by
  revert m; decide

theorem noLit_passed {r : Raw} : (noLit r).2.2 = false ↔ ¬ r.f0.L = 1 := by
  simp [noLit]

/-- A base word without a literal. -/
theorem Raw.Canon.eq_rform {r : Raw} (hc : r.Canon) (hL : r.f0.L = 0) :
    r = rform r.f0.maj r.f0.op r.f0.mod r.f0.b r.f0.a r.f0.d := by
  obtain ⟨⟨op, mod, b, a, d, maj, L⟩, f1, w2, lit⟩ := r
  obtain ⟨rfl, rfl⟩ := hc.ext (.inl hL)
  obtain rfl : L = 0 := hL
  obtain rfl : lit = 0 := hc.lit (.inl rfl)
  rfl

/-- A base word whose source b may be a literal of a kind. -/
theorem Raw.Canon.eq_rformB {r : Raw} (hc : r.Canon) {kind : BitVec 5} (hL : r.f0.L = 0 ∨ r.f0.L = 1)
    (hk : r.f0.L = 1 → r.f0.b = kind) : r = rformB kind r.f0.maj r.f0.op r.f0.mod r.srcB r.f0.a r.f0.d := by
  obtain hl | hl := hL
  · rw [Raw.srcB_reg (.inl hl)]
    exact hc.eq_rform hl
  · rw [Raw.srcB_lit (.inl hl)]
    obtain ⟨⟨op, mod, b, a, d, maj, L⟩, f1, w2, lit⟩ := r
    obtain ⟨rfl, rfl⟩ := hc.ext (.inr hl)
    obtain rfl : L = 1 := hl
    obtain rfl : b = kind := hk rfl
    rfl

section
variable {r : Raw} {i : Instr} {maj : BitVec 5} {op : BitVec 6} {mod : BitVec 4} {b a d : BitVec 5}

/-- A base word spells the instruction whose encoding has its fields. -/
theorem Raw.Canon.spells (hc : r.Canon) (hL : r.f0.L = 0) (hwf : WellFormed i = true) (hev : isEvent i = false)
    (henc : encodeRaw i = rform maj op mod b a d) (hmaj : r.f0.maj = maj) (hop : r.f0.op = op) (hmod : r.f0.mod = mod)
    (hb : r.f0.b = b) (ha : r.f0.a = a) (hd : r.f0.d = d) : r.Spells i := by
  subst hmaj hop hmod hb ha hd
  exact ⟨hwf, hev, henc.trans (hc.eq_rform hL).symm⟩

end

/-! ## Immediates of several fields (R48, R64) -/

theorem F0.disp10_op (f : F0) : f.disp10.extractLsb' 4 6 = f.op := BitVec.extractLsb'_append_eq_left

theorem F0.disp10_mod (f : F0) : f.disp10.extractLsb' 0 4 = f.mod := BitVec.extractLsb'_append_eq_right

theorem F0.toNat_imm15 (f : F0) : f.imm15.toNat = f.op.toNat * 2 ^ 9 + f.mod.toNat * 2 ^ 5 + f.b.toNat := by
  show (f.op ++ f.mod ++ f.b).toNat = _
  simp only [toNat_append_add]
  omega

theorem F0.toNat_imm20 (f : F0) : f.imm20.toNat = f.op.toNat * 2 ^ 14 + f.mod.toNat * 2 ^ 10 + f.b.toNat * 2 ^ 5 + f.a.toNat := by
  show (f.op ++ f.mod ++ f.b ++ f.a).toNat = _
  simp only [toNat_append_add]
  omega

theorem F0.toNat_imm25 (f : F0) : f.imm25.toNat = f.imm20.toNat * 2 ^ 5 + f.d.toNat := by
  rw [F0.toNat_imm20]
  show (f.op ++ f.mod ++ f.b ++ f.a ++ f.d).toNat = _
  simp only [toNat_append_add]
  omega

theorem F0.toNat_off11 (f : F0) : f.off11.toNat = f.op.toNat * 2 ^ 5 + f.mod.toNat * 2 + f.b.toNat / 2 ^ 4 := by
  show (f.op ++ f.mod ++ f.b.extractLsb' 4 1).toNat = _
  simp only [toNat_append_add, BitVec.extractLsb'_toNat, Nat.shiftRight_eq_div_pow]
  omega

theorem F0.toNat_num12 (f : F0) : f.num12.toNat = f.op.toNat % 2 ^ 3 * 2 ^ 9 + f.mod.toNat * 2 ^ 5 + f.b.toNat := by
  show (f.op.extractLsb' 0 3 ++ f.mod ++ f.b).toNat = _
  simp only [toNat_append_add, BitVec.extractLsb'_toNat, Nat.shiftRight_eq_div_pow]
  omega

theorem iform_imm15 (f : F0) (maj a d : BitVec 5) : iform maj f.imm15 a d = rform maj f.op f.mod f.b a d := by
  simp only [iform, rform, Raw.mk.injEq, F0.mk.injEq, ← BitVec.toNat_inj, BitVec.extractLsb'_toNat, F0.toNat_imm15,
    Nat.shiftRight_eq_div_pow, and_true]
  omega

theorem wform_imm20 (f : F0) (maj d : BitVec 5) : wform maj f.imm20 d = rform maj f.op f.mod f.b f.a d := by
  simp only [wform, rform, Raw.mk.injEq, F0.mk.injEq, ← BitVec.toNat_inj, BitVec.extractLsb'_toNat, F0.toNat_imm20,
    Nat.shiftRight_eq_div_pow, and_true]
  omega

theorem jform_imm25 (f : F0) (maj : BitVec 5) : jform maj f.imm25 = rform maj f.op f.mod f.b f.a f.d := by
  have hi : f.imm25.extractLsb' 5 20 = f.imm20 := by
    apply BitVec.eq_of_toNat_eq
    rw [BitVec.extractLsb'_toNat, F0.toNat_imm25, Nat.shiftRight_eq_div_pow]
    omega
  have hd : f.imm25.extractLsb' 0 5 = f.d := by
    apply BitVec.eq_of_toNat_eq
    rw [BitVec.extractLsb'_toNat, F0.toNat_imm25, Nat.shiftRight_eq_div_pow]
    omega
  rw [jform, hi, hd, wform_imm20]

theorem imform_off11 {f : F0} {low4 : BitVec 4} (h : low4 = f.b.setWidth 4) (maj a d : BitVec 5) :
    imform maj f.off11 low4 a d = rform maj f.op f.mod f.b a d := by
  subst h
  have hb : f.off11.extractLsb' 0 1 ++ f.b.setWidth 4 = f.b := by
    apply BitVec.eq_of_toNat_eq
    rw [toNat_append_add, BitVec.extractLsb'_toNat, F0.toNat_off11, BitVec.toNat_setWidth, Nat.shiftRight_eq_div_pow]
    omega
  rw [imform, hb]
  simp only [rform, Raw.mk.injEq, F0.mk.injEq, ← BitVec.toNat_inj, BitVec.extractLsb'_toNat, F0.toNat_off11,
    Nat.shiftRight_eq_div_pow, and_true]
  omega

theorem sysform_num12 (f : F0) (a d : BitVec 5) :
    sysform (f.op.extractLsb' 3 3) f.num12 a d = rform 14 f.op f.mod f.b a d := by
  have hop : f.op.extractLsb' 3 3 ++ f.num12.extractLsb' 9 3 = f.op := by
    apply BitVec.eq_of_toNat_eq
    rw [toNat_append_add, BitVec.extractLsb'_toNat, BitVec.extractLsb'_toNat, F0.toNat_num12, Nat.shiftRight_eq_div_pow,
      Nat.shiftRight_eq_div_pow]
    omega
  rw [sysform, hop]
  simp only [rform, Raw.mk.injEq, F0.mk.injEq, ← BitVec.toNat_inj, BitVec.extractLsb'_toNat, F0.toNat_num12,
    Nat.shiftRight_eq_div_pow, true_and, and_true]
  omega

/-- An imm20 of zero has no field set. -/
theorem imm20_zero {f : F0} (h : f.imm20 = 0) : f.op = 0 ∧ f.mod = 0 ∧ f.b = 0 ∧ f.a = 0 := by
  have h0 := congrArg BitVec.toNat h
  rw [F0.toNat_imm20] at h0
  simp only [← BitVec.toNat_inj, BitVec.toNat_ofNat, BitVec.ofNat_eq_ofNat] at h0 ⊢
  omega

/-- An imm20 whose upper four bits are zero is an index of 16 bits. -/
theorem imm20_index {v : BitVec 20} (h : v.extractLsb' 16 4 = 0) : (v.setWidth 16).setWidth 20 = v := by
  have h0 := congrArg BitVec.toNat h
  apply BitVec.eq_of_toNat_eq
  simp only [BitVec.extractLsb'_toNat, Nat.shiftRight_eq_div_pow, BitVec.toNat_setWidth, BitVec.toNat_ofNat,
    BitVec.ofNat_eq_ofNat] at h0 ⊢
  omega

/-- The low bits of b that hold cf alone (R65). -/
theorem cf_bit {b : BitVec 5} : b.extractLsb' 1 3 = 0 ↔ (flagBit (b.getLsbD 0)).setWidth 4 = b.setWidth 4 := by
  revert b; decide

/-- A SYS word spells the instruction whose encoding has its fields. -/
theorem Raw.Canon.spells_sysform {r : Raw} {i : Instr} {sub : BitVec 3} {n : BitVec 12} {a d : BitVec 5} (hc : r.Canon)
    (hL : r.f0.L = 0) (hwf : WellFormed i = true) (hev : isEvent i = false) (henc : encodeRaw i = sysform sub n a d)
    (hmaj : r.f0.maj = 14) (hsub : r.f0.op.extractLsb' 3 3 = sub) (hn : r.f0.num12 = n) (ha : r.f0.a = a) (hd : r.f0.d = d) :
    r.Spells i := by
  subst hsub hn ha hd
  exact hc.spells hL hwf hev (henc.trans (sysform_num12 ..)) hmaj rfl rfl rfl rfl rfl

/-! ## Windows, scopes and levels (R66) -/

theorem isNone_win {m : BitVec 4} : (Win.ofCode? m).isNone = false ↔ ((Win.ofCode? m).getD .glob).code = m := by
  revert m; decide

theorem isNone_scope {m : BitVec 4} : (Scope.ofCode? m).isNone = false ↔ ((Scope.ofCode? m).getD .core).code = m := by
  revert m; decide

theorem fence_kind {d : BitVec 5} : (d == 0 || decide (4 ≤ d.toNat)) = false ↔
    (d.setWidth 2 != 0) = true ∧ (d.setWidth 2).setWidth 5 = d := by
  revert d; decide

theorem pref_level {m : BitVec 4} : decide (2 ≤ m.toNat) = false ↔ (flagBit (m == 1)).setWidth 4 = m := by
  revert m; decide

/-! ## INT (R61) -/

theorem intBin_encodes {op : BitVec 6} {mk : Ty → Reg → Reg → SrcB → Instr} (h : intBin op.toNat = some mk) (t : Ty)
    (d a : Reg)
    (b : SrcB) : WellFormed (mk t d a b) = t.isInt ∧ isEvent (mk t d a b) = false ∧
      encodeRaw (mk t d a b) = rformB 0 1 op t.code b a d := by
  unfold intBin at h
  split at h
  case h_27 => cases h
  all_goals
    next hop =>
      cases h
      obtain rfl := eq_ofNat_of_toNat hop
      exact ⟨rfl, rfl, rfl⟩

theorem intUn_encodes {op : BitVec 6} {mk : Ty → Reg → Reg → Instr} (h : intUn op.toNat = some mk) (t : Ty) (d a : Reg) :
    WellFormed (mk t d a) = t.isInt ∧ isEvent (mk t d a) = false ∧ encodeRaw (mk t d a) = rform 1 op t.code 0 a d := by
  unfold intUn at h
  split at h
  case h_6 => cases h
  all_goals
    next hop =>
      cases h
      obtain rfl := eq_ofNat_of_toNat hop
      exact ⟨rfl, rfl, rfl⟩

theorem fltBin_encodes {op : BitVec 6} {mk : Ty → Reg → Reg → SrcB → Instr} (h : fltBin op.toNat = some mk) (t : Ty)
    (d a : Reg)
    (b : SrcB) : WellFormed (mk t d a b) = (t.isFlt && b.fltOk t) ∧ isEvent (mk t d a b) = false ∧
      encodeRaw (mk t d a b) = rformB 1 6 op t.code b a d := by
  unfold fltBin at h
  split at h
  case h_10 => cases h
  all_goals
    next hop =>
      cases h
      obtain rfl := eq_ofNat_of_toNat hop
      exact ⟨rfl, rfl, rfl⟩

theorem amoMk_encodes {op : BitVec 6} {mk : Ty → Reg → Reg → SrcB → Instr} (h : amoMk op.toNat = some mk) (t : Ty)
    (d a : Reg)
    (b : SrcB) : WellFormed (mk t d a b) = amoTyOk op.toNat t ∧ isEvent (mk t d a b) = false ∧
      encodeRaw (mk t d a b) = rformB 0 18 op t.code b a d := by
  unfold amoMk at h
  split at h
  case h_11 => cases h
  all_goals
    next hop =>
      cases h
      obtain rfl := eq_ofNat_of_toNat hop
      exact ⟨rfl, rfl, rfl⟩

theorem amopMk_encodes {op : BitVec 6} (hge : 16 ≤ op.toNat) {mk : Ty → Reg → SrcB → Instr}
    (h : amopMk (op.toNat - 16) = some mk)
    (t : Ty) (a : Reg) (b : SrcB) : WellFormed (mk t a b) = amoTyOk (op.toNat - 16) t ∧ isEvent (mk t a b) = false ∧
      encodeRaw (mk t a b) = rformB 0 18 op t.code b a 0 := by
  unfold amopMk at h
  split at h
  case h_11 => cases h
  all_goals
    next hop =>
      cases h
      obtain rfl := eq_ofNat_of_toNat (Nat.eq_add_of_sub_eq hge hop)
      exact ⟨rfl, rfl, rfl⟩

/-- The instruction that MTS decodes to is the row of its register (R25). -/
theorem mkMts_encodes (n : BitVec 12) (a : Reg) : WellFormed (mkMts n a) = (mtsOwnRow n || sysRegOk n) ∧
    isEvent (mkMts n a) = false ∧ encodeRaw (mkMts n a) = sysform 3 n a 0 := by
  unfold mkMts
  split
  case h_9 h1 h2 h3 h4 h5 h6 h7 h8 =>
    have hrow : mtsOwnRow n = false := by
      simp [mtsOwnRow]
      exact ⟨h1, h2, h3, h4, h5, h6, h7, h8⟩
    refine ⟨?_, rfl, rfl⟩
    show (sysRegOk n && !mtsOwnRow n) = _
    rw [hrow, Bool.not_false, Bool.and_true, Bool.false_or]
  all_goals
    next hn =>
      obtain rfl := eq_ofNat_of_toNat hn
      exact ⟨rfl, rfl, rfl⟩

/-- A type field beside the source of a conversion: its code, and its top bit zero. -/
theorem cvt_src {b : BitVec 5} (h : (tyOf (b.setWidth 4)).code = b.setWidth 4) (h4 : b.getLsbD 4 = false) :
    b = (tyOf (b.setWidth 4)).code.setWidth 5 := by
  rw [h]
  revert b
  decide

section
variable {r : Raw} {i : Instr} (hc : r.Canon) (hL : r.f0.L = 0 ∨ r.f0.L = 1)
include hc hL

theorem decInt_spells (hmaj : r.f0.maj = 1) (h : decInt r = .ok i) : r.Spells i := by
  unfold decInt at h
  dsimp only at h
  split at h
  · next mk hop =>
    obtain ⟨hp, rfl⟩ := verdict_ok.1 h
    simp only [passes_cons, passes_nil, and_true] at hp
    obtain ⟨ht, hlit⟩ := hp
    obtain ⟨ht, hm⟩ := badTy_eq_false.1 ht
    obtain ⟨hwf, hev, henc⟩ := intBin_encodes hop (tyOf r.f0.mod) r.f0.d r.f0.a r.srcB
    refine ⟨hwf.trans ht, hev, ?_⟩
    rw [henc, hm, ← hmaj]
    exact (hc.eq_rformB hL fun hl => by simpa [hl] using hlit).symm
  · split at h
    · next mk hop =>
      obtain ⟨hp, rfl⟩ := verdict_ok.1 h
      simp only [passes_cons, passes_nil, and_true, bne_eq_false_iff_eq, beq_eq_false_iff_ne] at hp
      obtain ⟨ht, hb, hl⟩ := hp
      obtain ⟨ht, hm⟩ := badTy_eq_false.1 ht
      obtain ⟨hwf, hev, henc⟩ := intUn_encodes hop (tyOf r.f0.mod) r.f0.d r.f0.a
      exact hc.spells (hL.resolve_right hl) (hwf.trans ht) hev henc hmaj rfl hm.symm hb rfl rfl
    · cases h

end

/-! ## STRD (R70) -/
section
variable {r : Raw} {i : Instr} (hc : r.Canon) (hL : r.f0.L = 0 ∨ r.f0.L = 1)
include hc hL

theorem decFlt_spells (hmaj : r.f0.maj = 6) (h : decFlt r = .ok i) : r.Spells i := by
  unfold decFlt at h
  dsimp only at h
  split at h
  · next mk hop =>
    obtain ⟨hp, rfl⟩ := verdict_ok.1 h
    simp only [passes_cons, passes_nil, and_true, badTy_eq_false] at hp
    obtain ⟨⟨ht, hm⟩, hlit, hhigh⟩ := hp
    obtain ⟨hwf, hev, henc⟩ := fltBin_encodes hop (tyOf r.f0.mod) r.f0.d r.f0.a r.srcB
    refine ⟨?_, hev, ?_⟩
    · rw [hwf, ht, Bool.true_and]
      obtain hl | hl := hL
      · rw [Raw.srcB_reg (.inl hl)]
        rfl
      · rw [Raw.srcB_lit (.inl hl)]
        simp_all [SrcB.fltOk]
    · rw [henc, hm, ← hmaj]
      exact (hc.eq_rformB hL fun hl => by simp_all).symm
  · split at h
    case h_4 => cases h
    case h_3 hop =>
      obtain ⟨hp, rfl⟩ := verdict_ok.1 h
      simp only [passes_cons, passes_nil, and_true, badTy_eq_false, beq_eq_false_iff_ne] at hp
      obtain ⟨⟨ht, hm⟩, ⟨hs, hsm⟩, h4, hint, hl⟩ := hp
      exact hc.spells (hL.resolve_right hl) (by show Ty.cvtOk _ _ = true; simp [Ty.cvtOk, ht, hs, hint]) rfl rfl hmaj
        (eq_ofNat_of_toNat hop) hm.symm (cvt_src hsm h4) rfl rfl
    all_goals
      next hop =>
        obtain ⟨hp, rfl⟩ := verdict_ok.1 h
        simp only [passes_cons, passes_nil, and_true, badTy_eq_false, bne_eq_false_iff_eq, beq_eq_false_iff_ne] at hp
        obtain ⟨⟨ht, hm⟩, hb, hl⟩ := hp
        exact hc.spells (hL.resolve_right hl) ht rfl rfl hmaj (eq_ofNat_of_toNat hop) hm.symm hb rfl rfl

theorem decAmo_spells (hmaj : r.f0.maj = 18) (h : decAmo r = .ok i) : r.Spells i := by
  unfold decAmo at h
  dsimp only at h
  split at h
  · next mk hop =>
    obtain ⟨hp, rfl⟩ := verdict_ok.1 h
    simp only [passes_cons, passes_nil, and_true, badTy_eq_false] at hp
    obtain ⟨⟨ht, hm⟩, hlit⟩ := hp
    obtain ⟨hwf, hev, henc⟩ := amoMk_encodes hop (tyOf r.f0.mod) r.f0.d r.f0.a r.srcB
    refine ⟨hwf.trans ht, hev, ?_⟩
    rw [henc, hm, ← hmaj]
    exact (hc.eq_rformB hL fun hl => by simpa [hl] using hlit).symm
  · split at h
    · next mk hop =>
      obtain ⟨hp, rfl⟩ := verdict_ok.1 h
      simp only [passes_cons, passes_nil, and_true, badTy_eq_false, bne_eq_false_iff_eq, decide_eq_false_iff_not] at hp
      obtain ⟨hge, ⟨ht, hm⟩, hd, hlit⟩ := hp
      obtain ⟨hwf, hev, henc⟩ := amopMk_encodes (Nat.not_lt.1 hge) hop (tyOf r.f0.mod) r.f0.a r.srcB
      refine ⟨hwf.trans ht, hev, ?_⟩
      have hr := hc.eq_rformB (kind := 0) hL fun hl => by simpa [hl] using hlit
      rw [hmaj, hd] at hr
      rw [henc, hm, ← hr]
    · cases h

theorem decBranch_spells (hmaj : r.f0.maj = 8 ∨ r.f0.maj = 9) (h : decBranch r = .ok i) : r.Spells i := by
  unfold decBranch at h
  dsimp only at h
  split at h
  · next h8 =>
    split at h
    · next mk hmk =>
      obtain ⟨hp, rfl⟩ := verdict_ok.1 h
      simp only [passes_cons, passes_nil, and_true, noLit_passed] at hp
      split at hmk
      case h_7 => cases hmk
      all_goals
        next hd =>
          cases hmk
          exact hc.spells (hL.resolve_right hp) rfl rfl rfl (eq_of_beq h8) (F0.disp10_op _).symm (F0.disp10_mod _).symm rfl rfl
            (eq_ofNat_of_toNat hd)
    · cases h
  · next h8 =>
    replace hmaj := hmaj.resolve_left (by simpa using h8)
    split at h
    · next mk hmk =>
      obtain ⟨hp, rfl⟩ := verdict_ok.1 h
      simp only [passes_cons, passes_nil, and_true, noLit_passed] at hp
      split at hmk
      case h_7 => cases hmk
      all_goals
        next hd =>
          cases hmk
          exact hc.spells (hL.resolve_right hp) rfl rfl (iform_imm15 ..) hmaj rfl rfl rfl rfl (eq_ofNat_of_toNat hd)
    · cases h

theorem decSys_spells (hmaj : r.f0.maj = 14) (h : decSys r = .ok i) : r.Spells i := by
  unfold decSys at h
  dsimp only at h
  split at h
  case h_7 => cases h
  case h_3 hsub =>
    obtain ⟨hp, rfl⟩ := verdict_ok.1 h
    simp only [passes_cons, passes_nil, and_true, bne_eq_false_iff_eq, noLit_passed, Bool.not_eq_false'] at hp
    obtain ⟨hn, ha, hl⟩ := hp
    split
    · next h9 =>
      have h9 : r.f0.num12 = 9 := eq_ofNat_of_toNat (eq_of_beq h9)
      exact hc.spells_sysform (hL.resolve_right hl) rfl rfl rfl hmaj (eq_ofNat_of_toNat hsub) h9 ha rfl
    · next h9 =>
      refine hc.spells_sysform (hL.resolve_right hl) ?_ rfl rfl hmaj (eq_ofNat_of_toNat hsub) rfl ha rfl
      show (sysRegOk r.f0.num12 && r.f0.num12.toNat != 9) = true
      simpa [hn] using h9
  case h_4 hsub =>
    obtain ⟨hp, rfl⟩ := verdict_ok.1 h
    simp only [passes_cons, passes_nil, and_true, bne_eq_false_iff_eq, noLit_passed, Bool.not_eq_false'] at hp
    obtain ⟨hn, hd, hl⟩ := hp
    obtain ⟨hwf, hev, henc⟩ := mkMts_encodes r.f0.num12 r.f0.a
    exact hc.spells_sysform (hL.resolve_right hl) (by rw [hwf, hn, Bool.or_true]) hev henc hmaj
      (eq_ofNat_of_toNat hsub) rfl rfl hd
  all_goals
    next hsub =>
      obtain ⟨hp, rfl⟩ := verdict_ok.1 h
      simp only [passes_cons, passes_nil, and_true, bne_eq_false_iff_eq, noLit_passed] at hp
      exact hc.spells_sysform (hL.resolve_right (by simp only [hp, not_false_eq_true])) rfl rfl rfl hmaj (eq_ofNat_of_toNat hsub)
        (by simp only [hp]) (by simp only [hp]) (by simp only [hp])

theorem decMem_spells (hmaj : r.f0.maj = 17) (h : decMem r = .ok i) : r.Spells i := by
  unfold decMem at h
  dsimp only at h
  split at h
  case h_8 => cases h
  case h_6 hop =>
    obtain ⟨hp, rfl⟩ := verdict_ok.1 h
    simp only [passes_cons, passes_nil, and_true, bne_eq_false_iff_eq, noLit_passed, isNone_scope, fence_kind] at hp
    obtain ⟨hm, ⟨hk, hd⟩, hb, ha, hl⟩ := hp
    exact hc.spells (hL.resolve_right hl) hk rfl rfl hmaj (eq_ofNat_of_toNat hop) hm.symm hb ha hd.symm
  all_goals
    next hop =>
      replace hop := eq_ofNat_of_toNat hop
      obtain ⟨hp, rfl⟩ := verdict_ok.1 h
      simp only [passes_cons, passes_nil, and_true, bne_eq_false_iff_eq, bad3_eq_false, pref_level, isNone_win,
        noLit_passed] at hp
      exact hc.spells (hL.resolve_right (by simp only [hp, not_false_eq_true])) rfl rfl rfl hmaj hop
        (by simp only [hp]) (by simp only [hp]) rfl (by simp only [hp])

theorem decEng_spells (hmaj : r.f0.maj = 21) (h : decEng r = .ok i) : r.Spells i := by
  unfold decEng at h
  dsimp only at h
  split at h
  case h_7 => cases h
  all_goals
    next hop =>
      replace hop := eq_ofNat_of_toNat hop
      obtain ⟨hp, rfl⟩ := verdict_ok.1 h
      simp only [passes_cons, passes_nil, and_true, bne_eq_false_iff_eq, noLit_passed] at hp
      exact hc.spells (hL.resolve_right (by simp only [hp, not_false_eq_true])) rfl rfl rfl hmaj hop
        (by simp only [hp]) (by simp only [hp]) rfl (by simp only [hp])

theorem decVec_spells (hmaj : r.f0.maj = 22) (h : decVec r = .ok i) : r.Spells i := by
  unfold decVec at h
  dsimp only at h
  split at h
  case h_35 => cases h
  case h_24 hop =>
    obtain ⟨hp, rfl⟩ := verdict_ok.1 h
    simp only [passes_cons, passes_nil, and_true, badTy_eq_false, noLit_passed] at hp
    obtain ⟨⟨ht, hm⟩, ⟨hs, hsm⟩, h4, hint, hl⟩ := hp
    exact hc.spells (hL.resolve_right hl) (by show Ty.cvtOk _ _ = true; simp [Ty.cvtOk, ht, hs, hint]) rfl rfl hmaj
      (eq_ofNat_of_toNat hop) hm.symm (cvt_src hsm h4) rfl rfl
  case h_27 hop =>
    obtain ⟨hp, rfl⟩ := verdict_ok.1 h
    simp only [passes_cons, passes_nil, and_true, badTy_eq_false, noLit_passed] at hp
    obtain ⟨⟨ht, hm⟩, heven, hl⟩ := hp
    exact hc.spells (hL.resolve_right hl) (by show (Ty.lutOk _ && !_) = true; rw [ht, heven]; rfl) rfl rfl hmaj
      (eq_ofNat_of_toNat hop) hm.symm rfl rfl rfl
  case h_31 hop | h_32 hop | h_33 hop | h_34 hop =>
    obtain ⟨hp, rfl⟩ := verdict_ok.1 h
    simp only [passes_cons, passes_nil, and_true, bne_eq_false_iff_eq, bad3_eq_false, noLit_passed] at hp
    exact hc.spells (hL.resolve_right (by simp only [hp, not_false_eq_true])) rfl rfl rfl hmaj (eq_ofNat_of_toNat hop)
      (by simp only [hp]) (by simp only [hp]) (by simp only [hp]) (by simp only [hp])
  all_goals
    next hop =>
      replace hop := eq_ofNat_of_toNat hop
      obtain ⟨hp, rfl⟩ := verdict_ok.1 h
      simp only [passes_cons, passes_nil, and_true, badTy_eq_false, bne_eq_false_iff_eq, bad3_eq_false, noLit_passed] at hp
      obtain ⟨⟨ht, hm⟩, hp⟩ := hp
      exact hc.spells (hL.resolve_right (by simp only [hp, not_false_eq_true])) ht rfl rfl hmaj hop hm.symm
        (by simp only [hp]) rfl rfl

theorem decStrd_spells (hmaj : r.f0.maj = 23) (h : decStrd r = .ok i) : r.Spells i := by
  unfold decStrd at h
  dsimp only at h
  split at h
  case h_14 => cases h
  all_goals
    next hop =>
      replace hop := eq_ofNat_of_toNat hop
      obtain ⟨hp, rfl⟩ := verdict_ok.1 h
      simp only [passes_cons, passes_nil, and_true, bne_eq_false_iff_eq, bad3_eq_false, two_le_mod, noLit_passed] at hp
      exact hc.spells (hL.resolve_right (by simp only [hp, not_false_eq_true])) rfl rfl rfl hmaj hop
        (by simp only [hp]) (by simp only [hp]) (by simp only [hp]) (by simp only [hp])

/-! ## Every base word (R46, R59) -/

theorem decLi_spells (hmaj : r.f0.maj = 2)
    (h : (if r.f0.L == 1 then verdict [(0, .reserved, r.f0.imm20 != 0)] (.liLit r.f0.d r.lit)
      else .ok (.li r.f0.d r.f0.imm20)) = .ok i) :
    r.Spells i := by
  split at h
  · next h1 =>
    obtain ⟨hp, rfl⟩ := verdict_ok.1 h
    simp only [passes_cons, passes_nil, and_true, bne_eq_false_iff_eq] at hp
    obtain ⟨hop, hmod, hb, ha⟩ := imm20_zero hp
    have hr := hc.eq_rformB (kind := 0) hL fun _ => hb
    rw [Raw.srcB_lit (.inl (eq_of_beq h1)), hmaj, hop, hmod, ha] at hr
    exact ⟨rfl, rfl, hr.symm⟩
  · next h1 =>
    cases h
    exact hc.spells (hL.resolve_right (by simpa using h1)) rfl rfl (wform_imm20 ..) hmaj rfl rfl rfl rfl rfl

theorem decodeBase_spells (h : decodeBase r = .ok i) : r.Spells i := by
  unfold decodeBase at h
  dsimp only at h
  split at h
  case h_24 => cases h
  case h_1 hmaj => exact decInt_spells hc hL (eq_ofNat_of_toNat hmaj) h
  case h_6 hmaj => exact decFlt_spells hc hL (eq_ofNat_of_toNat hmaj) h
  case h_8 hmaj => exact decBranch_spells hc hL (.inl (eq_ofNat_of_toNat hmaj)) h
  case h_9 hmaj => exact decBranch_spells hc hL (.inr (eq_ofNat_of_toNat hmaj)) h
  case h_14 hmaj => exact decSys_spells hc hL (eq_ofNat_of_toNat hmaj) h
  case h_17 hmaj => exact decMem_spells hc hL (eq_ofNat_of_toNat hmaj) h
  case h_18 hmaj => exact decAmo_spells hc hL (eq_ofNat_of_toNat hmaj) h
  case h_21 hmaj => exact decEng_spells hc hL (eq_ofNat_of_toNat hmaj) h
  case h_22 hmaj => exact decVec_spells hc hL (eq_ofNat_of_toNat hmaj) h
  case h_23 hmaj => exact decStrd_spells hc hL (eq_ofNat_of_toNat hmaj) h
  case h_2 hmaj => exact decLi_spells hc hL (eq_ofNat_of_toNat hmaj) h
  all_goals
    rename_i hmaj
    replace hmaj := eq_ofNat_of_toNat hmaj
    obtain ⟨hp, rfl⟩ := verdict_ok.1 h
    simp only [passes_cons, passes_nil, and_true, bne_eq_false_iff_eq, badTy_eq_false, cf_bit, noLit_passed] at hp
  case h_3 | h_5 | h_7 => exact hc.spells (hL.resolve_right hp) rfl rfl (wform_imm20 ..) hmaj rfl rfl rfl rfl rfl
  case h_10 | h_11 => exact hc.spells (hL.resolve_right hp) rfl rfl (jform_imm25 ..) hmaj rfl rfl rfl rfl rfl
  case h_12 => exact hc.spells (hL.resolve_right hp) rfl rfl (iform_imm15 ..) hmaj rfl rfl rfl rfl rfl
  case h_4 =>
    obtain ⟨hidx, hl⟩ := hp
    refine hc.spells (hL.resolve_right hl) rfl rfl ?_ hmaj rfl rfl rfl rfl rfl
    exact (congrArg (wform 4 · r.f0.d) (imm20_index hidx)).trans (wform_imm20 ..)
  case h_13 =>
    obtain ⟨hd, ha, hl⟩ := hp
    exact hc.spells (hL.resolve_right hl) (bne_iff_ne.2 (beq_eq_false_iff_ne.1 ha)) rfl (iform_imm15 ..) hmaj rfl rfl rfl rfl hd
  case h_15 | h_16 =>
    obtain ⟨⟨ht, hm⟩, hl⟩ := hp
    exact hc.spells (hL.resolve_right hl) ht rfl (imform_off11 hm ..) hmaj rfl rfl rfl rfl rfl
  case h_19 | h_20 =>
    obtain ⟨hcf, hl⟩ := hp
    exact hc.spells (hL.resolve_right hl) rfl rfl (imform_off11 hcf ..) hmaj rfl rfl rfl rfl rfl

end
end Sys2Proof

/-! SUPPORT. The checks common to the extended instructions (R52-R55), and what passing them says of the fields. -/

namespace Sys2Proof

open Machine (isEvent)

/-! ## Fields written back -/

/-- What the encoder writes into a field that the decoder read for a use. -/
def Fld.keep (u : Fld) (v : BitVec 5) (kind : BitVec 2) : BitVec 5 :=
  match u with
  | .none => 0
  | .reg => v
  | .reg3 => (v.setWidth 3).setWidth 5
  | .flag => (flagBit (v == 1)).setWidth 5
  | .cvt => (v.setWidth 4).setWidth 5
  | .src => if kind = 0 then v else if kind = 1 then (v.setWidth 3).setWidth 5 else 0

theorem Fld.keep_eq {u : Fld} {v : BitVec 5} {kind : BitVec 2} (h : u.bad v kind = false) : u.keep v kind = v := by
  cases u <;> revert v kind <;> decide

/-- What the encoder writes into the upper bits of mod. -/
def Uses.keepHi (u : Uses) (hi : BitVec 3) : BitVec 3 := if u.modHi = 0 then 0 else hi

/-- What the encoder writes into mod. -/
def Uses.keepMod (u : Uses) (r : Raw) : BitVec 4 :=
  if u.modHi = 0 ∧ u.mod0 = false then 0 else modOf (u.keepHi r.modHi) (u.mod0 && r.mod0)

theorem flagBit_eq_one (z : BitVec 1) : flagBit (z == 1) = z := by
  revert z; decide

theorem flagBit_getLsbD (m : BitVec 4) : modOf (m.extractLsb' 1 3) (m.getLsbD 0) = m := by
  revert m; decide

theorem BitVec1_cases (z : BitVec 1) : z = 0 ∨ z = 1 := by
  revert z; decide

/-- What an extended word that passes the common checks is like. -/
structure Uses.Met (u : Uses) (r : Raw) : Prop where
  lit : r.f0.L = 3 → u.lit = true
  mod : u.keepMod r = r.f0.mod
  modHi : r.modHi.toNat ≤ u.modHi
  b : r.f0.L ≠ 3 → u.b.keep r.f0.b r.f1.bk = r.f0.b
  bLit : r.f0.L = 3 → (r.f0.b.setWidth 2).setWidth 5 = r.f0.b ∧ r.f1.bk = 0
  a : u.a.keep r.f0.a r.f1.ak = r.f0.a
  d : u.d.keep r.f0.d 0 = r.f0.d
  c : u.c = false → r.f1.c = 0
  e : u.e = false → r.f1.e = 0
  mask : u.qual = false → r.f1.mask = 0
  z : (u.qual && u.zOk) = false → r.f1.z = 0
  qual : r.qual.ok = true
  chan : u.chan = false → r.hasKind 2 = false → r.f1.chan = 0
  chanKind : r.hasKind 2 = true → 2 ≤ r.f1.chan.toNat
  ak : u.a.isSrc = false → r.f1.ak = 0
  bk : u.b.isSrc = false → r.f1.bk = 0
  chans : ¬ (r.f1.ak = 2 ∧ r.f1.bk = 2)
  pools : ¬ (r.f1.ak = 3 ∧ r.f1.bk = 3)
  ty : ∀ ok, u.ty = some ok → ok (tyOf r.f1.ty) = true ∧ (tyOf r.f1.ty).code = r.f1.ty
  noTy : u.ty = none → r.f1.ty = 0
  p : r.f1.p = flagBit (u.pool || r.hasKind 3)
  rsv : r.f1.rsv = 0
  w2 : r.f1.p = 0 → u.imm = false → r.w2 = 0
  low : r.f1.p = 1 → u.view = false → idxWord r.idx = r.w2

theorem idxWord_idx {w : W32} (h : w.extractLsb' 0 16 = 0) : idxWord (w.extractLsb' 16 16) = w := by
  rw [idxWord, ← h]
  exact BitVec.extractLsb'_append_extractLsb' (w := 16) (len := 16) (x := w)

theorem lit_kind {b : BitVec 5} (h : decide (4 ≤ b.toNat) = false) : (b.setWidth 2).setWidth 5 = b := by
  revert b; decide

theorem Uses.met_of_passes {u : Uses} {r : Raw} {w0 w1 : List Check} (h : Passes (u.checks r w0 w1)) :
    Passes w0 ∧ Passes w1 ∧ u.Met r := by
  simp only [Uses.checks, passes_append, passes_cons, passes_nil, and_true] at h
  obtain ⟨⟨⟨h0, hm0, hmh, hlit, hblit, hb, ha, hd, hc, he, hmask, hz, hch, hck, hak, hbk, hbkl, hcc, hpp, hty, hp, hrsv⟩, h1⟩,
    hw2, hlow⟩ := h
  refine ⟨h0, h1, ?_⟩
  constructor
  case lit => intro hL; simpa [hL] using hlit
  case mod =>
    have hhi : u.keepHi r.modHi = r.modHi := by
      unfold Uses.keepHi
      split
      · next h0 =>
        rw [h0] at hmh
        exact (BitVec.eq_of_toNat_eq (by simpa using hmh)).symm
      · rfl
    have hlo : (u.mod0 && r.mod0) = r.mod0 := by
      cases hu : u.mod0 <;> simp_all
    have hmod : modOf (u.keepHi r.modHi) (u.mod0 && r.mod0) = r.f0.mod := by
      rw [hhi, hlo]
      exact flagBit_getLsbD r.f0.mod
    unfold Uses.keepMod
    split
    · next h0 =>
      rw [← hmod, Uses.keepHi, if_pos h0.1, h0.2, Bool.false_and]
      decide
    · exact hmod
  case modHi => simpa using hmh
  case b =>
    intro hL
    rw [beq_eq_false_iff_ne.2 hL] at hb
    exact Fld.keep_eq hb
  case bLit =>
    intro hL
    exact ⟨lit_kind (by simpa [hL] using hblit), by simpa [hL] using hbkl⟩
  case a => exact Fld.keep_eq ha
  case d => exact Fld.keep_eq hd
  case c => intro hu; simpa [hu] using hc
  case e => intro hu; simpa [hu] using he
  case mask => intro hu; simpa [hu] using hmask
  case z =>
    intro hu
    have hno : (!u.qual || !u.zOk) = true := by rw [← Bool.not_and, hu]; rfl
    rw [Bool.or_assoc, hno] at hz
    simpa using hz
  case qual =>
    unfold Qual.ok Raw.qual
    rcases BitVec1_cases r.f1.z with h | h <;> simp_all
  case chan => intro hu hk; simpa only [hu, hk, Bool.not_false, Bool.and_true, bne_eq_false_iff_eq] using hch
  case chanKind => intro hk; simpa only [hk, Bool.true_and, decide_eq_false_iff_not, Nat.not_lt] using hck
  case ak => intro hu; simpa [hu] using hak
  case bk => intro hu; simpa [hu] using hbk
  case chans => simpa using hcc
  case pools => simpa using hpp
  case ty => intro ok hu; rw [hu] at hty; exact badTy_eq_false.1 hty
  case noTy => intro hu; rw [hu] at hty; simpa using hty
  case p =>
    rw [← flagBit_eq_one r.f1.p]
    exact congrArg flagBit (bne_eq_false_iff_eq.1 hp)
  case rsv => simpa using hrsv
  case w2 => intro hp0 hu; simpa [hp0, hu] using hw2
  case low => intro hp1 hu; exact idxWord_idx (by simpa [hp1, hu] using hlow)

end Sys2Proof

/-! SUPPORT. The extended majors but XVEC (R71, R72, R74, R75): what the decoder answers for the pieces of an extended word spells
them. -/

namespace Sys2Proof

open Machine (isEvent)

theorem viewWord_view (r : Raw) : viewWord r.view = r.w2 := by
  show r.w2.extractLsb' 16 16 ++ r.w2.extractLsb' 8 8 ++ r.w2.extractLsb' 0 8 = r.w2
  simp only [BitVec.extractLsb'_append_extractLsb'_eq_extractLsb']
  exact BitVec.extractLsb'_eq_self

/-- Source a is no vector source and there is no literal. -/
def Uses.plain (u : Uses) : Bool := !u.lit && !u.a.isSrc

/-- Source b is of kind k. -/
def Uses.takes (u : Uses) (r : Raw) (k : BitVec 2) : Bool := u.b.isSrc && r.f1.bk == k

/-- The pieces with the fields in use alone, as the encoder writes them back. -/
def Uses.trim (u : Uses) (maj : BitVec 5) (op : BitVec 6) (r : Raw) : Raw :=
  xform maj op (u.keepMod r) (u.b.keep r.f0.b (if u.b.isSrc then r.f1.bk else 0)) (u.a.keep r.f0.a 0) (u.d.keep r.f0.d 0)
    { c := if u.c then r.f1.c else 0, e := if u.e then r.f1.e else 0, mask := if u.qual then r.f1.mask else 0,
      z := flagBit (u.qual && u.zOk && r.qual.z), chan := if u.chan || u.takes r 2 then r.f1.chan else 0, ak := 0,
      bk := if u.b.isSrc then r.f1.bk else 0, ty := if u.ty.isSome then (tyOf r.f1.ty).code else 0,
      p := flagBit (u.pool || u.takes r 3), rsv := 0 }
    (if u.pool || u.takes r 3 then if u.view then viewWord r.view else idxWord r.idx else if u.imm then r.w2 else 0)

section
variable {r : Raw} {u : Uses}

theorem Uses.Met.hasKind_eq (m : u.Met r) (ha : u.a.isSrc = false) {k : BitVec 2} (hk : k ≠ 0) : r.hasKind k = u.takes r k := by
  have hk0 : ((0 : BitVec 2) == k) = false := beq_eq_false_iff_ne.2 hk.symm
  cases hb : u.b.isSrc
  · rw [Raw.hasKind, Uses.takes, m.ak ha, m.bk hb, hb, hk0]
    rfl
  · rw [Raw.hasKind, Uses.takes, m.ak ha, hb, hk0]
    rfl

theorem Uses.Met.no_lit (m : u.Met r) (hl : u.lit = false) (hx : r.f0.L = 2 ∨ r.f0.L = 3) : r.f0.L = 2 :=
  hx.resolve_right fun h3 => by simp [m.lit h3] at hl

theorem Uses.Met.z_eq (m : u.Met r) : flagBit (u.qual && u.zOk && r.qual.z) = r.f1.z := by
  cases hq : (u.qual && u.zOk)
  · rw [m.z hq]; rfl
  · exact flagBit_eq_one r.f1.z

theorem Uses.Met.ty_eq (m : u.Met r) : (if u.ty.isSome then (tyOf r.f1.ty).code else 0) = r.f1.ty := by
  cases hty : u.ty with
  | none => exact (m.noTy hty).symm
  | some ok => exact (m.ty ok hty).2

/-- A field that is zero where it is not in use. -/
theorem kept_eq {w : Nat} {p : Bool} {v : BitVec w} (h : p = false → v = 0) : (if p then v else 0) = v := by
  cases p
  · exact (h rfl).symm
  · rfl

theorem Uses.Met.w2_eq (m : u.Met r) (hp : r.f1.p = flagBit (u.pool || r.hasKind 3)) :
    (if u.pool || r.hasKind 3 then if u.view then viewWord r.view else idxWord r.idx else if u.imm then r.w2 else 0) = r.w2 := by
  cases hpl : (u.pool || r.hasKind 3)
  · exact kept_eq fun hi => m.w2 (hp.trans (congrArg flagBit hpl)) hi
  · cases hv : u.view
    · exact m.low (hp.trans (congrArg flagBit hpl)) hv
    · exact viewWord_view r

theorem Uses.Met.trim_eq (m : u.Met r) (hp : u.plain = true) (hc : r.Canon) (hx : r.f0.L = 2 ∨ r.f0.L = 3) :
    u.trim r.f0.maj r.f0.op r = r := by
  obtain ⟨hlit, ha⟩ : u.lit = false ∧ u.a.isSrc = false := by simpa [Uses.plain] using hp
  have hL := m.no_lit hlit hx
  have hak := m.ak ha
  have hfa := m.a
  rw [hak] at hfa
  have hbk : (if u.b.isSrc then r.f1.bk else 0) = r.f1.bk := kept_eq m.bk
  have hch : (if u.chan || r.hasKind 2 then r.f1.chan else 0) = r.f1.chan :=
    kept_eq fun h => m.chan (Bool.or_eq_false_iff.1 h).1 (Bool.or_eq_false_iff.1 h).2
  rw [Uses.trim, ← m.hasKind_eq ha (by decide), ← m.hasKind_eq ha (by decide), m.mod, hbk, m.b (by rw [hL]; decide), hfa, m.d,
    kept_eq m.c, kept_eq m.e, kept_eq m.mask, m.z_eq, hch, m.ty_eq, ← m.p, m.w2_eq m.p]
  have hlitz := hc.lit (.inr hL)
  have hrsv := m.rsv
  obtain ⟨⟨op, mod, b, a, d, maj, L⟩, ⟨c, e, mask, z, chan, ak, bk, ty, p, rsv⟩, w2, lit⟩ := r
  subst hL hak hrsv hlitz
  rfl

/-- A plain extended word spells the instruction whose encoding writes back the fields in use. -/
theorem Uses.spells_plain {i j : Instr} {w0 w1 lw : List Check} {maj : BitVec 5} {op : BitVec 6} (hc : r.Canon)
    (hx : r.f0.L = 2 ∨ r.f0.L = 3) (hmaj : r.f0.maj = maj) (hop : r.f0.op = op) (h : u.verdict r j w0 w1 lw = .ok i)
    (hp : u.plain = true) (hwf : u.Met r → Passes w1 → WellFormed j = true) (hev : isEvent j = false)
    (henc : u.Met r → Passes w1 → encodeRaw j = u.trim maj op r) : r.Spells i := by
  obtain ⟨hcs, rfl⟩ := verdict_ok.1 h
  obtain ⟨-, h1, m⟩ := Uses.met_of_passes (passes_append.1 hcs).1
  subst hmaj hop
  exact ⟨hwf m h1, hev, (henc m h1).trans (m.trim_eq hp hc hx)⟩

end

theorem lowChan_passes {r : Raw} : Passes [lowChan r] ↔ 2 ≤ r.f1.chan.toNat := by
  simp only [lowChan, passes_cons, passes_nil, and_true, decide_eq_false_iff_not, Nat.not_lt]

theorem WFmt_code {c : BitVec 4} (h : (WFmt.ofCode? c).isSome = true) : ((WFmt.ofCode? c).getD .i8).code = c := by
  revert c; decide

theorem idx_disp (r : Raw) : r.idx ++ r.w2.extractLsb' 0 16 = viewWord r.view := by
  rw [viewWord_view]
  exact BitVec.extractLsb'_append_extractLsb' (w := 16) (len := 16) (x := r.w2)

section
variable {r : Raw} {i : Instr} (hc : r.Canon) (hx : r.f0.L = 2 ∨ r.f0.L = 3)
include hc hx

theorem decXmem_spells (hmaj : r.f0.maj = 2) (h : decXmem r = .ok i) : r.Spells i := by
  unfold decXmem at h
  dsimp only at h
  split at h
  case h_9 => cases h
  all_goals
    next hop =>
      exact Uses.spells_plain hc hx hmaj (eq_ofNat_of_toNat hop) h rfl
        (fun m _ => Bool.and_eq_true_iff.2 ⟨(m.ty _ rfl).1, m.qual⟩) rfl (fun _ _ => rfl)

theorem decXeng_spells (hmaj : r.f0.maj = 3) (h : decXeng r = .ok i) : r.Spells i := by
  unfold decXeng at h
  dsimp only at h
  split at h
  case h_7 => cases h
  case h_1 hop | h_2 hop | h_3 hop =>
    exact Uses.spells_plain hc hx hmaj (eq_ofNat_of_toNat hop) h rfl (fun _ h1 => decide_eq_true (lowChan_passes.1 h1)) rfl
      (fun _ _ => rfl)
  all_goals
    next hop => exact Uses.spells_plain hc hx hmaj (eq_ofNat_of_toNat hop) h rfl (fun _ _ => rfl) rfl (fun _ _ => rfl)

/-- XMAT: the source of MMUL is taken by the kind of source b (R159). -/
theorem decXmat_spells (hmaj : r.f0.maj = 5) (h : decXmat r = .ok i) : r.Spells i := by
  unfold decXmat at h
  dsimp only at h
  split at h
  case h_14 => cases h
  case h_6 hop =>
    refine Uses.spells_plain hc hx hmaj (eq_ofNat_of_toNat hop) h rfl (fun _ _ => rfl) rfl (fun m _ => ?_)
    obtain ⟨hok, hcode⟩ := m.ty _ rfl
    have hfmt : ((WFmt.ofCode? r.f1.ty).getD .i8).code = (tyOf r.f1.ty).code := by
      rw [← hcode, tyOf_code]
      exact WFmt_code hok
    exact congrArg (fun c => xform 5 5 (modOf 0 r.mod0) 0 0 0 { f1Zero with ty := c, p := 1 } (viewWord r.view)) hfmt
  case h_8 hop =>
    refine Uses.spells_plain hc hx hmaj (eq_ofNat_of_toNat hop) h rfl (fun _ _ => rfl) ?_ (fun _ h1 => ?_)
    · rfl
    · obtain ⟨h2, hc0⟩ : r.f1.bk ≠ 2 ∧ (r.f1.bk ≠ 0 → r.f1.c = 0) := by
        simpa using h1
      obtain hk | hk | hk | hk := L_cases r.f1.bk
      · simp only [Uses.trim, Uses.takes, Fld.isSrc, Fld.keep, hk]
        rfl
      · simp only [Uses.trim, Uses.takes, Fld.isSrc, Fld.keep, hk, hc0 (by simp [hk])]
        rfl
      · exact absurd hk h2
      · simp only [Uses.trim, Uses.takes, Fld.isSrc, Fld.keep, hk, hc0 (by simp [hk])]
        rfl
  case h_9 hop =>
    refine Uses.spells_plain hc hx hmaj (eq_ofNat_of_toNat hop) h rfl (fun m h1 => ?_) rfl (fun _ h1 => ?_)
    all_goals have hk : r.f1.bk = 2 := by simpa using h1
    · exact decide_eq_true (m.chanKind (by simp [Raw.hasKind, hk]))
    · simp only [Uses.trim, Uses.takes, Fld.isSrc, Fld.keep, hk]
      rfl
  all_goals
    next hop => exact Uses.spells_plain hc hx hmaj (eq_ofNat_of_toNat hop) h rfl (fun _ _ => rfl) rfl (fun _ _ => rfl)

theorem decXmsg_spells (hmaj : r.f0.maj = 6) (h : decXmsg r = .ok i) : r.Spells i := by
  unfold decXmsg at h
  dsimp only at h
  split at h
  case h_7 => cases h
  case h_1 hop =>
    refine Uses.spells_plain hc hx hmaj (eq_ofNat_of_toNat hop) h rfl (fun _ h1 => ?_) rfl (fun _ _ => ?_)
    · have h2 := decide_eq_true (lowChan_passes.1 h1)
      obtain hk | hk | hk | hk := L_cases r.f1.bk
      all_goals simp only [Raw.srcOf, hk]
      case inr.inr.inl => exact Bool.and_eq_true_iff.2 ⟨h2, beq_self_eq_true r.f1.chan⟩
      all_goals exact Bool.and_eq_true_iff.2 ⟨h2, rfl⟩
    · obtain hk | hk | hk | hk := L_cases r.f1.bk
      all_goals
        simp only [Uses.trim, Uses.takes, Fld.isSrc, Fld.keep, Raw.srcOf, hk]
        rfl
  case h_2 hop =>
    exact Uses.spells_plain hc hx hmaj (eq_ofNat_of_toNat hop) h rfl (fun _ h1 => decide_eq_true (lowChan_passes.1 h1)) rfl
      (fun _ _ => rfl)
  all_goals
    next hop => exact Uses.spells_plain hc hx hmaj (eq_ofNat_of_toNat hop) h rfl (fun _ _ => rfl) rfl (fun _ _ => rfl)

theorem decXport_spells (hmaj : r.f0.maj = 7) (h : decXport r = .ok i) : r.Spells i := by
  unfold decXport at h
  dsimp only at h
  split at h
  case h_7 => cases h
  all_goals
    next hop => exact Uses.spells_plain hc hx hmaj (eq_ofNat_of_toNat hop) h rfl (fun _ _ => rfl) rfl (fun _ _ => rfl)

theorem decXreac_spells (hmaj : r.f0.maj = 8) (h : decXreac r = .ok i) : r.Spells i := by
  unfold decXreac at h
  dsimp only at h
  split at h
  case h_9 => cases h
  case h_3 hop =>
    exact Uses.spells_plain hc hx hmaj (eq_ofNat_of_toNat hop) h rfl (fun _ _ => rfl) rfl
      (fun _ _ => congrArg (fun w => xform 8 2 0 0 0 ((flagBit (r.f0.d == 1)).setWidth 5) { f1Zero with p := 1 } w) (idx_disp r))
  all_goals
    next hop => exact Uses.spells_plain hc hx hmaj (eq_ofNat_of_toNat hop) h rfl (fun _ _ => rfl) rfl (fun _ _ => rfl)

theorem decXgang_spells (hmaj : r.f0.maj = 9) (h : decXgang r = .ok i) : r.Spells i := by
  unfold decXgang at h
  dsimp only at h
  split at h
  case h_9 => cases h
  all_goals
    next hop => exact Uses.spells_plain hc hx hmaj (eq_ofNat_of_toNat hop) h rfl (fun _ _ => rfl) rfl (fun _ _ => rfl)

end
end Sys2Proof

/-! SUPPORT. XSC and XVEC (R72, R73): what the decoder answers for the pieces of an extended word spells them. -/

namespace Sys2Proof

open Machine (isEvent)

/-! ## XSC -/

/-- The uses of an XSC instruction. -/
def Uses.scalar (ok : Ty → Bool) : Uses := { d := .reg, a := .reg, b := .reg, c := true, ty := some ok, lit := true }

section
variable {r : Raw}

theorem Uses.Met.xsc_eq {ok : Ty → Bool} {kind : BitVec 5} (m : (scalar ok).Met r) (hc : r.Canon)
    (hx : r.f0.L = 2 ∨ r.f0.L = 3) (hmaj : r.f0.maj = 1) (hkind : r.f0.L = 3 → r.f0.b = kind) :
    xsc kind r.f0.op (tyOf r.f1.ty) r.srcB r.f0.a r.f1.c r.f0.d = r := by
  have hak := m.ak rfl
  have hbk := m.bk rfl
  have h2 : r.hasKind 2 = false := by rw [Raw.hasKind, hak, hbk]; rfl
  have h3 : r.hasKind 3 = false := by rw [Raw.hasKind, hak, hbk]; rfl
  have hp : r.f1.p = 0 := by rw [m.p, h3]; rfl
  have hmod : 0 = r.f0.mod := m.mod
  have he := m.e rfl
  have hmask := m.mask rfl
  have hz := m.z rfl
  have hch := m.chan rfl h2
  have hty := (m.ty _ rfl).2
  have hrsv := m.rsv
  have hw2 := m.w2 hp rfl
  obtain hL | hL := hx
  · have hlit := hc.lit (.inr hL)
    rw [Raw.srcB_reg (.inr hL), xsc, hty]
    obtain ⟨⟨op, mod, b, a, d, maj, L⟩, ⟨c, e, mask, z, chan, ak, bk, ty, p, rsv⟩, w2, lit⟩ := r
    subst hL hlit hak hbk hp hmod he hmask hz hch hrsv hw2 hmaj
    rfl
  · have hb := hkind hL
    rw [Raw.srcB_lit (.inr hL), xsc, hty]
    obtain ⟨⟨op, mod, b, a, d, maj, L⟩, ⟨c, e, mask, z, chan, ak, bk, ty, p, rsv⟩, w2, lit⟩ := r
    subst hL hak hbk hp hmod he hmask hz hch hrsv hw2 hmaj hb
    rfl

theorem Uses.spells_xsc {i j : Instr} {w0 lw : List Check} {op : BitVec 6} {ok : Ty → Bool} {kind : BitVec 5} (hc : r.Canon)
    (hx : r.f0.L = 2 ∨ r.f0.L = 3) (hmaj : r.f0.maj = 1) (hop : r.f0.op = op) (h : (scalar ok).verdict r j w0 [] lw = .ok i)
    (hkind : Passes w0 → r.f0.L = 3 → r.f0.b = kind)
    (hwf : ok (tyOf r.f1.ty) = true → Passes w0 → Passes lw → WellFormed j = true) (hev : isEvent j = false)
    (henc : encodeRaw j = xsc kind op (tyOf r.f1.ty) r.srcB r.f0.a r.f1.c r.f0.d) : r.Spells i := by
  obtain ⟨hcs, rfl⟩ := verdict_ok.1 h
  obtain ⟨hu, hl⟩ := passes_append.1 hcs
  obtain ⟨h0, -, m⟩ := Uses.met_of_passes hu
  subst hop
  exact ⟨hwf (m.ty _ rfl).1 h0 hl, hev, henc.trans (m.xsc_eq hc hx hmaj (hkind h0))⟩

theorem decXsc_spells {i : Instr} (hc : r.Canon) (hx : r.f0.L = 2 ∨ r.f0.L = 3) (hmaj : r.f0.maj = 1)
    (h : decXsc r = .ok i) : r.Spells i := by
  have hzero : Passes [(0, .literal, r.f0.L == 3 && r.f0.b != 0)] → r.f0.L = 3 → r.f0.b = 0 := by
    intro h0 hL
    simpa [hL] using h0
  unfold decXsc at h
  dsimp only at h
  split at h
  case h_4 => cases h
  case h_1 hop => exact Uses.spells_xsc hc hx hmaj (eq_ofNat_of_toNat hop) h hzero (fun ht _ _ => ht) rfl rfl
  case h_2 hop =>
    refine Uses.spells_xsc (kind := 1) hc hx hmaj (eq_ofNat_of_toNat hop) h ?_ (fun ht h0 hl => ?_) rfl rfl
    · intro h0 hL
      exact (by simpa [hL] using h0 : r.f0.b = 1 ∧ _).1
    · refine Bool.and_eq_true_iff.2 ⟨ht, ?_⟩
      obtain hL | hL := hx
      · rw [Raw.srcB_reg (.inr hL)]
        rfl
      · rw [Raw.srcB_lit (.inr hL)]
        simp [hL, litHigh] at h0 hl
        simp [SrcB.fltOk, h0, hl]
  case h_3 hop => exact Uses.spells_xsc hc hx hmaj (eq_ofNat_of_toNat hop) h hzero (fun ht _ _ => ht) rfl rfl

/-! ## The sources of XVEC (R53, R55, R139, R140) -/

theorem field_srcOf (k : BitVec 2) (v : BitVec 5) : (r.srcOf k v).field = (Fld.src.keep v k, k) := by
  obtain rfl | rfl | rfl | rfl := L_cases k <;> rfl

theorem chanOf_srcOf (ka kb : BitVec 2) (va vb : BitVec 5) :
    VSrc.chanOf (r.srcOf ka va) (r.srcOf kb vb) = if ka == 2 || kb == 2 then r.f1.chan else 0 := by
  obtain rfl | rfl | rfl | rfl := L_cases ka <;> obtain rfl | rfl | rfl | rfl := L_cases kb <;> rfl

theorem poolOf_srcOf (ka kb : BitVec 2) (va vb : BitVec 5) :
    VSrc.poolOf (r.srcOf ka va) (r.srcOf kb vb) = if ka == 3 || kb == 3 then (1, idxWord r.idx) else (0, 0) := by
  obtain rfl | rfl | rfl | rfl := L_cases ka <;> obtain rfl | rfl | rfl | rfl := L_cases kb <;> rfl

theorem chanOf_lit (s : VSrc) (k : BitVec 2) (v : W64) : VSrc.chanOf s (.lit k v) = VSrc.chanOf s (.reg 0) := by
  cases s <;> rfl

theorem poolOf_lit (s : VSrc) (k : BitVec 2) (v : W64) : VSrc.poolOf s (.lit k v) = VSrc.poolOf s (.reg 0) := by
  cases s <;> rfl

theorem okA_srcOf {k : BitVec 2} {v : BitVec 5} (h : k = 2 → 2 ≤ r.f1.chan.toNat) : (r.srcOf k v).okA = true := by
  obtain rfl | rfl | rfl | rfl := L_cases k
  case inr.inr.inl => exact decide_eq_true (h rfl)
  all_goals rfl

theorem okB_srcOf {t : Ty} {k : BitVec 2} {v : BitVec 5} (h : k = 2 → 2 ≤ r.f1.chan.toNat) : (r.srcOf k v).okB t = true := by
  obtain rfl | rfl | rfl | rfl := L_cases k
  case inr.inr.inl => exact decide_eq_true (h rfl)
  all_goals rfl

theorem okB3_srcOf {k : BitVec 2} {v : BitVec 5} (h : k = 2 → 2 ≤ r.f1.chan.toNat) : (r.srcOf k v).okB3 = true := by
  obtain rfl | rfl | rfl | rfl := L_cases k
  case inr.inr.inl => exact decide_eq_true (h rfl)
  all_goals rfl

theorem pairOk_srcOf {ka kb : BitVec 2} {va vb : BitVec 5} (hcc : ¬ (ka = 2 ∧ kb = 2)) (hpp : ¬ (ka = 3 ∧ kb = 3)) :
    VSrc.pairOk (r.srcOf ka va) (r.srcOf kb vb) = true := by
  obtain rfl | rfl | rfl | rfl := L_cases ka <;> obtain rfl | rfl | rfl | rfl := L_cases kb
  case inr.inr.inl.inr.inr.inl => exact absurd ⟨rfl, rfl⟩ hcc
  case inr.inr.inr.inr.inr.inr => exact absurd ⟨rfl, rfl⟩ hpp
  all_goals rfl

theorem pairOk_lit (s : VSrc) (k : BitVec 2) (v : W64) : VSrc.pairOk s (.lit k v) = true := by
  cases s <;> rfl

/-- A field that another use writes back is written back for a source too. -/
theorem Fld.src_keep {u : Fld} {v : BitVec 5} {k : BitVec 2} (h : u.keep v k = v) (hk : u.isSrc = false → k = 0) :
    Fld.src.keep v k = v := by
  cases u
  case src => exact h
  all_goals rw [hk rfl]; rfl

theorem vsrcB_reg (hL : r.f0.L = 2) : r.vsrcB = r.srcOf r.f1.bk r.f0.b := by
  rw [Raw.vsrcB, hL]; rfl

theorem vsrcB_lit (hL : r.f0.L = 3) : r.vsrcB = .lit (r.f0.b.setWidth 2) r.lit := by
  rw [Raw.vsrcB, hL]; rfl

end

/-- The uses of an XVEC instruction: no fields of word 2 of its own. -/
@[simp] def Uses.vec (u : Uses) : Bool := !u.chan && !u.pool && !u.imm && !u.view

/-- The pieces of an XVEC instruction with the fields in use alone. -/
def Uses.vecTrim (u : Uses) (op : BitVec 6) (mod ty : BitVec 4) (a b : VSrc) (r : Raw) : Raw :=
  xvec op mod ty { mask := if u.qual then r.f1.mask else 0, z := u.qual && u.zOk && r.qual.z } (if u.c then r.f1.c else 0)
    (if u.e then r.f1.e else 0) (u.d.keep r.f0.d 0) a b

section
variable {r : Raw} {u : Uses}

theorem Uses.Met.okA (m : u.Met r) : r.srcA.okA = true :=
  okA_srcOf fun hk => m.chanKind (by simp [Raw.hasKind, hk])

theorem Uses.Met.vsrcB_cases (m : u.Met r) (hx : r.f0.L = 2 ∨ r.f0.L = 3) :
    (r.f0.L = 2 ∧ r.vsrcB = r.srcOf r.f1.bk r.f0.b) ∨
      (r.f0.L = 3 ∧ r.vsrcB = .lit (r.f0.b.setWidth 2) r.lit ∧ (r.f0.b.setWidth 2).setWidth 5 = r.f0.b ∧ r.f1.bk = 0) := by
  obtain hL | hL := hx
  · exact .inl ⟨hL, vsrcB_reg hL⟩
  · exact .inr ⟨hL, vsrcB_lit hL, m.bLit hL⟩

theorem Uses.Met.pairOk (m : u.Met r) (hx : r.f0.L = 2 ∨ r.f0.L = 3) : VSrc.pairOk r.srcA r.vsrcB = true := by
  obtain ⟨-, hb⟩ | ⟨-, hb, -⟩ := m.vsrcB_cases hx
  · rw [hb]
    exact pairOk_srcOf m.chans m.pools
  · rw [hb]
    exact pairOk_lit _ _ _

theorem Uses.Met.srcA_field (m : u.Met r) : r.srcA.field = (r.f0.a, r.f1.ak) := by
  rw [Raw.srcA, field_srcOf, Fld.src_keep m.a m.ak]

theorem Uses.Met.vsrcB_field (m : u.Met r) (hx : r.f0.L = 2 ∨ r.f0.L = 3) : r.vsrcB.field = (r.f0.b, r.f1.bk) := by
  obtain ⟨hL, hb⟩ | ⟨-, hb, hlit, hk⟩ := m.vsrcB_cases hx
  · rw [hb, field_srcOf, Fld.src_keep (m.b (by rw [hL]; decide)) m.bk]
  · rw [hb, VSrc.field, hlit, hk]

theorem Uses.Met.chanOf_eq (m : u.Met r) (hx : r.f0.L = 2 ∨ r.f0.L = 3) (hu : u.chan = false) :
    VSrc.chanOf r.srcA r.vsrcB = r.f1.chan := by
  have hch : (if r.f1.ak == 2 || r.f1.bk == 2 then r.f1.chan else 0) = r.f1.chan := kept_eq (m.chan hu)
  obtain ⟨-, hb⟩ | ⟨-, hb, -, hk⟩ := m.vsrcB_cases hx
  · rw [hb, Raw.srcA, chanOf_srcOf, hch]
  · rw [hk] at hch
    rw [hb, chanOf_lit]
    exact (chanOf_srcOf r.f1.ak 0 r.f0.a 0).trans hch

theorem Uses.Met.poolOf_eq (m : u.Met r) (hx : r.f0.L = 2 ∨ r.f0.L = 3) (hpool : u.pool = false) (himm : u.imm = false)
    (hview : u.view = false) : VSrc.poolOf r.srcA r.vsrcB = (r.f1.p, r.w2) := by
  have hp := m.p
  rw [hpool, Bool.false_or] at hp
  have hpl : (if r.f1.ak == 3 || r.f1.bk == 3 then ((1, idxWord r.idx) : BitVec 1 × W32) else (0, 0)) = (r.f1.p, r.w2) := by
    cases hk : (r.f1.ak == 3 || r.f1.bk == 3)
    · have hp0 : r.f1.p = 0 := hp.trans (congrArg flagBit hk)
      rw [hp0, m.w2 hp0 himm]
      rfl
    · have hp1 : r.f1.p = 1 := hp.trans (congrArg flagBit hk)
      rw [hp1, m.low hp1 hview]
      rfl
  obtain ⟨-, hb⟩ | ⟨-, hb, -, hk⟩ := m.vsrcB_cases hx
  · rw [hb, Raw.srcA, poolOf_srcOf, hpl]
  · rw [hk] at hpl
    rw [hb, poolOf_lit]
    exact (poolOf_srcOf r.f1.ak 0 r.f0.a 0).trans hpl

/-- An XVEC word is the one that its sources and its other fields make. -/
theorem Uses.Met.xvec_eq (m : u.Met r) (hu : u.vec = true) (hc : r.Canon) (hx : r.f0.L = 2 ∨ r.f0.L = 3)
    (hmaj : r.f0.maj = 4) :
    xvec r.f0.op r.f0.mod r.f1.ty r.qual r.f1.c r.f1.e r.f0.d r.srcA r.vsrcB = r := by
  obtain ⟨⟨⟨hchan, hpool⟩, himm⟩, hview⟩ : ((u.chan = false ∧ u.pool = false) ∧ u.imm = false) ∧ u.view = false := by
    simpa [Uses.vec] using hu
  have hz : flagBit r.qual.z = r.f1.z := flagBit_eq_one r.f1.z
  have hrsv := m.rsv
  unfold xvec
  rw [m.srcA_field, m.vsrcB_field hx, m.chanOf_eq hx hchan, m.poolOf_eq hx hpool himm hview, hz]
  obtain ⟨hL, hb⟩ | ⟨hL, hb, -⟩ := m.vsrcB_cases hx
  · have hlit := hc.lit (.inr hL)
    rw [hb]
    clear hb hx hc m
    obtain ⟨⟨op, mod, b, a, d, maj, L⟩, ⟨c, e, mask, z, chan, ak, bk, ty, p, rsv⟩, w2, lit⟩ := r
    subst hL hmaj hrsv hlit
    obtain rfl | rfl | rfl | rfl := L_cases bk <;> rfl
  · rw [hb]
    clear hb hx hc m
    obtain ⟨⟨op, mod, b, a, d, maj, L⟩, ⟨c, e, mask, z, chan, ak, bk, ty, p, rsv⟩, w2, lit⟩ := r
    subst hL hmaj hrsv
    rfl

theorem Uses.spells_vec {i j : Instr} {w0 w1 lw : List Check} {op : BitVec 6} {mod ty : BitVec 4} {a b : VSrc} (hc : r.Canon)
    (hx : r.f0.L = 2 ∨ r.f0.L = 3) (hmaj : r.f0.maj = 4) (hop : r.f0.op = op) (h : u.verdict r j w0 w1 lw = .ok i)
    (hu : u.vec = true) (hev : isEvent j = false) (henc : encodeRaw j = u.vecTrim op mod ty a b r)
    (hmod : u.Met r → mod = r.f0.mod) (hty : u.Met r → ty = r.f1.ty) (ha : u.Met r → Passes w1 → a = r.srcA)
    (hb : u.Met r → Passes w0 → b = r.vsrcB)
    (hwf : u.Met r → Passes w0 → Passes w1 → Passes lw → WellFormed j = true) : r.Spells i := by
  obtain ⟨hcs, rfl⟩ := verdict_ok.1 h
  obtain ⟨hus, hl⟩ := passes_append.1 hcs
  obtain ⟨h0, h1, m⟩ := Uses.met_of_passes hus
  have hq : (⟨if u.qual then r.f1.mask else 0, u.qual && u.zOk && r.qual.z⟩ : Qual) = r.qual := by
    rw [kept_eq m.mask]
    cases hq : (u.qual && u.zOk)
    · rw [Raw.qual, m.z hq]; rfl
    · rfl
  refine ⟨hwf m h0 h1 hl, hev, henc.trans ?_⟩
  rw [Uses.vecTrim, hq, kept_eq m.c, kept_eq m.e, m.d, ← hop, hmod m, hty m, ha m h1, hb m h0, m.xvec_eq hu hc hx hmaj]

end
end Sys2Proof

/-! SUPPORT. XVEC by row (R73): each row's word spells its instruction. -/

namespace Sys2Proof

open Machine (isEvent)

/-! ## Literals of XVEC (R55, R140) -/

/-- The literal kind is none that the type takes. -/
def litKindBad (t : Ty) (b : BitVec 5) : Bool :=
  match b.toNat with
  | 0 => !t.isInt
  | 1 => t != .f32
  | 2 => t != .f32
  | _ => false

/-- The check of the kind of a literal. -/
def litKind (r : Raw) : Check := (0, .literal, r.f0.L == 3 && decide (r.f0.b.toNat < 4) && litKindBad (tyOf r.f1.ty) r.f0.b)

/-- The check that a literal is of kind 3. -/
def litThree (r : Raw) : Check := (0, .literal, r.f0.L == 3 && decide (r.f0.b.toNat < 3))

theorem small_cases {b : BitVec 5} (h : (b.setWidth 2).setWidth 5 = b) : b = 0 ∨ b = 1 ∨ b = 2 ∨ b = 3 := by
  revert b; decide

section
variable {r : Raw} {u : Uses}

theorem litOk_of_passes (hL : r.f0.L = 3) (hb : (r.f0.b.setWidth 2).setWidth 5 = r.f0.b) (hk : Passes [litKind r])
    (hl : Passes [litHigh r (r.f0.b == 1)]) : litOk (tyOf r.f1.ty) (r.f0.b.setWidth 2) r.lit = true := by
  obtain h | h | h | h := small_cases hb
  case inr.inr.inr => rw [h]; rfl
  all_goals simpa [litKind, litKindBad, litHigh, hL, h, litOk] using And.intro hk hl

theorem Uses.Met.okB (m : u.Met r) (hx : r.f0.L = 2 ∨ r.f0.L = 3) (hk : Passes [litKind r])
    (hl : Passes [litHigh r (r.f0.b == 1)]) : r.vsrcB.okB (tyOf r.f1.ty) = true := by
  obtain ⟨hL, hb⟩ | ⟨hL, hb, h4, -⟩ := m.vsrcB_cases hx
  · rw [hb]
    exact okB_srcOf fun hk => m.chanKind (by simp [Raw.hasKind, hk])
  · rw [hb]
    exact litOk_of_passes hL h4 hk hl

theorem xsrcB_cases (hx : r.f0.L = 2 ∨ r.f0.L = 3) :
    (r.f0.L = 2 ∧ r.xsrcB = .reg r.f0.b) ∨ (r.f0.L = 3 ∧ r.xsrcB = .lit (r.f0.b.setWidth 2) r.lit) := by
  obtain hL | hL := hx
  · exact .inl ⟨hL, by rw [Raw.xsrcB, hL]; rfl⟩
  · exact .inr ⟨hL, by rw [Raw.xsrcB, hL]; rfl⟩

theorem Uses.Met.xsrcB_okB (m : u.Met r) (hx : r.f0.L = 2 ∨ r.f0.L = 3) (hk : Passes [litKind r])
    (hl : Passes [litHigh r (r.f0.b == 1)]) : r.xsrcB.okB (tyOf r.f1.ty) = true := by
  obtain ⟨-, hb⟩ | ⟨hL, hb⟩ := xsrcB_cases hx
  · rw [hb]
    rfl
  · rw [hb]
    exact litOk_of_passes hL (m.bLit hL).1 hk hl

theorem Uses.Met.xsrcB_enc (m : u.Met r) (hx : r.f0.L = 2 ∨ r.f0.L = 3) (hu : u.b.isSrc = false) : r.xsrcB.enc = r.vsrcB := by
  obtain ⟨hL, hb⟩ | ⟨hL, hb⟩ := xsrcB_cases hx
  · rw [hb, vsrcB_reg hL, m.bk hu]
    rfl
  · rw [hb, vsrcB_lit hL]
    rfl

theorem ksrcB_cases (hx : r.f0.L = 2 ∨ r.f0.L = 3) :
    (r.f0.L = 2 ∧ r.ksrcB = .reg (r.f0.b.setWidth 3)) ∨ (r.f0.L = 3 ∧ r.ksrcB = .lit (r.f0.b.setWidth 2) r.lit) := by
  obtain hL | hL := hx
  · exact .inl ⟨hL, by rw [Raw.ksrcB, hL]; rfl⟩
  · exact .inr ⟨hL, by rw [Raw.ksrcB, hL]; rfl⟩

theorem Uses.Met.ksrcB_okB (m : u.Met r) (hx : r.f0.L = 2 ∨ r.f0.L = 3) (hk : Passes [litKind r])
    (hl : Passes [litHigh r (r.f0.b == 1)]) : r.ksrcB.okB (tyOf r.f1.ty) = true := by
  obtain ⟨-, hb⟩ | ⟨hL, hb⟩ := ksrcB_cases hx
  · rw [hb]
    rfl
  · rw [hb]
    exact litOk_of_passes hL (m.bLit hL).1 hk hl

theorem Uses.Met.ksrcB_enc (m : u.Met r) (hx : r.f0.L = 2 ∨ r.f0.L = 3) (hu : u.b = .reg3) : r.ksrcB.enc = r.vsrcB := by
  obtain ⟨hL, hb⟩ | ⟨hL, hb⟩ := ksrcB_cases hx
  · have hf := m.b (by rw [hL]; decide)
    rw [hu] at hf
    rw [hb, vsrcB_reg hL, m.bk (by rw [hu]; rfl)]
    exact congrArg VSrc.reg hf
  · rw [hb, vsrcB_lit hL]
    rfl

theorem Uses.Met.okB3 (m : u.Met r) (hx : r.f0.L = 2 ∨ r.f0.L = 3) (hk : Passes [litThree r]) : r.vsrcB.okB3 = true := by
  obtain ⟨hL, hb⟩ | ⟨hL, hb, h4, -⟩ := m.vsrcB_cases hx
  · rw [hb]
    exact okB3_srcOf fun hk => m.chanKind (by simp [Raw.hasKind, hk])
  · rw [hb]
    obtain h | h | h | h := small_cases h4
    case inr.inr.inr => rw [h]; rfl
    all_goals exact absurd hk (by simp [litThree, hL, h])

/-- A field that is neither a source nor has a literal in its place is a register source. -/
theorem Uses.Met.regB (m : u.Met r) (hx : r.f0.L = 2 ∨ r.f0.L = 3) (hl : u.lit = false) (hu : u.b.isSrc = false) :
    VSrc.reg (u.b.keep r.f0.b 0) = r.vsrcB := by
  have hL := m.no_lit hl hx
  have hf := m.b (by rw [hL]; decide)
  rw [m.bk hu] at hf
  rw [vsrcB_reg hL, hf, m.bk hu]
  rfl

theorem Uses.Met.regA (m : u.Met r) (hu : u.a.isSrc = false) : VSrc.reg (u.a.keep r.f0.a 0) = r.srcA := by
  have hf := m.a
  rw [m.ak hu] at hf
  rw [Raw.srcA, hf, m.ak hu]
  rfl

/-! ## The upper bits of mod -/

theorem CC_code {hi : BitVec 3} (h : hi.toNat ≤ 6) : ((CC.ofCode? hi).getD .eq).code = hi := by
  revert hi; decide

theorem CC_unord (hi : BitVec 3) : ((CC.ofCode? hi).getD .eq == .unord) = (hi == 6) := by
  revert hi; decide

theorem low_flag {hi : BitVec 3} (h : hi.toNat ≤ 1) : hi = 0 ∨ hi = 1 := by
  revert hi; decide

/-- VLUT.n8 takes no group (R153). -/
theorem lut_group {t : Ty} {hi : BitVec 3} (ht : t.lutOk = true) (hg : (t == .n8 && hi != 0) = false) :
    (t == .c4 || hi.setWidth 2 == 0) = true := by
  cases t
  case c4 => rfl
  case n8 =>
    have h0 : hi = 0 := by simpa using hg
    rw [h0]
    rfl
  all_goals cases ht

/-- The mask operations have type code 0. -/
theorem mask_ty {t : Ty} (h : (t == .i8) = true) : t = .i8 := eq_of_beq h

theorem half_code {hi : BitVec 3} (h : hi.toNat ≤ 3) : (hi.setWidth 2).setWidth 3 = hi := by
  revert hi; decide

theorem flag_code {hi : BitVec 3} (h : hi.toNat ≤ 1) : (flagBit (hi == 1)).setWidth 3 = hi := by
  revert hi; decide

/-- mod from its two parts, the first written in another way. -/
theorem Uses.Met.mod_eq (m : u.Met r) (hu : u.modHi ≠ 0) {hi : BitVec 3} (hhi : hi = r.modHi) :
    modOf hi (u.mod0 && r.mod0) = r.f0.mod := by
  rw [hhi, ← m.mod, Uses.keepMod, if_neg (fun h => hu h.1), Uses.keepHi, if_neg hu]

theorem Uses.Met.two_ok {ok : Ty → Bool} (m : u.Met r) (hx : r.f0.L = 2 ∨ r.f0.L = 3) (hu : u.ty = some ok)
    (hk : Passes [litKind r]) (hl : Passes [litHigh r (r.f0.b == 1)]) :
    (ok (tyOf r.f1.ty) && r.qual.ok && r.srcA.okA && r.vsrcB.okB (tyOf r.f1.ty) && VSrc.pairOk r.srcA r.vsrcB) = true := by
  rw [(m.ty _ hu).1, m.qual, m.okA, m.okB hx hk hl, m.pairOk hx]
  rfl

theorem Uses.Met.mask_code (m : u.Met r) (hu : u.ty = some (fun t => t == .i8)) : 0 = r.f1.ty := by
  obtain ⟨hi8, hcode⟩ := m.ty _ hu
  rw [← hcode, mask_ty hi8]
  rfl

theorem Uses.Met.one_ok {ok : Ty → Bool} (m : u.Met r) (hu : u.ty = some ok) :
    (ok (tyOf r.f1.ty) && r.qual.ok && r.srcA.okA) = true := by
  rw [(m.ty _ hu).1, m.qual, m.okA]
  rfl

end

section
variable {r : Raw} {i : Instr} (hc : r.Canon) (hx : r.f0.L = 2 ∨ r.f0.L = 3) (hmaj : r.f0.maj = 4)
include hc hx hmaj

theorem decXvec_spells (h : decXvec r = .ok i) : r.Spells i := by
  unfold decXvec at h
  dsimp only at h
  split at h
  case h_39 => cases h
  -- VADD, VSUB, VMUL
  case h_1 hop | h_2 hop | h_3 hop =>
    refine Uses.spells_vec hc hx hmaj (eq_ofNat_of_toNat hop) h rfl rfl rfl (fun m => m.mod) (fun m => (m.ty _ rfl).2)
      (fun _ _ => rfl) (fun _ _ => rfl) (fun m h0 _ hl => ?_)
    obtain ⟨hs, hk⟩ := passes_cons.1 h0
    have hsat : (!r.mod0 || (tyOf r.f1.ty).isInt) = true := by
      rw [← Bool.not_eq_false', Bool.not_or, Bool.not_not]
      exact hs
    show ((tyOf r.f1.ty).notC4 && r.qual.ok && (!r.mod0 || (tyOf r.f1.ty).isInt) && r.srcA.okA && r.vsrcB.okB (tyOf r.f1.ty) &&
      VSrc.pairOk r.srcA r.vsrcB) = true
    rw [hsat, Bool.and_true]
    exact m.two_ok hx rfl hk hl
  -- VSHL
  case h_12 hop =>
    exact Uses.spells_vec hc hx hmaj (eq_ofNat_of_toNat hop) h rfl rfl rfl (fun m => m.mod) (fun m => (m.ty _ rfl).2)
      (fun _ _ => rfl) (fun _ _ => rfl) (fun m h0 _ hl => m.two_ok hx rfl (passes_cons.1 h0).2 hl)
  case h_4 hop | h_5 hop | h_6 hop | h_9 hop | h_10 hop | h_11 hop | h_13 hop | h_14 hop | h_15 hop | h_26 hop =>
    exact Uses.spells_vec hc hx hmaj (eq_ofNat_of_toNat hop) h rfl rfl rfl (fun m => m.mod) (fun m => (m.ty _ rfl).2)
      (fun _ _ => rfl) (fun _ _ => rfl) (fun m h0 _ hl => m.two_ok hx rfl h0 hl)
  -- VABS, VNEG
  case h_7 hop | h_8 hop =>
    exact Uses.spells_vec hc hx hmaj (eq_ofNat_of_toNat hop) h rfl rfl rfl (fun m => m.mod) (fun m => (m.ty _ rfl).2)
      (fun _ _ => rfl) (fun m _ => m.regB hx rfl rfl) (fun m _ _ _ => m.one_ok rfl)
  -- VCMP
  case h_16 hop =>
    refine Uses.spells_vec hc hx hmaj (eq_ofNat_of_toNat hop) h rfl rfl rfl
      (fun m => m.mod_eq (by decide) (CC_code m.modHi)) (fun m => (m.ty _ rfl).2) (fun _ _ => rfl) (fun _ _ => rfl)
      (fun m h0 _ hl => Bool.and_eq_true_iff.2 ⟨m.two_ok hx rfl (passes_cons.1 h0).2 hl, ?_⟩)
    rw [CC_unord]
    exact congrArg Bool.not (passes_cons.1 h0).1
  -- VSEL
  case h_17 hop =>
    refine Uses.spells_vec hc hx hmaj (eq_ofNat_of_toNat hop) h rfl rfl rfl (fun m => m.mod) (fun m => (m.ty _ rfl).2)
      (fun _ _ => rfl) (fun _ _ => rfl) (fun m h0 _ hl => ?_)
    show ((tyOf r.f1.ty).notC4 && r.srcA.okA && r.vsrcB.okB (tyOf r.f1.ty) && VSrc.pairOk r.srcA r.vsrcB) = true
    rw [(m.ty _ rfl).1, m.okA, m.okB hx h0 hl, m.pairOk hx]
    rfl
  -- VSPLAT
  case h_18 hop =>
    exact Uses.spells_vec hc hx hmaj (eq_ofNat_of_toNat hop) h rfl rfl rfl (fun m => m.mod) (fun m => (m.ty _ rfl).2)
      (fun m _ => m.regA rfl) (fun m _ => m.regB hx rfl rfl) (fun m _ _ _ => Bool.and_eq_true_iff.2 ⟨(m.ty _ rfl).1, m.qual⟩)
  -- VINS
  case h_19 hop =>
    refine Uses.spells_vec hc hx hmaj (eq_ofNat_of_toNat hop) h rfl rfl rfl (fun m => m.mod) (fun m => (m.ty _ rfl).2)
      (fun m _ => m.regA rfl) (fun m _ => m.xsrcB_enc hx rfl) (fun m h0 _ hl => ?_)
    exact Bool.and_eq_true_iff.2 ⟨Bool.and_eq_true_iff.2 ⟨(m.ty _ rfl).1, m.qual⟩, m.xsrcB_okB hx h0 hl⟩
  -- VEXT
  case h_20 hop =>
    refine Uses.spells_vec hc hx hmaj (eq_ofNat_of_toNat hop) h rfl rfl rfl (fun m => m.mod) (fun m => (m.ty _ rfl).2)
      (fun _ _ => rfl) (fun m _ => m.xsrcB_enc hx rfl) (fun m h0 _ hl => ?_)
    exact Bool.and_eq_true_iff.2 ⟨Bool.and_eq_true_iff.2 ⟨(m.ty _ rfl).1, m.okA⟩, m.xsrcB_okB hx h0 hl⟩
  -- VPERM
  case h_21 hop =>
    refine Uses.spells_vec hc hx hmaj (eq_ofNat_of_toNat hop) h rfl rfl rfl (fun m => m.mod) (fun m => (m.ty _ rfl).2)
      (fun _ _ => rfl) (fun _ _ => rfl) (fun m h0 _ _ => ?_)
    exact Bool.and_eq_true_iff.2 ⟨Bool.and_eq_true_iff.2 ⟨m.one_ok rfl, m.okB3 hx h0⟩, m.pairOk hx⟩
  -- VZIP
  case h_22 hop =>
    exact Uses.spells_vec hc hx hmaj (eq_ofNat_of_toNat hop) h rfl rfl rfl
      (fun m => m.mod_eq (by decide) (half_code m.modHi)) (fun m => (m.ty _ rfl).2) (fun _ _ => rfl) (fun _ _ => rfl)
      (fun m h0 _ hl => m.two_ok hx rfl h0 hl)
  -- VREDADD, VREDMAX, VREDMIN
  case h_23 hop | h_24 hop | h_25 hop =>
    exact Uses.spells_vec hc hx hmaj (eq_ofNat_of_toNat hop) h rfl rfl rfl (fun m => m.mod) (fun m => (m.ty _ rfl).2)
      (fun _ _ => rfl) (fun m _ => m.regB hx rfl rfl) (fun m _ _ _ => Bool.and_eq_true_iff.2 ⟨(m.ty _ rfl).1, m.okA⟩)
  -- VCVT
  case h_27 hop =>
    refine Uses.spells_vec hc hx hmaj (eq_ofNat_of_toNat hop) h rfl rfl rfl (fun m => m.mod) (fun m => (m.ty _ rfl).2)
      (fun _ _ => rfl) (fun m h0 => ?_) (fun m h0 _ _ => ?_)
    all_goals
      obtain ⟨hsrc, hint⟩ := passes_cons.1 h0
      obtain ⟨hnot, hcode⟩ := badTy_eq_false.1 hsrc
      have hint : ((tyOf r.f1.ty).isInt && (tyOf (r.f0.b.setWidth 4)).isInt) = false := (passes_cons.1 hint).1
    · rw [hcode]
      exact m.regB hx rfl rfl
    · have hcvt : Ty.cvtOk (tyOf r.f1.ty) (tyOf (r.f0.b.setWidth 4)) = true := by
        rw [Ty.cvtOk, (m.ty _ rfl).1, hnot, hint]
        rfl
      exact Bool.and_eq_true_iff.2 ⟨Bool.and_eq_true_iff.2 ⟨hcvt, m.qual⟩, m.okA⟩
  -- VNARROW
  case h_28 hop =>
    exact Uses.spells_vec hc hx hmaj (eq_ofNat_of_toNat hop) h rfl rfl rfl
      (fun m => m.mod_eq (by decide) (flag_code m.modHi)) (fun m => (m.ty _ rfl).2) (fun _ _ => rfl)
      (fun m _ => m.regB hx rfl rfl) (fun m _ _ _ => m.one_ok rfl)
  -- VWIDEN
  case h_29 hop =>
    exact Uses.spells_vec hc hx hmaj (eq_ofNat_of_toNat hop) h rfl rfl rfl
      (fun m => m.mod_eq (by decide) (flag_code m.modHi)) (fun m => (m.ty _ rfl).2) (fun _ _ => rfl)
      (fun m _ => m.regB hx rfl rfl) (fun m _ _ _ => m.one_ok rfl)
  -- VLUT
  case h_30 hop =>
    refine Uses.spells_vec hc hx hmaj (eq_ofNat_of_toNat hop) h rfl rfl rfl
      (fun m => m.mod_eq (by decide) (half_code m.modHi)) (fun m => (m.ty _ rfl).2) (fun _ _ => rfl) (fun _ _ => rfl)
      (fun m h0 _ _ => ?_)
    obtain ⟨hg, h0'⟩ := passes_cons.1 h0
    obtain ⟨hodd, h3⟩ := passes_cons.1 h0'
    refine Bool.and_eq_true_iff.2 ⟨Bool.and_eq_true_iff.2 ⟨m.one_ok rfl, lut_group (m.ty _ rfl).1 hg⟩, ?_⟩
    · obtain ⟨hL, hb⟩ | ⟨hL, hb, h4, -⟩ := m.vsrcB_cases hx
      · have hbit : r.f0.b.getLsbD 0 = false := by
          rw [hL] at hodd
          exact hodd
        rw [hb, m.bk rfl]
        exact congrArg Bool.not hbit
      · have hk := m.okB3 hx h3
        rw [hb] at hk ⊢
        exact hk
  -- VCOMP, VEXPND
  case h_31 hop | h_32 hop =>
    refine Uses.spells_vec hc hx hmaj (eq_ofNat_of_toNat hop) h rfl rfl rfl (fun m => m.mod) (fun m => (m.ty _ rfl).2)
      (fun _ _ => rfl) (fun m _ => m.ksrcB_enc hx rfl) (fun m h0 _ hl => ?_)
    exact Bool.and_eq_true_iff.2 ⟨Bool.and_eq_true_iff.2 ⟨(m.ty _ rfl).1, m.okA⟩, m.ksrcB_okB hx h0 hl⟩
  -- VTOPK
  case h_33 hop =>
    refine Uses.spells_vec hc hx hmaj (eq_ofNat_of_toNat hop) h rfl rfl rfl
      (fun m => m.mod_eq (by decide) (flag_code m.modHi)) (fun m => (m.ty _ rfl).2)
      (fun _ _ => rfl) (fun m _ => m.xsrcB_enc hx rfl) (fun m h0 h1 hl => ?_)
    refine Bool.and_eq_true_iff.2
      ⟨Bool.and_eq_true_iff.2 ⟨Bool.and_eq_true_iff.2 ⟨(m.ty _ rfl).1, m.okA⟩, m.xsrcB_okB hx h0 hl⟩, ?_⟩
    have he := (passes_cons.1 h1).1
    obtain hhi | hhi := low_flag m.modHi
    · simpa [hhi] using he
    · rw [hhi]
      rfl
  -- MAND, MOR
  case h_34 hop | h_35 hop =>
    refine Uses.spells_vec hc hx hmaj (eq_ofNat_of_toNat hop) h rfl rfl rfl (fun m => m.mod) ?_
      (fun m _ => m.regA rfl) (fun m _ => m.ksrcB_enc hx rfl) (fun m h0 _ hl => ?_)
    · exact fun m => m.mask_code rfl
    · have hb := m.ksrcB_okB hx h0 hl
      rw [mask_ty (m.ty _ rfl).1] at hb
      exact Bool.and_eq_true_iff.2 ⟨m.qual, hb⟩
  -- MNOT, MPOPC
  case h_36 hop =>
    exact Uses.spells_vec hc hx hmaj (eq_ofNat_of_toNat hop) h rfl rfl rfl (fun m => m.mod) (fun m => m.mask_code rfl)
      (fun m _ => m.regA rfl) (fun m _ => m.regB hx rfl rfl) (fun m _ _ _ => m.qual)
  case h_37 hop =>
    exact Uses.spells_vec hc hx hmaj (eq_ofNat_of_toNat hop) h rfl rfl rfl (fun m => m.mod) (fun m => m.mask_code rfl)
      (fun m _ => m.regA rfl) (fun m _ => m.regB hx rfl rfl) (fun _ _ _ _ => rfl)
  -- VACCS
  case h_38 hop =>
    refine Uses.spells_vec hc hx hmaj (eq_ofNat_of_toNat hop) h rfl rfl rfl (fun m => m.mod) (fun m => (m.ty _ rfl).2)
      (fun m h1 => ?_) (fun m _ => m.regB hx rfl rfl) (fun m _ h1 _ => ?_)
    all_goals have hk : r.f1.ak = 2 := by simpa using h1
    · rw [Raw.srcA, hk]
      rfl
    · exact Bool.and_eq_true_iff.2
        ⟨Bool.and_eq_true_iff.2 ⟨(m.ty _ rfl).1, m.qual⟩, decide_eq_true (m.chanKind (by simp [Raw.hasKind, hk]))⟩

end

/-! ## What the decoder answers -/

theorem decodeExt_spells {r : Raw} {i : Instr} (hc : r.Canon) (hx : r.f0.L = 2 ∨ r.f0.L = 3) (h : decodeExt r = .ok i) :
    r.Spells i := by
  unfold decodeExt at h
  split at h
  case h_1 hmaj => exact decXsc_spells hc hx (eq_ofNat_of_toNat hmaj) h
  case h_2 hmaj => exact decXmem_spells hc hx (eq_ofNat_of_toNat hmaj) h
  case h_3 hmaj => exact decXeng_spells hc hx (eq_ofNat_of_toNat hmaj) h
  case h_4 hmaj => exact decXvec_spells hc hx (eq_ofNat_of_toNat hmaj) h
  case h_5 hmaj => exact decXmat_spells hc hx (eq_ofNat_of_toNat hmaj) h
  case h_6 hmaj => exact decXmsg_spells hc hx (eq_ofNat_of_toNat hmaj) h
  case h_7 hmaj => exact decXport_spells hc hx (eq_ofNat_of_toNat hmaj) h
  case h_8 hmaj => exact decXreac_spells hc hx (eq_ofNat_of_toNat hmaj) h
  case h_9 hmaj => exact decXgang_spells hc hx (eq_ofNat_of_toNat hmaj) h
  case h_10 => cases h

theorem decodeRaw_spells {r : Raw} {i : Instr} (hc : r.Canon) (h : decodeRaw r = .ok i) : r.Spells i := by
  obtain hL | hL | hL | hL := L_cases r.f0.L
  · rw [decodeRaw_base (.inl hL)] at h
    exact decodeBase_spells hc (.inl hL) h
  · rw [decodeRaw_base (.inr hL)] at h
    exact decodeBase_spells hc (.inr hL) h
  · rw [decodeRaw_ext (.inl hL)] at h
    exact decodeExt_spells hc (.inl hL) h
  · rw [decodeRaw_ext (.inr hL)] at h
    exact decodeExt_spells hc (.inr hL) h

theorem decode_spells {ws : List W32} {i : Instr} (h : decode ws = .ok i) :
    ∃ r : Raw, r.Spells i ∧ r.words = ws.take (lengthOf (ws.headD 0)) := by
  unfold decode at h
  split at h
  case h_1 r hr =>
    obtain ⟨hc, hw⟩ := Raw.words_of_ofWords hr
    exact ⟨r, decodeRaw_spells hc h, hw⟩
  case h_2 => cases h

/-- Settles O56: major by major, what passes an instruction's checks has in every field what the instruction's encoding puts there
(`decodeRaw_spells`). -/
theorem decodeEncode : Obligations.DecodeEncode := by
  unfold Obligations.DecodeEncode
  intro ws i h
  obtain ⟨r, hs, hw⟩ := decode_spells h
  refine ⟨hs.wf, hs.instr, ?_⟩
  rw [encode, hs.raw, hw]

end Sys2Proof

/-! SUPPORT. The base majors (R59-R70): the encoding of a well-formed instruction is read back. -/

namespace Sys2Proof

/-! ## Fields read back -/

@[simp] theorem rform_mod {maj op mod b a d} : (rform maj op mod b a d).f0.mod = mod := rfl
@[simp] theorem rform_b {maj op mod b a d} : (rform maj op mod b a d).f0.b = b := rfl
@[simp] theorem rform_a {maj op mod b a d} : (rform maj op mod b a d).f0.a = a := rfl
@[simp] theorem rform_d {maj op mod b a d} : (rform maj op mod b a d).f0.d = d := rfl
@[simp] theorem rform_L {maj op mod b a d} : (rform maj op mod b a d).f0.L = 0 := rfl

@[simp] theorem noLit_rform {maj op mod b a d} : (noLit (rform maj op mod b a d)).2.2 = false := rfl

@[simp] theorem reg3_field (q : Reg3) : (q.setWidth 5).setWidth 3 = q := by
  revert q; decide

@[simp] theorem bad3_reg3 (q : Reg3) : bad3 (q.setWidth 5) = false := by
  revert q; decide

/-- The pieces of a base word without a literal that passes its checks. -/
theorem rform_reads {maj op mod b a d} {cs : List Check} {i j : Instr} (hdec : decodeBase (rform maj op mod b a d) = verdict cs j)
    (hcs : Passes cs) (hj : j = i) : (rform maj op mod b a d).Reads i :=
  ⟨canon_rform, (decodeRaw_base (.inl rfl)).trans (hdec.trans (verdict_ok.2 ⟨hcs, hj⟩))⟩

/-- One whose type field is first to be checked. -/
theorem typed_reads {maj op b a d} {cs : List Check} {i j : Instr} {ok : Ty → Bool} {t : Ty}
    (hdec : decodeBase (rform maj op t.code b a d) = verdict ((0, .type, badTy ok t.code) :: cs) j) (ht : ok t = true)
    (hcs : Passes cs) (hj : j = i) : (rform maj op t.code b a d).Reads i :=
  rform_reads hdec (by simp [ht, hcs]) hj

/-- One whose checks need no fact about its operands. -/
theorem plain_reads {maj op mod b a d} {i : Instr} (hdec : decodeBase (rform maj op mod b a d) = .ok i) :
    (rform maj op mod b a d).Reads i :=
  ⟨canon_rform, (decodeRaw_base (.inl rfl)).trans hdec⟩

/-! ## Immediates of several fields (R48, R64) -/

theorem imm15_iform (maj : BitVec 5) (imm : BitVec 15) (a d : BitVec 5) : (iform maj imm a d).f0.imm15 = imm := by
  apply BitVec.eq_of_toNat_eq
  simp only [F0.toNat_imm15, iform, rform, BitVec.extractLsb'_toNat, Nat.shiftRight_eq_div_pow]
  omega

theorem imm20_wform (maj : BitVec 5) (imm : BitVec 20) (d : BitVec 5) : (wform maj imm d).f0.imm20 = imm := by
  apply BitVec.eq_of_toNat_eq
  simp only [F0.toNat_imm20, wform, rform, BitVec.extractLsb'_toNat, Nat.shiftRight_eq_div_pow]
  omega

theorem imm25_jform (maj : BitVec 5) (imm : BitVec 25) : (jform maj imm).f0.imm25 = imm := by
  apply BitVec.eq_of_toNat_eq
  rw [F0.toNat_imm25, jform, imm20_wform]
  simp only [wform, rform, BitVec.extractLsb'_toNat, Nat.shiftRight_eq_div_pow]
  omega

theorem disp10_rform (disp : BitVec 10) : disp.extractLsb' 4 6 ++ disp.extractLsb' 0 4 = disp :=
  BitVec.extractLsb'_append_extractLsb' (w := 6) (len := 4) (x := disp)

theorem off11_imform (maj : BitVec 5) (off : BitVec 11) (low4 : BitVec 4) (a d : BitVec 5) :
    (imform maj off low4 a d).f0.off11 = off := by
  have hb : (off.extractLsb' 0 1 ++ low4).toNat = off.toNat % 2 * 2 ^ 4 + low4.toNat := by
    rw [toNat_append_add, BitVec.extractLsb'_toNat, Nat.shiftRight_eq_div_pow]
    omega
  apply BitVec.eq_of_toNat_eq
  simp only [F0.toNat_off11, imform, rform, hb, BitVec.extractLsb'_toNat, Nat.shiftRight_eq_div_pow]
  omega

theorem low4_imform (maj : BitVec 5) (off : BitVec 11) (low4 : BitVec 4) (a d : BitVec 5) :
    (imform maj off low4 a d).f0.b.setWidth 4 = low4 :=
  BitVec.setWidth_append_eq_right

theorem sub_sysform (sub : BitVec 3) (n : BitVec 12) (a d : BitVec 5) : (sysform sub n a d).f0.op.extractLsb' 3 3 = sub :=
  BitVec.extractLsb'_append_eq_left

theorem num12_sysform (sub : BitVec 3) (n : BitVec 12) (a d : BitVec 5) : (sysform sub n a d).f0.num12 = n := by
  have hop : (sub ++ n.extractLsb' 9 3).toNat = sub.toNat * 2 ^ 3 + n.toNat / 2 ^ 9 := by
    rw [toNat_append_add, BitVec.extractLsb'_toNat, Nat.shiftRight_eq_div_pow]
    omega
  apply BitVec.eq_of_toNat_eq
  simp only [F0.toNat_num12, sysform, rform, hop, BitVec.extractLsb'_toNat, Nat.shiftRight_eq_div_pow]
  omega

/-! ## Instructions whose source b may be a literal (R55) -/

theorem rformB_L {kind maj op mod b a d} :
    (rformB kind maj op mod b a d).f0.L = 0 ∨ (rformB kind maj op mod b a d).f0.L = 1 := by
  cases b
  · exact .inl rfl
  · exact .inr rfl

theorem srcB_rformB {kind maj op mod b a d} : (rformB kind maj op mod b a d).srcB = b := by
  cases b
  · exact Raw.srcB_reg (.inl rfl)
  · exact Raw.srcB_lit (.inl rfl)

/-- The pieces of a base word with such a source that passes its checks. -/
theorem rformB_reads {kind maj op mod b a d} {cs : List Check} {i j : Instr}
    (hdec : decodeBase (rformB kind maj op mod b a d) = verdict cs j) (hcs : Passes cs) (hj : j = i) :
    (rformB kind maj op mod b a d).Reads i :=
  ⟨canon_rformB, (decodeRaw_base rformB_L).trans (hdec.trans (verdict_ok.2 ⟨hcs, hj⟩))⟩

section
variable {kind maj : BitVec 5} {op : BitVec 6} {mod : BitVec 4} {b : SrcB} {a d : BitVec 5}

@[simp] theorem rformB_maj : (rformB kind maj op mod b a d).f0.maj = maj := by cases b <;> rfl
@[simp] theorem rformB_op : (rformB kind maj op mod b a d).f0.op = op := by cases b <;> rfl
@[simp] theorem rformB_mod : (rformB kind maj op mod b a d).f0.mod = mod := by cases b <;> rfl
@[simp] theorem rformB_a : (rformB kind maj op mod b a d).f0.a = a := by cases b <;> rfl
@[simp] theorem rformB_d : (rformB kind maj op mod b a d).f0.d = d := by cases b <;> rfl

/-- Where there is a literal, field b holds its kind. -/
theorem rformB_kind (h : (rformB kind maj op mod b a d).f0.L = 1) : (rformB kind maj op mod b a d).f0.b = kind := by
  cases b
  · cases h
  · rfl

end

section
variable {op : BitVec 6} {mk : Ty → Reg → Reg → SrcB → Instr} {t : Ty} {d a : Reg} {b : SrcB}

theorem intBin_reads (hop : intBin op.toNat = some mk) (ht : t.isInt = true) :
    (rformB 0 1 op t.code b a d).Reads (mk t d a b) := by
  have hdec : ∀ r : Raw, r.f0.maj = 1 → r.f0.op = op → decodeBase r = verdict [(0, .type, badTy Ty.isInt r.f0.mod),
      (0, .literal, r.f0.L == 1 && r.f0.b != 0)] (mk (tyOf r.f0.mod) r.f0.d r.f0.a r.srcB) := by
    intro r hmaj ho
    simp only [decodeBase, hmaj, decInt, ho, hop]
    rfl
  refine rformB_reads (hdec _ rformB_maj rformB_op) ?_ (by simp [srcB_rformB])
  simp +contextual [ht, rformB_kind]

theorem fltBin_reads (hop : fltBin op.toNat = some mk) (h : (t.isFlt && b.fltOk t) = true) :
    (rformB 1 6 op t.code b a d).Reads (mk t d a b) := by
  have hdec : ∀ r : Raw, r.f0.maj = 6 → r.f0.op = op → decodeBase r = verdict [(0, .type, badTy Ty.isFlt r.f0.mod),
      (0, .literal, r.f0.L == 1 && (r.f0.b != 1 || tyOf r.f0.mod != .f32)),
      (2, .literal, r.f0.L == 1 && r.lit.extractLsb' 32 32 != 0)] (mk (tyOf r.f0.mod) r.f0.d r.f0.a r.srcB) := by
    intro r hmaj ho
    simp only [decodeBase, hmaj, decFlt, ho, hop]
    rfl
  obtain ⟨ht, hb⟩ := Bool.and_eq_true_iff.1 h
  refine rformB_reads (hdec _ rformB_maj rformB_op) ?_ (by simp [srcB_rformB])
  cases b with
  | reg r => simp [ht, rformB]
  | lit v =>
    obtain ⟨h32, hv⟩ := Bool.and_eq_true_iff.1 hb
    simp_all [rformB]

theorem amoMk_reads (hop : amoMk op.toNat = some mk) (ht : amoTyOk op.toNat t = true) :
    (rformB 0 18 op t.code b a d).Reads (mk t d a b) := by
  have hdec : ∀ r : Raw, r.f0.maj = 18 → r.f0.op = op → decodeBase r = verdict
      [(0, .type, badTy (amoTyOk op.toNat) r.f0.mod),
      (0, .literal, r.f0.L == 1 && r.f0.b != 0)] (mk (tyOf r.f0.mod) r.f0.d r.f0.a r.srcB) := by
    intro r hmaj ho
    simp only [decodeBase, hmaj, decAmo, ho, hop]
    rfl
  refine rformB_reads (hdec _ rformB_maj rformB_op) ?_ (by simp [srcB_rformB])
  simp +contextual [ht, rformB_kind]

theorem amopMk_reads {mk : Ty → Reg → SrcB → Instr} (hamo : amoMk op.toNat = none) (hop : amopMk (op.toNat - 16) = some mk)
    (hge : 16 ≤ op.toNat) (ht : amoTyOk (op.toNat - 16) t = true) : (rformB 0 18 op t.code b a 0).Reads (mk t a b) := by
  have hdec : ∀ r : Raw, r.f0.maj = 18 → r.f0.op = op → decodeBase r = verdict [(0, .op, decide (op.toNat < 16)),
      (0, .type, badTy (amoTyOk (op.toNat - 16)) r.f0.mod), (0, .reserved, r.f0.d != 0),
      (0, .literal, r.f0.L == 1 && r.f0.b != 0)] (mk (tyOf r.f0.mod) r.f0.a r.srcB) := by
    intro r hmaj ho
    simp only [decodeBase, hmaj, decAmo, ho, hamo, hop]
    rfl
  refine rformB_reads (hdec _ rformB_maj rformB_op) ?_ (by simp [srcB_rformB])
  simp +contextual [ht, rformB_kind, hge]

end

/-- A conversion's source type is field b. -/
theorem cvt_field (src : Ty) : (src.code.setWidth 5).setWidth 4 = src.code ∧ (src.code.setWidth 5).getLsbD 4 = false := by
  cases src <;> decide

theorem cvtOk_iff {dst src : Ty} :
    Ty.cvtOk dst src = true ↔ dst.notC4 = true ∧ src.notC4 = true ∧ (dst.isInt && src.isInt) = false := by
  cases dst <;> cases src <;> decide

/-! ## SYS (R64) -/

theorem mkMts_other {n : BitVec 12} (h : mtsOwnRow n = false) (a : Reg) : mkMts n a = .mts n a := by
  unfold mkMts
  split
  case h_9 => rfl
  all_goals
    next hn =>
      rw [eq_ofNat_of_toNat hn] at h
      cases h

/-- The pieces of a SYS word. -/
theorem sysform_reads {sub : BitVec 3} {n : BitVec 12} {a d : Reg} {i : Instr} (hdec : decSys (sysform sub n a d) = .ok i) :
    (sysform sub n a d).Reads i :=
  ⟨canon_rform, (decodeRaw_base (.inl rfl)).trans hdec⟩

theorem trap_reads (n : BitVec 12) : (sysform 0 n 0 0).Reads (.trap n) := by
  apply sysform_reads
  simp only [decSys, sub_sysform, num12_sysform]
  rfl

theorem bkpt_reads (n : BitVec 12) : (sysform 4 n 0 0).Reads (.bkpt n) := by
  apply sysform_reads
  simp only [decSys, sub_sysform, num12_sysform]
  rfl

theorem mfs_reads {n : BitVec 12} (h : (sysRegOk n && n.toNat != 9) = true) (d : Reg) : (sysform 2 n 0 d).Reads (.mfs d n) := by
  obtain ⟨hn, h9⟩ := Bool.and_eq_true_iff.1 h
  apply sysform_reads
  simp only [decSys, sub_sysform, num12_sysform, hn]
  rw [if_neg (by simpa using h9)]
  rfl

theorem mfsFstat_reads (d : Reg) : (sysform 2 0x009 0 d).Reads (.mfsFstat d) := by
  apply sysform_reads
  simp only [decSys, sub_sysform, num12_sysform]
  rfl

/-- MTS of any register of R25, by the row of its number. -/
theorem mkMts_reads {n : BitVec 12} (hn : sysRegOk n = true) (a : Reg) : (sysform 3 n a 0).Reads (mkMts n a) := by
  apply sysform_reads
  simp only [decSys, sub_sysform, num12_sysform, hn]
  rfl

theorem mts_reads {n : BitVec 12} (h : (sysRegOk n && !mtsOwnRow n) = true) (a : Reg) : (sysform 3 n a 0).Reads (.mts n a) := by
  obtain ⟨hn, hrow⟩ := Bool.and_eq_true_iff.1 h
  rw [← mkMts_other (by simpa using hrow)]
  exact mkMts_reads hn a

/-! ## Loads and stores (R65), fences (R66) -/

/-- The pieces of an IM word. -/
theorem mem_reads {maj : BitVec 5} {off : BitVec 11} {a d : Reg} {t : Ty} {mk : Ty → Reg → Reg → BitVec 11 → Instr}
    (hdec : ∀ r : Raw, r.f0.maj = maj → decodeBase r = verdict [(0, .type, badTy Ty.notC4 (r.f0.b.setWidth 4)), noLit r]
      (mk (tyOf (r.f0.b.setWidth 4)) r.f0.d r.f0.a r.f0.off11)) (ht : t.notC4 = true) :
    (imform maj off t.code a d).Reads (mk t d a off) := by
  refine rform_reads (hdec _ rfl) ?_ ?_
  · rw [show (rform maj _ _ _ a d) = imform maj off t.code a d from rfl, low4_imform]
    simp [ht, imform]
  · rw [show (rform maj _ _ _ a d) = imform maj off t.code a d from rfl, low4_imform, off11_imform, tyOf_code]
    rfl

theorem cf_field {b : BitVec 5} {cf : Bool} (h : b.setWidth 4 = (flagBit cf).setWidth 4) :
    b.extractLsb' 1 3 = 0 ∧ b.getLsbD 0 = cf := by
  revert b cf; decide

/-- The pieces of a VM word. -/
theorem vmem_reads {maj : BitVec 5} {off : BitVec 11} {a d : Reg} {cf : Bool} {mk : Bool → Reg → Reg → BitVec 11 → Instr}
    (hdec : ∀ r : Raw, r.f0.maj = maj → decodeBase r = verdict [(0, .reserved, r.f0.b.extractLsb' 1 3 != 0), noLit r]
      (mk (r.f0.b.getLsbD 0) r.f0.d r.f0.a r.f0.off11)) :
    (imform maj off ((flagBit cf).setWidth 4) a d).Reads (mk cf d a off) := by
  obtain ⟨hb, hcf⟩ := cf_field (low4_imform maj off ((flagBit cf).setWidth 4) a d)
  refine rform_reads (hdec _ rfl) ?_ ?_
  · rw [show (rform maj _ _ _ a d) = imform maj off ((flagBit cf).setWidth 4) a d from rfl, hb]
    simp [imform]
  · rw [show (rform maj _ _ _ a d) = imform maj off ((flagBit cf).setWidth 4) a d from rfl, hcf, off11_imform]
    rfl

theorem fence_fields {k : BitVec 2} (h : (k != 0) = true) :
    (k.setWidth 5 == 0 || decide (4 ≤ (k.setWidth 5).toNat)) = false ∧ (k.setWidth 5).setWidth 2 = k := by
  revert k; decide

theorem Scope.ofCode?_code (s : Scope) : Scope.ofCode? s.code = some s := by cases s <;> rfl

theorem fence_reads {k : BitVec 2} (h : (k != 0) = true) (s : Scope) :
    (rform 17 5 s.code 0 0 (k.setWidth 5)).Reads (.fence k s) := by
  obtain ⟨hk, hw⟩ := fence_fields h
  refine rform_reads rfl ?_ ?_
  · simp only [passes_cons, passes_nil, rform_mod, rform_d, Scope.ofCode?_code]
    exact ⟨rfl, hk, rfl, rfl, rfl, trivial⟩
  · simp only [rform_mod, rform_d, Scope.ofCode?_code, hw]
    rfl

theorem loop_reads {a : Reg} (h : (a != 0) = true) (imm : BitVec 15) : (iform 13 imm a 0).Reads (.loop a imm) :=
  rform_reads rfl (by simpa using h) (congrArg (Instr.loop a) (imm15_iform 13 imm a 0))

theorem lk_reads (d : Reg) (idx : BitVec 16) : (wform 4 (idx.setWidth 20) d).Reads (.lk d idx) := by
  have hidx : (idx.setWidth 20).extractLsb' 16 4 = 0 ∧ (idx.setWidth 20).setWidth 16 = idx := by
    simp only [← BitVec.toNat_inj, BitVec.extractLsb'_toNat, Nat.shiftRight_eq_div_pow, BitVec.toNat_setWidth,
      BitVec.toNat_ofNat, BitVec.ofNat_eq_ofNat]
    omega
  refine rform_reads rfl ?_ ?_
  · rw [show rform 4 _ _ _ _ d = wform 4 (idx.setWidth 20) d from rfl, imm20_wform, hidx.1]
    simp [wform]
  · rw [show rform 4 _ _ _ _ d = wform 4 (idx.setWidth 20) d from rfl, imm20_wform, hidx.2]
    rfl

/-! ## Immediates (R48) -/

theorem imm20_reads {maj : BitVec 5} {d : Reg} {imm : BitVec 20} {mk : Reg → BitVec 20 → Instr}
    (hdec : decodeBase (wform maj imm d) = .ok (mk d (wform maj imm d).f0.imm20)) : (wform maj imm d).Reads (mk d imm) :=
  plain_reads (hdec.trans (congrArg (fun v => Except.ok (mk d v)) (imm20_wform maj imm d)))

theorem imm25_reads {maj : BitVec 5} {imm : BitVec 25} {mk : BitVec 25 → Instr}
    (hdec : decodeBase (jform maj imm) = .ok (mk (jform maj imm).f0.imm25)) : (jform maj imm).Reads (mk imm) :=
  plain_reads (hdec.trans (congrArg (fun v => Except.ok (mk v)) (imm25_jform maj imm)))

theorem imm15_reads {maj : BitVec 5} {a d : Reg} {imm : BitVec 15} {mk : Reg → Reg → BitVec 15 → Instr}
    (hdec : decodeBase (iform maj imm a d) = .ok (mk d a (iform maj imm a d).f0.imm15)) : (iform maj imm a d).Reads (mk d a imm) :=
  plain_reads (hdec.trans (congrArg (fun v => Except.ok (mk d a v)) (imm15_iform maj imm a d)))

/-- The pieces of a branch on one register, whose condition is field d. -/
theorem disp15_reads {cond a : Reg} {disp : BitVec 15} {mk : Reg → BitVec 15 → Instr}
    (hdec : decodeBase (iform 9 disp a cond) = .ok (mk a (iform 9 disp a cond).f0.imm15)) : (iform 9 disp a cond).Reads (mk a disp) :=
  imm15_reads (mk := fun _ => mk) hdec

/-- The pieces of a branch on two registers, whose condition is field d. -/
theorem disp10_reads {cond a b : Reg} {disp : BitVec 10} {mk : Reg → Reg → BitVec 10 → Instr}
    (hdec : decodeBase (rform 8 (disp.extractLsb' 4 6) (disp.extractLsb' 0 4) b a cond) =
      .ok (mk a b (disp.extractLsb' 4 6 ++ disp.extractLsb' 0 4))) :
    (rform 8 (disp.extractLsb' 4 6) (disp.extractLsb' 0 4) b a cond).Reads (mk a b disp) :=
  plain_reads (hdec.trans (congrArg (fun v => Except.ok (mk a b v)) (disp10_rform disp)))

/-- The pieces of a conversion, whose source type is field b (R62, R151). -/
theorem cvt_reads {maj : BitVec 5} {op : BitVec 6} {dst src : Ty} {d a : Reg} {mk : Ty → Ty → Reg → Reg → Instr}
    (hdec : ∀ r : Raw, r.f0.maj = maj → r.f0.op = op → decodeBase r = verdict [(0, .type, badTy Ty.notC4 r.f0.mod),
      (0, .type, badTy Ty.notC4 (r.f0.b.setWidth 4)), (0, .reserved, r.f0.b.getLsbD 4),
      (0, .type, (tyOf r.f0.mod).isInt && (tyOf (r.f0.b.setWidth 4)).isInt), noLit r]
      (mk (tyOf r.f0.mod) (tyOf (r.f0.b.setWidth 4)) r.f0.d r.f0.a)) (h : Ty.cvtOk dst src = true) :
    (rform maj op dst.code (src.code.setWidth 5) a d).Reads (mk dst src d a) := by
  obtain ⟨hdst, hsrc, hint⟩ := cvtOk_iff.1 h
  refine rform_reads (hdec _ rfl rfl) ?_ ?_
  · simp [hdst, hsrc, hint]
  · simp

end Sys2Proof

/-! SUPPORT. The extended majors but XVEC (R71, R72, R74, R75): the encoding of a well-formed instruction is read back. -/

namespace Sys2Proof

/-! ## Fields read back -/

@[simp] theorem modOf_low (hi : BitVec 3) (lo : Bool) : (modOf hi lo).getLsbD 0 = lo := by
  revert hi lo; decide

@[simp] theorem modOf_high (hi : BitVec 3) (lo : Bool) : (modOf hi lo).extractLsb' 1 3 = hi := by
  revert hi lo; decide

@[simp] theorem modOf_bit (hi : BitVec 3) (lo : Bool) : (modOf hi lo)[0] = lo := modOf_low hi lo

@[simp] theorem flagBit_beq (x : Bool) : (flagBit x == 1#1) = x := by
  revert x; decide

@[simp] theorem flagBit_zero (x : Bool) : flagBit x = 0#1 ↔ x = false := by
  revert x; decide

@[simp] theorem flag_field (x : Bool) : ((flagBit x).setWidth 5 == 1#5) = x := by
  revert x; decide

@[simp] theorem idxWord_low (i : BitVec 16) : (idxWord i).extractLsb' 0 16 = 0 :=
  BitVec.extractLsb'_append_eq_right

@[simp] theorem idxWord_high (i : BitVec 16) : (idxWord i).extractLsb' 16 16 = i :=
  BitVec.extractLsb'_append_eq_left

theorem toNat_viewWord (v : View) : (viewWord v).toNat = v.idx.toNat * 2 ^ 16 + v.count.toNat * 2 ^ 8 + v.start.toNat := by
  show (v.idx ++ v.count ++ v.start).toNat = _
  simp only [toNat_append_add]
  omega

section
variable {maj : BitVec 5} {op : BitVec 6} {mod : BitVec 4} {b a d : BitVec 5} {f1 : F1} {w2 : W32}

@[simp] theorem xform_f0 : (xform maj op mod b a d f1 w2).f0 = ⟨op, mod, b, a, d, maj, 2⟩ := rfl
@[simp] theorem xform_f1 : (xform maj op mod b a d f1 w2).f1 = f1 := rfl
@[simp] theorem xform_w2 : (xform maj op mod b a d f1 w2).w2 = w2 := rfl
@[simp] theorem xform_mod0 : (xform maj op mod b a d f1 w2).mod0 = mod.getLsbD 0 := rfl
@[simp] theorem xform_modHi : (xform maj op mod b a d f1 w2).modHi = mod.extractLsb' 1 3 := rfl
@[simp] theorem xform_qual : (xform maj op mod b a d f1 w2).qual = ⟨f1.mask, f1.z == 1⟩ := rfl
@[simp] theorem xform_idx : (xform maj op mod b a d f1 w2).idx = w2.extractLsb' 16 16 := rfl
@[simp] theorem xform_hasKind {k : BitVec 2} : (xform maj op mod b a d f1 w2).hasKind k = (f1.ak == k || f1.bk == k) := rfl

@[simp] theorem xform_view (v : View) : (xform maj op mod b a d f1 (viewWord v)).view = v := by
  obtain ⟨idx, count, start⟩ := v
  simp only [Raw.view, Raw.idx, xform_w2, View.mk.injEq, ← BitVec.toNat_inj, BitVec.extractLsb'_toNat, toNat_viewWord,
    Nat.shiftRight_eq_div_pow]
  omega

theorem canon_xform : (xform maj op mod b a d f1 w2).Canon := ⟨by simp, fun _ => rfl⟩

end

@[simp] theorem f1Zero_fields : f1Zero = ⟨0, 0, 0, 0, 0, 0, 0, 0, 0, 0⟩ := rfl

/-! ## Passing the common checks (R52-R55) -/

@[simp] theorem Fld.bad_none (v : BitVec 5) (k : BitVec 2) : Fld.none.bad v k = (v != 0) := rfl
@[simp] theorem Fld.bad_reg (v : BitVec 5) (k : BitVec 2) : Fld.reg.bad v k = false := rfl
@[simp] theorem Fld.bad_reg3 (v : BitVec 5) (k : BitVec 2) : Fld.reg3.bad v k = bad3 v := rfl
@[simp] theorem Fld.bad_flag (v : BitVec 5) (k : BitVec 2) : Fld.flag.bad v k = decide (2 ≤ v.toNat) := rfl
@[simp] theorem Fld.bad_src_reg (v : BitVec 5) : Fld.src.bad v 0#2 = false := rfl
@[simp] theorem Fld.bad_src_queue (q : Reg3) : Fld.src.bad (q.setWidth 5) 1#2 = false := bad3_reg3 q
@[simp] theorem Fld.bad_src_chan : Fld.src.bad 0#5 2#2 = false := rfl
@[simp] theorem Fld.bad_src_pool : Fld.src.bad 0#5 3#2 = false := rfl
@[simp] theorem Fld.isSrc_iff (u : Fld) : u.isSrc = decide (u = .src) := by cases u <;> rfl

section
variable {u : Uses} {i j : Instr} {w0 w1 lw : List Check}

theorem Uses.reads {r : Raw} (hc : r.Canon) (hx : r.f0.L = 2 ∨ r.f0.L = 3) (hdec : decodeExt r = u.verdict r j w0 w1 lw)
    (hcs : Passes (u.checks r w0 w1)) (hlw : Passes lw) (hj : j = i) : r.Reads i :=
  ⟨hc, (decodeRaw_ext hx).trans (hdec.trans (verdict_ok.2 ⟨passes_append.2 ⟨hcs, hlw⟩, hj⟩))⟩

theorem xform_reads {maj op mod b a d f1 w2}
    (hdec : decodeExt (xform maj op mod b a d f1 w2) = u.verdict (xform maj op mod b a d f1 w2) j w0 w1)
    (hcs : Passes (u.checks (xform maj op mod b a d f1 w2) w0 w1)) (hj : j = i) : (xform maj op mod b a d f1 w2).Reads i :=
  Uses.reads canon_xform (.inl rfl) hdec hcs passes_nil hj

end

theorem Qual.ok_iff {q : Qual} : q.ok = true ↔ (q.z = true → ¬ q.mask = 0#3) := by
  simp [Qual.ok, imp_iff_not_or]

/-- One whose checks need no fact about its operands. -/
theorem xplain_reads {maj op mod b a d f1 w2} {i : Instr} (hdec : decodeExt (xform maj op mod b a d f1 w2) = .ok i) :
    (xform maj op mod b a d f1 w2).Reads i :=
  ⟨canon_xform, (decodeRaw_ext (.inl rfl)).trans hdec⟩

@[simp] theorem mwld_type (fmt : WFmt) : badTy (fun t => (WFmt.ofCode? t.code).isSome) fmt.code = false := by
  cases fmt <;> rfl

@[simp] theorem WFmt.ofCode?_code (fmt : WFmt) : WFmt.ofCode? fmt.code = some fmt := by cases fmt <;> rfl

theorem bsig_reads (abs : Bool) (idx disp : BitVec 16) :
    (xform 8 2 0 0 0 ((flagBit abs).setWidth 5) { f1Zero with p := 1 } (idx ++ disp)).Reads (.bsig abs idx disp) := by
  have hidx : (idx ++ disp).extractLsb' 16 16 = idx := BitVec.extractLsb'_append_eq_left
  have hdisp : (idx ++ disp).extractLsb' 0 16 = disp := BitVec.extractLsb'_append_eq_right
  exact xform_reads rfl (by cases abs <;> simp [Uses.checks, flagBit]) (by simp [hidx, hdisp])

/-! ## XSC (R72) -/

section
variable {kind : BitVec 5} {op : BitVec 6} {t : Ty} {b : SrcB} {a c d : Reg}

@[simp] theorem xsc_maj : (xsc kind op t b a c d).f0.maj = 1 := by cases b <;> rfl
@[simp] theorem xsc_op : (xsc kind op t b a c d).f0.op = op := by cases b <;> rfl
@[simp] theorem xsc_a : (xsc kind op t b a c d).f0.a = a := by cases b <;> rfl
@[simp] theorem xsc_d : (xsc kind op t b a c d).f0.d = d := by cases b <;> rfl
@[simp] theorem xsc_c : (xsc kind op t b a c d).f1.c = c := by cases b <;> rfl
@[simp] theorem xsc_ty : (xsc kind op t b a c d).f1.ty = t.code := by cases b <;> rfl

@[simp] theorem xsc_srcB : (xsc kind op t b a c d).srcB = b := by
  cases b
  · exact Raw.srcB_reg (.inr rfl)
  · exact Raw.srcB_lit (.inr rfl)

/-- Where there is a literal, field b holds its kind. -/
theorem xsc_kind (h : (xsc kind op t b a c d).f0.L = 3) : (xsc kind op t b a c d).f0.b = kind := by
  cases b
  · cases h
  · rfl

theorem xsc_passes {ok : Ty → Bool} {w0 : List Check} (hkind : kind = 0 ∨ kind = 1) (ht : ok t = true) (h0 : Passes w0) :
    Passes ((Uses.scalar ok).checks (xsc kind op t b a c d) w0 []) := by
  cases b with
  | reg r => simp [xsc, Uses.scalar, Uses.checks, h0, ht]
  | lit v =>
    obtain rfl | rfl := hkind <;> simp [xsc, Uses.scalar, Uses.checks, h0, ht, Raw.mod0, Raw.modHi, Raw.hasKind]

/-- The pieces of an XSC word. -/
theorem xsc_reads {ok : Ty → Bool} {w0 lw : Raw → List Check} {i : Instr} {j : Raw → Instr}
    (hdec : ∀ r : Raw, r.f0.maj = 1 → r.f0.op = op → decodeExt r = (Uses.scalar ok).verdict r (j r) (w0 r) [] (lw r))
    (hkind : kind = 0 ∨ kind = 1) (ht : ok t = true) (h0 : Passes (w0 (xsc kind op t b a c d)))
    (hl : Passes (lw (xsc kind op t b a c d))) (hj : j (xsc kind op t b a c d) = i) : (xsc kind op t b a c d).Reads i := by
  refine Uses.reads ?_ ?_ (hdec _ xsc_maj xsc_op) (xsc_passes hkind ht h0) hl hj
  · cases b
    · exact canon_xform
    · exact ⟨by simp [xsc], by simp [xsc]⟩
  · cases b
    · exact .inl rfl
    · exact .inr rfl

theorem sel_reads (ht : t.isInt = true) : (xsc 0 0 t b a c d).Reads (.sel t d c a b) := by
  have hdec : ∀ r : Raw, r.f0.maj = 1 → r.f0.op = 0 → decodeExt r = (Uses.scalar Ty.isInt).verdict r
      (.sel (tyOf r.f1.ty) r.f0.d r.f1.c r.f0.a r.srcB) [(0, .literal, r.f0.L == 3 && r.f0.b != 0)] := by
    intro r hmaj hop
    simp only [decodeExt, hmaj, decXsc, hop]
    rfl
  exact xsc_reads hdec (.inl rfl) ht (by simp +contextual [xsc_kind]) passes_nil (by simp)

theorem cas_reads (ht : t.amoOk = true) : (xsc 0 2 t b a c d).Reads (.cas t d a b c) := by
  have hdec : ∀ r : Raw, r.f0.maj = 1 → r.f0.op = 2 → decodeExt r = (Uses.scalar Ty.amoOk).verdict r
      (.cas (tyOf r.f1.ty) r.f0.d r.f0.a r.srcB r.f1.c) [(0, .literal, r.f0.L == 3 && r.f0.b != 0)] := by
    intro r hmaj hop
    simp only [decodeExt, hmaj, decXsc, hop]
    rfl
  exact xsc_reads hdec (.inl rfl) ht (by simp +contextual [xsc_kind]) passes_nil (by simp)

theorem fma_reads (h : (t.isFlt && b.fltOk t) = true) : (xsc 1 1 t b a c d).Reads (.fma t d a c b) := by
  have hdec : ∀ r : Raw, r.f0.maj = 1 → r.f0.op = 1 → decodeExt r = (Uses.scalar Ty.isFlt).verdict r
      (.fma (tyOf r.f1.ty) r.f0.d r.f0.a r.f1.c r.srcB)
      [(0, .literal, r.f0.L == 3 && (r.f0.b != 1 || tyOf r.f1.ty != .f32))] [] [litHigh r true] := by
    intro r hmaj hop
    simp only [decodeExt, hmaj, decXsc, hop]
    rfl
  obtain ⟨ht, hb⟩ := Bool.and_eq_true_iff.1 h
  cases b with
  | reg r => exact xsc_reads hdec (.inr rfl) ht (by simp [xsc]) (by simp [xsc, litHigh]) (by simp)
  | lit v =>
    obtain ⟨h32, hv⟩ := Bool.and_eq_true_iff.1 hb
    exact xsc_reads hdec (.inr rfl) ht (by simp [xsc, eq_of_beq h32]) (by simp [xsc, litHigh, eq_of_beq hv]) (by simp)

end

end Sys2Proof

/-! SUPPORT. XVEC (R73): the encoding of a well-formed instruction is read back. -/

namespace Sys2Proof

/-! ## Sources read back (R53, R55, R139) -/

/-- A source fits its field: a queue, channel or pool operand where sources are taken, a register in range. -/
def VSrc.fits (u : Fld) : VSrc → Bool
  | .reg v => !u.bad v 0
  | .lit _ _ => false
  | _ => u.isSrc

/-- The same of source b, which may also be a literal. -/
def VSrc.fitsB (u : Fld) (lit : Bool) : VSrc → Bool
  | .lit _ _ => lit
  | s => s.fits u

/-- A channel that a source names is 2 to 63. -/
def VSrc.chanOk : VSrc → Bool
  | .chan c => decide (2 ≤ c.toNat)
  | _ => true

theorem VSrc.chanOk_of_okA {s : VSrc} (h : s.okA = true) : s.chanOk = true := by
  cases s
  case chan => exact h
  all_goals rfl

theorem VSrc.chanOk_of_okB {s : VSrc} {t : Ty} (h : s.okB t = true) : s.chanOk = true := by
  cases s
  case chan => exact h
  all_goals rfl

theorem VSrc.chanOk_of_okB3 {s : VSrc} (h : s.okB3 = true) : s.chanOk = true := by
  cases s
  case chan => exact h
  all_goals rfl

theorem lit_field (k : BitVec 2) : (k.setWidth 5).setWidth 2 = k ∧ (k.setWidth 5).toNat < 4 := by
  revert k; decide

section
variable {op : BitVec 6} {mod ty : BitVec 4} {q : Qual} {c e d : BitVec 5} {a b : VSrc}

@[simp] theorem xvec_d : (xvec op mod ty q c e d a b).f0.d = d := rfl
@[simp] theorem xvec_c : (xvec op mod ty q c e d a b).f1.c = c := rfl
@[simp] theorem xvec_e : (xvec op mod ty q c e d a b).f1.e = e := rfl
@[simp] theorem xvec_b : (xvec op mod ty q c e d a b).f0.b = b.field.1 := rfl
@[simp] theorem xvec_ak : (xvec op mod ty q c e d a b).f1.ak = a.field.2 := rfl
@[simp] theorem xvec_bk : (xvec op mod ty q c e d a b).f1.bk = b.field.2 := rfl
@[simp] theorem xvec_mask : (xvec op mod ty q c e d a b).f1.mask = q.mask := rfl
@[simp] theorem xvec_ty : (xvec op mod ty q c e d a b).f1.ty = ty := rfl
@[simp] theorem xvec_mod0 : (xvec op mod ty q c e d a b).mod0 = mod.getLsbD 0 := rfl
@[simp] theorem xvec_modHi : (xvec op mod ty q c e d a b).modHi = mod.extractLsb' 1 3 := rfl

@[simp] theorem xvec_qual : (xvec op mod ty q c e d a b).qual = q := by
  obtain ⟨mask, z⟩ := q
  exact congrArg (Qual.mk mask) (flagBit_beq z)

@[simp] theorem xvec_srcA (h : a.okA = true) : (xvec op mod ty q c e d a b).srcA = a := by
  cases a with
  | lit => cases h
  | pool i => exact congrArg VSrc.pool (idxWord_high i)
  | queue q' => exact congrArg VSrc.queue (reg3_field q')
  | reg | chan => rfl

theorem xvec_vsrcB (ha : a.okA = true) (h : VSrc.pairOk a b = true) : (xvec op mod ty q c e d a b).vsrcB = b := by
  cases b with
  | lit k v => exact congrArg (VSrc.lit · v) (lit_field k).1
  | pool i =>
    cases a
    case pool => cases h
    all_goals exact congrArg VSrc.pool (idxWord_high i)
  | queue q' => exact congrArg VSrc.queue (reg3_field q')
  | chan ch =>
    cases a
    case chan => cases h
    all_goals rfl
  | reg => rfl

theorem xvec_L : (xvec op mod ty q c e d a b).f0.L = 2 ∨ (xvec op mod ty q c e d a b).f0.L = 3 := by
  cases b
  case lit => exact .inr rfl
  all_goals exact .inl rfl

theorem canon_xvec : (xvec op mod ty q c e d a b).Canon := by
  cases b
  case lit => exact ⟨by simp [xvec], by simp [xvec]⟩
  all_goals exact ⟨by simp [xvec], fun _ => rfl⟩

/-! ### The checks of the kinds, the channel and the pool word (R53, R54) -/

theorem Fld.isSrc_eq {u : Fld} (h : u.isSrc = true) : u = .src := by simpa using h

theorem fits_bad {u : Fld} {s : VSrc} (h : s.fits u = true) : u.bad s.field.1 s.field.2 = false := by
  cases s with
  | reg v => exact Bool.not_eq_true' _ ▸ h
  | queue q' =>
    rw [Fld.isSrc_eq h]
    exact Fld.bad_src_queue q'
  | chan | pool =>
    rw [Fld.isSrc_eq h]
    rfl
  | lit => cases h

theorem fits_kind {u : Fld} {s : VSrc} (h : s.fits u = true) : (s.field.2 != 0 && !u.isSrc) = false := by
  cases s with
  | reg => rfl
  | queue | chan | pool =>
    have hu : u.isSrc = true := h
    rw [hu]
    exact Bool.and_false _
  | lit => cases h

theorem xvec_noChan (h : (xvec op mod ty q c e d a b).hasKind 2 = false) : (xvec op mod ty q c e d a b).f1.chan = 0 := by
  cases a
  case chan => cases h
  all_goals
    cases b
    case chan => cases h
    all_goals rfl

theorem xvec_chanKind (ha : a.chanOk = true) (hb : b.chanOk = true) (h : (xvec op mod ty q c e d a b).hasKind 2 = true) :
    2 ≤ (xvec op mod ty q c e d a b).f1.chan.toNat := by
  cases a
  case chan => exact of_decide_eq_true ha
  all_goals
    cases b
    case chan => exact of_decide_eq_true hb
    all_goals cases h

theorem xvec_p : (xvec op mod ty q c e d a b).f1.p = flagBit ((xvec op mod ty q c e d a b).hasKind 3) := by
  cases a <;> cases b <;> rfl

theorem xvec_w2 (h : (xvec op mod ty q c e d a b).f1.p = 0) : (xvec op mod ty q c e d a b).w2 = 0 := by
  cases a
  case pool => cases h
  all_goals
    cases b
    case pool => cases h
    all_goals rfl

theorem xvec_low : (xvec op mod ty q c e d a b).w2.extractLsb' 0 16 = 0 := by
  cases a
  case pool => exact idxWord_low _
  all_goals
    cases b
    case pool => exact idxWord_low _
    all_goals rfl

theorem field_chan {s : VSrc} (h : s.field.2 = 2) : ∃ c, s = .chan c := by
  cases s
  case chan c => exact ⟨c, rfl⟩
  all_goals cases h

theorem field_pool {s : VSrc} (h : s.field.2 = 3) : ∃ i, s = .pool i := by
  cases s
  case pool i => exact ⟨i, rfl⟩
  all_goals cases h

theorem pairOk_chans (h : VSrc.pairOk a b = true) : ¬ (a.field.2 = 2 ∧ b.field.2 = 2) := by
  rintro ⟨ha, hb⟩
  obtain ⟨_, rfl⟩ := field_chan ha
  obtain ⟨_, rfl⟩ := field_chan hb
  cases h

theorem pairOk_pools (h : VSrc.pairOk a b = true) : ¬ (a.field.2 = 3 ∧ b.field.2 = 3) := by
  rintro ⟨ha, hb⟩
  obtain ⟨_, rfl⟩ := field_pool ha
  obtain ⟨_, rfl⟩ := field_pool hb
  cases h

theorem fitsB_cases {u : Fld} {lit : Bool} (h : b.fitsB u lit = true) :
    ((xvec op mod ty q c e d a b).f0.L = 2 ∧ b.fits u = true) ∨
      ((xvec op mod ty q c e d a b).f0.L = 3 ∧ lit = true ∧ (xvec op mod ty q c e d a b).f0.b.toNat < 4 ∧
        (xvec op mod ty q c e d a b).f1.bk = 0) := by
  cases b with
  | lit k v => exact .inr ⟨rfl, h, (lit_field k).2, rfl⟩
  | reg | queue | chan | pool => exact .inl ⟨rfl, h⟩

theorem xvec_passes {u : Uses} {ok : Ty → Bool} {w0 w1 : List Check} (hu : u.vec = true) (hqual : u.qual = true)
    (hty : u.ty = some ok) (ht : badTy ok ty = false) (hmod0 : u.mod0 = false → mod.getLsbD 0 = false)
    (hhi : (mod.extractLsb' 1 3).toNat ≤ u.modHi) (hd : u.d.bad d 0 = false) (hc : u.c = false → c = 0)
    (he : u.e = false → e = 0) (hq : q.ok = true) (hz : u.zOk = false → q.z = false) (ha : a.fits u.a = true)
    (hb : b.fitsB u.b u.lit = true) (hac : a.chanOk = true) (hbc : b.chanOk = true) (hp : VSrc.pairOk a b = true)
    (h0 : Passes w0) (h1 : Passes w1) : Passes (u.checks (xvec op mod ty q c e d a b) w0 w1) := by
  obtain ⟨⟨⟨hchan, hpool⟩, himm⟩, hview⟩ : ((u.chan = false ∧ u.pool = false) ∧ u.imm = false) ∧ u.view = false := by
    simpa [Uses.vec] using hu
  have hB := fitsB_cases (op := op) (mod := mod) (ty := ty) (q := q) (c := c) (e := e) (d := d) (a := a) hb
  simp only [Uses.checks, passes_append, passes_cons, passes_nil, and_true]
  refine ⟨⟨⟨h0, ?mod, ?hi, ?lit, ?kind, ?b, fits_bad ha, hd, ?c, ?e, ?mask, ?z, ?chan, ?chanKind, fits_kind ha, ?bk, ?bkLit,
    ?cc, ?pp, ?ty, ?p, rfl⟩, h1⟩, ?w2, ?low⟩
  case mod => simpa [imp_iff_not_or, or_comm] using hmod0
  case hi => exact decide_eq_false (Nat.not_lt.2 hhi)
  case lit =>
    obtain ⟨hL, -⟩ | ⟨-, hlit, -⟩ := hB
    · rw [hL]
      rfl
    · simp [hlit]
  case kind =>
    obtain ⟨hL, -⟩ | ⟨-, -, hk, -⟩ := hB
    · rw [hL]
      rfl
    · rw [decide_eq_false (Nat.not_le.2 hk), Bool.and_false]
  case b =>
    obtain ⟨hL, hfit⟩ | ⟨hL, -⟩ := hB
    · rw [hL]
      exact fits_bad hfit
    · rw [hL]
      rfl
  case bk =>
    obtain ⟨-, hfit⟩ | ⟨-, -, -, hk⟩ := hB
    · exact fits_kind hfit
    · rw [hk]
      rfl
  case bkLit =>
    obtain ⟨hL, -⟩ | ⟨-, -, -, hk⟩ := hB
    · rw [hL]
      rfl
    · rw [hk]
      exact Bool.and_false _
  case c => simpa [imp_iff_not_or, or_comm] using hc
  case e => simpa [imp_iff_not_or, or_comm] using he
  case mask => simp [hqual]
  case z =>
    rw [Qual.ok_iff] at hq
    cases hqz : q.z
    · simp [xvec, hqz, flagBit]
    · have hzk : u.zOk = true := by
        cases h : u.zOk
        · rw [hz h] at hqz; cases hqz
        · rfl
      simp [hqual, hzk, hq hqz]
  case chan =>
    cases hk : (xvec op mod ty q c e d a b).hasKind 2
    · simp [xvec_noChan hk]
    · simp
  case chanKind =>
    cases hk : (xvec op mod ty q c e d a b).hasKind 2
    · rfl
    · exact decide_eq_false (Nat.not_lt.2 (xvec_chanKind hac hbc hk))
  case cc => exact Bool.eq_false_iff.2 fun h => pairOk_chans hp (by simpa using h)
  case pp => exact Bool.eq_false_iff.2 fun h => pairOk_pools hp (by simpa using h)
  case ty =>
    rw [hty]
    exact ht
  case p => simp [xvec_p, hpool]
  case w2 =>
    cases hk : (xvec op mod ty q c e d a b).f1.p == 0
    · rfl
    · simp [xvec_w2 (eq_of_beq hk)]
  case low => simp [xvec_low]

end

end Sys2Proof

/-! SUPPORT. XVEC by row (R73): the encoding of each row's instruction is read back. -/

namespace Sys2Proof

theorem fits_src {s : VSrc} (h : s.okA = true) : s.fits .src = true := by
  cases s
  case lit => cases h
  all_goals rfl

theorem fitsB_src (s : VSrc) : s.fitsB .src true = true := by
  cases s <;> rfl

/-- The uses of an XVEC instruction allow its fields other than its sources. -/
@[simp] def Uses.allows (u : Uses) (ok : Ty → Bool) (mod : BitVec 4) (q : Qual) (c e d : BitVec 5) : Prop :=
  u.vec = true ∧ u.qual = true ∧ u.ty = some ok ∧ (u.mod0 = false → mod.getLsbD 0 = false) ∧
  (mod.extractLsb' 1 3).toNat ≤ u.modHi ∧ u.d.bad d 0 = false ∧ (u.c = false → c = 0) ∧ (u.e = false → e = 0) ∧
  (u.zOk = false → q.z = false)

section
variable {op : BitVec 6} {mod ty : BitVec 4} {q : Qual} {c e d : BitVec 5} {a b : VSrc} {u : Uses} {ok : Ty → Bool} {t : Ty}
  {w0 w1 lw : List Check} {i j : Instr}

theorem litKind_passes (hb : b.okB t = true) : Passes [litKind (xvec op mod t.code q c e d a b)] := by
  cases b with
  | lit k v =>
    obtain rfl | rfl | rfl | rfl := L_cases k
    all_goals simp_all [litKind, litKindBad, VSrc.okB, litOk, VSrc.field, xvec]
  | reg | queue | chan | pool => simp [litKind, xvec]

theorem litHigh_passes (hb : b.okB t = true) :
    Passes [litHigh (xvec op mod t.code q c e d a b) ((xvec op mod t.code q c e d a b).f0.b == 1)] := by
  cases b with
  | lit k v =>
    obtain rfl | rfl | rfl | rfl := L_cases k
    all_goals simp_all [litHigh, VSrc.okB, litOk, VSrc.field, xvec]
  | reg | queue | chan | pool => simp [litHigh, xvec]

/-- The pieces of an XVEC word. -/
theorem xvec_reads (hdec : decodeExt (xvec op mod ty q c e d a b) = u.verdict (xvec op mod ty q c e d a b) j w0 w1 lw)
    (hu : u.allows ok mod q c e d) (ht : badTy ok ty = false) (hq : q.ok = true) (haok : a.okA = true)
    (ha : a.fits u.a = true) (hb : b.fitsB u.b u.lit = true) (hbc : b.chanOk = true) (hp : VSrc.pairOk a b = true)
    (h0 : Passes w0) (h1 : Passes w1) (hl : Passes lw) (hj : j = i) : (xvec op mod ty q c e d a b).Reads i := by
  obtain ⟨hvec, hqual, hty, hmod0, hhi, hd, hc, he, hz⟩ := hu
  exact Uses.reads canon_xvec xvec_L hdec (xvec_passes hvec hqual hty ht hmod0 hhi hd hc he hq hz ha hb
    (VSrc.chanOk_of_okA haok) hbc hp h0 h1) hl hj

/-- One whose source b may be a literal of a kind that the type takes. -/
theorem lit_reads (hdec : decodeExt (xvec op mod t.code q c e d a b) = u.verdict (xvec op mod t.code q c e d a b) j w0 w1
      [litHigh (xvec op mod t.code q c e d a b) ((xvec op mod t.code q c e d a b).f0.b == 1)])
    (hu : u.allows ok mod q c e d) (ht : ok t = true) (hq : q.ok = true) (haok : a.okA = true) (ha : a.fits u.a = true)
    (hb : b.fitsB u.b u.lit = true) (hbok : b.okB t = true) (hp : VSrc.pairOk a b = true)
    (h0 : Passes [litKind (xvec op mod t.code q c e d a b)] → Passes w0) (h1 : Passes w1)
    (hj : (xvec op mod t.code q c e d a b).srcA = a → (xvec op mod t.code q c e d a b).vsrcB = b → j = i) :
    (xvec op mod t.code q c e d a b).Reads i :=
  xvec_reads hdec hu (by simp [ht]) hq haok ha hb (VSrc.chanOk_of_okB hbok) hp (h0 (litKind_passes hbok)) h1
    (litHigh_passes hbok) (hj (xvec_srcA haok) (xvec_vsrcB haok hp))

/-- One of two vector sources. -/
theorem two_reads (hdec : decodeExt (xvec op mod t.code q c e d a b) = u.verdict (xvec op mod t.code q c e d a b) j w0 w1
      [litHigh (xvec op mod t.code q c e d a b) ((xvec op mod t.code q c e d a b).f0.b == 1)])
    (hu : u.allows ok mod q c e d) (hsrc : u.a = .src ∧ u.b = .src ∧ u.lit = true)
    (hwf : (ok t && q.ok && a.okA && b.okB t && VSrc.pairOk a b) = true)
    (h0 : Passes [litKind (xvec op mod t.code q c e d a b)] → Passes w0) (h1 : Passes w1)
    (hj : (xvec op mod t.code q c e d a b).srcA = a → (xvec op mod t.code q c e d a b).vsrcB = b → j = i) :
    (xvec op mod t.code q c e d a b).Reads i := by
  simp only [Bool.and_eq_true] at hwf
  obtain ⟨⟨⟨⟨ht, hq⟩, ha⟩, hb⟩, hp⟩ := hwf
  obtain ⟨hua, hub, hul⟩ := hsrc
  exact lit_reads hdec hu ht hq ha (hua ▸ fits_src ha) (hub ▸ hul ▸ fitsB_src b) hb hp h0 h1 hj

/-- One of two vector sources that may saturate. -/
theorem sat_reads {sat : Bool} (hdec : decodeExt (xvec op (modOf 0 sat) t.code q c e d a b) =
      u.verdict (xvec op (modOf 0 sat) t.code q c e d a b) j
      ((0, .mod, (xvec op (modOf 0 sat) t.code q c e d a b).mod0 &&
        !(tyOf (xvec op (modOf 0 sat) t.code q c e d a b).f1.ty).isInt) :: w0) w1
      [litHigh (xvec op (modOf 0 sat) t.code q c e d a b) ((xvec op (modOf 0 sat) t.code q c e d a b).f0.b == 1)])
    (hu : u.allows ok (modOf 0 sat) q c e d) (hsrc : u.a = .src ∧ u.b = .src ∧ u.lit = true)
    (hwf : (ok t && q.ok && (!sat || t.isInt) && a.okA && b.okB t && VSrc.pairOk a b) = true)
    (h0 : Passes [litKind (xvec op (modOf 0 sat) t.code q c e d a b)] → Passes w0) (h1 : Passes w1)
    (hj : (xvec op (modOf 0 sat) t.code q c e d a b).srcA = a →
      (xvec op (modOf 0 sat) t.code q c e d a b).vsrcB = b → j = i) :
    (xvec op (modOf 0 sat) t.code q c e d a b).Reads i := by
  obtain ⟨hs, hwf⟩ : (!sat || t.isInt) = true ∧ (ok t && q.ok && a.okA && b.okB t && VSrc.pairOk a b) = true := by
    cases hs : (!sat || t.isInt) <;> simp_all
  have hsat : (sat && !t.isInt) = false := by
    rw [← Bool.not_eq_true', Bool.not_and, Bool.not_not]
    exact hs
  exact two_reads hdec hu hsrc hwf (fun h => passes_cons.2 ⟨by simpa using hsat, h0 h⟩) h1 hj

theorem badTy_ok (h : ok t = true) : badTy ok t.code = false := by
  rw [badTy_code, h]
  rfl

/-- One whose field b is no source. -/
theorem one_reads {b : Reg}
    (hdec : decodeExt (xvec op mod ty q c e d a (.reg b)) = u.verdict (xvec op mod ty q c e d a (.reg b)) j w0 w1)
    (hu : u.allows ok mod q c e d) (ht : badTy ok ty = false) (hq : q.ok = true) (haok : a.okA = true)
    (ha : a.fits u.a = true) (hb : u.b.bad b 0 = false) (h0 : Passes w0) (h1 : Passes w1)
    (hj : (xvec op mod ty q c e d a (.reg b)).srcA = a → j = i) : (xvec op mod ty q c e d a (.reg b)).Reads i :=
  xvec_reads hdec hu ht hq haok ha (by simpa [VSrc.fitsB, VSrc.fits] using hb) rfl (by cases a <;> rfl) h0 h1 passes_nil
    (hj (xvec_srcA haok))

/-- One of one vector source. -/
theorem un_reads (hdec : decodeExt (xvec op mod t.code q c e d a (.reg 0)) = u.verdict (xvec op mod t.code q c e d a (.reg 0)) j)
    (hu : u.allows ok mod q c e d) (hsrc : u.a = .src ∧ u.b = .none) (hwf : (ok t && q.ok && a.okA) = true)
    (hj : (xvec op mod t.code q c e d a (.reg 0)).srcA = a → j = i) : (xvec op mod t.code q c e d a (.reg 0)).Reads i := by
  simp only [Bool.and_eq_true] at hwf
  obtain ⟨⟨ht, hq⟩, ha⟩ := hwf
  obtain ⟨hua, hub⟩ := hsrc
  exact one_reads hdec hu (badTy_ok ht) hq ha (hua ▸ fits_src ha) (by rw [hub]; rfl) passes_nil passes_nil hj

end

@[simp] theorem XSrc.okB_enc (t : Ty) (s : XSrc) : s.enc.okB t = s.okB t := by cases s <;> rfl
@[simp] theorem KSrc.okB_enc (t : Ty) (s : KSrc) : s.enc.okB t = s.okB t := by cases s <;> rfl

@[simp] theorem xvec_xsrcB {op mod ty q c e d a} {s : XSrc} : (xvec op mod ty q c e d a s.enc).xsrcB = s := by
  cases s with
  | reg => rfl
  | lit k v => exact congrArg (XSrc.lit · v) (lit_field k).1

@[simp] theorem xvec_ksrcB {op mod ty q c e d a} {s : KSrc} : (xvec op mod ty q c e d a s.enc).ksrcB = s := by
  cases s with
  | reg v => exact congrArg KSrc.reg (reg3_field v)
  | lit k v => exact congrArg (KSrc.lit · v) (lit_field k).1

theorem XSrc.pairOk_enc (a : VSrc) (s : XSrc) : VSrc.pairOk a s.enc = true := by
  cases s <;> cases a <;> rfl

theorem KSrc.pairOk_enc (a : VSrc) (s : KSrc) : VSrc.pairOk a s.enc = true := by
  cases s <;> cases a <;> rfl

theorem XSrc.fits_enc (s : XSrc) : s.enc.fitsB .reg true = true := by cases s <;> rfl

theorem KSrc.fits_enc (s : KSrc) : s.enc.fitsB .reg3 true = true := by
  cases s with
  | reg v => simp [KSrc.enc, VSrc.fitsB, VSrc.fits]
  | lit => rfl

/-- The governing mask of a row without zeroing. -/
@[simp] theorem maskOnly_z (m : Reg3) : (maskOnly m).z = false := rfl
@[simp] theorem maskOnly_mask (m : Reg3) : (maskOnly m).mask = m := rfl

theorem maskOnly_ok (m : Reg3) : (maskOnly m).ok = true := rfl

theorem and3 {x y z : Bool} (h : (x && y && z) = true) : x = true ∧ y = true ∧ z = true := by
  simpa [and_assoc] using h

theorem CC.code_le (cc : CC) : cc.code.toNat ≤ 6 := by cases cc <;> decide

theorem group_bound (g : BitVec 2) : g.toNat % 8 ≤ 3 := by
  revert g; decide

theorem half_bound (x : Bool) : (flagBit x).toNat % 8 ≤ 1 := by
  revert x; decide

@[simp] theorem half_field (x : Bool) : ((flagBit x).setWidth 3 == 1#3) = x := by
  revert x; decide

@[simp] theorem xvec_regA {op mod ty q c e d} {a : Reg} {b : VSrc} : (xvec op mod ty q c e d (.reg a) b).f0.a = a := rfl

section
variable {t : Ty} {q : Qual} {d : Reg} {a b : VSrc}

theorem vshl_reads {sat : Bool} (hwf : (t.isInt && q.ok && a.okA && b.okB t && VSrc.pairOk a b) = true) :
    (xvec 11 (modOf 0 sat) t.code q 0 0 d a b).Reads (.vshlX t sat q d a b) := by
  have ht : t.isInt = true := by
    simp only [Bool.and_eq_true] at hwf
    exact hwf.1.1.1.1
  exact two_reads rfl (by simp) ⟨rfl, rfl, rfl⟩ hwf (fun h => passes_cons.2 ⟨by simp [ht], h⟩) passes_nil
    (by simp +contextual)

theorem vcvt_reads {src : Ty} (h : (Ty.cvtOk t src && q.ok && a.okA) = true) :
    (xvecF 26 0 t.code q 0 0 d a (src.code.setWidth 5)).Reads (.vcvtX t src q d a) := by
  obtain ⟨hcvt, hq, ha⟩ := and3 h
  obtain ⟨hdst, hsrc, hint⟩ := cvtOk_iff.1 hcvt
  exact one_reads rfl (by simp) (badTy_ok hdst) hq ha (fits_src ha) (cvt_field src).2
    (by simp [VSrc.field, hsrc, hint]) passes_nil (by simp +contextual [VSrc.field])

@[simp] theorem CC.ofCode?_code (cc : CC) : CC.ofCode? cc.code = some cc := by cases cc <;> rfl

theorem CC.code_unord (cc : CC) : (cc.code == 6#3) = (cc == .unord) := by cases cc <;> rfl

theorem vcmp_reads {cc : CC} {d : Reg3}
    (h : (t.notC4 && q.ok && a.okA && b.okB t && VSrc.pairOk a b && !(cc == .unord && t.isInt)) = true) :
    (xvec 15 (modOf cc.code false) t.code q 0 0 (d.setWidth 5) a b).Reads (.vcmp cc t q d a b) := by
  obtain ⟨hwf, hcc⟩ := Bool.and_eq_true_iff.1 h
  exact two_reads rfl (by simp [CC.code_le]) ⟨rfl, rfl, rfl⟩ hwf
    (fun h => passes_cons.2 ⟨by simpa [CC.code_unord, imp_iff_not_or] using hcc, h⟩) passes_nil (by simp +contextual)

theorem vtopk_reads {list : Bool} {m : Reg3} {b : XSrc} {e : Reg} (h : (t.notC4 && a.okA && b.okB t && (list || e == 0)) = true) :
    (xvec 32 (modOf ((flagBit list).setWidth 3) false) t.code (maskOnly m) 0 e d a b.enc).Reads (.vtopkX t list m d a b e) := by
  obtain ⟨hwf, he⟩ := Bool.and_eq_true_iff.1 h
  obtain ⟨ht, ha, hb⟩ := and3 hwf
  exact lit_reads rfl (by simp [half_bound]) ht (maskOnly_ok m) ha (fits_src ha) b.fits_enc
    (by simpa using hb) (b.pairOk_enc _) id (by cases list <;> simp_all [flagBit]) (by simp +contextual)

/-- A literal of kind 3 alone passes the checks of VPERM and VLUT. -/
theorem litThree_passes {op mod ty c e} (hb : b.okB3 = true) : Passes [litThree (xvec op mod ty q c e d a b)] := by
  cases b with
  | lit k v =>
    obtain rfl | rfl | rfl | rfl := L_cases k
    case inr.inr.inr => exact passes_cons.2 ⟨rfl, passes_nil⟩
    all_goals cases hb
  | reg | queue | chan | pool => simp [litThree, xvec]

theorem vperm_reads (h : (t.notC4 && q.ok && a.okA && b.okB3 && VSrc.pairOk a b) = true) :
    (xvec 20 0 t.code q 0 0 d a b).Reads (.vpermX t q d a b) := by
  simp only [Bool.and_eq_true] at h
  obtain ⟨⟨⟨⟨ht, hq⟩, ha⟩, hb⟩, hp⟩ := h
  exact xvec_reads rfl (by simp) (badTy_ok ht) hq ha (fits_src ha) (fitsB_src b)
    (VSrc.chanOk_of_okB3 hb) hp (litThree_passes hb) passes_nil passes_nil (by simp [xvec_srcA ha, xvec_vsrcB ha hp])

/-- The codebook of VLUT: an even register, or a literal of kind 3 (R153). -/
def VSrc.okBook : VSrc → Bool
  | .reg r => !r.getLsbD 0
  | .lit k _ => k.toNat == 3
  | _ => false

theorem VSrc.okBook_okB3 (h : b.okBook = true) : b.okB3 = true := by
  cases b
  case reg => rfl
  case lit => exact h
  all_goals cases h

theorem VSrc.okBook_fits (h : b.okBook = true) : b.fitsB .reg true = true := by
  cases b
  case reg | lit => rfl
  all_goals cases h

theorem VSrc.okBook_pairOk (a : VSrc) (h : b.okBook = true) : VSrc.pairOk a b = true := by
  cases b
  case reg | lit => cases a <;> rfl
  all_goals cases h

theorem okBook_even {op mod ty c e} (h : b.okBook = true) :
    (!(xvec op mod ty q c e d a b).f0.L == 3 && (xvec op mod ty q c e d a b).f0.b.getLsbD 0) = false := by
  cases b
  case reg => exact Bool.not_eq_true' _ ▸ h
  case lit => rfl
  all_goals cases h

/-- VLUT.n8 takes no group (R153). -/
theorem lut_ungrouped {g : BitVec 2} (h : (t == .c4 || g == 0) = true) : (t == .n8 && g.setWidth 3 != 0) = false := by
  cases ht : (t == .c4)
  · have hg : g = 0 := by simpa [ht] using h
    rw [hg]
    exact Bool.and_false _
  · rw [eq_of_beq ht]
    rfl

theorem vlut_reads {g : BitVec 2} (h : (t.lutOk && q.ok && a.okA && (t == .c4 || g == 0) && b.okBook) = true) :
    (xvec 29 (modOf (g.setWidth 3) false) t.code q 0 0 d a b).Reads (.vlutX t g q d a b) := by
  simp only [Bool.and_eq_true] at h
  obtain ⟨⟨⟨⟨ht, hq⟩, ha⟩, hg⟩, hb⟩ := h
  exact xvec_reads rfl (by simp [group_bound]) (badTy_ok ht) hq ha (fits_src ha) (VSrc.okBook_fits hb)
    (VSrc.chanOk_of_okB3 (VSrc.okBook_okB3 hb)) (VSrc.okBook_pairOk a hb)
    (passes_cons.2 ⟨by simpa using lut_ungrouped hg, passes_cons.2 ⟨okBook_even hb, litThree_passes (VSrc.okBook_okB3 hb)⟩⟩)
    passes_nil passes_nil (by simp [xvec_srcA ha, xvec_vsrcB ha (VSrc.okBook_pairOk a hb)])

theorem vaccs_reads {ch : Chan} (h : (t.notC4 && q.ok && decide (2 ≤ ch.toNat)) = true) :
    (xvecF 37 0 t.code q 0 0 d (.chan ch) 0).Reads (.vaccs t q d ch) := by
  obtain ⟨ht, hq, hch⟩ := and3 h
  exact one_reads rfl (by simp) (badTy_ok ht) hq hch rfl rfl passes_nil (by simp [VSrc.field])
    (fun _ => congrArg₂ (fun t q => Instr.vaccs t q d ch) (tyOf_code t) xvec_qual)

end

end Sys2Proof

/-! SUPPORT. The round trip of every instruction (R46-R75). -/

namespace Sys2Proof

open Machine (isEvent)

theorem encodeRaw_reads (i : Instr) (hwf : WellFormed i = true) (hev : isEvent i = false) (h1 : ∀ p w u, i ≠ .illop p w u)
    (h2 : ∀ c a e, i ≠ .fetchFailure c a e) : (encodeRaw i).Reads i := by
  cases i with
  | add | sub | mul | mulh | mulhn | div | divn | rem | remn | and | or | xor | andn | shl | shr | shra | rotl | min | max
  | minn | maxn | slt | sltn | seq | bfx | bfi => exact intBin_reads rfl hwf
  | clz | ctz | popc | sext | zext | fsqrt | fclass => exact typed_reads rfl hwf (by simp) (by simp)
  | fadd | fsub | fmul | fdiv | fmin | fmax | feq | flt | fle => exact fltBin_reads rfl hwf
  | fcvt | vcvt =>
    refine cvt_reads (fun r hmaj hop => ?_) hwf
    simp only [decodeBase, hmaj]
    simp only [decFlt, decVec, hop]
    rfl
  | amoAdd | amoAnd | amoOr | amoXor | amoMin | amoMax | amoMinn | amoMaxn | amoSwap | amoFadd => exact amoMk_reads rfl hwf
  | amopAdd | amopAnd | amopOr | amopXor | amopMin | amopMax | amopMinn | amopMaxn | amopSwap | amopFadd =>
    exact amopMk_reads rfl rfl (by decide) hwf
  | liLit d v => exact rformB_reads (kind := 0) (mod := 0) (b := .lit v) rfl (by simp [rformB, F0.imm20]) rfl
  | li | lih | addpc | fli => exact imm20_reads rfl
  | j | jal => exact imm25_reads rfl
  | jalr => exact imm15_reads rfl
  | beq | bne | blt | bge | bltn | bgen => exact disp10_reads rfl
  | bz | bnz | bltz | bgez | bgtz | blez => exact disp15_reads rfl
  | lk d idx => exact lk_reads d idx
  | loop a imm => exact loop_reads hwf imm
  | fork | rdv | endHelper | msgdone | yieldSlot | exit | waitdep | trigger | migrate
  | nack | barinit | bararv | barexp | barwait | bartry | sptest | eret | synci => exact plain_reads rfl
  | trap n => exact trap_reads n
  | bkpt n => exact bkpt_reads n
  | mfs d n => exact mfs_reads hwf d
  | mfsFstat d => exact mfsFstat_reads d
  | mts n a => exact mts_reads hwf a
  | mtsFcr a | mtsFstat a | mtsSqcap a | mtsTvec a | mtsHmask a | mtsHacc a | mtsSlotw a | mtsL2mask a =>
    exact mkMts_reads (by decide) a
  | qput x | qget x | qtry x | msgrd x => exact rform_reads rfl (by cases x <;> simp [flagBit]) (by cases x <;> simp [flagBit])
  | vadd | vsub | vmul | vmulh | vmin | vmax | vand | vor | vxor | vshl | vshr | vshra | vins | vext | vperm | vzip | vdot
  | vtopk | vabs | vneg | vsplat | vredadd | vredmax | vredmin | vnarrow | vwiden | vcomp | vexpnd =>
    exact typed_reads rfl hwf (by simp) (by simp)
  | vlut t d a b =>
    obtain ⟨ht, hb⟩ := Bool.and_eq_true_iff.1 hwf
    exact typed_reads rfl ht (by simpa using hb) (by simp)
  | mand | mor | mnot | mpopc => exact rform_reads rfl (by simp) (by simp)
  | ldq | stq => exact rform_reads rfl (by simp) (by simp)
  | spcast w d a | spmake w d a => cases w <;> exact plain_reads rfl
  | pref l2 a => cases l2 <;> exact plain_reads rfl
  | fence kind scope => exact fence_reads hwf scope
  | ld | st => exact mem_reads (fun r h => by simp only [decodeBase, h]; rfl) hwf
  | vld | vst => exact vmem_reads (fun r h => by simp only [decodeBase, h]; rfl)
  | copy rlx ch | copyb rlx ch | notice rlx ch | sendb rlx ch =>
    have hch : 1 < ch.toNat := of_decide_eq_true hwf
    exact xform_reads rfl (by simp [Uses.checks, lowChan, hch]) (by simp)
  | vldX t cf q | vstX t cf q | vlds t cf q | vsts t cf q | vldb t cf q | vstb t cf q | vgath t cf q | vscat t cf q =>
    obtain ⟨ht, hq⟩ := Bool.and_eq_true_iff.1 hwf
    rw [Qual.ok_iff] at hq
    exact xform_reads rfl (by simpa [Uses.checks, ht] using hq) (by simp)
  | tidwait | tidget | publish | acq | rel | mshape | mzero | mcbl | mcfg | mrd | mwr | msplit | hset | join | leave | gbar
  | put | get | putnb | getnb | pwait | pwdraw | emit | sigtst | retract | zrd | zwr | sigpre
  | gwopen | gwstat | tqpush | tqtake | tqsteal | tqdone | stragrd | mdrain =>
    exact xform_reads rfl (by simp [Uses.checks]) (by simp)
  | bsig abs idx disp => exact bsig_reads abs idx disp
  | pause | gwdetach => exact xplain_reads rfl
  | mwld fmt rlx view => exact xform_reads rfl (by simp [Uses.checks]) (by simp)
  | mmul rlx a src => cases src <;> exact xform_reads rfl (by simp [Uses.checks]) (by simp)
  | mmuls a ch m => exact xform_reads rfl (by simpa [Uses.checks] using (of_decide_eq_true hwf : 1 < ch.toNat)) (by simp)
  | send rlx ch a b =>
    obtain ⟨hch, hb⟩ := Bool.and_eq_true_iff.1 hwf
    have hch : 1 < ch.toNat := of_decide_eq_true hch
    cases b with
    | reg | queue | pool =>
      exact xform_reads rfl (by simp [Uses.checks, lowChan, VSrc.field, VSrc.poolOf, hch])
        (by simp [VSrc.field, Raw.srcOf, VSrc.poolOf])
    | chan c =>
      obtain rfl : c = ch := eq_of_beq hb
      exact xform_reads rfl (by simp [Uses.checks, lowChan, VSrc.field, VSrc.poolOf, hch])
        (by simp [VSrc.field, Raw.srcOf, VSrc.poolOf])
    | lit => cases hb
  | sel => exact sel_reads hwf
  | cas => exact cas_reads hwf
  | fma => exact fma_reads hwf
  | vminX | vmaxX | vandX | vorX | vxorX | vmulhX | vshrX | vshraX | vdotX | vfma =>
    exact two_reads rfl (by simp) ⟨rfl, rfl, rfl⟩ hwf id passes_nil (by simp +contextual)
  | vaddX | vsubX | vmulX =>
    exact sat_reads rfl (by simp) ⟨rfl, rfl, rfl⟩ hwf id passes_nil (by simp +contextual)
  | vshlX => exact vshl_reads hwf
  | vabsX | vnegX =>
    exact un_reads rfl (by simp) ⟨rfl, rfl⟩ hwf (by simp +contextual)
  | vredaddX t m d a | vredmaxX t m d a | vredminX t m d a =>
    exact un_reads (ok := Ty.notC4) rfl (by simp) ⟨rfl, rfl⟩
      (by simpa [maskOnly_ok] using (show (t.notC4 && a.okA) = true from hwf)) (by simp +contextual)
  | vnarrowX | vwidenX =>
    exact un_reads rfl (by simp [half_bound]) ⟨rfl, rfl⟩ hwf (by simp +contextual)
  | vcvtX => exact vcvt_reads hwf
  | vcmp => exact vcmp_reads hwf
  | vzipX =>
    exact two_reads rfl (by simp [group_bound]) ⟨rfl, rfl, rfl⟩ hwf id passes_nil (by simp +contextual)
  | vsel t m d a b =>
    exact two_reads (ok := Ty.notC4) rfl (by simp) ⟨rfl, rfl, rfl⟩
      (by simpa [maskOnly_ok] using (show (t.notC4 && a.okA && b.okB t && VSrc.pairOk a b) = true from hwf)) id passes_nil
      (by simp +contextual)
  | vinsX t q d a b =>
    obtain ⟨ht, hq, hb⟩ := and3 hwf
    exact lit_reads rfl (by simp) ht hq rfl rfl b.fits_enc (by simpa using hb) (b.pairOk_enc _) id
      passes_nil (by simp +contextual)
  | vextX t m d a b =>
    obtain ⟨ht, ha, hb⟩ := and3 hwf
    exact lit_reads rfl (by simp) ht (maskOnly_ok m) ha (fits_src ha) b.fits_enc (by simpa using hb) (b.pairOk_enc _) id
      passes_nil (by simp +contextual)
  | vcompX t m d a b e | vexpndX t m d a b e =>
    obtain ⟨ht, ha, hb⟩ := and3 hwf
    exact lit_reads rfl (by simp) ht (maskOnly_ok m) ha (fits_src ha) b.fits_enc (by simpa using hb) (b.pairOk_enc _) id
      passes_nil (by simp +contextual)
  | vtopkX => exact vtopk_reads hwf
  | vpermX => exact vperm_reads hwf
  | vlutX => exact vlut_reads hwf
  | mandX q d a b | morX q d a b =>
    obtain ⟨hq, hb⟩ := Bool.and_eq_true_iff.1 hwf
    exact lit_reads (t := .i8) (ok := fun t => t == .i8) rfl (by simp) rfl hq rfl (by simp [VSrc.fits]) b.fits_enc
      (by simpa using hb) (b.pairOk_enc _) id passes_nil (by simp +contextual)
  | vsplatX t q d a =>
    obtain ⟨ht, hq⟩ := Bool.and_eq_true_iff.1 hwf
    exact one_reads rfl (by simp) (badTy_ok ht) hq rfl rfl rfl passes_nil passes_nil (by simp)
  | mnotX q d a =>
    exact one_reads (ok := fun t => t == .i8) rfl (by simp) rfl hwf rfl (by simp [VSrc.fits]) rfl passes_nil passes_nil (by simp)
  | mpopcX m d a =>
    exact one_reads (ok := fun t => t == .i8) rfl (by simp) rfl rfl rfl (by simp [VSrc.fits]) rfl passes_nil passes_nil (by simp)
  | vaccs => exact vaccs_reads hwf
  | illop p w u => exact absurd rfl (h1 p w u)
  | fetchFailure c a e => exact absurd rfl (h2 c a e)
  | _ => cases hev

/-- Settles O55: each row's encoding passes the checks of its own row, and every field is read back (`encodeRaw_reads`). -/
theorem encodeDecode : Obligations.EncodeDecode := by
  unfold Obligations.EncodeDecode
  intro i hwf hev h1 h2
  obtain ⟨hc, hr⟩ := encodeRaw_reads i hwf hev h1 h2
  rw [encode, decode_words hc, hr]

end Sys2Proof

/-! SUPPORT. Words of the spec's encoding tables (R59-R75). -/

namespace Sys2Proof

/-- Settles O54: each word is taken apart and decoded. -/
theorem decodeWords : Obligations.DecodeWords := by
  unfold Obligations.DecodeWords
  refine ⟨?_, ?_, ?_, ?_, ?_, ?_, ?_, ?_, ?_, ?_, ?_, ?_, ?_⟩
  all_goals rfl

end Sys2Proof

/-! SUPPORT. Vector sources (R53, R138, R139): the literal's elements, a pair of pool constants, the entries of a queue and the
bytes of a stream. -/

namespace Sys2Proof.Machine

/-! ## Pool constants (R138) -/

theorem packLanes_pair (x y : W64) : packLanes 64 [x.toNat, y.toNat] = y ++ x := by
  apply BitVec.eq_of_toNat_eq
  rw [packLanes_eq, BitVec.toNat_append, ← Nat.shiftLeft_add_eq_or_of_lt x.isLt, Nat.shiftLeft_eq]
  simp only [packNat, BitVec.toNat_ofNat]
  omega

theorem Launch.word_of_kind {l : Launch} {kind : BitVec 4} {i : Nat} {w : W64} (hw : l.pool[i]? = some w)
    (hk : l.kinds[i]? = some kind) : l.word kind i = .ok w := by
  rw [Launch.word, hw, hk]
  exact if_pos rfl

theorem Launch.poolPair_of_kinds {l : Launch} {i : Nat} {x y : W64} (hx : l.pool[i]? = some x) (hkx : l.kinds[i]? = some 1)
    (hy : l.pool[i + 1]? = some y) (hky : l.kinds[i + 1]? = some 1) : l.poolPair i = .ok (y ++ x) := by
  rw [Launch.poolPair, Launch.word_of_kind hx hkx, Launch.word_of_kind hy hky, ← packLanes_pair]

/-! ## Entries of a queue (R138) -/

/-- What an agent holds is nothing that others hold. -/
theorem SlotQueues.heldByOthers_hold (k : SlotQueues) (u : Agent) (r : Reg3) (n : Nat) :
    (k.hold u r n).heldByOthers u r = k.heldByOthers u r := by
  simp only [SlotQueues.heldByOthers, SlotQueues.hold, List.any_append, List.any_filter, List.any_cons, List.any_nil, decide_true,
    Bool.not_true, Bool.false_and, Bool.or_false]
  congr 1
  funext h
  by_cases hu : h.1 = u <;> simp [hu]

/-- The entry after the head, for an agent that may take it. -/
theorem reserve_next {s : State} {q : Reg3} {e v : V128} {l : List V128} (hh : s.myQueues.heldByOthers s.me.id.unit q = false)
    (hq : s.myQueues.q.get q.toFin = e :: v :: l) : M.reserve q 1 s = .ok v (s.modMyQueues (·.hold s.me.id.unit q 2)) := by
  rw [M.reserve, M.bind_next (M.get_ok.2 ⟨rfl, rfl⟩)]
  dsimp only
  rw [hh, hq]
  rfl

theorem queue_hold (s : State) (u : Agent) (r q : Reg3) (n : Nat) :
    (s.modMyQueues (·.hold u r n)).myQueues.q.get q.toFin = s.myQueues.q.get q.toFin := by
  rw [myQueues_modMyQueues]
  rfl

theorem queue_takeSource (s : State) (q : Reg3) :
    (s.takeSource (.queue q)).myQueues.q.get q.toFin = (s.myQueues.q.get q.toFin).drop 1 := by
  show ((s.modMyQueues (·.pop q 1)).myQueues.q.get q.toFin) = _
  rw [myQueues_modMyQueues, SlotQueues.pop_q]
  exact (Vector.get_set_fin ..).trans (if_pos rfl)

/-! ## The bytes of a stream (R139) -/

theorem streamOf_cons (e : RqEntry) (rq : List RqEntry) (c : Nat) : streamOf (e :: rq) c =
    (if e.msg.ch == c && !e.active then e.msg.data.drop e.taken else []) ++ streamOf rq c :=
  List.flatMap_cons

/-- The stream after `n` of its bytes are taken. -/
theorem streamOf_takeStream (c : Nat) (rq : List RqEntry) : ∀ n, streamOf (takeStream c rq n) c = (streamOf rq c).drop n := by
  induction rq with
  | nil => intro n; exact List.drop_nil.symm
  | cons e rq ih =>
    intro n
    by_cases hn : n = 0
    · rw [takeStream, if_pos hn, hn, List.drop_zero]
    · rw [takeStream, if_neg hn, streamOf_cons]
      cases he : (e.msg.ch == c && !e.active)
      · rw [if_neg Bool.false_ne_true, if_neg Bool.false_ne_true, streamOf_cons, he, if_neg Bool.false_ne_true, ih,
          List.nil_append, List.nil_append]
      · rw [if_pos rfl, if_pos rfl]
        dsimp only
        split
        · next hle => rw [ih, List.drop_append, List.length_drop,
            List.drop_eq_nil_of_le (as := e.msg.data.drop e.taken) (by rw [List.length_drop]; exact hle), List.nil_append]
        · next hlt =>
          rw [streamOf_cons, List.drop_append_of_le_length (by rw [List.length_drop]; omega), List.drop_drop]
          exact congrArg (· ++ streamOf rq c) (if_pos he)

end Sys2Proof.Machine

namespace Sys2Proof.Safety

open Sys2Proof.Machine

/-! ## Literals (R55) -/

theorem lane_splat {n k : Nat} {v : W64} (h : n * k ≤ 128) {j : Nat} (hj : j < k) :
    lane n (packLanes n (List.replicate k v.toNat)) j = v.setWidth n := by
  rw [lane_packLanes (by simpa using h) (by simpa using hj)]
  apply BitVec.eq_of_toNat_eq
  simp [nth, hj]

theorem literal_int (t : Ty) (v : W64) {j : Nat} (hj : j < 128 / t.bits) : lane t.bits (literal t 0 v) j = v.setWidth t.bits :=
  lane_splat (Nat.mul_div_le 128 t.bits) hj

theorem literal_f32 (t : Ty) (v : W64) {j : Nat} (hj : j < 4) : lane 32 (literal t 1 v) j = v.setWidth 32 :=
  lane_splat (by decide) hj

theorem literal_pair (t : Ty) (v : W64) {j : Nat} (hj : j < 2) : lane 64 (literal t 2 v) j = v := by
  have h := lane_splat (n := 64) (k := 2) (v := v) (by decide) hj
  rwa [BitVec.setWidth_eq] at h

/-! ## The two sources of an instruction (R53, R138, R139) -/

section
variable {t : Ty} {a b : VSrc} {s s1 u : State} {va vb : V128}

/-- Both sources are read in order where the pool words and the handlers allow it. -/
theorem vsrcs_gives (hpool : M.poolOk [a, b] s = .ok () s) (ha : M.vsrc t 0 a s = .ok va s1)
    (hb : M.vsrc t (if (queueOf a).isSome && decide (queueOf a = queueOf b) then 1 else 0) b s1 = .ok vb u)
    (htake : M.takables [a, b] u = .ok () u) : Gives (M.vsrcs t a b) s (va, vb) u := by
  rw [Gives, M.vsrcs, M.bind_next hpool, M.bind_next ha, M.bind_next hb, M.bind_next htake]
  rfl

theorem pool_gives {i : BitVec 16} {r : Reg} {x y : W64} (hx : s.myLaunch.pool[i.toNat]? = some x)
    (hkx : s.myLaunch.kinds[i.toNat]? = some 1) (hy : s.myLaunch.pool[i.toNat + 1]? = some y)
    (hky : s.myLaunch.kinds[i.toNat + 1]? = some 1) : Gives (M.vsrcs t (.pool i) (.reg r)) s (y ++ x, s.v r) s := by
  have hp : M.check (s.myLaunch.poolPair i.toNat) s = .ok (y ++ x) s :=
    M.check_ok.2 ⟨Launch.poolPair_of_kinds hx hkx hy hky, rfl⟩
  refine vsrcs_gives (s1 := s) ?_ ?_ rfl rfl
  · rw [M.poolOk, M.bind_next (M.get_ok.2 ⟨rfl, rfl⟩), M.bind_next hp]
    rfl
  · rw [M.vsrc, M.bind_next (M.get_ok.2 ⟨rfl, rfl⟩), hp]

/-- The entries left in a queue of the slot after sources were taken and the rest was given up. -/
theorem queue_taken (u : State) (l : List VSrc) (q : Reg3) :
    (taken u l).myQueues.q.get q.toFin = (l.foldl State.takeSource u).myQueues.q.get q.toFin := by
  have hme : (taken u l).me = (l.foldl State.takeSource u).me := by rw [taken, State.unhold_me]
  rw [State.myQueues, hme, taken, State.unhold_entries]
  rfl

variable {q : Reg3} {e e' : V128} {rest : List V128} {r : Reg}

theorem queue_gives (hh : s.myQueues.heldByOthers s.me.id.unit q = false) (hq : s.myQueues.q.get q.toFin = e :: rest) :
    ∃ u, Gives (M.vsrcs t (.queue q) (.reg r)) s (e, s.v r) u ∧ u = { s with queues := u.queues } ∧
      ∀ w, w = taken u [.queue q, .reg r] → w.myQueues.q.get q.toFin = rest := by
  refine ⟨s.modMyQueues (·.hold s.me.id.unit q 1), vsrcs_gives rfl (reserve_head hh hq) rfl rfl, rfl, ?_⟩
  rintro w rfl
  rw [queue_taken]
  show ((State.takeSource _ (.queue q)).myQueues.q.get q.toFin) = rest
  rw [queue_takeSource, queue_hold, hq]
  rfl

theorem queues_give (hh : s.myQueues.heldByOthers s.me.id.unit q = false) (hq : s.myQueues.q.get q.toFin = e :: e' :: rest) :
    ∃ u, Gives (M.vsrcs t (.queue q) (.queue q)) s (e, e') u ∧ u = { s with queues := u.queues } ∧
      ∀ w, w = taken u [.queue q, .queue q] → w.myQueues.q.get q.toFin = rest := by
  let s1 := s.modMyQueues (·.hold s.me.id.unit q 1)
  have hh1 : s1.myQueues.heldByOthers s.me.id.unit q = false := by
    rw [myQueues_modMyQueues, SlotQueues.heldByOthers_hold, hh]
  have hq1 : s1.myQueues.q.get q.toFin = e :: e' :: rest := (queue_hold ..).trans hq
  refine ⟨s1.modMyQueues (·.hold s.me.id.unit q 2), vsrcs_gives rfl (reserve_head hh hq) ?_ rfl, rfl, ?_⟩
  · rw [queueOf, decide_eq_true rfl]
    exact reserve_next hh1 hq1
  · rintro w rfl
    rw [queue_taken]
    show (((State.takeSource _ (.queue q)).takeSource (.queue q)).myQueues.q.get q.toFin) = rest
    rw [queue_takeSource, queue_takeSource, queue_hold, hq1]
    rfl

variable {c : Chan}

/-- The stream left on the executing core after 16 bytes of it were taken and the rest was given up. -/
theorem stream_taken (u : State) (c : Chan) (r : Reg) :
    streamOf (taken u [.chan c, .reg r]).myCore.rq c.toNat = (streamOf u.myCore.rq c.toNat).drop 16 := by
  have hrq : (taken u [.chan c, .reg r]).myCore.rq = takeStream c.toNat u.myCore.rq 16 := by
    rw [State.myCore, taken_me, taken, State.unhold_core]
    show ((u.takeChunk c).core u.me.place.gcore).rq = _
    rw [State.takeChunk, core_modRq, if_pos rfl]
    rfl
  rw [hrq, streamOf_takeStream]

theorem chunk_gives (hh : s.myCore.chHolds = []) (hlen : 16 ≤ (streamOf s.myCore.rq c.toNat).length)
    (he : (s.myCore.htab.get c.toFin).enable = false) :
    ∃ u, Gives (M.vsrcs t (.chan c) (.reg r)) s
        (BitVec.ofNat 128 (leNat ((streamOf s.myCore.rq c.toNat).take 16)), s.v r) u ∧ u = { s with cores := u.cores } ∧
      ∀ w, w = taken u [.chan c, .reg r] → streamOf w.myCore.rq c.toNat = (streamOf s.myCore.rq c.toNat).drop 16 := by
  let u := s.modMyCore (fun k => { k with
    chHolds := k.chHolds.filter (fun h => !decide (h.1 = s.me.id)) ++ [(s.me.id, c.toNat, 16)] })
  have hcore : u.myCore = { s.myCore with chHolds := u.myCore.chHolds } := (HoldsOnly.chHold s _).core _
  refine ⟨u, vsrcs_gives (s1 := u) rfl ?_ rfl ?_, rfl, ?_⟩
  · show M.chunk c s = _
    rw [M.chunk, M.bind_next (M.get_ok.2 ⟨rfl, rfl⟩)]
    dsimp only
    rw [hh, if_neg (by simp), if_neg (by omega)]
    rfl
  · have htake : M.takable c u = .ok () u := by
      rw [M.takable, M.bind_next (M.get_ok.2 ⟨rfl, rfl⟩), hcore]
      exact M.trapIf_ok.2 ⟨he, rfl⟩
    rw [M.takables, M.bind_next htake]
    rfl
  · rintro w rfl
    rw [stream_taken, hcore]

end

/-- Settles O21: each kind of source by the lemma of its own (`pool_gives`, `queue_gives`, `queues_give`, `chunk_gives`), the
literals element by element. -/
theorem vectorSources : Obligations.VectorSources := by
  unfold Obligations.VectorSources
  intro t r r' q c i k v e e' rest s
  refine ⟨vsrcs_regs t r r' s, ?int, ?f32, ?pair, rfl, fun x y => pool_gives, queue_gives, queues_give, chunk_gives⟩
  case int => rintro - j hj rfl; exact literal_int t v hj
  case f32 => rintro j hj rfl; exact literal_f32 t v hj
  case pair => rintro j hj rfl; exact literal_pair t v hj

end Sys2Proof.Safety

/-! SUPPORT. What a scheduled turn fetches and executes (R46, R47, R56-R58, R76, R77). -/

namespace Sys2Proof.Machine

/-! ## Fetching an instruction's words -/

theorem lengthOf_moreWords (w0 : W32) : Sys2Proof.lengthOf w0 = moreWords w0 + 1 := by
  have h : ∀ L : BitVec 2, Sys2Proof.wordsOf L = (match L.toNat with
    | 0 => 0
    | 3 => 4
    | _ => 2) + 1 := by decide
  exact h _

theorem fetchMore_length {pc : W64} {n : Nat} : ∀ {i : Nat} {s t : State} {r : List W32},
    M.fetchMore pc i n s = .ok r t → r.length = n := by
  induction n with
  | zero =>
    intro i s t r h
    rw [← (M.pure_ok.1 h).1]
    rfl
  | succ n ih =>
    intro i s t r h
    obtain ⟨w, s1, -, h⟩ := M.bind_ok.1 h
    obtain ⟨r', s2, hr, h⟩ := M.bind_ok.1 h
    rw [← (M.pure_ok.1 h).1, List.length_cons, ih hr]

/-- Words are fetched at a code address, as many as the first says, and the bitmap's bit for them is set. -/
theorem fetch_words {s t : State} {ws : List W32} (h : M.fetch s = .ok (.words ws) t) :
    ws.length = Sys2Proof.lengthOf (ws.headD 0) ∧ s.me.pc.toNat < 2 ^ 54 ∧
      (∃ t, M.fetchWord s.me.pc s = .ok (ws.headD 0) t) ∧ ∃ x, M.bitmapBit s.me.pc x = .ok true t := by
  unfold M.fetch at h
  obtain ⟨a, s', h1, h⟩ := M.bind_ok.1 h
  obtain ⟨rfl, rfl⟩ := M.get_ok.1 h1
  split at h
  · exact nomatch (M.pure_ok.1 h).1
  · next hpc =>
    obtain ⟨w0, s1, hw, h⟩ := M.bind_ok.1 h
    obtain ⟨r, s2, hr, h⟩ := M.bind_ok.1 h
    obtain ⟨b, s3, hb, h⟩ := M.bind_ok.1 h
    obtain ⟨hws, rfl⟩ := M.pure_ok.1 h
    cases b with
    | false => exact nomatch hws
    | true =>
      obtain rfl : w0 :: r = ws := Fetched.words.inj hws
      refine ⟨?_, by simpa [codeAddr] using hpc, ⟨s1, hw⟩, s2, hb⟩
      rw [List.length_cons, fetchMore_length hr]
      exact (lengthOf_moreWords w0).symm

end Sys2Proof.Machine

namespace Sys2Proof.Safety

open Sys2Proof.Machine

/-- What a context that has taken in every store fetches is memory. -/
theorem codeBytes_synced {s : State} (h : s.me.synced = s.codeLog.length) (k n what : Nat) :
    s.codeBytes k n what = bytesAt s k n := by
  unfold State.codeBytes
  rw [h, List.drop_length]
  rfl

/-- An access whose leaf names no aperture is to the memory of the package. -/
theorem global_near {lv : Level} {va n : Nat} {need : Need} {s u : State} {tg : Target} {f : Leaf}
    (h : M.global lv va n need s = .ok tg u) (hf : s.translateAt s.me.place.gcore s.myLaunch.vf lv va need = .ok f)
    (haper : f.aper = 0) : ∃ a, tg = .mem a ∧ a.key = dramKey s.me.place.pkg (f.phys va) := by
  unfold M.global at h
  obtain ⟨s0, s1, h1, h⟩ := M.bind_ok.1 h
  obtain ⟨rfl, rfl⟩ := M.get_ok.1 h1
  obtain ⟨f', s1, h1, h⟩ := M.bind_ok.1 h
  obtain ⟨hf', rfl⟩ := M.check_ok.1 h1
  obtain rfl : f = f' := Except.ok.inj (hf.symm.trans hf')
  obtain ⟨_, s2, -, h⟩ := M.bind_ok.1 h
  rw [if_pos haper] at h
  exact ⟨_, (M.pure_ok.1 h).1.symm, rfl⟩

/-- The bytes that fetch reads where the launch's tables name no aperture are those of memory. -/
theorem fetchBytes_near {s t : State} {va n what : Nat} {need : Need} {bs : List Byte} {f : Leaf}
    (h : M.fetchBytes va n need what s = .ok bs t) (hsync : s.me.synced = s.codeLog.length)
    (hf : s.translateAt s.me.place.gcore s.myLaunch.vf s.me.level va need = .ok f) (haper : f.aper = 0) :
    bs = bytesAt t (dramKey s.me.place.pkg (f.phys va)) n := by
  have hw := fetchBytes_walks h
  have hst : t.me.synced = t.codeLog.length := by
    rw [hw.rest]
    exact hsync
  unfold M.fetchBytes at h
  obtain ⟨s0, s1, h1, h⟩ := M.bind_ok.1 h
  obtain ⟨rfl, rfl⟩ := M.get_ok.1 h1
  obtain ⟨tg, s1, hg, h⟩ := M.bind_ok.1 h
  obtain ⟨a, rfl, hk⟩ := global_near hg hf haper
  obtain ⟨s2, s3, h2, h⟩ := M.bind_ok.1 h
  obtain ⟨rfl, rfl⟩ := M.get_ok.1 h2
  obtain ⟨_, s3, h2, h⟩ := M.bind_ok.1 h
  obtain ⟨-, rfl⟩ := M.trapIf_ok.1 h2
  obtain ⟨rfl, rfl⟩ := M.pure_ok.1 h
  rw [← hk]
  exact codeBytes_synced hst ..

theorem fetchWord_near {s t : State} {va : W64} {w : W32} {f : Leaf} (h : M.fetchWord va s = .ok w t)
    (hunit : s.me.id.unit = .compute) (hsync : s.me.synced = s.codeLog.length)
    (hf : s.translateAt s.me.place.gcore s.myLaunch.vf s.me.level (va.toNat % 2 ^ 55) .fetch = .ok f) (haper : f.aper = 0) :
    w = BitVec.ofNat 32 (leNat (bytesAt t (dramKey s.me.place.pkg (f.phys (va.toNat % 2 ^ 55))) 4)) := by
  unfold M.fetchWord at h
  obtain ⟨a, s', h1, h⟩ := M.bind_ok.1 h
  obtain ⟨rfl, rfl⟩ := M.get_ok.1 h1
  rw [if_pos hunit] at h
  obtain ⟨bs, s1, hb, h⟩ := M.bind_ok.1 h
  obtain ⟨rfl, rfl⟩ := M.pure_ok.1 h
  rw [fetchBytes_near hb hsync hf haper]

/-! ## A scheduled turn -/

section
variable {s t : State} {id : Sid} {c : Strand} {r : List Pick}

/-- The state in which the scheduled turn of a context is taken. -/
def turnState (s : State) (id : Sid) (r : List Pick) : State := ({ s with tick := s.tick + 1, sched := r } : State).focus id

theorem act_issue {u : State} (hrt : u.inRuntime = false) (hdue : u.due = false) : u.act = (u.modMe Strand.unwait).issue := by
  rw [State.act, hrt, hdue]
  rfl

/-- The step is what the context issues, with what it brings to lock-step pairs. -/
theorem step_strand (hs : s.sched = .strand id :: r) (hc : s.strand? id = some c) (hrun : c.runnable = true)
    (hrt : (turnState s id r).inRuntime = false) (hdue : (turnState s id r).due = false) {o : Out}
    (ho : ((turnState s id r).modMe Strand.unwait).issue = o) :
    step s = withInputs (turnState s id r) ((turnState s id r).ownCore o) o ∧
      ∀ w, o = .next w → w.locks = [] → step s = .next w := by
  have hstep : step s = withInputs (turnState s id r) ((turnState s id r).ownCore o) o := by
    have hturn : step s = ({ s with tick := s.tick + 1, sched := r } : State).turnOf id := by
      unfold step
      dsimp only
      rw [hs]
    have hc' : ({ s with tick := s.tick + 1, sched := r } : State).strand? id = some c := hc
    rw [hturn, State.turnOf, hc']
    dsimp only
    rw [if_pos hrun, State.turn, ← ho, ← act_issue hrt hdue]
    rfl
  refine ⟨hstep, ?_⟩
  rintro w rfl hl
  rw [hstep, withInputs, hl]
  rfl

variable {v : State} {ws : List W32} {w : W32} {i : Instr} {e : DecErr}

theorem issue_words (hf : M.fetch v = .ok (.words ws) t) (hd : decode ws = .ok i) : v.issue =
    if t.me.id.unit = .compute ∨ helperMay i = true then exec i (t.modMe (fun c => { c with entering := false }))
    else exec (.illop 0 (ws.headD 0) false) t := by
  rw [State.issue, hf]
  dsimp only
  rw [hd]
  dsimp only
  by_cases hu : t.me.id.unit = .compute <;> cases hm : helperMay i <;> simp [hu]

theorem issue_refused (hf : M.fetch v = .ok (.words ws) t) (hd : decode ws = .error e) :
    v.issue = exec (.illop e.pos (ws.headD 0) false) t := by
  rw [State.issue, hf]
  dsimp only
  rw [hd]

theorem issue_unmarked (hf : M.fetch v = .ok (.unmarked w) t) : v.issue = exec (.illop 0 w true) t := by
  rw [State.issue, hf]

end

/-- Settles O57: a scheduled turn is what the context issues (`step_strand`), which is by case what fetch and the decoder answer;
fetch and the bytes it reads are taken apart (`fetch_words`, `fetchWord_near`). -/
theorem stepRuns : Obligations.StepRuns := by
  unfold Obligations.StepRuns
  intro s t id c r ws w va f i e u v ready runs
  have turns {o : Out} (hr : ready) (ho : v.issue = o) : step s = withInputs u (u.ownCore o) o ∧
      ∀ w, o = .next w → w.locks = [] → step s = .next w := by
    obtain ⟨hs, hc, hrun, hrt, hdue⟩ := hr
    exact step_strand hs hc hrun hrt hdue ho
  refine ⟨fun hr hf hd hm => turns hr ?_, fun hr hf hd => turns hr (issue_refused hf hd),
    fun hr hf => turns hr (issue_unmarked hf), fun hr hf hd hu hm => turns hr ?_, fetch_words,
    fun h hu _ hsync hf haper => fetchWord_near h hu hsync hf haper⟩
  · rw [issue_words hf hd, if_pos hm]
  · rw [issue_words hf hd, if_neg (by simp [hu, hm])]

end Sys2Proof.Safety
